-- ==== Sys2Proof/Word.lean ====
section
/-! DEFINITION. Word.lean: the machine's words and their plainest arithmetic. -/

namespace Sys2Proof

/-- A 64-bit register value (R162). -/
abbrev Word := BitVec 64
/-- A byte of memory. -/
abbrev Byte := BitVec 8
/-- A set of lanes of one wave: bit l stands for wave lane l (R169, ACTIVE). -/
abbrev Mask := BitVec 64
/-- A 4-bit format tag code (R177). -/
abbrev Tag := BitVec 4

/-- Lane `l` is in the set `m`. -/
def Mask.has (m : Mask) (l : Nat) : Bool := m.getLsbD l

/-- The set that holds lane `l` alone. -/
def Mask.one (l : Nat) : Mask := BitVec.ofNat 64 (2 ^ l)

/-- The lanes of a set, in increasing order (R6). -/
def Mask.lanes (m : Mask) : List Nat := (List.range 64).filter m.getLsbD

/-- The set of the first `n` lanes. -/
def Mask.first (n : Nat) : Mask := BitVec.ofNat 64 (2 ^ n - 1)

/-- The set of a list of lanes. -/
def Mask.ofList (ls : List Nat) : Mask := ls.foldl (fun m l => m ||| Mask.one l) 0

/-- The set of the lanes under 64 for which `p` holds. -/
def Mask.ofPred (p : Nat → Bool) : Mask := Mask.ofList ((List.range 64).filter p)

end Sys2Proof
end

