-- ==== Sys2Proof/Config.lean ====
section
/-! DEFINITION. Config.lean: the values the spec leaves open, as constants without a body. Nothing in Lean can evaluate one. -/

namespace Sys2Proof.Config

/-- The raw answer of a function unit (R222, R223): a fixed function of the opcode, the format, MODE.FTZ and the
operand bits. The model uses it where it lies within the stated bound (log entry 7). -/
opaque funcValue : (op : Nat) → (tag : Nat) → (ftz : Bool) → (bits : Nat) → Nat

/-- A fresh 64-bit value that the spec leaves open, by its index in the run (log entry 6). -/
opaque freeWord : Nat → BitVec 64

/-- A fresh byte that the spec leaves open, by its index and its place (log entry 6). -/
opaque freeByte : Nat → Nat → BitVec 8

/-- A fresh choice among several orders the spec allows, by its index (log entry 6). -/
opaque freeNat : Nat → Nat

/-- A fresh yes or no that the spec leaves open, by its index (log entry 6). -/
opaque freeBool : Nat → Bool

/-- How many 1/17 ns units of time one step of the model takes, by its index (log entry 8). -/
opaque elapsed : Nat → Nat

/-! ## The module configuration, the firmware, and the keys (R434, R440, R441, R448, R449; log entry 21) -/

/-- The key that the master list holds for a master id (R441). -/
opaque masterKey : (master : Nat) → Option Nat

/-- Whether bytes are an ML-DSA-65 signature of a message under a key (R441, R448). -/
opaque signed : (key : Nat) → (message signature : List (BitVec 8)) → Bool

/-- The key fused into the device that firmware is signed with (R448). -/
opaque firmwareKey : Nat

/-- The components that bring-up measures: 0 the boot stage, 1 the main firmware, 2 the module configuration; and their signatures (R448). -/
opaque component : Nat → List (BitVec 8)
opaque componentSig : Nat → List (BitVec 8)

/-- The version of a main firmware (R446). -/
opaque version : (image : List (BitVec 8)) → Nat

/-- The device's signature over a report, its certificate and its serial number (R449). -/
opaque signature : (report : List (BitVec 8)) → List (BitVec 8)
opaque certificate : List (BitVec 8)
opaque serial : Nat

/-- The peer id, the ports that serve a peer id (none: 0), and the addresses of a host port (R434, R440). -/
opaque peerId : Nat
opaque peerPorts : Nat → Nat
opaque portAddr : Nat → Nat × Nat

end Sys2Proof.Config
end

