-- ==== Sys2Proof/Machine/Table.lean ====
section
/-! DEFINITION. Machine/Table.lean: sparse tables as sorted lists of key and value, in one canonical form. -/

namespace Sys2Proof.Machine

/-- Entries of keys and values. A table with a default holds keys strictly rising and no entry equal to the default. -/
abbrev Tbl (α : Type) := List (Nat × α)

/-- The value at a key; the default where the key is not listed. -/
def Tbl.get {α : Type} (d : α) : Tbl α → Nat → α
  | [], _ => d
  | (k', v) :: t, k => if k = k' then v else Tbl.get d t k

/-- The entry at a key, for tables without a default. -/
def Tbl.find {α : Type} : Tbl α → Nat → Option α
  | [], _ => none
  | (k', v) :: t, k => if k = k' then some v else Tbl.find t k

/-- Insert or replace an entry. -/
def Tbl.put {α : Type} : Tbl α → Nat → α → Tbl α
  | [], k, v => [(k, v)]
  | (k', v') :: t, k, v =>
    if k < k' then (k, v) :: (k', v') :: t
    else if k = k' then (k, v) :: t
    else (k', v') :: Tbl.put t k v

/-- Remove an entry. -/
def Tbl.drop {α : Type} (t : Tbl α) (k : Nat) : Tbl α := List.filter (fun e => e.1 != k) t

/-- Write a value at a key of a table with a default, keeping the canonical form: writing the default removes the entry. -/
def Tbl.set {α : Type} [DecidableEq α] (d : α) (t : Tbl α) (k : Nat) (v : α) : Tbl α := if v = d then Tbl.drop t k else Tbl.put t k v

/-- Change the entry at a key, if it is listed. -/
def Tbl.adjust {α : Type} (t : Tbl α) (k : Nat) (f : α → α) : Tbl α := List.map (fun e => if e.1 = k then (e.1, f e.2) else e) t

/-- Every key of the list is below the next one, and no value is the default. -/
def Tbl.wf {α : Type} [DecidableEq α] (d : α) : Tbl α → Bool
  | [] => true
  | [(_, v)] => v != d
  | (k, v) :: (k', v') :: t => decide (k < k') && v != d && Tbl.wf d ((k', v') :: t)

/-- Add an element to a sorted set of numbers. -/
def NSet.insert : List Nat → Nat → List Nat
  | [], k => [k]
  | k' :: t, k => if k < k' then k :: k' :: t else if k = k' then k' :: t else k' :: NSet.insert t k

/-- Remove an element from a set of numbers. -/
def NSet.remove (l : List Nat) (k : Nat) : List Nat := l.filter (fun x => x != k)

/-- A set of numbers is strictly rising. -/
def NSet.wf : List Nat → Bool
  | [] => true
  | [_] => true
  | a :: b :: t => decide (a < b) && NSet.wf (b :: t)

end Sys2Proof.Machine
end

