-- ==== Sys2Proof/Syntax.lean ====
section
/-! DEFINITION. Syntax.lean: the instruction words' fields (R21, R22), operands (R24) and the one inductive of all steps. -/

namespace Sys2Proof

/-- An operand class code (R24). -/
inductive Cls where
  | vec | scal | tmp | queue | pred | special | imm | rsvd
deriving DecidableEq, Repr

/-- An operand: its class and its 8-bit number (R24). -/
structure Operand where
  cls : Cls
  num : BitVec 8
deriving DecidableEq, Repr

/-- The base form: word 0 without LEN and OP (R21, R36). -/
structure BaseWord where
  pcl : BitVec 2
  d   : BitVec 8
  a   : BitVec 8
  x   : BitVec 4
deriving DecidableEq, Repr

/-- The SEAM word: AWAIT, YIELD and the ignored PCL (R39). -/
structure SeamWord where
  pcl   : BitVec 2
  await : BitVec 16
  yield : Bool
deriving DecidableEq, Repr

/-- The extended form's fields (R21), and the 64-bit literal when LEN is 0b11 (R19). -/
structure ExtWord where
  pcl  : BitVec 2
  x    : BitVec 4
  d    : Operand
  a    : Operand
  b    : Operand
  c    : Operand
  fmt  : BitVec 4
  mod  : BitVec 6
  win  : Bool
  minw : BitVec 3
  sub  : BitVec 4
  sat  : Bool
  rnd  : BitVec 3
  la   : BitVec 4
  tok  : BitVec 4
  gn   : Bool
  g    : BitVec 5
  lit  : Option Word
deriving DecidableEq, Repr

/-- The padding forms of NOP (R40): LEN 0b01 with its ignored literal, or an extended form. -/
inductive NopWord where
  | baseLit (w : BaseWord) (lit : Word)
  | ext (w : ExtWord)
deriving DecidableEq, Repr

/-- A response that a peer device (UALink) or a host (RoCEv2) sends to a request of this device (R324, R438), by its transaction id: `ok` is
false where a retry has met a changed state epoch. -/
structure RemoteResponse where
  id      : BitVec 32
  ok      : Bool
  data    : List Byte
  poison  : Bool
deriving DecidableEq, Repr

/-- What a request to another device's memory asks (R324, R440): a read; a write of bytes at offsets from the address; one step of an atomic or
a reduction, with its format, signedness (MOD[0]), flushing (MODE.FTZ) and whether the old value returns (R319). -/
inductive PeerOp where
  | read (bytes : Nat)
  | write (cells : List (Nat × Byte))
  | atomic (op : BitVec 4) (fmt : BitVec 4) (signed ftz ret : Bool) (operand : Word) (compare : Word) (bytes : Nat)
deriving DecidableEq, Repr

/-- A request that reaches this device from a UALink peer (R440): the transaction id, whether it is a retry, and the state epoch of this
device that the peer knew when it first sent it (R324). -/
structure PeerRequest where
  peer   : Nat
  id     : BitVec 32
  retry  : Bool
  epoch  : Nat
  pa     : Nat
  op     : PeerOp
  poison : Bool
deriving DecidableEq, Repr

/-- What the scrubber finds in a sector (R75). -/
inductive SectorUpset where
  | none | corrected | uncorrectable
deriving DecidableEq, Repr

/-- What the aging monitors find (R415). -/
inductive AgingFinding where
  | none
  | column (core quadrant column : Nat)
  | cluster (die cluster : Nat)
  | l2way (die way : Nat)
deriving DecidableEq, Repr

/-- A RoCEv2 operation that arrives at a host port (0, 1) or a scale-out port (2 to 9) on a queue pair (R435, R437, R439). -/
structure RdmaRequest where
  port  : Nat
  qp    : Nat
  rkey  : BitVec 32
  addr  : Nat
  bytes : Nat
  data  : List Byte
deriving DecidableEq, Repr

/-- An Edjor message that arrives at a host port (R441, R442); `source` stands for the sender's address and UDP port. -/
structure EdjorRequest where
  port    : Nat
  source  : Nat
  op      : BitVec 8
  session : BitVec 64
  seq     : BitVec 64
  body    : List Byte
deriving DecidableEq, Repr

/-- The steps of the machine, one constructor for each row of spec/opcode_table.json: the instructions of the
Kammin ISA, then the events of the device,
then what reaches it from outside. -/
inductive Instr where
  /-- SEAM (R39). -/
  | seam (w : SeamWord)
  /-- NOP (R40). -/
  | nop (w : BaseWord)
  /-- NOP_LONG (R40). -/
  | nopLong (w : NopWord)
  /-- IADD_BASE (R37). -/
  | iaddBase (w : BaseWord)
  /-- IADD_BASE_LIT (R37). -/
  | iaddBaseLit (w : BaseWord) (lit : Word)
  /-- ISUB_BASE (R37). -/
  | isubBase (w : BaseWord)
  /-- ISUB_BASE_LIT (R37). -/
  | isubBaseLit (w : BaseWord) (lit : Word)
  /-- AND_BASE (R37). -/
  | andBase (w : BaseWord)
  /-- AND_BASE_LIT (R37). -/
  | andBaseLit (w : BaseWord) (lit : Word)
  /-- OR_BASE (R37). -/
  | orBase (w : BaseWord)
  /-- OR_BASE_LIT (R37). -/
  | orBaseLit (w : BaseWord) (lit : Word)
  /-- XOR_BASE (R37). -/
  | xorBase (w : BaseWord)
  /-- XOR_BASE_LIT (R37). -/
  | xorBaseLit (w : BaseWord) (lit : Word)
  /-- SHL_BASE (R37). -/
  | shlBase (w : BaseWord)
  /-- SHL_BASE_LIT (R37). -/
  | shlBaseLit (w : BaseWord) (lit : Word)
  /-- SHR_BASE (R37). -/
  | shrBase (w : BaseWord)
  /-- SHR_BASE_LIT (R37). -/
  | shrBaseLit (w : BaseWord) (lit : Word)
  /-- SAR_BASE (R37). -/
  | sarBase (w : BaseWord)
  /-- SAR_BASE_LIT (R37). -/
  | sarBaseLit (w : BaseWord) (lit : Word)
  /-- NOT_BASE (R37). -/
  | notBase (w : BaseWord)
  /-- POPC_BASE (R37). -/
  | popcBase (w : BaseWord)
  /-- CLZ_BASE (R37). -/
  | clzBase (w : BaseWord)
  /-- CTZ_BASE (R37). -/
  | ctzBase (w : BaseWord)
  /-- BREV_BASE (R37). -/
  | brevBase (w : BaseWord)
  /-- MOV_BASE (R37). -/
  | movBase (w : BaseWord)
  /-- MOVL_BASE_LIT (R37). -/
  | movlBaseLit (w : BaseWord) (lit : Word)
  /-- PNOT_BASE (R37). -/
  | pnotBase (w : BaseWord)
  /-- PMOV_BASE (R37). -/
  | pmovBase (w : BaseWord)
  /-- EMULATION_BASE (R51). -/
  | emulationBase (w : BaseWord) (lit : Option Word)
  /-- EMULATION (R51). -/
  | emulation (w : ExtWord)
  /-- BRA (R201). -/
  | bra (w : ExtWord)
  /-- BRX (R200). -/
  | brx (w : ExtWord)
  /-- CALL (R200). -/
  | call (w : ExtWord)
  /-- RETN (R200). -/
  | retn (w : ExtWord)
  /-- LOOP (R200). -/
  | loop (w : ExtWord)
  /-- RCV (R205). -/
  | rcv (w : ExtWord)
  /-- FUSE (R206). -/
  | fuse (w : ExtWord)
  /-- ELECT (R207). -/
  | elect (w : ExtWord)
  /-- EXIT (R208). -/
  | exit (w : ExtWord)
  /-- EXIT_SUCC (R210). -/
  | exitSucc (w : ExtWord)
  /-- IADD (R188). -/
  | iadd (w : ExtWord)
  /-- ISUB (R188). -/
  | isub (w : ExtWord)
  /-- IADDC (R189). -/
  | iaddc (w : ExtWord)
  /-- ISUBB (R189). -/
  | isubb (w : ExtWord)
  /-- IMUL (R188). -/
  | imul (w : ExtWord)
  /-- IMULH (R188). -/
  | imulh (w : ExtWord)
  /-- IMAD (R188). -/
  | imad (w : ExtWord)
  /-- IMADC (R189). -/
  | imadc (w : ExtWord)
  /-- IDIV (R188). -/
  | idiv (w : ExtWord)
  /-- IREM (R188). -/
  | irem (w : ExtWord)
  /-- IMIN (R188). -/
  | imin (w : ExtWord)
  /-- IMAX (R188). -/
  | imax (w : ExtWord)
  /-- IABS (R188). -/
  | iabs (w : ExtWord)
  /-- INEG (R188). -/
  | ineg (w : ExtWord)
  /-- AND (R190). -/
  | and (w : ExtWord)
  /-- OR (R190). -/
  | or (w : ExtWord)
  /-- XOR (R190). -/
  | xor (w : ExtWord)
  /-- NOT (R190). -/
  | not (w : ExtWord)
  /-- ANDN (R190). -/
  | andn (w : ExtWord)
  /-- BLUT (R190). -/
  | blut (w : ExtWord)
  /-- SHL (R190). -/
  | shl (w : ExtWord)
  /-- SHR (R190). -/
  | shr (w : ExtWord)
  /-- SAR (R190). -/
  | sar (w : ExtWord)
  /-- ROT (R190). -/
  | rot (w : ExtWord)
  /-- FSHL (R190). -/
  | fshl (w : ExtWord)
  /-- FSHR (R190). -/
  | fshr (w : ExtWord)
  /-- POPC (R190). -/
  | popc (w : ExtWord)
  /-- CLZ (R190). -/
  | clz (w : ExtWord)
  /-- CTZ (R190). -/
  | ctz (w : ExtWord)
  /-- BREV (R190). -/
  | brev (w : ExtWord)
  /-- BFX (R191). -/
  | bfx (w : ExtWord)
  /-- BFI (R191). -/
  | bfi (w : ExtWord)
  /-- BSWZ (R192). -/
  | bswz (w : ExtWord)
  /-- ICMP (R193). -/
  | icmp (w : ExtWord)
  /-- PICK (R194). -/
  | pick (w : ExtWord)
  /-- MOV (R195). -/
  | mov (w : ExtWord)
  /-- MOVL (R195). -/
  | movl (w : ExtWord)
  /-- LEA (R196). -/
  | lea (w : ExtWord)
  /-- SAD (R188). -/
  | sad (w : ExtWord)
  /-- PAND (R197). -/
  | pand (w : ExtWord)
  /-- POR (R197). -/
  | por (w : ExtWord)
  /-- PXOR (R197). -/
  | pxor (w : ExtWord)
  /-- PNOT (R197). -/
  | pnot (w : ExtWord)
  /-- PSET (R197). -/
  | pset (w : ExtWord)
  /-- PMOV (R197). -/
  | pmov (w : ExtWord)
  /-- FADD (R215). -/
  | fadd (w : ExtWord)
  /-- FSUB (R215). -/
  | fsub (w : ExtWord)
  /-- FMUL (R215). -/
  | fmul (w : ExtWord)
  /-- FFMA (R215). -/
  | ffma (w : ExtWord)
  /-- FMIN (R216). -/
  | fmin (w : ExtWord)
  /-- FMAX (R216). -/
  | fmax (w : ExtWord)
  /-- FSET (R218). -/
  | fset (w : ExtWord)
  /-- FCLASS (R219). -/
  | fclass (w : ExtWord)
  /-- FRND (R220). -/
  | frnd (w : ExtWord)
  /-- FEXF (R222). -/
  | fexf (w : ExtWord)
  /-- FXPI (R221). -/
  | fxpi (w : ExtWord)
  /-- FGETX (R221). -/
  | fgetx (w : ExtWord)
  /-- FLOG2 (R222). -/
  | flog2 (w : ExtWord)
  /-- FRCP (R222). -/
  | frcp (w : ExtWord)
  /-- FRSQ (R222). -/
  | frsq (w : ExtWord)
  /-- FSQRT (R222). -/
  | fsqrt (w : ExtWord)
  /-- FSIN (R222). -/
  | fsin (w : ExtWord)
  /-- FCOS (R222). -/
  | fcos (w : ExtWord)
  /-- FTANH (R222). -/
  | ftanh (w : ExtWord)
  /-- FDOT2 (R217). -/
  | fdot2 (w : ExtWord)
  /-- FDOT4 (R217). -/
  | fdot4 (w : ExtWord)
  /-- CVT (R225). -/
  | cvt (w : ExtWord)
  /-- CVTI (R225). -/
  | cvti (w : ExtWord)
  /-- CVTF (R225). -/
  | cvtf (w : ExtWord)
  /-- PACK (R226). -/
  | pack (w : ExtWord)
  /-- UNPK (R226). -/
  | unpk (w : ExtWord)
  /-- MXQ (R227). -/
  | mxq (w : ExtWord)
  /-- MXD (R228). -/
  | mxd (w : ExtWord)
  /-- TAGSET (R229). -/
  | tagset (w : ExtWord)
  /-- SHFL (R232). -/
  | shfl (w : ExtWord)
  /-- SHFLX (R232). -/
  | shflx (w : ExtWord)
  /-- SHUP (R232). -/
  | shup (w : ExtWord)
  /-- SHDN (R232). -/
  | shdn (w : ExtWord)
  /-- BCST (R233). -/
  | bcst (w : ExtWord)
  /-- VOTE (R234). -/
  | vote (w : ExtWord)
  /-- MATCH (R235). -/
  | matchv (w : ExtWord)
  /-- REDW (R236). -/
  | redw (w : ExtWord)
  /-- SCANW (R236). -/
  | scanw (w : ExtWord)
  /-- MFS (R171). -/
  | mfs (w : ExtWord)
  /-- MTS (R171). -/
  | mts (w : ExtWord)
  /-- RACQ (R167). -/
  | racq (w : ExtWord)
  /-- RREL (R167). -/
  | rrel (w : ExtWord)
  /-- RGIVE (R167). -/
  | rgive (w : ExtWord)
  /-- LD (R121). -/
  | ld (w : ExtWord)
  /-- ST (R122). -/
  | st (w : ExtWord)
  /-- LDS (R121). -/
  | lds (w : ExtWord)
  /-- STS (R122). -/
  | sts (w : ExtWord)
  /-- LDC (R124). -/
  | ldc (w : ExtWord)
  /-- PREF (R128). -/
  | pref (w : ExtWord)
  /-- CCTL (R129). -/
  | cctl (w : ExtWord)
  /-- FENCE (R130). -/
  | fence (w : ExtWord)
  /-- ATOM (R320). -/
  | atom (w : ExtWord)
  /-- ATOMS (R320). -/
  | atoms (w : ExtWord)
  /-- RED (R320). -/
  | red (w : ExtWord)
  /-- REDS (R320). -/
  | reds (w : ExtWord)
  /-- WAKE (R328). -/
  | wake (w : ExtWord)
  /-- WAIT_B (R161). -/
  | waitB (w : ExtWord)
  /-- WAIT_A (R326). -/
  | waitA (w : ExtWord)
  /-- WAIT_F (R161). -/
  | waitF (w : ExtWord)
  /-- WAIT_K (R161). -/
  | waitK (w : ExtWord)
  /-- CPY (R139). -/
  | cpy (w : ExtWord)
  /-- CPYT (R140). -/
  | cpyt (w : ExtWord)
  /-- CPYM (R141). -/
  | cpym (w : ExtWord)
  /-- CPYR (R142). -/
  | cpyr (w : ExtWord)
  /-- CPYG (R143). -/
  | cpyg (w : ExtWord)
  /-- QFENCE (R150). -/
  | qfence (w : ExtWord)
  /-- BINIT (R157). -/
  | binit (w : ExtWord)
  /-- BQRY (R157). -/
  | bqry (w : ExtWord)
  /-- BARV (R158). -/
  | barv (w : ExtWord)
  /-- BEXP (R158). -/
  | bexp (w : ExtWord)
  /-- OMCLAIM (R255). -/
  | omclaim (w : ExtWord)
  /-- OMREL (R255). -/
  | omrel (w : ExtWord)
  /-- OMFILL (R256). -/
  | omfill (w : ExtWord)
  /-- OMREAD (R256). -/
  | omread (w : ExtWord)
  /-- MMA (R251). -/
  | mma (w : ExtWord)
  /-- MMAS (R251). -/
  | mmas (w : ExtWord)
  /-- ACCZ (R257). -/
  | accz (w : ExtWord)
  /-- ACCRD (R257). -/
  | accrd (w : ExtWord)
  /-- ACCWR (R257). -/
  | accwr (w : ExtWord)
  /-- ACCST (R258). -/
  | accst (w : ExtWord)
  /-- ACCSC (R259). -/
  | accsc (w : ExtWord)
  /-- ACCRED (R259). -/
  | accred (w : ExtWord)
  /-- RCQ (R273). -/
  | rcq (w : ExtWord)
  /-- RCT (R274). -/
  | rct (w : ExtWord)
  /-- RCGEN (R278). -/
  | rcgen (w : ExtWord)
  /-- RCCFG_LOAD (R280). -/
  | rccfgLoad (w : ExtWord)
  /-- RCCFG_DROP (R280). -/
  | rccfgDrop (w : ExtWord)
  /-- RCCFG_PAUSE (R280). -/
  | rccfgPause (w : ExtWord)
  /-- RCCFG_RUN (R280). -/
  | rccfgRun (w : ExtWord)
  /-- RCSTAT (R281). -/
  | rcstat (w : ExtWord)
  /-- TRACE (R296). -/
  | trace (w : ExtWord)
  /-- RQINIT (R302). -/
  | rqinit (w : ExtWord)
  /-- RQSTEP (R302). -/
  | rqstep (w : ExtWord)
  /-- HITGET (R303). -/
  | hitget (w : ExtWord)
  /-- HITACC (R304). -/
  | hitacc (w : ExtWord)
  /-- HITIGN (R304). -/
  | hitign (w : ExtWord)
  /-- VBLD (R308). -/
  | vbld (w : ExtWord)
  /-- TEX (R312). -/
  | tex (w : ExtWord)
  /-- TEXFB (R312). -/
  | texfb (w : ExtWord)
  /-- REFIT (R305). -/
  | refit (w : ExtWord)
  /-- MSHEMIT (R309). -/
  | mshemit (w : ExtWord)
  /-- MSHDONE (R309). -/
  | mshdone (w : ExtWord)
  /-- LAUNCH (R375). -/
  | launch (w : ExtWord)
  /-- TREADY (R376). -/
  | tready (w : ExtWord)
  /-- DRAIN (R377). -/
  | drain (w : ExtWord)
  /-- TRAP (R387). -/
  | trap (w : ExtWord)
  /-- TRET (R388). -/
  | tret (w : ExtWord)
  /-- BKPT (R387). -/
  | bkpt (w : ExtWord)
  /-- ECHK (R401). -/
  | echk (w : ExtWord)
  /-- ICLR (R402). -/
  | iclr (w : ExtWord)
  /-- RUN_SELECT (R381). -/
  | runSelect (core : Nat) (quadrant : Nat)
  /-- WINDOW_TIMEOUT (R360). -/
  | windowTimeout (meeting : Nat)
  /-- FUSE_TIMEOUT (R205). -/
  | fuseTimeout (wave : Nat)
  /-- WATCHDOG_EXPIRY (R424). -/
  | watchdogExpiry (wave : Nat)
  /-- TABLE_WALK (R86). -/
  | tableWalk (die : Nat)
  /-- LOAD_DATA_RETURN (R121). -/
  | loadDataReturn (id : Nat)
  /-- STORE_QUEUE_DRAIN (R110). -/
  | storeQueueDrain (wave : Nat)
  /-- HOME_WRITE_ACCEPT (R99). -/
  | homeWriteAccept (id : Nat)
  /-- RDC_INVALIDATION (R99). -/
  | rdcInvalidation (id : Nat) (die : Nat)
  /-- INVALIDATION_ACK (R99). -/
  | invalidationAck (id : Nat)
  /-- L2_EVICTION (R100). -/
  | l2Eviction (line : Nat)
  /-- DETACH_NOTICE (R100). -/
  | detachNotice (die : Nat) (line : Nat)
  /-- DETACHED_LINE_DROP (R100). -/
  | detachedLineDrop (die : Nat) (line : Nat)
  /-- ATOMIC_PERFORM (R315). -/
  | atomicPerform (id : Nat)
  /-- ATOMIC_RESPONSE (R320). -/
  | atomicResponse (id : Nat)
  /-- WAIT_TABLE_POLL (R327). -/
  | waitTablePoll (id : Nat)
  /-- UALINK_RETRY_TIMEOUT (R324). -/
  | ualinkRetryTimeout (id : Nat)
  /-- PEER_RESPONSE_CACHE_EXPIRY (R324). -/
  | peerResponseCacheExpiry (peer : Nat) (id : Nat)
  /-- COPY_CHUNK_START (R144). -/
  | copyChunkStart (cluster : Nat) (engine : Nat)
  /-- COPY_CHUNK_DONE (R146). -/
  | copyChunkDone (id : Nat)
  /-- MATRIX_OP_START (R249). -/
  | matrixOpStart (core : Nat) (context : Nat)
  /-- MATRIX_OP_COMPLETE (R248). -/
  | matrixOpComplete (core : Nat) (context : Nat)
  /-- RCQ_COMPLETE (R273). -/
  | rcqComplete (id : Nat) (lane : Nat)
  /-- RCT_SAMPLE_DRAIN (R274). -/
  | rctSampleDrain (wave : Nat)
  /-- OPTIMISER_STEP (R276). -/
  | optimiserStep (inst : Nat)
  /-- RCGEN_IMAGE_WRITE (R278). -/
  | rcgenImageWrite (inst : Nat)
  /-- RCU_GENERATION_SWITCH (R278). -/
  | rcuGenerationSwitch (inst : Nat) (cluster : Nat)
  /-- RAY_NODE_VISIT (R289). -/
  | rayNodeVisit (id : Nat)
  /-- SHADER_WAVE_PLACE (R297). -/
  | shaderWavePlace (die : Nat)
  /-- REFIT_NODE_PROCESS (R305). -/
  | refitNodeProcess (die : Nat)
  /-- TRIANGLE_RASTERISE (R310). -/
  | triangleRasterise (die : Nat) (slot : Nat)
  /-- NODE_START (R369). -/
  | nodeStart (die : Nat)
  /-- TEAM_PLACE (R379). -/
  | teamPlace (die : Nat)
  /-- PERSISTENT_GRID_PLACE (R380). -/
  | persistentGridPlace (grid : Nat)
  /-- SWAP_COMPLETE (R392). -/
  | swapComplete (swap : Nat)
  /-- SPILL_COMPLETE (R395). -/
  | spillComplete (id : Nat)
  /-- IMAGE_COMPLETE (R397). -/
  | imageComplete (id : Nat)
  /-- RESTORE (R397). -/
  | restore (id : Nat)
  /-- EVENT_RESEND (R444). -/
  | eventResend (id : Nat)
  /-- PC_SAMPLE (R429). -/
  | pcSample (core : Nat)
  /-- SYNC_RECORD (R432). -/
  | syncRecord (core : Nat)
  /-- LEASE_EXPIRY (R443). -/
  | leaseExpiry
  /-- BRING_UP (R447). -/
  | bringUp
  /-- RESERVED_OPCODE (R48). -/
  | reservedOpcode (word0 : BitVec 32) (bit : BitVec 8)
  /-- INSTRUCTION_FETCH (R92). -/
  | instructionFetch
  /-- HOST_WINDOW_RETRY_TIMEOUT (R324). -/
  | hostWindowRetryTimeout (id : Nat)
  /-- STEP_BLOCKED_TIMEOUT (R422). -/
  | stepBlockedTimeout (frag : Nat)
  /-- RCCFG_LOAD_DONE (R280). -/
  | rccfgLoadDone (inst : Nat)
  /-- UALINK_RESPONSE (R324). -/
  | ualinkResponse (r : RemoteResponse)
  /-- UALINK_INBOUND_REQUEST (R440). -/
  | ualinkInboundRequest (r : PeerRequest)
  /-- PATROL_SCRUB (R75). -/
  | patrolScrub (sector : Nat) (upset : SectorUpset)
  /-- AGING_CHECK (R415). -/
  | agingCheck (finding : AgingFinding)
  /-- POWER_MEASUREMENT (R450). -/
  | powerMeasurement (milliwatt : Nat)
  /-- RDMA_WRITE (R437). -/
  | rdmaWrite (q : RdmaRequest)
  /-- RDMA_READ (R437). -/
  | rdmaRead (q : RdmaRequest)
  /-- ROCE_UNSUPPORTED_OP (R435). -/
  | roceUnsupportedOp (q : RdmaRequest)
  /-- OTHER_TRAFFIC_DROP (R434). -/
  | otherTrafficDrop (port : Nat)
  /-- NONCE (R441). -/
  | nonce (q : EdjorRequest)
  /-- HELLO (R441). -/
  | hello (q : EdjorRequest)
  /-- STATUS (R446). -/
  | status (q : EdjorRequest)
  /-- READMEM (R445). -/
  | readmem (q : EdjorRequest)
  /-- ATTEST (R449). -/
  | attest (q : EdjorRequest)
  /-- ERRRING (R411). -/
  | errring (q : EdjorRequest)
  /-- CLAIM (R443). -/
  | claim (q : EdjorRequest)
  /-- HEARTBEAT (R443). -/
  | heartbeat (q : EdjorRequest)
  /-- RELEASE (R443). -/
  | release (q : EdjorRequest)
  /-- HANDOVER (R443). -/
  | handover (q : EdjorRequest)
  /-- GRAPHGO (R368). -/
  | graphgo (q : EdjorRequest)
  /-- OPENDMW (R436). -/
  | opendmw (q : EdjorRequest)
  /-- CLOSEDMW (R436). -/
  | closedmw (q : EdjorRequest)
  /-- OPENHW (R438). -/
  | openhw (q : EdjorRequest)
  /-- CLOSEHW (R438). -/
  | closehw (q : EdjorRequest)
  /-- INVAL (R88). -/
  | inval (q : EdjorRequest)
  /-- SWAP (R392). -/
  | swap (q : EdjorRequest)
  /-- SAVEPOOL (R394). -/
  | savepool (q : EdjorRequest)
  /-- PARKANS_RESOLVE (R389). -/
  | parkansResolve (q : EdjorRequest)
  /-- PARKANS_DELIVER (R389). -/
  | parkansDeliver (q : EdjorRequest)
  /-- ENDTEAM (R386). -/
  | endteam (q : EdjorRequest)
  /-- DEBUG_ATTACH (R419). -/
  | debugAttach (q : EdjorRequest)
  /-- DEBUG_SET_STOPS (R419). -/
  | debugSetStops (q : EdjorRequest)
  /-- DEBUG_STOP (R420). -/
  | debugStop (q : EdjorRequest)
  /-- DEBUG_STEP (R422). -/
  | debugStep (q : EdjorRequest)
  /-- DEBUG_STEP_ALL (R423). -/
  | debugStepAll (q : EdjorRequest)
  /-- DEBUG_REPLAY_MODE (R426). -/
  | debugReplayMode (q : EdjorRequest)
  /-- DEBUG_ROLLBACK (R427). -/
  | debugRollback (q : EdjorRequest)
  /-- DEBUG_DISCARD_REPLAY (R427). -/
  | debugDiscardReplay (q : EdjorRequest)
  /-- PROFILE_READ (R433). -/
  | profileRead (q : EdjorRequest)
  /-- PROFILE_READ_CLEAR (R433). -/
  | profileReadClear (q : EdjorRequest)
  /-- PROFILE_FLUSH (R428). -/
  | profileFlush (q : EdjorRequest)
  /-- THROTTLE (R450). -/
  | throttle (q : EdjorRequest)
  /-- SPARE (R415). -/
  | spare (q : EdjorRequest)
  /-- PEERMAP (R440). -/
  | peermap (q : EdjorRequest)
  /-- FWLOAD (R448). -/
  | fwload (q : EdjorRequest)
  /-- RESET (R447). -/
  | reset (q : EdjorRequest)
  /-- SPILL (R391). -/
  | spill (q : EdjorRequest)
  /-- EVACK (R444). -/
  | evack (q : EdjorRequest)
  /-- HOST_WINDOW_RESPONSE (R438). -/
  | hostWindowResponse (r : RemoteResponse)
  /-- EDJOR_OTHER_OP (R442). -/
  | edjorOtherOp (q : EdjorRequest)
  /-- ARP_NEIGHBOUR_DISCOVERY (R434). -/
  | arpNeighbourDiscovery (port : Nat)
deriving DecidableEq, Repr

end Sys2Proof
end

