-- ==== Sys2Proof/Machine/Parts.lean ====
section
/-! DEFINITION. Machine/Parts.lean: the components of the state, as plain data. -/

namespace Sys2Proof.Machine

/-! ## Accesses -/

/-- The place of one piece of an access (R76, R105): local device memory, a peer's memory, a host window, or a team's scratchpad. -/
inductive Region where
  | loc | peer (id : Nat) | host | scratch
deriving DecidableEq, Repr

/-- One piece of a lane's access (R93): its region, its first byte there, its length, and its memory type. -/
structure Piece where
  region : Region
  addr   : Nat
  len    : Nat
  mt     : Nat
deriving DecidableEq, Repr

/-- A lane's access: its virtual or scratchpad address, its pieces, the bytes it stores, and an atomic's operands. -/
structure LaneAcc where
  lane    : Nat
  va      : Word
  pieces  : List Piece
  data    : List Byte
  operand : Word
  compare : Word
deriving DecidableEq, Repr

/-- What a store-queue entry does when it is performed (R110, R129, R318): a store, or a read-modify-write with its operation,
format, signedness, flushing, whether the old value returns, .ORD, and its bytes. -/
inductive StoreOp where
  | st
  | rmw (op : Nat) (fmt : Nat) (signed : Bool) (ftz : Bool) (ret : Bool) (ordered : Bool) (bytes : Nat)
deriving DecidableEq, Repr

/-- An entry of a wave's store queue (R110): the outstanding instructions it serves (more than one where it has merged, R111),
its place in issue order, the lanes its fragment held, its order and scope, the number of fences, acquires and releases before
it, the address of its instruction, its accesses, and whether an uncorrectable error has struck it (R403). -/
structure StoreEntry where
  pends   : List Nat
  pc      : Word
  ord     : Nat
  own     : Mask
  op      : StoreOp
  scratch : Bool
  scope   : Nat
  release : Bool
  epoch   : Nat
  accs    : List LaneAcc
  poison  : Bool := false
deriving DecidableEq, Repr

/-- A store that ended UNREACHABLE or INDETERMINATE and has not been reported (R325). -/
structure StoreFailure where
  own     : Mask
  va      : Word
  indeterminate : Bool
deriving DecidableEq, Repr

/-- A command or QFENCE that a queue register has accepted (R131, R137): its outstanding instruction, its team, wave, queue and cluster
of engines, its opcode, its spaces, its captured values, its receivers and bytes; whether it has started, the next chunk to begin, the bytes
that reached each level, and how it goes: poison, the first fault (offset, cause, subcode), an abort, whether only its record is left, and
whether an uncorrectable error has struck its entry (R403). -/
structure Command where
  pend     : Nat
  team     : Nat
  wave     : Nat
  queue    : Nat
  cluster  : Nat
  kind     : Nat
  src      : Nat
  dst      : Nat
  regs     : List Word
  signal   : Word
  tile     : List Byte
  fmt      : Nat
  op       : Nat
  ordered  : Bool
  ftz      : Bool
  to_      : List Nat
  bytes    : Nat
  started  : Bool
  next     : Nat
  srd      : Nat
  gv       : Nat
  poison   : Bool
  fault    : Option (Nat × Nat × Nat)
  abort    : Bool
  ending   : Bool
  struck   : Bool := false
deriving DecidableEq, Repr

/-- What a copied byte carries of poison (R143, R148): none; it comes from a poisoned sector, and is unspecified; or it is a zero of a row whose
index is poisoned. -/
inductive Taint where
  | clean | unknown | zero
deriving DecidableEq, Repr

/-- A chunk that an engine works on (R144, R146): its command, its number, the engine, whether its source has been read, its data with
their poison, the writes it waits for, and whether one of them failed. -/
structure Chunk where
  cmd    : Nat
  index  : Nat
  engine : Nat
  read   : Bool
  data   : List (Byte × Taint)
  sent   : Bool
  writes : List Nat
  failed : Bool := false
deriving DecidableEq, Repr

/-- A page of an address space that accesses of engines and units wait for (R149): the body of its HOSTFAULT event, whose kind, die and unit are
those of the access that came first. -/
structure HostWait where
  asid : Nat
  kind : Nat
  die  : Nat
  unit : Nat
  page : Nat
deriving DecidableEq, Repr

/-- The copy engines (R144): accepted commands, chunks in flight, the wave that each cluster served last, and the pages that units wait
for. -/
structure Engines where
  cmds   : Tbl Command
  chunks : Tbl Chunk
  turn   : Tbl Nat
  waits  : List HostWait
deriving DecidableEq, Repr

/-- The inputs of a query (R272): the position, and the direction with the auxiliary inputs. -/
structure RcInput where
  pos : List (BitVec 32)
  aux : List (BitVec 16)
deriving DecidableEq, Repr

/-- One training sample (R274): the inputs, the targets, the weight, its key (R275), and whether an uncorrectable error has struck it (R282, R403). -/
structure Sample where
  input   : RcInput
  targets : List (BitVec 32)
  weight  : BitVec 32
  key     : List Nat
  poison  : Bool := false
deriving DecidableEq, Repr

/-- An entry of q3: the pending RCT, its instance and its samples. -/
structure SampleEntry where
  pend    : Nat
  inst    : Nat
  samples : List Sample
deriving DecidableEq, Repr

/-- The queue registers of a wave (R131): samples in q3, doublewords in q4 to q7. The commands in q0, q1 and q2 are those of the engines'
list that name the wave and the queue and have not started. -/
structure Queues where
  q3 : List SampleEntry
  q4 : List Word
  q5 : List Word
  q6 : List Word
  q7 : List Word
deriving DecidableEq, Repr

/-! ## Lanes, fragments, waves -/

/-- A vector register of one lane: its 64 bits and its tag (R162, R163). -/
structure VReg where
  val : Word
  tag : Tag
deriving DecidableEq, Repr

/-- A vector register of a freshly held block (R164). -/
def VReg.zero : VReg := ⟨0, 0⟩

/-- A fragment's place in scheduling (R354). Being TRAPPED is held by the trap save, since a trapped fragment also runs. -/
inductive FState where
  | ready | running | blocked | meeting | halted
deriving DecidableEq, Repr

/-- What a handler entry saves (R385), and the target of a transfer whose seam trapped (R200). -/
structure TrapSave where
  tmp      : Tbl Word
  tmpValid : BitVec 8
  runCount : Nat
  mode     : Word
  target   : Option Word
deriving DecidableEq, Repr

/-- What a waiting fragment meets at (R205, R358, R246). -/
inductive MeetKind where
  | rcv (id : Nat)
  | fuse
  | forced (addr : Word) (width : Nat) (win : Bool)
  | clasp
deriving DecidableEq, Repr

/-- A fragment's waiting in a meeting: its timeout code, the time that its timer has counted (R362), FUSE's predicate, the
instruction's length, and whether the watchdog has reported it (R424). -/
structure Meet where
  kind    : MeetKind
  tmo     : Nat
  counted : Nat
  pred    : Option Nat
  len     : Nat
  told    : Bool
deriving DecidableEq, Repr

/-- Registers of a fragment that an instruction reads or writes: runs of vector and scalar registers, predicates, run temporaries. -/
structure Touched where
  vecs  : List (Nat × Nat)
  scals : List (Nat × Nat)
  preds : List Nat
  tmps  : List Nat
deriving DecidableEq, Repr

/-- An open lookahead window (R34): how many following instructions it still covers, and what its instruction reads and writes. -/
structure Ahead where
  left : Nat
  srcs : Touched
  dsts : Touched
deriving DecidableEq, Repr

/-- A fragment (R351). `ahead` are the lookahead windows still open (R34). `waitFrom` is the quadrant's count of completed runs when its wait began (R381); `hold` names the outstanding instruction whose part it still waits for after a miss split (R113);
`gathered` says that its forced fuse has been decided (R359, R360); `stop` is its debug cause when HALTED (R420); `marks` are
the tokens whose await applies cache actions (R151); `late` are its late marks, each with the step that added it (R361); `gens` are the highest generations of instances that it has read (R279). -/
structure Frag where
  wave     : Nat
  num      : Nat
  entry    : Nat
  parent   : Option Nat
  pc       : Word
  active   : Mask
  scal     : Tbl Word
  tmp      : Tbl Word
  tmpValid : BitVec 8
  runCount : Nat
  mode     : Word
  gang     : Word
  tcause   : Word
  tpc      : Word
  tval     : Word
  tmask    : Word
  save     : Option TrapSave
  fstate   : FState
  await    : BitVec 16
  late     : List (Word × Nat)
  target   : Option Word
  meet     : Option Meet
  age      : Nat
  waitFrom : Nat
  boost    : Option Nat
  rwc      : Word
  hold     : Option Nat
  gathered : Bool
  stop     : Option Nat
  marks    : BitVec 16
  gens     : Tbl Nat
  ahead    : List Ahead
deriving DecidableEq, Repr

/-- An entry of the reconvergence stack (R202): PENDING at a run start, or PARKED at an RCV or FUSE; the owner's number. -/
structure StackEntry where
  owner  : Nat
  parked : Bool
  lanes  : Mask
  pc     : Word
  await  : BitVec 16
deriving DecidableEq, Repr

/-- A wave (R346): its place, its lanes' registers and predicates, and what its fragments share. `admits` are the stores of far fragments that
wait for room in the store queue (R113); `samples` counts each lane's samples to
each instance since the wave started (R275). -/
structure Wave where
  team     : Nat
  idx      : Nat
  role     : Nat
  roleIdx  : Nat
  core     : Nat
  quadrant : Nat
  col0     : Nat
  width    : Nat
  live     : Mask
  held     : BitVec 8
  vregs    : Tbl VReg
  preds    : Tbl Mask
  stack    : List StackEntry
  storeq   : List StoreEntry
  admits   : List StoreEntry
  epoch    : Nat
  queues   : Queues
  failed   : List StoreFailure
  samples  : Tbl Nat
deriving DecidableEq, Repr

/-! ## Teams -/

/-- A role descriptor of the kernel header (R65): log2 of its width in quads, base blocks, waves, pool. -/
structure RoleDesc where
  width : Nat
  base  : Nat
  count : Nat
  pool  : Nat
deriving DecidableEq, Repr

/-- The fields of a kernel header that stay with a team (R64): the task's entry, lanes, class, scratchpad bytes, roles, slots,
regions, fuse timeout, trap settings and handler offset. -/
structure Header where
  entry   : Word
  flags   : Nat
  lanes   : Nat
  pclass  : Nat
  scratch : Nat
  roles   : List RoleDesc
  slots   : Nat
  regions : Nat
  fuseto  : Nat
  trapctl : Nat
  handler : BitVec 32
deriving DecidableEq, Repr

/-- Where a team's context lies (R390, R391, R394). -/
inductive Residence where
  | live
  | slot
  | image (context : Nat)
deriving DecidableEq, Repr

/-- A registered barrier object (R155): its address in the team's scratchpad, its role mask and the lanes that arrived. -/
structure Barrier where
  addr    : Nat
  roles   : BitVec 4
  arrived : List Nat
deriving DecidableEq, Repr

/-- The operand memory of one core of a team (R237, R241): reserved slots, held slots, bytes, poisoned sectors. A slot's 8 KiB
lie at slot x 8704, its sidecar's 512 bytes after them. -/
structure OperandMem where
  reserved : List Nat
  held     : List Nat
  bytes    : Tbl Byte
  poison   : List Nat
  waiters  : List Nat
deriving DecidableEq, Repr

/-- The accumulator regions of one core of a team (R238): 64 x 64 words each, and the rows that carry POISON. -/
structure AccMem where
  words  : Tbl (BitVec 32)
  poison : List Nat
deriving DecidableEq, Repr

/-- A team (R346, R364): what it runs, where it lies, and what its waves share. `gate` is the place in issue order before which its
stores are performed before its successor task issues (R210); `shader` marks a shader wave's team (R297). -/
structure Team where
  grid     : Nat
  id       : Nat
  asid     : Nat
  table    : Nat
  x        : Nat
  y        : Nat
  z        : Nat
  ex       : Nat
  ey       : Nat
  ez       : Nat
  placed   : Header
  task     : Header
  cores    : List Nat
  where_   : Residence
  quotas   : List Nat
  racq     : List Nat
  lost     : Bool
  shader   : Bool
  gate     : Nat
  scratch  : Tbl Byte
  spoison  : List Nat
  barriers : List Barrier
  om       : List OperandMem
  acc      : List AccMem
deriving DecidableEq, Repr

/-! ## Outstanding instructions -/

/-- Where a result goes: vector registers or scalar registers from a number on, a predicate, vector registers and a predicate, or
nowhere. -/
inductive Dest where
  | vec (n count : Nat)
  | scal (n count : Nat)
  | pred (n : Nat)
  | both (n count p : Nat)
  | none
deriving DecidableEq, Repr

/-- What happens once the release of a once-per-fragment instruction has been performed (R117): the update of a barrier (R158), a
wake (R328), a launch (R375), a tile flag (R376), a drain (R377). -/
inductive After where
  | barv (addr : Nat) (lanes : List Nat) (n : Int)
  | wake (pa : Nat) (n : Nat)
  | launch (node : Nat) (va : Word)
  | tready (pa : Nat) (va : Word) (ranges : List (Nat × Nat))
  | drain (slot : Nat) (n : Nat)
  | radiance (op inst table addr : Nat)
deriving DecidableEq, Repr

/-- What an outstanding instruction still owes (R31, R32): a load's access with the bytes already read and the poisoned sectors among
them, a store, an atomic with the old values of its lanes and the lanes that met poison, a fence, an action behind a release, an acquire that its unit completes (`sync`), a
command of another unit, a query of a radiance-cache instance at a generation with the inputs of its lanes, a push of samples, writes that it has sent, slots that are to return to the reservation (R255),
the lanes of a PREF that wait for a walk or for a sector, with the addresses that they name (R128). -/
inductive PendKind where
  | load (scratch const na : Bool) (size : Nat) (sext : Bool) (tag : Tag) (order scope : Nat) (accs : List LaneAcc) (known : Tbl Byte)
      (bad : List Nat)
  | store (scope : Nat) (release : Bool)
  | atom (order scope : Nat) (tag : Tag) (scratch : Bool) (accs : List LaneAcc) (old : Tbl Word) (bad : Mask)
  | fence (kind scope : Nat)
  | release (scope : Nat) (act : After)
  | sync
  | command
  | omrel (core : Nat) (slots : List Nat)
  | query (inst gen : Nat) (inputs : Tbl RcInput)
  | sample
  | writes
  | pref (level : Nat) (vas : Tbl Word)
  | other
deriving DecidableEq, Repr

/-- The instruction that an error record names (R412): its address, the fragment's RWC there, its protection class. -/
structure Origin where
  pc  : Word
  rwc : Word
  cls : Nat
deriving DecidableEq, Repr

/-- An outstanding long-latency instruction of a wave: the lanes it still owes, the lanes its fragment held at issue, its
token, its place in issue order, its destination, the address of the instruction, its opcode, what it is, what records about it
say of it, and the sectors that it reads beyond its core's L1 and that have not returned, in the order in which they take request entries
(R109). -/
structure Pend where
  wave  : Nat
  lanes : Mask
  own   : Mask
  ord   : Nat
  tok   : Nat
  dst   : Dest
  pc    : Word
  op    : Nat
  kind  : PendKind
  rwc   : Word
  cls   : Nat
  reads : List Nat := []
deriving DecidableEq, Repr

/-! ## The memory path -/

/-- A cached sector: its 32 bytes and its poison bit (R95). -/
structure Sector where
  data   : List Byte
  poison : Bool
deriving DecidableEq, Repr

/-- A line of a remote-data cache (R98): since when it is Detached, if it is, and its sectors by number. -/
structure RdcLine where
  detached : Option Nat
  sectors  : Tbl Sector
deriving DecidableEq, Repr

/-- A line in its home L2 (R95): the dies that its directory entry lists (R98), the valid sectors and the dirty ones. -/
structure L2Line where
  sharers : List Nat
  valid   : List Nat
  dirty   : List Nat
deriving DecidableEq, Repr

/-- A cached translation (R85): address space, first virtual page, whether it is a block, and the leaf. -/
structure TlbEntry where
  asid  : Nat
  page  : Nat
  block : Bool
  leaf  : Word
deriving DecidableEq, Repr

/-- A cached table entry of level 1 or 2 (R85). -/
structure WalkEntry where
  asid  : Nat
  level : Nat
  index : Nat
  table : Nat
  value : Word
deriving DecidableEq, Repr

/-- A miss of a die's TLB that waits for a walk (R86): whose it is, what it asks for, and the PREF that asked with its lane and level (R128); none
where an access waits in place. -/
structure WalkRequest where
  die   : Nat
  core  : Nat
  asid  : Nat
  root  : Nat
  va    : Word
  pend  : Option Nat
  lane  : Nat
  level : Nat
deriving DecidableEq, Repr

/-- Who issued a write that is on its way (R99): a store-queue entry of a wave, a copy command, an accumulator store, the
optimiser for an instance, or another agent. -/
inductive WriteSource where
  | wave (wave : Nat) (ord : Nat)
  | command (id : Nat)
  | op (pend : Nat)
  | optimiser (inst : Nat)
  | agent
deriving DecidableEq, Repr

/-- A write of one line between its issuer and its completion (R99): its bytes, the sectors whose data carry poison, an atomic's
lanes (lane, address, operand, compare value), whether its home has accepted it, the dies whose RDC an invalidation is on its way to,
those whose acknowledgement is, and whether it was made through a leaf of type UC. -/
structure WriteRec where
  source   : WriteSource
  die      : Nat
  core     : Nat
  region   : Region
  line     : Nat
  cells    : List (Nat × Byte)
  bad      : List Nat
  op       : StoreOp
  steps    : List LaneAcc
  release  : Bool
  scope    : Nat
  accepted : Bool
  invals   : List Nat
  acks     : List Nat
  uc       : Bool := false
deriving DecidableEq, Repr

/-- A fragment that waits on an address (R326, R327): its virtual address, its home die, its location, width, value and scope, since when it waits,
whether it holds an entry of the wait table, and whether its wait has been completed. -/
structure Waiter where
  frag   : Nat
  va     : Word
  die    : Nat
  pa     : Nat
  wide   : Bool
  value  : Word
  scope  : Nat
  since  : Nat
  listed : Bool
  done   : Bool
  cls    : Nat
deriving DecidableEq, Repr

/-- How a remote request ended (R324): with a response, UNREACHABLE, or INDETERMINATE. -/
inductive RemoteEnd where
  | ok (data : List Byte) (poison : Bool)
  | unreachable
  | indeterminate
deriving DecidableEq, Repr

/-- A request to a peer or a host window (R324): the outstanding instruction or the write it serves, the lane, its virtual
address, its target, what it asks and whether its data carry poison (R405), the attempts made, the step of the last attempt, whether one may have been delivered, and how it ended. -/
structure RemoteReq where
  pend      : Option Nat
  write     : Option Nat
  lane      : Nat
  va        : Word
  region    : Region
  addr      : Nat
  op        : PeerOp
  poison    : Bool
  tries     : Nat
  since     : Nat
  delivered : Bool
  result    : Option RemoteEnd
deriving DecidableEq, Repr

/-- A response this device keeps for a peer (R324). -/
structure CachedResponse where
  peer   : Nat
  id     : BitVec 32
  since  : Nat
  data   : List Byte
  poison : Bool
deriving DecidableEq, Repr

/-- The memory path: caches, directories, translation caches, writes on their way, waits, remote requests. -/
structure MemPath where
  l1      : Tbl (Tbl Sector)
  rdc     : Tbl (Tbl RdcLine)
  l2      : Tbl L2Line
  const   : Tbl (Tbl Sector)
  icore   : Tbl (Tbl Sector)
  iclus   : Tbl (Tbl Sector)
  tlbCore : Tbl (List TlbEntry)
  tlbClus : Tbl (List TlbEntry)
  tlbDie  : Tbl (List TlbEntry)
  walkc   : Tbl (List WalkEntry)
  walkq   : List WalkRequest
  writes  : Tbl WriteRec
  detach  : List (Nat × Nat)
  waits   : Tbl Waiter
  remote  : Tbl RemoteReq
  cached  : List CachedResponse
deriving DecidableEq, Repr

/-! ## What an instruction's effect ends in -/

/-- A trap that an instruction raises (R383, R384): its cause, TVAL, TMASK, the lanes that leave as the trapping fragment where
only they do, whether it is taken after the instruction, and
the level and address of the poisoned table entries that it reports, one for each walk (R92). -/
structure Trap where
  cause : Nat
  tval  : Word
  mask  : Mask
  lanes : Option Mask
  after : Bool
  walk  : List (Nat × Nat)
deriving DecidableEq, Repr

/-! ## The matrix engine (R237 to R264) -/

/-- A rendezvous at a core's clasp (R246): its team, the first arrival's GANG, instruction, protection class and class-1 values, the members
that have arrived (wave and fragment), whether it is open, and whether it is a first or only window (R264). -/
structure Clasp where
  core    : Nat
  team    : Nat
  gang    : Word
  instr   : Instr
  cls     : Nat
  vals    : List Word
  arrived : List (Nat × Nat)
  opened  : Bool
  first   : Bool
deriving DecidableEq, Repr

/-- An entry of a core's matrix order (R248): its team, core and context (2 for none), its row wave, instruction and on rows, whether it is
the first or only window (R264), the outstanding instructions it serves, its slots and region, its captured source registers (by lane and
register), its accesses, and whether it has started and which writes it waits for. -/
structure MatrixEntry where
  team    : Nat
  core    : Nat
  ctx     : Nat
  wave    : Nat
  instr   : Instr
  rows    : Mask
  first   : Bool
  pends   : List Nat
  slots   : List Nat
  region  : Nat
  data    : Tbl Word
  accs    : List LaneAcc
  started : Bool
  written : Bool
  writes  : List Nat
deriving DecidableEq, Repr

/-- The matrix engines: rendezvous in order of arrival, entries in matrix order, the context that each core's array served last. -/
structure Matrix where
  clasps  : Tbl Clasp
  entries : Tbl MatrixEntry
  last    : Tbl Nat
deriving DecidableEq, Repr

/-! ## The radiance cache (R265 to R284) -/

/-- The fields of a configuration record (R267). -/
structure RcConfig where
  levels  : Nat
  log2t   : Nat
  width   : Nat
  hidden  : Nat
  nout    : Nat
  naux    : Nat
  expout  : Bool
  ordered : Bool
  lr      : BitVec 32
  bbmin   : List (BitVec 32)
  bbinv   : List (BitVec 32)
  res     : List Nat
  home    : Nat
  param   : Word
deriving DecidableEq, Repr

/-- A configured instance (R266): its record, its owner with the page tables it loaded under, its generation, its two images by parameter
number and the poisoned sectors of each, its step count and powers, its flags, whether its DROP has been accepted, its counters (queries,
samples, dropped, rejected, skipped), its loss, the sample ring in order of arrival, and the rest of an ordered epoch that a RCGEN steps
through. `switched` are the clusters that have switched to the generation which a RCGEN broadcasts, while it does (R278). -/
structure Instance where
  cfg      : RcConfig
  asid     : Nat
  table    : Nat
  gen      : BitVec 32
  img0     : Tbl (BitVec 16)
  img1     : Tbl (BitVec 16)
  bad0     : List Nat
  bad1     : List Nat
  steps    : Nat
  p1       : BitVec 32
  p2       : BitVec 32
  paused   : Bool
  failed   : Bool
  dropping : Bool
  queries  : Nat
  samples  : Nat
  dropped  : Nat
  rejected : Nat
  skipped  : Nat
  loss     : BitVec 32
  ring     : List Sample
  epoch    : List Sample
  switched : List Nat
deriving DecidableEq, Repr

/-- An operation that has arrived at an instance's optimiser (R277): 0 LOAD, 1 DROP, 2 PAUSE, 3 RUN, 4 RCGEN, 5 RCSTAT; its outstanding
instruction, which knows the destination, its wave, the issuing team's address space and page tables, the core it came
from, LOAD's record address or RCSTAT's counter, and how far it has come. -/
structure RcOp where
  op    : Nat
  pend  : Nat
  wave  : Nat
  inst  : Nat
  asid  : Nat
  table : Nat
  core  : Nat
  arg   : Nat
  stage : Nat
deriving DecidableEq, Repr

/-- The radiance cache: the configured instances, and the operations at their optimisers in order of arrival. -/
structure Radiance where
  insts : Tbl Instance
  ops   : Tbl RcOp
deriving DecidableEq, Repr

/-! ## Rays, refits and passes (R285 to R314) -/

/-- A ray (R296). -/
structure Ray where
  org  : List (BitVec 32)
  tmin : BitVec 32
  dir  : List (BitVec 32)
  tmax : BitVec 32
deriving DecidableEq, Repr

/-- A candidate or committed hit (R291, R303): t, u, v, the primitive, the geometry, the instance's id and index, the shader-table index,
the facing, and the address of its block. -/
structure Hit where
  t     : BitVec 32
  u     : BitVec 32
  v     : BitVec 32
  prim  : Nat
  geom  : Nat
  iid   : Nat
  inst  : Nat
  entry : Nat
  front : Bool
  block : Nat
deriving DecidableEq, Repr

/-- An instance that a ray has entered (R288, R290): its index, id, flags, the root of its BLAS, and the ray in its object space. -/
structure RayInst where
  idx   : Nat
  iid   : Nat
  flags : Nat
  root  : Nat
  org   : List (BitVec 32)
  dir   : List (BitVec 32)
deriving DecidableEq, Repr

/-- What a ray still has to visit: a node by its index in the TLAS or in an instance's BLAS, an instance by its index, a triangle block by
its address. -/
inductive Visit where
  | node (inst : Option RayInst) (n : Nat)
  | entry (idx : Nat)
  | block (inst : RayInst) (addr : Nat)
deriving DecidableEq, Repr

/-- The trace descriptor (R295). -/
structure TraceDesc where
  root     : Nat
  inst     : Nat
  table    : Nat
  ntab     : Nat
  miss     : Nat
  pagebase : Nat
  resmap   : Nat
  fbmap    : Nat
deriving DecidableEq, Repr

/-- Why a shader runs for a ray (R296, R299). -/
inductive ShaderKind where
  | anyHit | closest | miss
deriving DecidableEq, Repr

/-- How far a ray is: its descriptor unread; traversing; an inline query between steps, or finished; wanting a shader at an entry; in a
lane of a shader wave; exited there, at a place in issue order; or ending, FAILED or not. -/
inductive RayStage where
  | fresh
  | walking
  | idle
  | finished
  | wants (k : ShaderKind) (entry : Nat)
  | shading (k : ShaderKind) (wave lane : Nat)
  | exited (k : ShaderKind) (wave ord : Nat)
  | ending (failed : Bool)
deriving DecidableEq, Repr

/-- A ray of a TRACE, or a lane's inline query (R302): the lane and the outstanding instruction it serves, its place in issue order and
the lanes of its fragment, its grid, address space, page tables and core, the descriptor, the ray with the current tmax, its control
word, what is left to visit, the candidates presented, the committed hit, the candidate that waits, an any-hit lane's decision (0 none,
1 accept, 2 accept and end, 3 ignore), the payload, whether a shader ran, whether a query has failed, and its stage. -/
structure RayJob where
  inline   : Bool
  wave     : Nat
  lane     : Nat
  pend     : Nat
  ord      : Nat
  own      : Mask
  grid     : Nat
  asid     : Nat
  table    : Nat
  core     : Nat
  desc     : Word
  info     : Option TraceDesc
  ray      : Ray
  ctl      : Nat
  todo     : List Visit
  seen     : List (Nat × Nat)
  hit      : Option Hit
  cand     : Option Hit
  decision : Nat
  payload  : List VReg
  ran      : Bool
  failed   : Bool
  stage    : RayStage
deriving DecidableEq, Repr

/-- A triangle submitted to a pass (R309): x and y of its vertices, their depths, its identifier. -/
structure Tri where
  xy : List (BitVec 32)
  z  : List (BitVec 32)
  id : BitVec 32
deriving DecidableEq, Repr

/-- An open pass slot of a die's rasteriser (R308): its VBLD, address space and descriptor, how far it is (0 unread, 1 to be cleared,
2 open), the descriptor's fields, the MSHDONEs that have arrived, the triangles left, and its status so far. -/
structure Pass where
  die     : Nat
  slot    : Nat
  pend    : Nat
  wave    : Nat
  asid    : Nat
  table   : Nat
  desc    : Word
  stage   : Nat
  target  : Word
  width   : Nat
  height  : Nat
  pitch   : Nat
  meshes  : Nat
  flags   : Nat
  arrived : Nat
  tris    : List Tri
  status  : Nat
deriving DecidableEq, Repr

/-- A REFIT at a die's refit engine (R305): its instruction, address space and descriptor, how far it is (0 unread, 1 processing, 2 its
writes on their way), the descriptor's fields, the next node to look at, the node whose children have all been processed, the parent at
which a processed node arrives, the nodes left with QUAL set, its status. -/
structure Refit where
  die    : Nat
  pend   : Nat
  wave   : Nat
  asid   : Nat
  table  : Nat
  desc   : Word
  stage  : Nat
  root   : Nat
  nodes  : Nat
  thresh : BitVec 32
  ctr    : Nat
  next   : Nat
  chain  : Option Nat
  parent : Option Nat
  qual   : Nat
  status : Nat
deriving DecidableEq, Repr

/-- Rays, passes in opening order, and refits in order of arrival. -/
structure Graphics where
  rays   : Tbl RayJob
  passes : Tbl Pass
  refits : Tbl Refit
deriving DecidableEq, Repr

/-! ## Attachments -/

/-- An entry of the host window table (R438). -/
structure HostWindow where
  offset : Nat
  size   : Nat
  port   : Nat
  rights : BitVec 8
  qpn    : Nat
  raddr  : Nat
  rkey   : Nat
deriving DecidableEq, Repr

/-- What accesses beyond the device need: this device's peer id, its state epoch (R324), the ports that serve each peer (R440), the host windows;
and the IPv4 and IPv6 address of each host port (R434). -/
structure Links where
  self    : Nat
  epoch   : Nat
  peers   : Tbl Nat
  windows : Tbl HostWindow
  addrs   : Tbl (Nat × Nat)
deriving DecidableEq, Repr

/-- Why a team's image exists (R389, R391, R426). -/
inductive ImageKind where
  | spill | park | checkpoint
deriving DecidableEq, Repr

/-- A page that a parked team faults on (R389): its virtual address and the access kind. -/
structure ParkPage where
  page : Nat
  kind : Nat
deriving DecidableEq, Repr

/-- An image of a team (R394, R397): its team and the die of its save pool, its size, why it exists, the pages and the recorded
traps of a park (fragment and trap), whether it is complete, whether it is pending restore, since when, and how often placements
passed it over. -/
structure Image where
  team     : Nat
  die      : Nat
  size     : Nat
  kind     : ImageKind
  pages    : List ParkPage
  traps    : List (Nat × Trap)
  complete : Bool
  pending  : Bool
  deliver  : Bool
  order    : Nat
  passed   : Nat
deriving DecidableEq, Repr

/-- A shadow slot (R391): EMPTY, HELD or SPILLING, with the teams whose context it holds. -/
inductive Slot where
  | empty
  | held (teams : List Nat)
  | spilling (teams : List Nat)
deriving DecidableEq, Repr

/-- A requested swap (R392): its cores, KEEP, since when it runs (none while it waits), and the substitution that asked for it: a column (0,
core x 64 + quadrant x 16 + column) or a cluster (1, its number). -/
structure Swap where
  cores : List Nat
  keep  : Bool
  since : Option Nat
  spare : Option (Nat × Nat)
deriving DecidableEq, Repr

/-- Saving and restoring (R389 to R399): shadow slots by core, images by context id, save pools by die (base and size), the next
context id, swaps. -/
structure Saves where
  slots   : Tbl Slot
  images  : Tbl Image
  pools   : Tbl (Nat × Nat)
  nextCtx : Nat
  swaps   : Tbl Swap
deriving DecidableEq, Repr

/-! ## Reliability -/

/-- An error record's contents (R412). -/
structure ErrorRecord where
  time  : Word
  loc   : Word
  pc    : Word
  rwc   : Word
  kind  : BitVec 32
  synd  : BitVec 32
  lanes : Word
  addr  : Word
  seqf  : Word
deriving DecidableEq, Repr

/-- How liners of the next protected instruction will disagree (R409): environment data of the model. -/
structure Upset where
  subcode  : Nat
  cls      : Nat
  number   : Nat
  lanes    : Mask
  liner    : Nat
  spatial  : Bool
  column   : Nat
  majority : Bool
deriving DecidableEq, Repr

/-- A storage element that holds an uncorrectable error (R403): a lane's vector register or predicate, a scalar register or temporary, an element that
every instruction of a fragment reads (MODE, the token counts, the fragment-table entry), or a team's context in a shadow slot or an image (R399). -/
inductive Weak where
  | vec (wave lane n : Nat)
  | pred (wave lane n : Nat)
  | scal (frag n : Nat)
  | tmp (frag n : Nat)
  | entry (frag : Nat)
  | context (team : Nat)
deriving DecidableEq, Repr

/-- The error ring and the counters (R411, R433), and what the environment has done that nothing has found yet: how the liners of the next
protected instruction will disagree, the codewords of device memory that hold an uncorrectable error (R73), and the storage elements of
fragments that do (R403). -/
structure Reliab where
  ring     : List ErrorRecord
  seq      : BitVec 32
  echkOff  : Bool
  counters : Tbl Nat
  upset    : Option Upset
  rot      : List Nat
  weak     : List Weak
deriving DecidableEq, Repr

/-! ## Scheduling -/

/-- A team of a started grid that is not yet placed: its linear index, and how often a later team was placed past it (R379). -/
structure PendingTeam where
  index  : Nat
  passed : Nat
deriving DecidableEq, Repr

/-- A started grid (R370): its node, the order in which it started, what its teams run, its teams still to be placed, how many
are placed and have not ended, and the worst status so far (R369). -/
structure Grid where
  node    : Nat
  die     : Nat
  order   : Nat
  asid    : Nat
  table   : Nat
  dies    : BitVec 8
  ex      : Nat
  ey      : Nat
  ez      : Nat
  header  : Header
  args    : List Word
  persist : Bool
  flags   : Option Word
  pending : List PendingTeam
  running : Nat
  worst   : Nat
deriving DecidableEq, Repr

/-- What a graph walker has to do (R368, R369): start a node; read what the body of a kernel or drain-join node names; complete a node with
a status once its effects (and those of its grid) are performed; go on once its STATUS write is performed; decrement successors and then
those of an overflow block. -/
inductive WalkTask where
  | start (node : Nat)
  | read (node : Nat)
  | complete (node : Nat) (status : Nat) (grid : Option Nat)
  | written (node : Nat) (id : Nat)
  | follow (nodes : List Nat) (block : Nat)
deriving DecidableEq, Repr

/-- A drain slot (R372): its 32-bit counter and ARMED. -/
structure DrainSlot where
  count : BitVec 32
  armed : Bool
deriving DecidableEq, Repr

/-- A drain-join node that waits for its tree (R372). -/
structure DrainJoin where
  node : Nat
  mode : Nat
  slot : Nat
deriving DecidableEq, Repr

/-- The scheduler: enabled clusters of each die (R11), when each core left reset (R13), grids, walker work, drain slots, joins,
the grid last served by each core's instruction cache (R393) and each cluster's (R124, R393), ended
teams with their status, and the runs completed in each quadrant (R381). -/
structure Sched where
  enabled : Tbl (BitVec 40)
  started : Tbl Nat
  grids   : Tbl Grid
  tasks   : Tbl (List WalkTask)
  drains  : Tbl DrainSlot
  joins   : List DrainJoin
  servedCore : Tbl Nat
  servedClus : Tbl Nat
  ended   : Tbl Nat
  runs    : Tbl Nat
deriving DecidableEq, Repr

/-! ## The management protocol (R441 to R450) -/

/-- A management event (R444): its kind and body. -/
structure Event where
  kind : Nat
  body : List Byte
deriving DecidableEq, Repr

/-- An event that has been sent and not acknowledged: its number in the owner's session and the step of the last sending. -/
structure SentEvent where
  seq   : Nat
  event : Event
  since : Nat
deriving DecidableEq, Repr

/-- A session (R441): its master, the port it used last, the highest SEQ acted on, its last 64 responses (SEQ, operation, status, payload),
its pending claim's priority, and the number of its next event (R444). -/
structure Session where
  master  : Nat
  port    : Nat
  top     : Nat
  stored  : List (Nat × Nat × Nat × List Byte)
  claim   : Option Nat
  evSeq   : Nat
deriving DecidableEq, Repr

/-- A nonce that has been issued and not used (R441): its value, to whom, and when. -/
structure NonceRec where
  value  : List Byte
  source : Nat
  since  : Nat
deriving DecidableEq, Repr

/-- A device memory window (R436). -/
structure MemWindow where
  base   : Nat
  size   : Nat
  rights : BitVec 8
  rkey   : BitVec 32
deriving DecidableEq, Repr

/-- Why a RoCEv2 operation is refused (R405, R435, R436). -/
inductive Nak where
  | invalidRequest | accessError | operationalError
deriving DecidableEq, Repr

/-- What leaves a port: an Edjor response, an event, the answer to a RoCEv2 operation, the answer to a peer's request (none where it is
refused), an address resolution. -/
inductive Message where
  | edjor (port op session seq status : Nat) (payload : List Byte)
  | event (port session seq kind : Nat) (body : List Byte)
  | rdma (port qp : Nat) (nak : Option Nak) (data : List Byte)
  | peer (peer : Nat) (id : BitVec 32) (epoch : Nat) (answer : Option (List Byte × Bool))
  | address (port : Nat) (v4 v6 : Nat)
deriving DecidableEq, Repr

/-- What an accepted request still has to do before it is answered: an RDMA WRITE into a window, whether it has begun and the writes that it
waits for (R437); an RDMA READ; a peer's request; READMEM of some bytes; CLOSEDMW of a window (R436); INVAL of an address space, or all of
them, with its place in the order of accesses (R88). -/
inductive Due where
  | write (port qp window : Nat) (cells : List (Nat × Byte)) (begun : Bool) (writes : List Nat)
  | read (port qp window : Nat) (addr bytes : Nat)
  | peer (r : PeerRequest) (begun : Bool) (writes : List Nat) (data : List Byte) (bad : Bool)
  | mread (session seq : Nat) (addr bytes : Nat)
  | close (session seq : Nat) (window : Nat)
  | inval (session seq : Nat) (asid : Option Nat) (place : Nat)
deriving DecidableEq, Repr

/-- The management side of the device: bring-up (the last step completed, FAIL), sessions, nonces, ownership (its priority, the step that its
lease counts from, the last owner's master), events, device memory windows, firmware and measurements, throttling, spares: the columns
substituted in each quadrant and when, the spare clusters left on each die, the spare L2 ways used; requests still to be answered, and
everything that has left a port, newest first. -/
structure Mgmt where
  stage    : Nat
  fail     : Nat
  sessions : Tbl Session
  nextSess : Nat
  nonces   : List NonceRec
  owner    : Option Nat
  prio     : Nat
  lease    : Nat
  former   : Nat
  queue    : List Event
  unacked  : List SentEvent
  windows  : Tbl MemWindow
  fwver    : Nat
  staged   : Option (List Byte)
  meas     : List (List Byte)
  level    : Nat
  floor    : Nat
  power    : Nat
  autoSpare : Bool
  columns  : Tbl (List (Nat × Nat))
  clusters : Tbl (BitVec 40)
  ways     : Tbl Nat
  due      : List Due
  out      : List Message
deriving DecidableEq, Repr

/-! ## Debugging and profiling (R419 to R433) -/

/-- A watchpoint (R419): its range, and whether it watches reads (0), writes (1) or both (2). -/
structure Watch where
  start : Word
  size  : Nat
  kind  : Nat
deriving DecidableEq, Repr

/-- A STEP or STEP.ALL under way (R422, R423): whose turn it is, the fragments whose turns follow, the count of retired instructions at which
the turn began and whether a handler was running then, the step of its beginning, and whether the fragment had arrived somewhere before it. -/
structure Stepping where
  all   : Bool
  focus : Nat
  queue : List Nat
  rwc   : Word
  saved : Bool
  since : Nat
  waited : Bool
deriving DecidableEq, Repr

/-- A team's whole context as it stood at one moment. -/
structure Snapshot where
  team  : Team
  waves : Tbl Wave
  frags : Tbl Frag
  pend  : Tbl Pend
deriving DecidableEq, Repr

/-- Replay mode (R426, R427): the log region, what the team was at the checkpoint, and the log; a rollback's copy with the image of the
live team. The log's layout is not architectural: this one holds the context that each arrival and each retired instruction left. -/
structure Replay where
  base  : Nat
  size  : Nat
  log   : List Snapshot
  copy  : Option Nat
  live  : Option Nat
  pos   : Nat
deriving DecidableEq, Repr

/-- The debug state of an attached team (R419): whether BKPT stops, breakpoints, watchpoints, the watchdog threshold, a step
under way with the status of the last one, replay. -/
structure Debug where
  stops    : Bool
  breaks   : List Word
  watches  : List Watch
  dog      : Nat
  stepping : Option Stepping
  status   : Nat
  replay   : Option Replay
deriving DecidableEq, Repr

/-- A die's profile ring (R428): where it lies, the bytes written and read so far, the records dropped since the last one. -/
structure ProfRing where
  base : Nat
  size : Nat
  head : Nat
  tail : Nat
  lost : Nat
deriving DecidableEq, Repr

/-- The report that a fragment's end leaves for the next PC sample of its entry (R429). -/
structure ExitReport where
  pc   : Word
  wave : Nat
  frag : Nat
  team : Nat
deriving DecidableEq, Repr

/-- Profiling (R428 to R431): rings by die, grids that are profiled and traced, the sampling exponents, each core's next entry, the exit
reports by core and entry, the sector requests that each core has counted, and the steps of each core's last PC sample and sync record. -/
structure Prof where
  rings  : Tbl ProfRing
  grids  : List Nat
  traced : List Nat
  pcK    : Nat
  memK   : Nat
  next   : Tbl Nat
  exits  : Tbl ExitReport
  asked  : Tbl Nat
  pcAt   : Tbl Nat
  syncAt : Tbl Nat
deriving DecidableEq, Repr

end Sys2Proof.Machine
end

