-- ==== Sys2Proof/Machine/State.lean ====
section
/-! DEFINITION. Machine/State.lean: everything the spec gives the machine, as plain data, and the state after reset. -/

namespace Sys2Proof.Machine

/-! ## Why a step stops -/

/-- Why a step stops with a fault. -/
inductive Fault where
  /-- Raised by an instruction's meaning when no fragment is the current one. Safe: the hardware always executes in some
  fragment, and the step never calls a meaning there without one. -/
  | noFragment
deriving DecidableEq, Repr

/-- Why a step is refused. -/
inductive Refusal where
  /-- An instruction without a meaning in this model. Safe: nothing is claimed of it. -/
  | notModelled (mnemonic : String)
deriving DecidableEq, Repr

/-! ## The machine -/

/-- Who moves next: a fragment issues its next instruction, or an event of the device or the host happens. -/
inductive Move where
  | issue (frag : Nat)
  | event (i : Instr)
deriving DecidableEq, Repr

/-- The machine. `ticks` counts the steps taken, which time is measured from (log entry 8); `free` counts the open values used
(log entry 6); `cur` is the fragment that the present step works on and `agenda` says which agent moves next (log entry 4). -/
structure State where
  mem    : List Host.Cell
  poison : List Nat
  teams  : Tbl Team
  waves  : Tbl Wave
  frags  : Tbl Frag
  pend   : Tbl Pend
  path   : MemPath
  rel    : Reliab
  sched  : Sched
  links  : Links
  saves  : Saves
  mgmt   : Mgmt
  debug  : Tbl Debug
  prof   : Prof
  eng    : Engines
  mx     : Matrix
  rc     : Radiance
  gfx    : Graphics
  nextId : Nat
  cur    : Option Nat
  agenda : List Move
  ticks  : Nat
  free   : Nat
  ready  : Bool
deriving DecidableEq, Repr

/-- The enabled clusters of a die at reset: CL00 to CL36 (R11; which three are spare differs from part to part: log entry 3). -/
def enabledAtReset : Tbl (BitVec 40) := (List.range 8).map (fun d => (d, BitVec.ofNat 40 (2 ^ 37 - 1)))

/-- The spare clusters of a die at reset: CL37 to CL39 (R11; log entry 3). -/
def spareAtReset : Tbl (BitVec 40) := (List.range 8).map (fun d => (d, BitVec.ofNat 40 (7 * 2 ^ 37)))

/-- The machine right after reset (R447): nothing brought up, memory without a listed byte, no team, every table empty. -/
def State.reset : State where
  mem    := []
  poison := []
  teams  := []
  waves  := []
  frags  := []
  pend   := []
  path   := { l1 := [], rdc := [], l2 := [], const := [], icore := [], iclus := [], tlbCore := [], tlbClus := [], tlbDie := [],
              walkc := [], walkq := [], writes := [], detach := [], waits := [], remote := [], cached := [] }
  rel    := { ring := [], seq := 0, echkOff := false, counters := [], upset := none, rot := [], weak := [] }
  sched  := { enabled := enabledAtReset, started := [], grids := [], tasks := [], drains := [], joins := [], servedCore := [],
              servedClus := [], ended := [], runs := [] }
  links  := { self := 0, epoch := 0, peers := [], windows := [], addrs := [] }
  saves  := { slots := [], images := [], pools := [], nextCtx := 0, swaps := [] }
  mgmt   := { stage := 0, fail := 0, sessions := [], nextSess := 1, nonces := [], owner := none, prio := 0, lease := 0, former := 0, queue := [],
              unacked := [], windows := [], fwver := 0, staged := none, meas := List.replicate 8 (List.replicate 64 0),
              level := 0, floor := 0, power := 0, autoSpare := true, columns := [], clusters := spareAtReset, ways := [], due := [], out := [] }
  debug  := []
  prof   := { rings := [], grids := [], traced := [], pcK := 10, memK := 6, next := [], exits := [], asked := [], pcAt := [], syncAt := [] }
  eng    := { cmds := [], chunks := [], turn := [], waits := [] }
  mx     := { clasps := [], entries := [], last := [] }
  rc     := { insts := [], ops := [] }
  gfx    := { rays := [], passes := [], refits := [] }
  nextId := 1
  cur    := none
  agenda := []
  ticks  := 0
  free   := 0
  ready  := false

/-- What the body of an instruction's meaning ends in: `done`, it has its effect and retires; `keep`, its effect is in the state
and says itself where the fragment goes on; `trap`, it raises a trap; `stall`, it waits in place, RUNNING; `unselect`, the
condition of a hold instruction is false and the fragment is BLOCKED (R41, R354). -/
inductive Res where
  | done (s : State)
  | keep (s : State)
  | trap (t : Trap)
  | stall
  | unselect
deriving DecidableEq, Repr

end Sys2Proof.Machine
end

