-- ==== Sys2Proof/Machine/Float.lean ====
section
/-! DEFINITION. Machine/Float.lean: the number formats (R173), exact values, rounding and Convert (R180, R181), NaNs (R174),
flushing (R175) and the exact arithmetic that every floating-point unit of the machine shares. -/

namespace Sys2Proof.Machine

/-! ## Formats -/

/-- How a format writes NaN (R173). -/
inductive NanKind where
  | ieee | e4m3 | none
deriving DecidableEq, Repr

/-- A floating format of R173: container width, exponent and significand bits, bias, infinities, NaNs. -/
structure Fmt where
  w    : Nat
  eb   : Nat
  mb   : Nat
  bias : Nat
  inf  : Bool
  nan  : NanKind
deriving DecidableEq, Repr

def fmtF64 : Fmt := ⟨64, 11, 52, 1023, true, .ieee⟩
def fmtF32 : Fmt := ⟨32, 8, 23, 127, true, .ieee⟩
def fmtF16 : Fmt := ⟨16, 5, 10, 15, true, .ieee⟩
def fmtBF16 : Fmt := ⟨16, 8, 7, 127, true, .ieee⟩
def fmtE4M3 : Fmt := ⟨8, 4, 3, 7, false, .e4m3⟩
def fmtE5M2 : Fmt := ⟨8, 5, 2, 15, true, .ieee⟩
def fmtE2M1 : Fmt := ⟨4, 2, 1, 1, false, .none⟩
def fmtE3M2 : Fmt := ⟨8, 3, 2, 3, false, .none⟩
def fmtE2M3 : Fmt := ⟨8, 2, 3, 1, false, .none⟩

/-- The floating format a tag code names (R177); none for RAW, the integer tags, SCL and 0xF. -/
def fmtOf (t : Nat) : Option Fmt :=
  match t with
  | 5 => some fmtF64 | 6 => some fmtF32 | 7 => some fmtF16 | 8 => some fmtBF16 | 9 => some fmtE4M3
  | 10 => some fmtE5M2 | 11 => some fmtE2M1 | 12 => some fmtE3M2 | 13 => some fmtE2M3 | _ => none

/-- The container width of a tag's elements (R172, R177). -/
def tagWidth (t : Nat) : Nat :=
  match t with
  | 2 => 32 | 3 => 16 | 4 => 8 | 6 => 32 | 7 => 16 | 8 => 16 | 9 => 8 | 10 => 8 | 11 => 4 | 12 => 8 | 13 => 8 | 14 => 8
  | _ => 64

/-- The integer tag of the same element width as a floating tag (R218). -/
def intTagOf (t : Nat) : Nat :=
  match t with
  | 5 => 1 | 6 => 2 | 7 => 3 | 8 => 3 | _ => 4

/-- Elements per register of a tag (R177). -/
def tagCount (t : Nat) : Nat := 64 / tagWidth t

/-- FTZ acts on binary64, binary32, binary16 and bfloat16 only (R175). -/
def Fmt.flushes (f : Fmt) : Bool := f.w == 64 || f.w == 32 || f.w == 16

/-- The number of value bits below the container's top (R172): sign, exponent and significand. -/
def Fmt.bits (f : Fmt) : Nat := 1 + f.eb + f.mb

/-- The exponent of the smallest normal (R173). -/
def Fmt.emin (f : Fmt) : Int := 1 - (f.bias : Int)

/-- The largest finite magnitude's encoding (R173). -/
def Fmt.maxBits (f : Fmt) : Nat :=
  match f.nan with
  | .ieee => (2 ^ f.eb - 1) * 2 ^ f.mb - 1
  | .e4m3 => 0x7E
  | .none => 2 ^ (f.eb + f.mb) - 1

/-- The encoding of +∞ where the format has it. -/
def Fmt.infBits (f : Fmt) : Nat := (2 ^ f.eb - 1) * 2 ^ f.mb

/-- The sign bit's weight. -/
def Fmt.signBit (f : Fmt) : Nat := 2 ^ (f.eb + f.mb)

/-- The canonical NaN (R173). -/
def Fmt.canonicalNan (f : Fmt) : Nat :=
  match f.nan with
  | .ieee => f.infBits + 2 ^ (f.mb - 1)
  | .e4m3 => 0x7F
  | .none => 0

/-! ## Flags (R179) -/

/-- The five exceptions in TVAL's order: INV, DZ, OVF, UNF, INX. -/
abbrev FFlags := BitVec 5
def fINV : FFlags := 1
def fDZ : FFlags := 2
def fOVF : FFlags := 4
def fUNF : FFlags := 8
def fINX : FFlags := 16

/-! ## Exact values -/

/-- The value of an encoding: a NaN with its sign, signaling mark and payload (top-aligned in 52 bits), an infinity, or
the exact number (-1)^s m 2^e, zero when m is 0. -/
inductive Val where
  | nan (s : Bool) (sig : Bool) (pay : Nat)
  | inf (s : Bool)
  | num (s : Bool) (m : Nat) (e : Int)
deriving DecidableEq, Repr

def Val.sign : Val → Bool
  | .nan s _ _ => s | .inf s => s | .num s _ _ => s

def Val.isNan : Val → Bool
  | .nan _ _ _ => true | _ => false

def Val.isSig : Val → Bool
  | .nan _ b _ => b | _ => false

def Val.isZero : Val → Bool
  | .num _ m _ => m == 0 | _ => false

def Val.neg : Val → Val
  | .nan s b p => .nan (!s) b p | .inf s => .inf (!s) | .num s m e => .num (!s) m e

def Val.abs : Val → Val
  | .nan _ b p => .nan false b p | .inf _ => .inf false | .num _ m e => .num false m e

/-- Read an element's bits (R173). -/
def Fmt.decode (f : Fmt) (bits : Nat) : Val :=
  let s := bits / f.signBit % 2 == 1
  let ex := bits / 2 ^ f.mb % 2 ^ f.eb
  let m := bits % 2 ^ f.mb
  let fin : Val := if ex = 0 then .num s m (f.emin - f.mb) else .num s (2 ^ f.mb + m) ((ex : Int) - f.bias - f.mb)
  match f.nan with
  | .ieee =>
    if ex + 1 = 2 ^ f.eb then
      if m = 0 then .inf s else .nan s (m < 2 ^ (f.mb - 1)) (m * 2 ^ (52 - f.mb))
    else fin
  | .e4m3 => if bits % 128 = 127 then .nan s false (7 * 2 ^ 49) else fin
  | .none => fin

/-- A subnormal read under FTZ is a zero of the same sign (R175). -/
def Fmt.flushIn (f : Fmt) (ftz : Bool) (v : Val) : Val :=
  match v with
  | .num s m e => if ftz && f.flushes && m < 2 ^ f.mb then .num s 0 e else v
  | _ => v

/-- Read an operand element under FTZ (R215). -/
def Fmt.read (f : Fmt) (ftz : Bool) (bits : Nat) : Val := f.flushIn ftz (f.decode bits)

/-- The bits of a sign and a magnitude. -/
def Fmt.withSign (f : Fmt) (s : Bool) (mag : Nat) : Nat := if s then f.signBit + mag else mag

/-- A NaN operand as a result in this format, quieted, with its payload's top bits (R174, R180). Formats without NaN give +0
with INV. -/
def Fmt.ofNan (f : Fmt) (s sig : Bool) (pay : Nat) : Nat × FFlags :=
  let fl : FFlags := if sig then fINV else 0
  match f.nan with
  | .ieee =>
    if f.w = 8 then (f.withSign s 0x7E, fl)
    else
      let m := pay / 2 ^ (52 - f.mb)
      let q := if m / 2 ^ (f.mb - 1) % 2 = 1 then m else m + 2 ^ (f.mb - 1)
      (f.withSign s (f.infBits + q), fl)
  | .e4m3 => (f.withSign s 0x7F, fl)
  | .none => (0, fINV)

/-! ## Rounding (R180, R181) -/

/-- Whether the discarded part of a magnitude rounds it up, for the RND codes of R29. `q` is the kept integer, `r` over
2^sh the discarded part, `sticky` a nonzero rest below it, `rnd` the stochastic value of R181. -/
def roundUp (mode : Nat) (s : Bool) (q r sh : Nat) (sticky : Bool) (rnd : Nat) : Bool :=
  let half := 2 ^ sh
  let gt := half < 2 * r || (half == 2 * r && sticky)
  let eq := half == 2 * r && !sticky
  let inexact := r != 0 || sticky
  match mode with
  | 0 => gt || (eq && q % 2 == 1)
  | 1 => false
  | 2 => !s && inexact
  | 3 => s && inexact
  | 4 => gt || eq
  | _ => 2 ^ 32 ≤ r * 2 ^ 32 / 2 ^ sh + rnd

/-- Round m / 2^sh to an integer: the integer, and whether it differs. -/
def roundShift (mode : Nat) (s : Bool) (m sh : Nat) (sticky : Bool) (rnd : Nat) : Nat × Bool :=
  let q := m / 2 ^ sh
  let r := m % 2 ^ sh
  (if roundUp mode s q r sh sticky rnd then q + 1 else q, r != 0 || sticky)

/-- m 2^e (m > 0) rounded to a multiple of 2^qe: the multiple, and whether it differs. -/
def roundAt (mode : Nat) (s : Bool) (m : Nat) (e qe : Int) (sticky : Bool) (rnd : Nat) : Nat × Bool :=
  if qe ≤ e then (m * 2 ^ (e - qe).toNat, sticky) else roundShift mode s m (qe - e).toNat sticky rnd

/-- What rounding a nonzero magnitude to a format gives: the magnitude's encoding (past maxBits when it overflows), whether
it is inexact, and whether it is tiny (R179). -/
structure Rounded where
  mag     : Nat
  inexact : Bool
  tiny    : Bool
deriving DecidableEq, Repr

def Fmt.round (f : Fmt) (mode : Nat) (s : Bool) (m : Nat) (e : Int) (sticky : Bool) (rnd : Nat) : Rounded :=
  let top := e + Nat.log2 m
  let qe := max top f.emin - f.mb
  let (q, ix) := roundAt mode s m e qe sticky rnd
  let mag := if q < 2 ^ f.mb then q else (qe + f.mb - f.emin + 1).toNat * 2 ^ f.mb + (q - 2 ^ f.mb)
  let tiny :=
    if f.emin ≤ top then false
    else if top < f.emin - 1 then true
    else (roundAt mode s m e (top - f.mb) sticky rnd).1 < 2 ^ (f.mb + 1)
  ⟨mag, ix, tiny⟩

/-- The overflowed result of a mode: infinity or the largest finite value (R180). -/
def Fmt.overflow (f : Fmt) (mode : Nat) (s sat : Bool) : Nat :=
  let toMax := !f.inf || sat || mode == 1 || (mode == 2 && s) || (mode == 3 && !s)
  f.withSign s (if toMax then f.maxBits else f.infBits)

/-- A nonzero result that is subnormal after rounding is flushed under FTZ (R175). -/
def Fmt.flushOut (f : Fmt) (ftz : Bool) (s : Bool) (mag : Nat) (fl : FFlags) : Nat × FFlags :=
  if ftz && f.flushes && mag != 0 && mag < 2 ^ f.mb then (f.withSign s 0, fl ||| fUNF ||| fINX)
  else (f.withSign s mag, fl)

/-- Convert(x, F, mode, sat) of R180 with FTZ on the result (R175); `sticky` marks a nonzero rest below m 2^e. -/
def Fmt.convertS (f : Fmt) (ftz : Bool) (mode : Nat) (sat : Bool) (rnd : Nat) (v : Val) (sticky : Bool) : Nat × FFlags :=
  match v with
  | .nan s sig pay => f.ofNan s sig pay
  | .inf s => if f.inf && !sat then (f.withSign s f.infBits, 0) else (f.withSign s f.maxBits, fOVF ||| fINX)
  | .num s m e =>
    if m = 0 then (f.withSign s 0, 0)
    else
      let r := f.round mode s m e sticky rnd
      if f.maxBits < r.mag then (f.overflow mode s sat, fOVF ||| fINX)
      else
        let fl : FFlags := (if r.inexact then fINX else 0) ||| (if r.inexact && r.tiny then fUNF else 0)
        f.flushOut ftz s r.mag fl

def Fmt.convert (f : Fmt) (ftz : Bool) (mode : Nat) (sat : Bool) (rnd : Nat) (v : Val) : Nat × FFlags :=
  f.convertS ftz mode sat rnd v false

/-- Clamp01 of R215 on an encoding. -/
def Fmt.clamp01 (f : Fmt) (bits : Nat) : Nat :=
  let one := f.bias * 2 ^ f.mb
  match f.decode bits with
  | .nan _ _ _ => 0
  | .inf s => if s then 0 else one
  | .num s m _ => if s || m = 0 then 0 else if one < bits then one else bits

/-! ## Exact arithmetic -/

/-- Signed integer of a sign and magnitude. -/
def signed (s : Bool) (m : Nat) : Int := if s then -(m : Int) else m

/-- The exact sum of two finite terms; the sign of a zero sum follows R215. -/
def addNum (mode : Nat) (s₁ : Bool) (m₁ : Nat) (e₁ : Int) (s₂ : Bool) (m₂ : Nat) (e₂ : Int) : Val :=
  let e := min e₁ e₂
  let z := signed s₁ (m₁ * 2 ^ (e₁ - e).toNat) + signed s₂ (m₂ * 2 ^ (e₂ - e).toNat)
  if z = 0 then .num (if s₁ = s₂ then s₁ else mode == 3) 0 e else .num (z < 0) z.natAbs e

/-- An operation's exact answer: a value to round, or the canonical NaN of an invalid operation; and flags. -/
inductive Exact where
  | val (v : Val)
  | invalid
  | divZero (s : Bool)
deriving DecidableEq, Repr

def addVal (mode : Nat) (a b : Val) : Exact :=
  match a, b with
  | .nan s g p, _ => .val (.nan s g p)
  | _, .nan s g p => .val (.nan s g p)
  | .inf s, .inf t => if s = t then .val (.inf s) else .invalid
  | .inf s, .num _ _ _ => .val (.inf s)
  | .num _ _ _, .inf t => .val (.inf t)
  | .num s m e, .num t n d => .val (addNum mode s m e t n d)

def mulVal (a b : Val) : Exact :=
  match a, b with
  | .nan s g p, _ => .val (.nan s g p)
  | _, .nan s g p => .val (.nan s g p)
  | .inf s, .inf t => .val (.inf (s != t))
  | .inf s, .num t n _ => if n = 0 then .invalid else .val (.inf (s != t))
  | .num s m _, .inf t => if m = 0 then .invalid else .val (.inf (s != t))
  | .num s m e, .num t n d => .val (.num (s != t) (m * n) (e + d))

/-- a x b + c with the NaN rules of R174 and R215: the answer, and INV of an invalid product under a NaN c. -/
def fmaVal (mode : Nat) (a b c : Val) : Exact × FFlags :=
  match mulVal a b with
  | .invalid => if c.isNan then (.val c, fINV) else (.invalid, 0)
  | .divZero s => (.divZero s, 0)
  | .val p => (addVal mode p c, 0)

/-- INV of any signaling operand (R174). -/
def sigFlag (vs : List Val) : FFlags := if vs.any Val.isSig then fINV else 0

/-- Round an exact answer (RoundFp of R215). -/
def Fmt.finish (f : Fmt) (ftz : Bool) (mode : Nat) (x : Exact) : Nat × FFlags :=
  match x with
  | .val v => f.convert ftz mode false 0 v
  | .invalid => (f.canonicalNan, fINV)
  | .divZero s => (f.withSign s f.infBits, fDZ)

/-- The order of two values that are not NaN; -0 equals +0. -/
def Val.le (a b : Val) : Bool :=
  match a, b with
  | .inf true, _ => true
  | _, .inf false => true
  | .inf false, _ => false
  | _, .inf true => false
  | .num s m e, .num t n d =>
    let k := min e d
    decide (signed s (m * 2 ^ (e - k).toNat) ≤ signed t (n * 2 ^ (d - k).toNat))
  | _, _ => false

def Val.eqv (a b : Val) : Bool := a.le b && b.le a

/-- FMIN or FMAX on two operands (R216): the operand chosen. -/
def minMaxVal (isMax num : Bool) (a b : Val) : Val :=
  let pick (x y : Val) : Val :=
    if x.eqv y then
      -- -0 orders below +0
      if isMax then (if x.sign then y else x) else (if x.sign then x else y)
    else if x.le y then (if isMax then y else x) else (if isMax then x else y)
  if num then
    match a.isNan, b.isNan with
    | true, false => b
    | false, true => a
    | true, true => a
    | false, false => pick a b
  else if a.isNan then a else if b.isNan then b else pick a b

/-- The integral value RND selects (R220): sign kept. -/
def integral (mode : Nat) (v : Val) : Val :=
  match v with
  | .num s m e => if 0 ≤ e then v else .num s (roundShift mode s m (-e).toNat false 0).1 0
  | _ => v

/-- x 2^n, exactly. -/
def Val.scale (v : Val) (n : Int) : Val :=
  match v with
  | .num s m e => .num s m (e + n)
  | _ => v

/-- Floor(log2 |x|) of a nonzero finite number. -/
def floorLog2 (m : Nat) (e : Int) : Int := e + Nat.log2 m

/-- The exact signed integer a value rounds to, for conversions to integers. -/
def Val.toInt (v : Val) (mode : Nat) : Int :=
  match integral mode v with
  | .num s m e => signed s (m * 2 ^ e.toNat)
  | _ => 0

/-- An integer as an exact value. -/
def Val.ofInt (n : Int) : Val := .num (n < 0) n.natAbs 0

/-! ## Square root, and the functions of R222 -/

/-- Integer square root, bit by bit from 2^k down. -/
def isqrtAux (n : Nat) : Nat → Nat → Nat
  | 0, r => if (r + 1) * (r + 1) ≤ n then r + 1 else r
  | k + 1, r => isqrtAux n k (if (r + 2 ^ (k + 1)) * (r + 2 ^ (k + 1)) ≤ n then r + 2 ^ (k + 1) else r)

def isqrt (n : Nat) : Nat := isqrtAux n (Nat.log2 n / 2 + 1) 0

/-- √(m 2^e), m > 0, as a magnitude with its sticky rest, to more than 2^64 steps. -/
def sqrtNum (m : Nat) (e : Int) : Nat × Int × Bool :=
  let m' := if e % 2 = 0 then m * 2 ^ 256 else m * 2 ^ 257
  let e' := if e % 2 = 0 then e - 256 else e - 257
  let r := isqrt m'
  (r, e' / 2, r * r != m')

/-- Fixed-point numbers with 320 fraction bits, for the bounds of R223. -/
def fixP : Nat := 320
def fixOne : Nat := 2 ^ fixP
def fixMul (a b : Nat) : Nat := a * b / fixOne

/-- atan(1/k) by its series, in fixed point. -/
def fixAtanInv (k : Nat) : Nat :=
  let go := (List.range 170).foldl
    (fun (acc : Int × Nat) i =>
      ((if i % 2 = 0 then acc.1 + (acc.2 / (2 * i + 1) : Nat) else acc.1 - (acc.2 / (2 * i + 1) : Nat)), acc.2 / (k * k)))
    ((0 : Int), fixOne / k)
  go.1.toNat

/-- π by Machin's formula. -/
def fixPi : Nat := 16 * fixAtanInv 5 - 4 * fixAtanInv 239

/-- ln 2 = Σ 1 / (i 2^i). -/
def fixLn2 : Nat := (List.range 330).foldl (fun acc i => acc + fixOne / ((i + 1) * 2 ^ (i + 1))) 0

/-- e^x by its series, for a fixed-point x of at most 1. -/
def fixExp (x : Nat) : Nat :=
  ((List.range 90).foldl (fun (acc : Nat × Nat) i => (acc.1 + acc.2, fixMul acc.2 x / (i + 1))) (0, fixOne)).1

/-- sin x and cos x by their series, for a fixed-point x of at most 1. -/
def fixSin (x : Nat) : Nat :=
  let g := (List.range 45).foldl
    (fun (acc : Int × Nat) i =>
      ((if i % 2 = 0 then acc.1 + (acc.2 : Int) else acc.1 - (acc.2 : Int)), fixMul (fixMul acc.2 x) x / ((2 * i + 2) * (2 * i + 3))))
    ((0 : Int), x)
  g.1.toNat

def fixCos (x : Nat) : Nat :=
  let g := (List.range 45).foldl
    (fun (acc : Int × Nat) i =>
      ((if i % 2 = 0 then acc.1 + (acc.2 : Int) else acc.1 - (acc.2 : Int)), fixMul (fixMul acc.2 x) x / ((2 * i + 1) * (2 * i + 2))))
    ((0 : Int), fixOne)
  g.1.toNat

/-- log2 of a fixed-point x in [1, 2), bit by bit by squaring. -/
def fixLog2 (x : Nat) : Nat :=
  ((List.range 200).foldl
    (fun (acc : Nat × Nat) i =>
      let y := fixMul acc.2 acc.2
      if 2 * fixOne ≤ y then (acc.1 + fixOne / 2 ^ (i + 1), y / 2) else (acc.1, y)) (0, x)).1

/-- m 2^e in fixed point (truncated). -/
def toFix (m : Nat) (e : Int) : Nat :=
  let k := e + fixP
  if 0 ≤ k then m * 2 ^ k.toNat else m / 2 ^ (-k).toNat

/-- 2^x for a value of magnitude at most 1, as a fixed-point number. -/
def approxExp2 (s : Bool) (m : Nat) (e : Int) : Nat :=
  let y := fixExp (fixMul (toFix m e) fixLn2)
  if s then fixOne * fixOne / y else y

/-- e^-x in fixed point for x >= 0: whole powers of 2 taken out. -/
def fixExpNeg (x : Nat) : Nat :=
  let t := x * fixOne / fixLn2      -- x / ln 2
  let k := t / fixOne
  let r := fixMul (t % fixOne) fixLn2
  if fixP < k then 0 else (fixOne * fixOne / fixExp r) / 2 ^ k

/-- The signed fixed-point value of the functions whose exact cases are set aside. Opcodes as in R222. -/
def approxFunc (op : Nat) (s : Bool) (m : Nat) (e : Int) : Option (Bool × Nat × Int) :=
  match op with
  | 0x49 => some (false, approxExp2 s m e, -(fixP : Int))
  | 0x4C =>
    let top := floorLog2 m e
    let x := toFix m (e - top)
    let z : Int := top * fixOne + (fixLog2 x : Int)
    some (z < 0, z.natAbs, -(fixP : Int))
  | 0x4D =>
    -- 1 / (m 2^e), to 320 bits below the leading one
    some (s, 2 ^ (fixP + Nat.log2 m) / m, -e - (fixP + Nat.log2 m : Nat))
  | 0x4E =>
    let (r, re, _) := sqrtNum (m * 2 ^ 512) (e - 512)
    some (false, 2 ^ (fixP + Nat.log2 r) / r, -re - (fixP + Nat.log2 r : Nat))
  | 0x50 =>
    -- a in turns: reduce to [0, 1/2) by period and sign, then to [0, 1/4]
    let t := toFix m e % fixOne
    let (h, t) := if fixOne / 2 ≤ t then (true, t - fixOne / 2) else (false, t)
    let t := if fixOne / 4 < t then fixOne / 2 - t else t
    let ang := fixMul (2 * fixPi) t
    let y := if t ≤ fixOne / 8 then fixSin ang else fixCos (fixPi / 2 - ang)
    some (s != h, y, -(fixP : Int))
  | 0x51 =>
    let t := toFix m e % fixOne
    let t := if fixOne / 2 < t then fixOne - t else t
    let (h, t) := if fixOne / 4 < t then (true, fixOne / 2 - t) else (false, t)
    let ang := fixMul (2 * fixPi) t
    let y := if t ≤ fixOne / 8 then fixCos ang else fixSin (fixPi / 2 - ang)
    some (h, y, -(fixP : Int))
  | 0x52 =>
    if 300 ≤ floorLog2 m e then some (s, fixOne - 1, -(fixP : Int))
    else
      let u := fixExpNeg (2 * toFix m e)
      some (s, (fixOne - u) * fixOne / (fixOne + u), -(fixP : Int))
  | _ => none

/-- Whether the finite value `c` lies within `k` ulp of the magnitude-signed number (s, m 2^e) (R223). -/
def Fmt.withinUlp (f : Fmt) (k : Nat) (c : Val) (s : Bool) (m : Nat) (e : Int) : Bool :=
  match c with
  | .num cs cm ce =>
    let ue := max (floorLog2 m e) f.emin - f.mb
    let b := min (min e ce) ue
    let y := signed s (m * 2 ^ (e - b).toNat)
    let x := signed cs (cm * 2 ^ (ce - b).toNat)
    decide ((x - y).natAbs ≤ k * 2 ^ (ue - b).toNat)
  | _ => false

/-- The bound of each function, in ulp (R222). -/
def funcBound (op : Nat) : Nat := if op = 0x50 || op = 0x51 || op = 0x52 then 2 else 1

/-- A function's result where no exact case applies: the unit's own fixed value where it keeps the bound, and otherwise
the nearest value (log entry 7). The exact answer is never a value of the format there, so INX is raised (R223). -/
def Fmt.funcApprox (f : Fmt) (tag : Nat) (ftz : Bool) (op bits : Nat) (s : Bool) (m : Nat) (e : Int) : Nat × FFlags :=
  match approxFunc op s m e with
  | none => (f.canonicalNan, fINV)
  | some (ys, ym, ye) =>
    if ym = 0 then f.flushOut ftz ys 0 (fUNF ||| fINX)
    else
      let r := f.round 0 ys ym ye true 0
      if f.maxBits ≤ (f.round 1 ys ym ye true 0).mag then
        (f.withSign ys f.infBits, fOVF ||| fINX)
      else
        let c := Config.funcValue op tag ftz bits % (2 * f.signBit)
        let bits' := if f.withinUlp (funcBound op) (f.decode c) ys ym ye then c else f.withSign ys r.mag
        let mag := bits' % f.signBit
        let sgn := bits' / f.signBit % 2 == 1
        if mag < 2 ^ f.mb then f.flushOut ftz sgn mag (fUNF ||| fINX) else (bits', fINX)

/-- Whether a finite number is an exact power of two, and its exponent. -/
def pow2Exp (m : Nat) (e : Int) : Option Int := if m = 2 ^ Nat.log2 m then some (floorLog2 m e) else none

/-- a mod 1 in quarters of a turn, when it is a whole number of them (R222). -/
def quarterTurn (s : Bool) (m : Nat) (e : Int) : Option Nat :=
  let q : Option Int := if -2 ≤ e then some (signed s (m * 2 ^ (e + 2).toNat))
    else if m % 2 ^ (-(e + 2)).toNat = 0 then some (signed s (m / 2 ^ (-(e + 2)).toNat)) else none
  q.map (fun z => (z % 4).toNat)

/-- The result and flags of a function instruction on one element (R222, R223); `mode` serves FSQRT only. -/
def Fmt.func (f : Fmt) (tag : Nat) (ftz : Bool) (op mode bits : Nat) : Nat × FFlags :=
  let one := f.bias * 2 ^ f.mb
  let bad : Nat × FFlags := (f.canonicalNan, fINV)
  let exact (v : Val) : Nat × FFlags := f.convert ftz 0 false 0 v
  match f.read ftz bits with
  | .nan s g p => f.ofNan s g p
  | .inf s =>
    match op with
    | 0x49 => bad
    | 0x4C => if s then bad else (f.infBits, 0)
    | 0x4D => (f.withSign s 0, 0)
    | 0x4E => if s then bad else (0, 0)
    | 0x4F => if s then bad else (f.infBits, 0)
    | 0x52 => (f.withSign s one, 0)
    | _ => bad
  | .num s m e =>
    if m = 0 then
      match op with
      | 0x49 => (one, 0)
      | 0x4C => (f.withSign true f.infBits, fDZ)
      | 0x4D => (f.withSign s f.infBits, fDZ)
      | 0x4E => (f.withSign s f.infBits, fDZ)
      | 0x51 => (one, 0)
      | _ => (f.withSign s 0, 0)
    else
      match op with
      | 0x49 =>
        if Val.le (.num false m e) (.num false 1 0) then
          (if Val.eqv (.num false m e) (.num false 1 0) then exact (.num false 1 (if s then -1 else 1))
           else f.funcApprox tag ftz op bits s m e)
        else bad
      | 0x4C =>
        if s then bad
        else match pow2Exp m e with
          | some j => exact (Val.ofInt j)
          | none => f.funcApprox tag ftz op bits s m e
      | 0x4D =>
        match pow2Exp m e with
        | some j => exact (.num s 1 (-j))
        | none => f.funcApprox tag ftz op bits s m e
      | 0x4E =>
        if s then bad
        else match pow2Exp m e with
          | some j => if j % 2 = 0 then exact (.num false 1 (-(j / 2))) else f.funcApprox tag ftz op bits s m e
          | none => f.funcApprox tag ftz op bits s m e
      | 0x4F =>
        if s then bad
        else
          let (r, re, st) := sqrtNum m e
          f.convertS ftz mode false 0 (.num false r re) st
      | 0x50 =>
        match quarterTurn s m e with
        | some 1 => (one, 0)
        | some 3 => (f.withSign true one, 0)
        | some _ => (f.withSign s 0, 0)
        | none => f.funcApprox tag ftz op bits s m e
      | 0x51 =>
        match quarterTurn s m e with
        | some 0 => (one, 0)
        | some 2 => (f.withSign true one, 0)
        | some _ => (0, 0)
        | none => f.funcApprox tag ftz op bits s m e
      | _ => f.funcApprox tag ftz op bits s m e

/-! ## Scales (E8M0, R173) -/

/-- The value of an E8M0 scale: none for 0xFF, which is NaN. -/
def scaleExp (b : Nat) : Option Int := if b = 255 then none else some ((b : Int) - 127)

end Sys2Proof.Machine
end

