-- ==== Sys2Proof/Machine/Forms.lean ====
section
/-! DEFINITION. Machine/Forms.lean: the static checks of every encoding (R24 to R36, R48), one form per instruction, each check at
the bit position that R50 reports. -/

namespace Sys2Proof

namespace Machine

/-! ## Operands -/

/-- Position in the instruction's bits of each checked field (R21, R50). -/
def posX : Nat := 28
def posD : Nat := 48
def posA : Nat := 51
def posB : Nat := 54
def posC : Nat := 57
def posFmt : Nat := 60
def posG : Nat := 64
def posGn : Nat := 69
def posTok : Nat := 70
def posLa : Nat := 74
def posRnd : Nat := 78
def posSat : Nat := 81
def posSub : Nat := 82
def posMinw : Nat := 86
def posWin : Nat := 89
def posMod : Nat := 90

end Machine
/-- The operand selects the literal (R25). -/
def Operand.isLit (o : Operand) : Bool := o.cls == .imm && o.num == 0x80

/-- The operand is an 8-bit immediate. -/
def Operand.isImm8 (o : Operand) : Bool := o.cls == .imm && o.num != 0x80

/-- The signed value of an 8-bit immediate. -/
def Operand.imm8 (o : Operand) : Int := o.num.toInt

/-- An unused position holds number 0, class 0 (R26). -/
def Operand.unused (o : Operand) : Bool := o.cls == .vec && o.num == 0

def Operand.isScalar (o : Operand) : Bool := o.cls == .scal || o.cls == .tmp
namespace Machine

/-- The special registers' numbers (R169). -/
def specialNumbers : List Nat :=
  [0x00, 0x01, 0x02, 0x03, 0x04, 0x05, 0x06, 0x07, 0x08, 0x10, 0x11, 0x12, 0x18, 0x19, 0x20, 0x21, 0x22, 0x28, 0x29, 0x2A,
   0x2B, 0x2C, 0x30, 0x31, 0x32, 0x33]

/-- The special registers MTS may name (R169: RW and H). -/
def writableSpecials : List Nat := [0x28, 0x29, 0x30, 0x31, 0x32, 0x33]

end Machine
/-- An operand number inside its class's range (R24), the literal only where present (R25). -/
def Operand.numOk (o : Operand) (lit : Bool) : Bool :=
  match o.cls with
  | .vec => true
  | .scal => o.num.toNat < 64
  | .tmp => o.num.toNat < 8
  | .queue => o.num.toNat < 8
  | .pred => o.num.toNat < 32
  | .special => Machine.specialNumbers.contains o.num.toNat
  | .imm => o.num != 0x80 || lit
  | .rsvd => false

/-- The operand has one of the permitted classes and a valid number. -/
def Operand.permits (o : Operand) (cs : List Cls) (lit : Bool) : Bool := cs.contains o.cls && o.numOk lit
namespace Machine

def cV : List Cls := [.vec]
def cS : List Cls := [.scal]
def cVS : List Cls := [.vec, .scal]
def cSI : List Cls := [.scal, .imm]
def cVSI : List Cls := [.vec, .scal, .imm]
def cP : List Cls := [.pred]
def cQ : List Cls := [.queue]
def cDst : List Cls := [.vec, .scal, .tmp]
def cSrc : List Cls := [.vec, .scal, .tmp, .imm]

/-- The bits of an immediate in one element of a tag's format (R25): none when a floating format does not hold it exactly. -/
def immElem (tag : Nat) (n : Int) : Option Nat :=
  match fmtOf tag with
  | some f =>
    let r := f.convert false 0 false 0 (Val.ofInt n)
    if r.2 = 0 then some r.1 else none
  | none =>
    if tag = 14 then
      match pow2Exp n.toNat 0 with
      | some k => if 0 < n then some (k + 127).toNat else none
      | none => none
    else some (n % 2 ^ tagWidth tag).toNat

end Machine
/-- An immediate is exact in the element format it is read in (R25). -/
def Operand.immOk (o : Operand) (tag : Nat) : Bool := !o.isImm8 || (Machine.immElem tag o.imm8).isSome

/-- An immediate between two bounds; the literal does not count as one. -/
def Operand.immIn (o : Operand) (lo hi : Int) : Bool := !(o.cls == .imm) || (o.isImm8 && lo ≤ o.imm8 && o.imm8 ≤ hi)

/-- A register range that starts at the operand and does not run past its file's end. -/
def Operand.range (o : Operand) (n : Nat) : Bool :=
  match o.cls with
  | .vec => o.num.toNat + n ≤ 256
  | .scal => o.num.toNat + n ≤ 64
  | _ => true
namespace Machine

/-! ## The form of an extended instruction -/

/-- The verdict of each field's check. -/
structure Form where
  x    : Bool
  d    : Bool
  a    : Bool
  b    : Bool
  c    : Bool
  fmt  : Bool
  g    : Bool
  tok  : Bool
  rnd  : Bool
  sat  : Bool
  sub  : Bool
  minw : Bool
  win  : Bool
  mod  : Bool
deriving DecidableEq, Repr

/-- Guards are for vector destinations (R26); `open_` permits them. -/
def guardOk (w : ExtWord) (open_ : Bool) : Bool := open_ || (w.g == 0 && !w.gn)

/-- The form in which every field is unused and zero; a short-latency instruction carries neither token nor lookahead (R31).
G and GN are free unless the destination is scalar (R26). -/
def bare (w : ExtWord) (long : Bool) : Form where
  x := w.x == 0
  d := w.d.unused
  a := w.a.unused
  b := w.b.unused
  c := w.c.unused
  fmt := w.fmt == 0
  g := guardOk w (!w.d.isScalar)
  tok := long || (w.tok == 0 && w.la == 0)
  rnd := w.rnd == 0
  sat := !w.sat
  sub := w.sub == 0
  minw := w.minw == 0
  win := !w.win
  mod := w.mod == 0

/-- A destination that, when scalar, takes no vector source (R26). -/
def dstOk (w : ExtWord) (cs : List Cls) (srcs : List Operand) : Bool :=
  w.d.permits cs w.lit.isSome && !(w.d.isScalar && srcs.any (fun o => o.cls == .vec))

/-- A source of permitted class whose immediate is exact in `tag`. -/
def srcOk (w : ExtWord) (o : Operand) (cs : List Cls) (tag : Nat) : Bool := o.permits cs w.lit.isSome && o.immOk tag

/-- MINW and WIN where they are permitted (R35). -/
def minwOk (w : ExtWord) : Bool := w.minw.toNat ≤ 5
def winOk (w : ExtWord) : Bool := !w.win || w.minw != 0

/-- MINW and WIN of a matrix instruction (R35). -/
def minwMatrix (w : ExtWord) : Bool := w.minw == 5

/-- Bits of MOD outside `m` are zero. -/
def modIn (w : ExtWord) (m : BitVec 6) : Bool := w.mod &&& (~~~m) == 0
def subIn (w : ExtWord) (m : BitVec 4) : Bool := w.sub &&& (~~~m) == 0
def xIn (w : ExtWord) (m : BitVec 4) : Bool := w.x &&& (~~~m) == 0

end Machine
def ExtWord.tag (w : ExtWord) : Nat := w.fmt.toNat
namespace Machine
def isInt (t : Nat) : Bool := 1 ≤ t && t ≤ 4
def isFp (t : Nat) : Bool := 5 ≤ t && t ≤ 8
def isFloat (t : Nat) : Bool := 5 ≤ t && t ≤ 13

/-- An arithmetic form with `n` sources (1 to 3) of classes 0, 1, 2 and 6, read in FMT (R182, R212). -/
def arith (w : ExtWord) (n : Nat) : Form :=
  let t := w.tag
  { bare w false with
    d := dstOk w cDst ([w.a, w.b, w.c].take n)
    a := srcOk w w.a cSrc t
    b := if 2 ≤ n then srcOk w w.b cSrc t else w.b.unused
    c := if 3 ≤ n then srcOk w w.c cSrc t else w.c.unused }

/-- Integer arithmetic (R187): MOD[0] is the signedness, SAT where permitted. -/
def intForm (w : ExtWord) (n : Nat) (sat : Bool) : Form :=
  { arith w n with fmt := isInt w.tag, mod := modIn w 1, sat := sat || !w.sat }

/-- Logic (R190): .B suffixes, and none where `raw`. -/
def logicForm (w : ExtWord) (n : Nat) (raw : Bool) : Form :=
  { arith w n with fmt := isInt w.tag || (raw && w.fmt == 0) }

/-- Floating arithmetic (R214): RND 0-3 where it rounds, SAT where permitted. -/
def fpForm (w : ExtWord) (n : Nat) (rounds sat : Bool) : Form :=
  { arith w n with fmt := isFp w.tag, rnd := if rounds then w.rnd.toNat ≤ 3 else w.rnd == 0, sat := sat || !w.sat }

/-- FMIN and FMAX carry .NUM in MOD[0]. -/
def fpMinMaxForm (w : ExtWord) : Form := { fpForm w 2 false false with mod := modIn w 1 }

/-- A function of R222. -/
def funcForm (w : ExtWord) (f64 rounds : Bool) : Form :=
  { fpForm w 1 rounds false with fmt := (6 ≤ w.tag && w.tag ≤ 8) || (f64 && w.fmt == 5) }

/-- Carry chains (R189). -/
def carryForm (w : ExtWord) (mad : Bool) : Form :=
  { bare w false with
    d := w.d.permits cV w.lit.isSome && (!mad || w.d.num.toNat % 2 = 0)
    a := srcOk w w.a cSrc 1
    b := srcOk w w.b cSrc 1
    c := if mad then srcOk w w.c cSrc 1 else w.c.permits [.pred, .imm] w.lit.isSome && w.c.immIn 0 1
    fmt := w.fmt == 1
    mod := if mad then (w.mod.getLsbD 5 || w.mod == 0) else !w.mod.getLsbD 5 }

/-- Whether a format holds every finite value of another exactly (R224). -/
def holdsAll (d s : Fmt) : Bool :=
  s.mb ≤ d.mb && decide (d.emin - d.mb ≤ s.emin - s.mb) && (s.decode s.maxBits).le (d.decode d.maxBits)

/-- CVT is narrowing (R224). -/
def narrowing (dt st : Nat) : Bool :=
  match fmtOf dt, fmtOf st with
  | some d, some s => !holdsAll d s
  | _, _ => false

/-- The ratio of element counts of two tags (R224). -/
def cvtRatio (dt st : Nat) : Nat := if tagCount st ≤ tagCount dt then tagCount dt / tagCount st else tagCount st / tagCount dt

/-- CVT, CVTI, CVTF (R224). -/
def cvtForm (w : ExtWord) (dOk sOk : Nat → Bool) (rnd : Bool) (sat : Bool) (mods : BitVec 6) : Form :=
  let dt := w.tag
  let st := w.sub.toNat
  { bare w false with
    d := w.d.permits cV w.lit.isSome
    a := srcOk w w.a cSrc st
    fmt := dOk dt
    sub := sOk st
    rnd := w.rnd.toNat ≤ 4 || (rnd && w.rnd == 5 && narrowing dt st)
    sat := sat || !w.sat
    mod := modIn w mods
    x := !(dOk dt && sOk st) || w.x.toNat < cvtRatio dt st }

/-- The permitted pairs of PACK and UNPK: wide tag, narrow tag (R226). R226 names no field for a pair that is not permitted: the model
reports FMT (60) even where SUB alone holds a tag that no pair has (log entry 17). -/
def packPair (wide narrow : Nat) : Bool :=
  [(5, 6), (6, 7), (6, 8), (7, 9), (7, 10), (7, 12), (7, 13), (8, 9), (8, 10), (8, 12), (8, 13), (9, 11), (10, 11), (12, 11),
   (13, 11), (1, 2), (2, 3), (3, 4)].contains (wide, narrow)

/-- The predicate result P of the cross-lane instructions: MOD[5] names it, MOD[4:0] its number (R231). -/
def modPred (w : ExtWord) : Bool := w.mod.getLsbD 5 || w.mod == 0

/-- A class-6 operand that is not negative (R231). -/
def notNegative (w : ExtWord) (o : Operand) : Bool :=
  if o.isLit then (match w.lit with | some v => !v.getLsbD 63 | none => true) else o.immIn 0 127

/-- A cross-lane form (R231). -/
def xlane (w : ExtWord) : Form := { bare w false with minw := minwOk w, win := winOk w }

/-- Integer and floating reductions (R236). -/
def redForm (w : ExtWord) (scan : Bool) : Form :=
  let fp := isFp w.tag
  { xlane w with
    d := if scan then w.d.permits cV false else w.d.permits cVS false
    a := w.a.permits cV false
    fmt := 1 ≤ w.tag && w.tag ≤ 8
    sub := (w.sub &&& 7).toNat ≤ (if fp then 2 else 5) && (scan || !w.sub.getLsbD 3)
    rnd := if fp && (w.sub &&& 7) == 0 then w.rnd.toNat ≤ 3 else w.rnd == 0
    mod := if fp && (w.sub &&& 7) == 0 then w.mod == 0 else modIn w 1 }

/-! ## Memory forms -/

/-- Base, index and displacement of an address (R118). -/
def baseOk (w : ExtWord) (o : Operand) : Bool := o.permits cS w.lit.isSome || (o.cls == .imm && o.num == 0)
def indexOk (w : ExtWord) (o : Operand) : Bool := o.permits cVS w.lit.isSome || (o.cls == .imm && o.num == 0)

/-- The scale is zero with no index (R118). -/
def scaleOk (w : ExtWord) : Bool := w.b.cls != .imm || (w.x &&& 3) == 0

/-- The address fields of R118 over a long-latency form. -/
def addrForm (w : ExtWord) : Form :=
  { bare w true with
    a := baseOk w w.a
    b := indexOk w w.b
    c := w.c.permits [.imm] w.lit.isSome
    x := scaleOk w && w.x.toNat < 4 }

/-- LD, ST, LDS, STS and LDC (R118, R121). -/
def lsForm (w : ExtWord) (store global const : Bool) : Form :=
  let wide := w.sub &&& 7
  let sx := w.sub.getLsbD 3
  let order := (w.mod >>> 3) &&& 3
  let scope := (w.mod &&& 7).toNat
  { addrForm w with
    d := w.d.permits cVS w.lit.isSome && (wide != 4 || (w.d.num.toNat % 2 = 0 && w.d.range 2))
         && !(w.d.isScalar && w.b.cls == .vec)
    x := scaleOk w && (if global && !const then (w.x >>> 2) != 3 else w.x.toNat < 4)
    sub := wide.toNat ≤ 4 && !(sx && (store || 3 ≤ wide.toNat))
    fmt := if store || w.d.isScalar then w.fmt == 0
           else if 3 ≤ wide.toNat then w.fmt != 15
           else if sx then w.fmt == 1 else w.fmt.toNat ≤ 1
    mod := if const then w.mod == 0
           else !w.mod.getLsbD 5 && (if order == 0 then scope == 0 else order == (if store then 2 else 1) && 1 ≤ scope && scope ≤ 5) }

/-- PREF (R128). -/
def prefForm (w : ExtWord) : Form := { addrForm w with x := scaleOk w && (w.x >>> 2) != 3 }

/-- CCTL (R129). -/
def cctlForm (w : ExtWord) : Form :=
  let all := w.sub.getLsbD 3
  let f := if all then bare w true else addrForm w
  { f with sub := (w.sub &&& 7).toNat ≤ (if all then 2 else 3) }

/-- FENCE (R130). -/
def fenceForm (w : ExtWord) : Form :=
  { bare w true with
    sub := subIn w 3
    mod := if w.sub == 3 then w.mod == 0 else 1 ≤ w.mod.toNat && w.mod.toNat ≤ 5
    g := guardOk w false }

/-- ATOM, ATOMS, RED and REDS (R318, R319). -/
def atomForm (w : ExtWord) (ret red : Bool) : Form :=
  let op := (w.sub &&& 7).toNat
  let fp := isFp w.tag
  let order := ((w.mod >>> 4) &&& 3).toNat
  let scope := ((w.mod >>> 1) &&& 7).toNat
  { bare w true with
    d := if ret then w.d.permits cVS w.lit.isSome && !(w.d.isScalar && (w.b.cls == .vec || w.c.cls == .vec)) else w.d.unused
    a := baseOk w w.a
    b := indexOk w w.b
    c := srcOk w w.c cSrc w.tag
    x := scaleOk w && !w.x.getLsbD 3 && (red || !w.x.getLsbD 2)
    sub := !w.sub.getLsbD 3 && (ret || op ≤ 5) && !(fp && 3 ≤ op && op ≤ 5)
    fmt := w.fmt == 1 || w.fmt == 2 || fp
    mod := !(fp && w.mod.getLsbD 0) && (if order = 0 then scope == 0 else 1 ≤ scope && scope ≤ 5)
           && (ret || order == 0 || order == 2) }

/-- WAKE (R328). -/
def wakeForm (w : ExtWord) : Form :=
  { bare w true with
    d := w.d.unused || w.d.permits cS false
    a := w.a.permits cS false
    b := w.b.permits cSI false && w.b.immIn 0 127
    mod := 1 ≤ w.mod.toNat && w.mod.toNat ≤ 5
    g := guardOk w false }

/-- WAIT.B, WAIT.A, WAIT.F and WAIT.K (R160). -/
def waitForm (w : ExtWord) (kind : Nat) : Form :=
  { bare w true with
    d := if kind = 0 then w.d.unused || w.d.permits cP false else w.d.unused
    a := if kind = 3 then w.a.isLit && (match w.lit with | some v => v.toNat < 65536 | none => false) else w.a.permits cS false
    b := if kind = 0 then w.b.permits cSI false && w.b.immIn 0 1
         else if kind = 1 then w.b.permits cSI w.lit.isSome else w.b.unused
    sub := (w.sub &&& 3).toNat == kind && !w.sub.getLsbD 3 && (kind == 1 || !w.sub.getLsbD 2)
    mod := if kind = 0 then 2 ≤ w.mod.toNat && w.mod.toNat ≤ 5
           else if kind = 1 then 1 ≤ w.mod.toNat && w.mod.toNat ≤ 5 else w.mod == 0
    g := guardOk w false }

/-- The copy commands (R134, R138, R142): `k` descriptor registers and the permitted X pairs. -/
def copyForm (w : ExtWord) (k : Nat) (pairs : List Nat) (red : Bool) : Form :=
  let op := (w.sub &&& 7).toNat
  { bare w true with
    d := w.d.permits cQ false
    a := w.a.permits cS false && w.a.num.toNat + k ≤ 64
    b := w.b.permits cS false || (w.b.cls == .imm && w.b.num == 0)
    x := pairs.contains w.x.toNat
    fmt := if red then w.fmt == 1 || w.fmt == 2 || isFp w.tag else w.fmt == 0
    sub := if red then op ≤ (if isFp w.tag then 2 else 5) && (!w.sub.getLsbD 3 || (!isFp w.tag && (op == 1 || op == 2))) else w.sub == 0
    mod := if red then modIn w 1 else w.mod == 0
    g := guardOk w false }

def pairGG : Nat := 0
def pairGS : Nat := 4
def pairGO : Nat := 8
def pairSG : Nat := 1
def pairSS : Nat := 5
def pairSO : Nat := 9

/-- QFENCE (R150). -/
def qfenceForm (w : ExtWord) : Form :=
  { bare w true with d := w.d.permits cQ false, sub := subIn w 1, g := guardOk w false }

/-- BINIT and BQRY (R157). -/
def binitForm (w : ExtWord) : Form :=
  let drop := w.sub.getLsbD 1
  { bare w true with
    a := w.a.permits cS false
    b := if drop then w.b.unused else w.b.permits cSI w.lit.isSome
    x := !drop || w.x == 0
    sub := subIn w 2
    g := guardOk w false }
def bqryForm (w : ExtWord) : Form :=
  { bare w true with d := w.d.permits cS false, a := w.a.permits cS false, sub := subIn w 7, g := guardOk w false }

/-- BARV and BEXP (R158). -/
def barvForm (w : ExtWord) (vote : Bool) : Form :=
  { bare w true with
    a := w.a.permits cS false
    b := w.b.unused || w.b.permits cSI w.lit.isSome
    sub := w.sub == (if vote then 0 else 1)
    mod := if vote then 1 ≤ w.mod.toNat && w.mod.toNat ≤ 5 else w.mod == 0
    g := guardOk w vote }

/-! ## Matrix, radiance, ray and scheduling forms -/

def matrixForm (w : ExtWord) : Form := { bare w true with minw := minwMatrix w, win := true }

def accFmt (w : ExtWord) (l : List Nat) : Bool := l.contains w.tag

/-- Registers that a row-wise accumulator instruction covers (R257): 64 columns, or 16 of one quarter. -/
def accRegs (tag quarter : Nat) : Nat := (if quarter = 0 then 64 else 16) / tagCount tag

/-- OMFILL and OMREAD (R243): count - 1 in SUB, start in X. -/
def omRowForm (w : ExtWord) (reg : Operand) : Bool := reg.permits cV false && reg.range (w.sub.toNat + 1)
def omFmt (w : ExtWord) : Bool :=
  if w.mod.getLsbD 0 then w.fmt == 0 || w.fmt == 14 else w.fmt == 0 || w.fmt == 4 || (7 ≤ w.tag && w.tag ≤ 13)
def omStart (w : ExtWord) : Bool := if w.mod.getLsbD 0 then w.x == 0 else w.x.toNat + w.sub.toNat + 1 ≤ 16
def omCount (w : ExtWord) : Bool := !w.mod.getLsbD 0 || w.sub == 0

/-- A slot, region, count or quarter operand: class 1 or class 6 (R243), the latter any number (R242). -/
def countOk (w : ExtWord) (o : Operand) : Bool := o.permits cSI w.lit.isSome

/-- A class-6 operand's signed value lies under `n` (R242); a class-1 operand's is checked at execution. -/
def immUnder (w : ExtWord) (o : Operand) (n : Nat) : Bool :=
  if o.isLit then (match w.lit with | some v => v.toNat < n | none => true) else o.immIn 0 (n - 1)

/-- A slot operand: 0 to 63 where it is a class-6 immediate (R242, R243). -/
def slotOk (w : ExtWord) (o : Operand) : Bool := countOk w o && immUnder w o 64

/-- A region operand: 0 to 31 where it is a class-6 immediate (R242, R243). -/
def regionOk (w : ExtWord) (o : Operand) : Bool := countOk w o && immUnder w o 32

/-- MMA's and MMAS's formats (R250). -/
def mmaSub (fmt sub : Nat) (scaled : Bool) : Bool :=
  if scaled then
    if fmt = 11 then sub == 0 || sub == 11 else [0, 9, 10, 12, 13].contains sub
  else if fmt = 7 || fmt = 8 || fmt = 4 then sub == 0 || sub == fmt
  else [0, 9, 10].contains sub
def mmaForm (w : ExtWord) (scaled : Bool) : Form :=
  { matrixForm w with
    a := slotOk w w.a
    b := slotOk w w.b
    c := regionOk w w.c
    fmt := if scaled then accFmt w [9, 10, 11, 12, 13] else accFmt w [4, 7, 8, 9, 10]
    sub := mmaSub w.tag w.sub.toNat scaled
    mod := if scaled then modIn w 4 else modIn w 7 && (w.fmt == 4 || modIn w 4) }

/-- A ray instruction's optional predicate (R294). -/
def texForm (w : ExtWord) (fbOnly : Bool) : Form :=
  { bare w true with
    d := if fbOnly then w.d.unused else w.d.permits cV false && w.d.range 2
    a := w.a.permits cV false
    b := w.b.permits cS false
    c := w.c.permits cVSI w.lit.isSome
    x := if fbOnly then w.x.toNat < 4 else w.x.toNat < 8
    mod := if fbOnly then w.mod == 0 else modPred w }

/-- LAUNCH, TREADY and DRAIN (R373). -/
def launchForm (w : ExtWord) : Form :=
  { bare w true with d := w.d.unused || w.d.permits cS false, a := w.a.permits cS false, g := guardOk w false }

/-- A control transfer's class-6 offset is a multiple of 4 (R198). -/
def offsetOk (w : ExtWord) : Bool :=
  if w.a.isLit then (match w.lit with | some v => v.toNat % 4 == 0 | none => false) else w.a.imm8 % 4 == 0

/-- The static form of every extended instruction. -/
def extForm (i : Instr) : Option (ExtWord × Form) :=
  match i with
  | .bra w => some (w, { bare w false with a := w.a.permits [.imm] w.lit.isSome && offsetOk w })
  | .brx w => some (w, { bare w false with a := w.a.permits cVS w.lit.isSome })
  | .call w => some (w, { bare w false with d := w.d.permits cS false, a := w.a.permits cSI w.lit.isSome && (w.a.cls != .imm || offsetOk w) })
  | .retn w => some (w, { bare w false with a := w.a.permits cS false })
  | .loop w => some (w, { bare w false with d := w.d.permits cS false, a := w.a.permits [.imm] w.lit.isSome && offsetOk w })
  | .rcv w => some (w, { bare w false with
      a := w.a.permits [.imm] w.lit.isSome && w.a.isImm8 && w.a.immIn 0 127
      x := !w.sub.getLsbD 0 || w.x == 0, sub := subIn w 1, g := guardOk w false })
  | .fuse w => some (w, { bare w false with
      d := w.d.unused || w.d.permits cP false
      x := !w.sub.getLsbD 0 || w.x == 0, sub := subIn w 1, g := guardOk w false })
  | .elect w => some (w, { bare w false with d := w.d.permits cP false, minw := minwOk w, win := winOk w })
  | .exit w => some (w, bare w false)
  | .exitSucc w => some (w, { bare w false with a := w.a.permits cS false, sub := w.sub == 1, g := guardOk w false })
  | .iadd w => some (w, intForm w 2 true)
  | .isub w => some (w, intForm w 2 true)
  | .iaddc w => some (w, carryForm w false)
  | .isubb w => some (w, carryForm w false)
  | .imul w => some (w, intForm w 2 true)
  | .imulh w => some (w, intForm w 2 false)
  | .imad w => some (w, intForm w 3 true)
  | .imadc w => some (w, carryForm w true)
  | .idiv w => some (w, intForm w 2 false)
  | .irem w => some (w, intForm w 2 false)
  | .imin w => some (w, intForm w 2 false)
  | .imax w => some (w, intForm w 2 false)
  | .iabs w => some (w, { intForm w 1 true with mod := w.mod == 1 })
  | .ineg w => some (w, intForm w 1 true)
  | .and w => some (w, logicForm w 2 true)
  | .or w => some (w, logicForm w 2 true)
  | .xor w => some (w, logicForm w 2 true)
  | .not w => some (w, logicForm w 1 true)
  | .andn w => some (w, logicForm w 2 true)
  | .blut w => some (w, { logicForm w 3 true with x := true, sub := true })
  | .shl w => some (w, logicForm w 2 false)
  | .shr w => some (w, logicForm w 2 false)
  | .sar w => some (w, logicForm w 2 false)
  | .rot w => some (w, { logicForm w 2 false with sub := subIn w 1 })
  | .fshl w => some (w, logicForm w 3 false)
  | .fshr w => some (w, logicForm w 3 false)
  | .popc w => some (w, logicForm w 1 false)
  | .clz w => some (w, logicForm w 1 false)
  | .ctz w => some (w, logicForm w 1 false)
  | .brev w => some (w, logicForm w 1 false)
  | .bfx w => some (w, { intForm w 2 false with fmt := w.fmt == 1 || w.fmt == 2 })
  | .bfi w => some (w, { logicForm w 3 false with fmt := w.fmt == 1 || w.fmt == 2 })
  | .bswz w => some (w, { arith w 3 with fmt := w.fmt != 15 })
  | .icmp w => some (w, { intForm w 2 false with
      d := dstOk w [.vec, .scal, .tmp, .pred] [w.a, w.b]
      sub := w.sub.toNat ≤ 5
      mod := modIn w 3 && (!w.mod.getLsbD 1 || w.d.cls == .pred) })
  | .pick w => some (w, { arith w 2 with d := w.d.permits cV false, c := w.c.permits cP false })
  | .mov w => some (w, { bare w false with
      d := if w.d.cls == .queue then w.d.numOk false && w.a.cls != .queue
           else dstOk w (if w.a.cls == .queue then cVS else cDst) [w.a]
      a := srcOk w w.a [.vec, .scal, .tmp, .imm, .queue] w.tag
      fmt := w.fmt != 15 && (!(w.a.cls == .vec || w.a.cls == .queue) || w.fmt == 0) })
  | .movl w => some (w, { bare w false with d := w.d.permits cDst false, a := w.a.isLit && w.lit.isSome, x := w.x != 15 })
  | .lea w => some (w, { arith w 3 with fmt := w.fmt == 1, x := w.x.toNat < 4 })
  | .sad w => some (w, { intForm w 3 false with fmt := 2 ≤ w.tag && w.tag ≤ 4 })
  | .pand w => some (w, { bare w false with d := w.d.permits cP false, a := w.a.permits cP false, b := w.b.permits cP false, mod := modIn w 3 })
  | .por w => some (w, { bare w false with d := w.d.permits cP false, a := w.a.permits cP false, b := w.b.permits cP false, mod := modIn w 3 })
  | .pxor w => some (w, { bare w false with d := w.d.permits cP false, a := w.a.permits cP false, b := w.b.permits cP false, mod := modIn w 3 })
  | .pnot w => some (w, { bare w false with d := w.d.permits cP false, a := w.a.permits cP false })
  | .pset w => some (w, { bare w false with d := w.d.permits cP false, a := w.a.permits cVSI w.lit.isSome })
  | .pmov w => some (w, { bare w false with d := w.d.permits cP false, a := w.a.permits cP false })
  | .fadd w => some (w, fpForm w 2 true true)
  | .fsub w => some (w, fpForm w 2 true true)
  | .fmul w => some (w, fpForm w 2 true true)
  | .ffma w => some (w, fpForm w 3 true true)
  | .fmin w => some (w, fpMinMaxForm w)
  | .fmax w => some (w, fpMinMaxForm w)
  | .fset w => some (w, { fpForm w 2 false false with
      d := dstOk w [.vec, .scal, .tmp, .pred] [w.a, w.b]
      sub := subIn w 7
      mod := modIn w 2 && (!w.mod.getLsbD 1 || w.d.cls == .pred) })
  | .fclass w => some (w, { fpForm w 1 false false with
      d := dstOk w [.vec, .scal, .tmp, .pred] [w.a]
      b := if w.d.cls == .pred then
             w.b.permits cSI w.lit.isSome && (if w.b.isLit then (match w.lit with | some v => v.toNat < 1024 | none => false) else w.b.immIn 0 127)
           else w.b.unused
      mod := modIn w 2 && (!w.mod.getLsbD 1 || w.d.cls == .pred) })
  | .frnd w => some (w, fpForm w 1 true false)
  | .fexf w => some (w, funcForm w false false)
  | .fxpi w => some (w, { fpForm w 2 true false with b := srcOk w w.b cSrc (intTagOf w.tag) })
  | .fgetx w => some (w, { fpForm w 1 false false with mod := modIn w 1 })
  | .flog2 w => some (w, funcForm w false false)
  | .frcp w => some (w, funcForm w true false)
  | .frsq w => some (w, funcForm w true false)
  | .fsqrt w => some (w, funcForm w true true)
  | .fsin w => some (w, funcForm w false false)
  | .fcos w => some (w, funcForm w false false)
  | .ftanh w => some (w, funcForm w false false)
  | .fdot2 w => some (w, { fpForm w 3 true true with d := w.d.permits cV false, c := srcOk w w.c cSrc 6, fmt := w.fmt == 7 || w.fmt == 8 })
  | .fdot4 w => some (w, { fpForm w 3 true true with
      d := w.d.permits cV false
      b := srcOk w w.b cSrc (if w.mod.getLsbD 0 then 19 - w.tag else w.tag)
      c := srcOk w w.c cSrc 6
      fmt := w.fmt == 9 || w.fmt == 10
      mod := modIn w 1 })
  | .cvt w => some (w, cvtForm w isFloat isFloat true true 2)
  | .cvti w => some (w, cvtForm w isInt isFloat false false 3)
  | .cvtf w => some (w, cvtForm w isFloat isInt false true 3)
  | .pack w => some (w, { bare w false with
      d := w.d.permits cV false
      a := srcOk w w.a cSrc w.sub.toNat
      b := srcOk w w.b cSrc w.sub.toNat
      fmt := w.fmt != 15 && packPair w.sub.toNat w.tag
      rnd := if isFloat w.tag then w.rnd.toNat ≤ 4 else w.rnd == 0
      sat := true
      sub := true
      mod := modIn w (if isInt w.tag then 1 else 0) })
  | .unpk w => some (w, { bare w false with
      d := w.d.permits cV false && w.d.num.toNat % 2 = 0
      a := srcOk w w.a cSrc w.sub.toNat
      fmt := w.fmt != 15 && packPair w.tag w.sub.toNat
      sub := true
      mod := modIn w (if isInt w.tag then 1 else 0) })
  | .mxq w => some (w, { bare w false with
      d := w.d.permits cV false && w.d.range (if w.fmt == 11 then 2 else 4)
      a := w.a.permits cV false && w.a.range 8
      c := w.c.permits cV false
      x := w.x.toNat < 8
      fmt := 9 ≤ w.tag && w.tag ≤ 13
      sub := w.sub == 7 || w.sub == 8
      rnd := w.rnd.toNat ≤ 4
      sat := true })
  | .mxd w => some (w, { bare w false with
      d := w.d.permits cV false && w.d.range 8
      a := w.a.permits cV false && w.a.range (if w.sub == 11 then 2 else 4)
      c := w.c.permits cV false
      x := w.x.toNat < 8
      fmt := w.fmt == 7 || w.fmt == 8
      sub := 9 ≤ w.sub.toNat && w.sub.toNat ≤ 13
      rnd := w.rnd.toNat ≤ 3 })
  | .tagset w => some (w, { bare w false with
      d := w.d.permits cV false
      a := w.a.permits cV false
      b := if w.mod.getLsbD 0 then w.b.permits cVS false else w.b.unused
      x := if w.mod.getLsbD 0 || w.sub.getLsbD 0 then w.x == 0 else w.x != 15
      sub := subIn w 1 && !(w.mod.getLsbD 0 && w.sub.getLsbD 0)
      mod := modIn w 1 })
  | .shfl w => some (w, { xlane w with
      d := w.d.permits cV false, a := w.a.permits cV false, b := w.b.permits cVSI w.lit.isSome, mod := modPred w })
  | .shflx w => some (w, { xlane w with
      d := w.d.permits cV false, a := w.a.permits cV false
      b := (w.b.permits cVS false && w.b.range ((tagCount w.tag + 3) / 4)) || (w.b.cls == .imm && w.b.num == 0)
      fmt := w.fmt != 15, mod := modPred w })
  | .shup w => some (w, { xlane w with
      d := w.d.permits cV false, a := w.a.permits cV false
      b := w.b.permits cSI w.lit.isSome && notNegative w w.b
      fmt := w.fmt != 15, mod := modPred w })
  | .shdn w => some (w, { xlane w with
      d := w.d.permits cV false, a := w.a.permits cV false
      b := w.b.permits cSI w.lit.isSome && notNegative w w.b
      fmt := w.fmt != 15, sub := w.sub == 1, mod := modPred w })
  | .bcst w => some (w, { xlane w with
      d := w.d.permits cVS false, a := w.a.permits cV false
      b := if w.sub.getLsbD 0 then w.b.unused else w.b.permits cSI w.lit.isSome && notNegative w w.b
      fmt := w.fmt != 15, sub := subIn w 1, mod := modPred w })
  | .vote w => some (w, { xlane w with
      d := if w.sub == 3 then w.d.permits cVS false else w.d.permits cP false
      a := w.a.permits cP false, sub := subIn w 3, mod := modIn w 1 })
  | .matchv w => some (w, { xlane w with
      d := w.d.permits cV false, a := w.a.permits cV false
      fmt := w.fmt == 0 || (2 ≤ w.tag && w.tag ≤ 4), sub := subIn w 1, mod := modPred w })
  | .redw w => some (w, redForm w false)
  | .scanw w => some (w, redForm w true)
  | .mfs w => some (w, { bare w false with
      d := w.d.permits cVS false && !(w.d.isScalar && w.a.num.toNat < 2)
      a := w.a.permits [.special] false })
  | .mts w => some (w, { bare w false with
      d := w.d.permits [.special] false && writableSpecials.contains w.d.num.toNat
      a := w.a.permits cSI w.lit.isSome, g := guardOk w false })
  | .racq w => some (w, { bare w false with a := w.a.permits cSI false && w.a.immIn 1 127, g := guardOk w false })
  | .rrel w => some (w, { bare w false with a := w.a.permits cSI false && w.a.immIn 1 127, g := guardOk w false })
  | .rgive w => some (w, { bare w false with
      d := w.d.unused || w.d.permits cS false
      a := w.a.permits cSI false && w.a.immIn 1 127, x := w.x.toNat < 4, g := guardOk w false })
  | .ld w => some (w, lsForm w false true false)
  | .st w => some (w, lsForm w true true false)
  | .lds w => some (w, lsForm w false false false)
  | .sts w => some (w, lsForm w true false false)
  | .ldc w => some (w, lsForm w false true true)
  | .pref w => some (w, prefForm w)
  | .cctl w => some (w, cctlForm w)
  | .fence w => some (w, fenceForm w)
  | .atom w => some (w, atomForm w true false)
  | .atoms w => some (w, atomForm w true false)
  | .red w => some (w, atomForm w false true)
  | .reds w => some (w, atomForm w false false)
  | .wake w => some (w, wakeForm w)
  | .waitB w => some (w, waitForm w 0)
  | .waitA w => some (w, waitForm w 1)
  | .waitF w => some (w, waitForm w 2)
  | .waitK w => some (w, waitForm w 3)
  | .cpy w => some (w, copyForm w 3 [pairGG, pairGS, pairGO, pairSG, pairSS, pairSO] false)
  | .cpyt w => some (w, copyForm w 2 [pairGS, pairGO, pairSG] false)
  | .cpym w => some (w, copyForm w 4 [pairGS, pairGO] false)
  | .cpyr w => some (w, copyForm w 3 [pairSG, pairGG] true)
  | .cpyg w => some (w, copyForm w 4 [pairGS, pairGO] false)
  | .qfence w => some (w, qfenceForm w)
  | .binit w => some (w, binitForm w)
  | .bqry w => some (w, { bqryForm w with sub := w.sub.getLsbD 0 && !w.sub.getLsbD 3 })
  | .barv w => some (w, barvForm w true)
  | .bexp w => some (w, barvForm w false)
  | .omclaim w => some (w, { matrixForm w with d := w.d.permits cS false, a := countOk w w.a, g := guardOk w false, win := !w.win })
  | .omrel w => some (w, { matrixForm w with a := countOk w w.a, g := guardOk w false, win := !w.win })
  | .omfill w => some (w, { matrixForm w with
      a := omRowForm w w.a, b := slotOk w w.b, fmt := omFmt w, x := omStart w, sub := omCount w, mod := modIn w 1 })
  | .omread w => some (w, { matrixForm w with
      d := omRowForm w w.d, b := slotOk w w.b, fmt := omFmt w, x := omStart w, sub := omCount w, mod := modIn w 1 })
  | .mma w => some (w, mmaForm w false)
  | .mmas w => some (w, mmaForm w true)
  | .accz w => some (w, { matrixForm w with c := regionOk w w.c })
  | .accrd w => some (w, { matrixForm w with
      d := w.d.permits cV false && w.d.range (accRegs w.tag w.x.toNat), c := regionOk w w.c, x := w.x.toNat ≤ 4
      fmt := accFmt w [2, 6, 7, 8, 9, 10], rnd := w.rnd.toNat ≤ 3, sat := true })
  | .accwr w => some (w, { matrixForm w with
      a := w.a.permits cV false && w.a.range (accRegs w.tag w.x.toNat), c := regionOk w w.c, x := w.x.toNat ≤ 4
      fmt := accFmt w [2, 6, 7, 8] })
  | .accst w => some (w, { addrForm w with
      d := w.d.permits cS false, minw := minwMatrix w, win := true, fmt := accFmt w [2, 6, 7, 8, 9, 10], rnd := w.rnd.toNat ≤ 3, sat := true
      sub := (w.sub &&& 7).toNat ≤ 4, g := true })
  | .accsc w => some (w, { matrixForm w with
      a := w.a.permits cVS false, c := regionOk w w.c, x := w.x.toNat < 2, fmt := w.fmt == 6 })
  | .accred w => some (w, { matrixForm w with
      d := w.d.permits cV false, c := regionOk w w.c, x := (w.x &&& 7).toNat ≤ 4, fmt := w.fmt == 2 || w.fmt == 6
      sub := w.sub.toNat < 3 })
  | .rcq w => some (w, { bare w true with
      d := w.d.permits cV false && w.d.range 2, a := w.a.permits cV false && w.a.range 4, x := w.x.toNat < 4 })
  | .rct w => some (w, { bare w true with
      d := w.d.permits cQ false, a := w.a.permits cV false && w.a.range 4, b := w.b.permits cV false && w.b.range 2
      c := w.c.permits cVSI w.lit.isSome, x := w.x.toNat < 4 })
  | .rcgen w => some (w, { bare w true with d := w.d.permits cS false, x := w.x.toNat < 4 })
  | .rccfgLoad w => some (w, { bare w true with d := w.d.permits cS false, a := w.a.permits cS false, x := w.x.toNat < 4 })
  | .rccfgDrop w => some (w, { bare w true with d := w.d.permits cS false, x := w.x.toNat < 4, sub := w.sub == 1 })
  | .rccfgPause w => some (w, { bare w true with d := w.d.permits cS false, x := w.x.toNat < 4, sub := w.sub == 2 })
  | .rccfgRun w => some (w, { bare w true with d := w.d.permits cS false, x := w.x.toNat < 4, sub := w.sub == 3 })
  | .rcstat w => some (w, { bare w true with d := w.d.permits cS false, x := w.x.toNat < 4, sub := w.sub.toNat < 8 })
  | .trace w => some (w, { bare w true with
      d := w.d.permits cV false && w.d.range w.x.toNat, a := w.a.permits cV false && w.a.range 4, b := w.b.permits cS false
      c := w.c.permits cSI w.lit.isSome, x := w.x.toNat ≤ 8, mod := modPred w })
  | .rqinit w => some (w, { bare w true with
      a := w.a.permits cV false && w.a.range 4, b := w.b.permits cS false, c := w.c.permits cSI w.lit.isSome })
  | .rqstep w => some (w, { bare w true with d := w.d.permits cP false })
  | .hitget w => some (w, { bare w true with d := w.d.permits cV false, x := w.x.toNat ≤ 8, sub := w.sub.toNat < 2 })
  | .hitacc w => some (w, { bare w true with mod := modIn w 1 })
  | .hitign w => some (w, bare w true)
  | .vbld w => some (w, { bare w true with d := w.d.permits cS false, a := w.a.permits cS false, x := w.x.toNat < 8 })
  | .tex w => some (w, texForm w false)
  | .texfb w => some (w, texForm w true)
  | .refit w => some (w, { bare w true with d := w.d.permits cS false, a := w.a.permits cS false })
  | .mshemit w => some (w, { bare w true with
      a := w.a.permits cV false && w.a.range 5, c := w.c.permits cVS false, x := w.x.toNat < 8 })
  | .mshdone w => some (w, { bare w true with x := w.x.toNat < 8, g := guardOk w false })
  | .launch w => some (w, launchForm w)
  | .tready w => some (w, { bare w true with a := w.a.permits cS false, sub := subIn w 1, g := guardOk w false })
  | .drain w => some (w, { bare w true with
      a := w.a.permits cS false, b := w.b.permits cSI false && w.b.immIn 0 127, g := guardOk w false })
  | .trap w => some (w, { bare w false with a := w.a.permits cSI w.lit.isSome && (w.a.isLit || w.a.immIn 0 127) })
  | .tret w => some (w, { bare w false with sub := subIn w 1, g := guardOk w false })
  | .bkpt w => some (w, { bare w false with a := w.a.unused || (w.a.permits [.imm] false && w.a.immIn 0 127) })
  | .echk w => some (w, { bare w true with
      d := w.d.permits cS false
      a := if w.sub.getLsbD 0 then w.a.permits cS false else w.a.unused
      b := if w.sub.getLsbD 0 then w.b.permits cS false else w.b.unused
      sub := subIn w 1 })
  | .iclr w => some (w, { bare w true with
      a := if w.sub.getLsbD 0 then w.a.unused else w.a.permits cS false
      b := if w.sub.getLsbD 0 then w.b.unused else w.b.permits cS false
      sub := subIn w 1, g := guardOk w false })
  | _ => none

/-- The checks of an extended form, in the order of their bit positions (R50). -/
def Form.checks (f : Form) (w : ExtWord) : List (Nat × Bool) :=
  [(posX, f.x), (posD, f.d), (posA, f.a), (posB, f.b), (posC, f.c), (posFmt, f.fmt), (posG, f.g || w.g == 0), (posGn, f.g),
   (posTok, f.tok || w.tok == 0), (posLa, f.tok), (posRnd, f.rnd), (posSat, f.sat), (posSub, f.sub), (posMinw, f.minw),
   (posWin, f.win), (posMod, f.mod)]

/-! ## Base forms, NOP and the rest -/

/-- Base forms with an immediate in X that a literal replaces (R36). -/
def baseChecks (dOk aOk xOk : Bool) : List (Nat × Bool) := [(12, dOk), (20, aOk), (28, xOk)]

/-- Every field of an extended NOP but LEN and PCL is zero (R40, R48). R50 does not say that a nonzero D, A, B or C of a NOP, which has no
operands, is an operand-number fault: the model takes each as a field of its own and reports its own position, 12, 20, 32 or 40 (log
entry 17). -/
def nopChecks (w : ExtWord) : List (Nat × Bool) :=
  [(12, w.d.num == 0), (20, w.a.num == 0), (28, w.x == 0), (32, w.b.num == 0), (40, w.c.num == 0), (48, w.d.cls == .vec),
   (51, w.a.cls == .vec), (54, w.b.cls == .vec), (57, w.c.cls == .vec), (60, w.fmt == 0), (64, w.g == 0), (69, !w.gn), (70, w.tok == 0),
   (74, w.la == 0), (78, w.rnd == 0), (81, !w.sat), (82, w.sub == 0), (86, w.minw == 0), (89, !w.win), (90, w.mod == 0)]

/-- A base form whose D and A are vector registers, with no X. -/
def baseVV (w : BaseWord) : List (Nat × Bool) := baseChecks true true (w.x == 0)

/-- Every static check of an instruction, lowest bit first. -/
def staticChecks (i : Instr) : List (Nat × Bool) :=
  match i with
  | .nop w => baseChecks (w.d == 0) (w.a == 0) (w.x == 0)
  | .nopLong (.baseLit w _) => baseChecks (w.d == 0) (w.a == 0) (w.x == 0)
  | .nopLong (.ext w) => nopChecks w
  | .iaddBaseLit w _ => baseVV w
  | .isubBaseLit w _ => baseVV w
  | .andBaseLit w _ => baseVV w
  | .orBaseLit w _ => baseVV w
  | .xorBaseLit w _ => baseVV w
  | .shlBaseLit w _ => baseVV w
  | .shrBaseLit w _ => baseVV w
  | .sarBaseLit w _ => baseVV w
  | .notBase w => baseVV w
  | .popcBase w => baseVV w
  | .clzBase w => baseVV w
  | .ctzBase w => baseVV w
  | .brevBase w => baseVV w
  | .movBase w => baseVV w
  | .movlBaseLit w _ => baseChecks true (w.a == 0) (w.x != 15)
  | .pnotBase w => baseChecks (w.d.toNat < 32) (w.a.toNat < 32) (w.x == 0)
  | .pmovBase w => baseChecks (w.d.toNat < 32) (w.a.toNat < 32) (w.x == 0)
  | i =>
    match extForm i with
    | some (w, f) => f.checks w
    | none => []

/-- The bit position of the first offending field (R48, R50); none when the encoding is legal. -/
def firstOffence (i : Instr) : Option Nat := ((staticChecks i).find? (fun c => !c.2)).map Prod.fst

end Machine

end Sys2Proof
end

