-- ==== Sys2Proof/WellFormed.lean ====
section
/-! DEFINITION. WellFormed.lean: which instruction terms are legal encodings (R48). -/

namespace Sys2Proof

/-- No field of the instruction offends (R48). -/
def WellFormed (i : Instr) : Prop := Machine.firstOffence i = none

/-- The same as a decision. -/
def wellFormed (i : Instr) : Bool := (Machine.firstOffence i).isNone

theorem wellFormed_iff (i : Instr) : wellFormed i = true ↔ WellFormed i := by
  simp [wellFormed, WellFormed]

end Sys2Proof
end

