-- ==== Sys2Proof/Decode.lean ====
section
/-! DEFINITION. Decode.lean: from bytes to an instruction or a named rejection (R19, R21, R46 to R51), and the encoder. -/

namespace Sys2Proof

/-- Why bytes are not an instruction. -/
inductive DecodeError where
  /-- Fewer bytes than LEN asks for (R19). -/
  | truncated
  /-- A reserved encoding: word 0, and the bit that R50 reports. -/
  | illegal (word0 : BitVec 32) (bit : Nat)
deriving DecidableEq, Repr

/-- The two layouts of R21: a base form with its literal, or an extended form. -/
inductive Parts where
  | base (op : BitVec 8) (w : BaseWord) (lit : Option Word)
  | ext (op : BitVec 8) (w : ExtWord)
deriving DecidableEq, Repr

/-! ## Words and bytes -/

/-- Four bytes, the lowest address first, as a word (R2). -/
def wordOfBytes (b0 b1 b2 b3 : Byte) : BitVec 32 := b3 ++ b2 ++ b1 ++ b0

/-- A word's bytes, the lowest address first (R2). -/
def bytesOfWord (w : BitVec 32) : List Byte :=
  [w.extractLsb' 0 8, w.extractLsb' 8 8, w.extractLsb' 16 8, w.extractLsb' 24 8]

/-- Byte length of an instruction by its LEN (R19). -/
def lenBytes (word0 : BitVec 32) : Nat :=
  match (word0.extractLsb' 0 2).toNat with
  | 0 => 4 | 1 => 12 | 2 => 12 | _ => 20

/-- A class code (R24). -/
def Cls.ofCode (c : BitVec 3) : Cls :=
  match c.toNat with
  | 0 => .vec | 1 => .scal | 2 => .tmp | 3 => .queue | 4 => .pred | 5 => .special | 6 => .imm | _ => .rsvd

def Cls.code : Cls → BitVec 3
  | .vec => 0 | .scal => 1 | .tmp => 2 | .queue => 3 | .pred => 4 | .special => 5 | .imm => 6 | .rsvd => 7

/-- Word 0's fields (R21). -/
def baseOfWord (w : BitVec 32) : BaseWord :=
  { pcl := w.extractLsb' 2 2, d := w.extractLsb' 12 8, a := w.extractLsb' 20 8, x := w.extractLsb' 28 4 }

def opOfWord (w : BitVec 32) : BitVec 8 := w.extractLsb' 4 8

/-- Word 0 from its fields. -/
def word0 (len : BitVec 2) (op : BitVec 8) (pcl : BitVec 2) (d a : BitVec 8) (x : BitVec 4) : BitVec 32 :=
  x ++ a ++ d ++ op ++ pcl ++ len

/-- The extended fields (R21). -/
def extOfWords (w0 w1 w2 : BitVec 32) (lit : Option Word) : ExtWord :=
  { pcl := w0.extractLsb' 2 2
    x := w0.extractLsb' 28 4
    d := ⟨Cls.ofCode (w1.extractLsb' 16 3), w0.extractLsb' 12 8⟩
    a := ⟨Cls.ofCode (w1.extractLsb' 19 3), w0.extractLsb' 20 8⟩
    b := ⟨Cls.ofCode (w1.extractLsb' 22 3), w1.extractLsb' 0 8⟩
    c := ⟨Cls.ofCode (w1.extractLsb' 25 3), w1.extractLsb' 8 8⟩
    fmt := w1.extractLsb' 28 4
    mod := w2.extractLsb' 26 6
    win := w2.getLsbD 25
    minw := w2.extractLsb' 22 3
    sub := w2.extractLsb' 18 4
    sat := w2.getLsbD 17
    rnd := w2.extractLsb' 14 3
    la := w2.extractLsb' 10 4
    tok := w2.extractLsb' 6 4
    gn := w2.getLsbD 5
    g := w2.extractLsb' 0 5
    lit := lit }

def word1 (w : ExtWord) : BitVec 32 :=
  w.fmt ++ w.c.cls.code ++ w.b.cls.code ++ w.a.cls.code ++ w.d.cls.code ++ w.c.num ++ w.b.num

def word2 (w : ExtWord) : BitVec 32 :=
  w.mod ++ BitVec.ofBool w.win ++ w.minw ++ w.sub ++ BitVec.ofBool w.sat ++ w.rnd ++ w.la ++ w.tok ++ BitVec.ofBool w.gn ++ w.g

/-- A 64-bit literal from its two words, and back (R19). -/
def litOfWords (lo hi : BitVec 32) : Word := hi ++ lo
def litWords (v : Word) : List (BitVec 32) := [v.extractLsb' 0 32, v.extractLsb' 32 32]

/-! ## SEAM's word (R39) -/

/-- AWAIT and YIELD out of word 0's D, A and X places. -/
def seamOf (w : BaseWord) : SeamWord := { pcl := w.pcl, await := w.a ++ w.d, yield := w.x.getLsbD 0 }
def ofSeam (w : SeamWord) : BaseWord :=
  { pcl := w.pcl, d := w.await.extractLsb' 0 8, a := w.await.extractLsb' 8 8, x := 0#3 ++ BitVec.ofBool w.yield }

/-! ## The opcode map (R46, R47) -/

/-- The instruction of a base form's opcode, with or without a literal (R36). -/
def baseInstr (op : BitVec 8) (w : BaseWord) (lit : Option Word) : Option Instr :=
  match op.toNat, lit with
  | 0x01, none => some (.seam (seamOf w))
  | 0x02, none => some (.nop w)
  | 0x02, some v => some (.nopLong (.baseLit w v))
  | 0x10, none => some (.iaddBase w)
  | 0x10, some v => some (.iaddBaseLit w v)
  | 0x11, none => some (.isubBase w)
  | 0x11, some v => some (.isubBaseLit w v)
  | 0x1E, none => some (.andBase w)
  | 0x1E, some v => some (.andBaseLit w v)
  | 0x1F, none => some (.orBase w)
  | 0x1F, some v => some (.orBaseLit w v)
  | 0x20, none => some (.xorBase w)
  | 0x20, some v => some (.xorBaseLit w v)
  | 0x24, none => some (.shlBase w)
  | 0x24, some v => some (.shlBaseLit w v)
  | 0x25, none => some (.shrBase w)
  | 0x25, some v => some (.shrBaseLit w v)
  | 0x26, none => some (.sarBase w)
  | 0x26, some v => some (.sarBaseLit w v)
  | 0x21, none => some (.notBase w)
  | 0x2A, none => some (.popcBase w)
  | 0x2B, none => some (.clzBase w)
  | 0x2C, none => some (.ctzBase w)
  | 0x2D, none => some (.brevBase w)
  | 0x33, none => some (.movBase w)
  | 0x34, some v => some (.movlBaseLit w v)
  | 0x3A, none => some (.pnotBase w)
  | 0x3C, none => some (.pmovBase w)
  | 0xFF, l => some (.emulationBase w l)
  | _, _ => none

/-- The instruction of an extended form's opcode. -/
def extInstr (op : BitVec 8) (w : ExtWord) : Option Instr :=
  match op.toNat with
  | 0x02 => some (.nopLong (.ext w))
  | 0x03 => some (.bra w)
  | 0x04 => some (.brx w)
  | 0x05 => some (.call w)
  | 0x06 => some (.retn w)
  | 0x07 => some (.loop w)
  | 0x08 => some (.rcv w)
  | 0x09 => some (.fuse w)
  | 0x0A => some (.elect w)
  | 0x0B => if w.sub.getLsbD 0 then some (.exitSucc w) else some (.exit w)
  | 0x10 => some (.iadd w)
  | 0x11 => some (.isub w)
  | 0x12 => some (.iaddc w)
  | 0x13 => some (.isubb w)
  | 0x14 => some (.imul w)
  | 0x15 => some (.imulh w)
  | 0x16 => some (.imad w)
  | 0x17 => some (.imadc w)
  | 0x18 => some (.idiv w)
  | 0x19 => some (.irem w)
  | 0x1A => some (.imin w)
  | 0x1B => some (.imax w)
  | 0x1C => some (.iabs w)
  | 0x1D => some (.ineg w)
  | 0x1E => some (.and w)
  | 0x1F => some (.or w)
  | 0x20 => some (.xor w)
  | 0x21 => some (.not w)
  | 0x22 => some (.andn w)
  | 0x23 => some (.blut w)
  | 0x24 => some (.shl w)
  | 0x25 => some (.shr w)
  | 0x26 => some (.sar w)
  | 0x27 => some (.rot w)
  | 0x28 => some (.fshl w)
  | 0x29 => some (.fshr w)
  | 0x2A => some (.popc w)
  | 0x2B => some (.clz w)
  | 0x2C => some (.ctz w)
  | 0x2D => some (.brev w)
  | 0x2E => some (.bfx w)
  | 0x2F => some (.bfi w)
  | 0x30 => some (.bswz w)
  | 0x31 => some (.icmp w)
  | 0x32 => some (.pick w)
  | 0x33 => some (.mov w)
  | 0x34 => some (.movl w)
  | 0x35 => some (.lea w)
  | 0x36 => some (.sad w)
  | 0x37 => some (.pand w)
  | 0x38 => some (.por w)
  | 0x39 => some (.pxor w)
  | 0x3A => some (.pnot w)
  | 0x3B => some (.pset w)
  | 0x3C => some (.pmov w)
  | 0x40 => some (.fadd w)
  | 0x41 => some (.fsub w)
  | 0x42 => some (.fmul w)
  | 0x43 => some (.ffma w)
  | 0x44 => some (.fmin w)
  | 0x45 => some (.fmax w)
  | 0x46 => some (.fset w)
  | 0x47 => some (.fclass w)
  | 0x48 => some (.frnd w)
  | 0x49 => some (.fexf w)
  | 0x4A => some (.fxpi w)
  | 0x4B => some (.fgetx w)
  | 0x4C => some (.flog2 w)
  | 0x4D => some (.frcp w)
  | 0x4E => some (.frsq w)
  | 0x4F => some (.fsqrt w)
  | 0x50 => some (.fsin w)
  | 0x51 => some (.fcos w)
  | 0x52 => some (.ftanh w)
  | 0x53 => some (.fdot2 w)
  | 0x54 => some (.fdot4 w)
  | 0x68 => some (.cvt w)
  | 0x69 => some (.cvti w)
  | 0x6A => some (.cvtf w)
  | 0x6B => some (.pack w)
  | 0x6C => some (.unpk w)
  | 0x6D => some (.mxq w)
  | 0x6E => some (.mxd w)
  | 0x6F => some (.tagset w)
  | 0x70 => some (.shfl w)
  | 0x71 => some (.shflx w)
  | 0x72 => if w.sub.getLsbD 0 then some (.shdn w) else some (.shup w)
  | 0x73 => some (.bcst w)
  | 0x74 => some (.vote w)
  | 0x75 => some (.matchv w)
  | 0x76 => some (.redw w)
  | 0x77 => some (.scanw w)
  | 0x78 => some (.mfs w)
  | 0x79 => some (.mts w)
  | 0x7A => some (.racq w)
  | 0x7B => some (.rrel w)
  | 0x7C => some (.rgive w)
  | 0x80 => some (.ld w)
  | 0x81 => some (.st w)
  | 0x82 => some (.lds w)
  | 0x83 => some (.sts w)
  | 0x84 => some (.ldc w)
  | 0x85 => some (.pref w)
  | 0x86 => some (.cctl w)
  | 0x87 => some (.fence w)
  | 0x90 => some (.atom w)
  | 0x91 => some (.atoms w)
  | 0x92 => some (.red w)
  | 0x93 => some (.reds w)
  | 0x94 => some (.wake w)
  | 0x95 => if w.sub.getLsbD 1 then (if w.sub.getLsbD 0 then some (.waitK w) else some (.waitF w)) else if w.sub.getLsbD 0 then some (.waitA w) else some (.waitB w)
  | 0x98 => some (.cpy w)
  | 0x99 => some (.cpyt w)
  | 0x9A => some (.cpym w)
  | 0x9B => some (.cpyr w)
  | 0x9C => some (.cpyg w)
  | 0x9D => some (.qfence w)
  | 0x9E => if w.sub.getLsbD 0 then some (.bqry w) else some (.binit w)
  | 0x9F => if w.sub.getLsbD 0 then some (.bexp w) else some (.barv w)
  | 0xA0 => some (.omclaim w)
  | 0xA1 => some (.omrel w)
  | 0xA2 => some (.omfill w)
  | 0xA3 => some (.omread w)
  | 0xA4 => some (.mma w)
  | 0xA5 => some (.mmas w)
  | 0xA6 => some (.accz w)
  | 0xA7 => some (.accrd w)
  | 0xA8 => some (.accwr w)
  | 0xA9 => some (.accst w)
  | 0xAA => some (.accsc w)
  | 0xAB => some (.accred w)
  | 0xB0 => some (.rcq w)
  | 0xB1 => some (.rct w)
  | 0xB2 => some (.rcgen w)
  | 0xB3 => if w.sub.getLsbD 1 then (if w.sub.getLsbD 0 then some (.rccfgRun w) else some (.rccfgPause w)) else if w.sub.getLsbD 0 then some (.rccfgDrop w) else some (.rccfgLoad w)
  | 0xB4 => some (.rcstat w)
  | 0xB8 => some (.trace w)
  | 0xB9 => some (.rqinit w)
  | 0xBA => some (.rqstep w)
  | 0xBB => some (.hitget w)
  | 0xBC => some (.hitacc w)
  | 0xBD => some (.hitign w)
  | 0xBE => some (.vbld w)
  | 0xBF => some (.tex w)
  | 0xC0 => some (.texfb w)
  | 0xC1 => some (.refit w)
  | 0xC2 => some (.mshemit w)
  | 0xC3 => some (.mshdone w)
  | 0xC8 => some (.launch w)
  | 0xC9 => some (.tready w)
  | 0xCA => some (.drain w)
  | 0xD0 => some (.trap w)
  | 0xD1 => some (.tret w)
  | 0xD2 => some (.bkpt w)
  | 0xD3 => some (.echk w)
  | 0xD4 => some (.iclr w)
  | 0xFF => some (.emulation w)
  | _ => none

/-- The layout of every instruction; events have none. -/
def Instr.parts (i : Instr) : Option Parts :=
  match i with
  | .seam w => some (.base 0x01 (ofSeam w) none)
  | .nop w => some (.base 0x02 w none)
  | .nopLong (.baseLit w v) => some (.base 0x02 w (some v))
  | .nopLong (.ext w) => some (.ext 0x02 w)
  | .iaddBase w => some (.base 0x10 w none)
  | .iaddBaseLit w v => some (.base 0x10 w (some v))
  | .isubBase w => some (.base 0x11 w none)
  | .isubBaseLit w v => some (.base 0x11 w (some v))
  | .andBase w => some (.base 0x1E w none)
  | .andBaseLit w v => some (.base 0x1E w (some v))
  | .orBase w => some (.base 0x1F w none)
  | .orBaseLit w v => some (.base 0x1F w (some v))
  | .xorBase w => some (.base 0x20 w none)
  | .xorBaseLit w v => some (.base 0x20 w (some v))
  | .shlBase w => some (.base 0x24 w none)
  | .shlBaseLit w v => some (.base 0x24 w (some v))
  | .shrBase w => some (.base 0x25 w none)
  | .shrBaseLit w v => some (.base 0x25 w (some v))
  | .sarBase w => some (.base 0x26 w none)
  | .sarBaseLit w v => some (.base 0x26 w (some v))
  | .notBase w => some (.base 0x21 w none)
  | .popcBase w => some (.base 0x2A w none)
  | .clzBase w => some (.base 0x2B w none)
  | .ctzBase w => some (.base 0x2C w none)
  | .brevBase w => some (.base 0x2D w none)
  | .movBase w => some (.base 0x33 w none)
  | .movlBaseLit w v => some (.base 0x34 w (some v))
  | .pnotBase w => some (.base 0x3A w none)
  | .pmovBase w => some (.base 0x3C w none)
  | .emulationBase w l => some (.base 0xFF w l)
  | .emulation w => some (.ext 0xFF w)
  | .bra w => some (.ext 0x03 w)
  | .brx w => some (.ext 0x04 w)
  | .call w => some (.ext 0x05 w)
  | .retn w => some (.ext 0x06 w)
  | .loop w => some (.ext 0x07 w)
  | .rcv w => some (.ext 0x08 w)
  | .fuse w => some (.ext 0x09 w)
  | .elect w => some (.ext 0x0A w)
  | .exit w => some (.ext 0x0B w)
  | .exitSucc w => some (.ext 0x0B w)
  | .iadd w => some (.ext 0x10 w)
  | .isub w => some (.ext 0x11 w)
  | .iaddc w => some (.ext 0x12 w)
  | .isubb w => some (.ext 0x13 w)
  | .imul w => some (.ext 0x14 w)
  | .imulh w => some (.ext 0x15 w)
  | .imad w => some (.ext 0x16 w)
  | .imadc w => some (.ext 0x17 w)
  | .idiv w => some (.ext 0x18 w)
  | .irem w => some (.ext 0x19 w)
  | .imin w => some (.ext 0x1A w)
  | .imax w => some (.ext 0x1B w)
  | .iabs w => some (.ext 0x1C w)
  | .ineg w => some (.ext 0x1D w)
  | .and w => some (.ext 0x1E w)
  | .or w => some (.ext 0x1F w)
  | .xor w => some (.ext 0x20 w)
  | .not w => some (.ext 0x21 w)
  | .andn w => some (.ext 0x22 w)
  | .blut w => some (.ext 0x23 w)
  | .shl w => some (.ext 0x24 w)
  | .shr w => some (.ext 0x25 w)
  | .sar w => some (.ext 0x26 w)
  | .rot w => some (.ext 0x27 w)
  | .fshl w => some (.ext 0x28 w)
  | .fshr w => some (.ext 0x29 w)
  | .popc w => some (.ext 0x2A w)
  | .clz w => some (.ext 0x2B w)
  | .ctz w => some (.ext 0x2C w)
  | .brev w => some (.ext 0x2D w)
  | .bfx w => some (.ext 0x2E w)
  | .bfi w => some (.ext 0x2F w)
  | .bswz w => some (.ext 0x30 w)
  | .icmp w => some (.ext 0x31 w)
  | .pick w => some (.ext 0x32 w)
  | .mov w => some (.ext 0x33 w)
  | .movl w => some (.ext 0x34 w)
  | .lea w => some (.ext 0x35 w)
  | .sad w => some (.ext 0x36 w)
  | .pand w => some (.ext 0x37 w)
  | .por w => some (.ext 0x38 w)
  | .pxor w => some (.ext 0x39 w)
  | .pnot w => some (.ext 0x3A w)
  | .pset w => some (.ext 0x3B w)
  | .pmov w => some (.ext 0x3C w)
  | .fadd w => some (.ext 0x40 w)
  | .fsub w => some (.ext 0x41 w)
  | .fmul w => some (.ext 0x42 w)
  | .ffma w => some (.ext 0x43 w)
  | .fmin w => some (.ext 0x44 w)
  | .fmax w => some (.ext 0x45 w)
  | .fset w => some (.ext 0x46 w)
  | .fclass w => some (.ext 0x47 w)
  | .frnd w => some (.ext 0x48 w)
  | .fexf w => some (.ext 0x49 w)
  | .fxpi w => some (.ext 0x4A w)
  | .fgetx w => some (.ext 0x4B w)
  | .flog2 w => some (.ext 0x4C w)
  | .frcp w => some (.ext 0x4D w)
  | .frsq w => some (.ext 0x4E w)
  | .fsqrt w => some (.ext 0x4F w)
  | .fsin w => some (.ext 0x50 w)
  | .fcos w => some (.ext 0x51 w)
  | .ftanh w => some (.ext 0x52 w)
  | .fdot2 w => some (.ext 0x53 w)
  | .fdot4 w => some (.ext 0x54 w)
  | .cvt w => some (.ext 0x68 w)
  | .cvti w => some (.ext 0x69 w)
  | .cvtf w => some (.ext 0x6A w)
  | .pack w => some (.ext 0x6B w)
  | .unpk w => some (.ext 0x6C w)
  | .mxq w => some (.ext 0x6D w)
  | .mxd w => some (.ext 0x6E w)
  | .tagset w => some (.ext 0x6F w)
  | .shfl w => some (.ext 0x70 w)
  | .shflx w => some (.ext 0x71 w)
  | .shup w => some (.ext 0x72 w)
  | .shdn w => some (.ext 0x72 w)
  | .bcst w => some (.ext 0x73 w)
  | .vote w => some (.ext 0x74 w)
  | .matchv w => some (.ext 0x75 w)
  | .redw w => some (.ext 0x76 w)
  | .scanw w => some (.ext 0x77 w)
  | .mfs w => some (.ext 0x78 w)
  | .mts w => some (.ext 0x79 w)
  | .racq w => some (.ext 0x7A w)
  | .rrel w => some (.ext 0x7B w)
  | .rgive w => some (.ext 0x7C w)
  | .ld w => some (.ext 0x80 w)
  | .st w => some (.ext 0x81 w)
  | .lds w => some (.ext 0x82 w)
  | .sts w => some (.ext 0x83 w)
  | .ldc w => some (.ext 0x84 w)
  | .pref w => some (.ext 0x85 w)
  | .cctl w => some (.ext 0x86 w)
  | .fence w => some (.ext 0x87 w)
  | .atom w => some (.ext 0x90 w)
  | .atoms w => some (.ext 0x91 w)
  | .red w => some (.ext 0x92 w)
  | .reds w => some (.ext 0x93 w)
  | .wake w => some (.ext 0x94 w)
  | .waitB w => some (.ext 0x95 w)
  | .waitA w => some (.ext 0x95 w)
  | .waitF w => some (.ext 0x95 w)
  | .waitK w => some (.ext 0x95 w)
  | .cpy w => some (.ext 0x98 w)
  | .cpyt w => some (.ext 0x99 w)
  | .cpym w => some (.ext 0x9A w)
  | .cpyr w => some (.ext 0x9B w)
  | .cpyg w => some (.ext 0x9C w)
  | .qfence w => some (.ext 0x9D w)
  | .binit w => some (.ext 0x9E w)
  | .bqry w => some (.ext 0x9E w)
  | .barv w => some (.ext 0x9F w)
  | .bexp w => some (.ext 0x9F w)
  | .omclaim w => some (.ext 0xA0 w)
  | .omrel w => some (.ext 0xA1 w)
  | .omfill w => some (.ext 0xA2 w)
  | .omread w => some (.ext 0xA3 w)
  | .mma w => some (.ext 0xA4 w)
  | .mmas w => some (.ext 0xA5 w)
  | .accz w => some (.ext 0xA6 w)
  | .accrd w => some (.ext 0xA7 w)
  | .accwr w => some (.ext 0xA8 w)
  | .accst w => some (.ext 0xA9 w)
  | .accsc w => some (.ext 0xAA w)
  | .accred w => some (.ext 0xAB w)
  | .rcq w => some (.ext 0xB0 w)
  | .rct w => some (.ext 0xB1 w)
  | .rcgen w => some (.ext 0xB2 w)
  | .rccfgLoad w => some (.ext 0xB3 w)
  | .rccfgDrop w => some (.ext 0xB3 w)
  | .rccfgPause w => some (.ext 0xB3 w)
  | .rccfgRun w => some (.ext 0xB3 w)
  | .rcstat w => some (.ext 0xB4 w)
  | .trace w => some (.ext 0xB8 w)
  | .rqinit w => some (.ext 0xB9 w)
  | .rqstep w => some (.ext 0xBA w)
  | .hitget w => some (.ext 0xBB w)
  | .hitacc w => some (.ext 0xBC w)
  | .hitign w => some (.ext 0xBD w)
  | .vbld w => some (.ext 0xBE w)
  | .tex w => some (.ext 0xBF w)
  | .texfb w => some (.ext 0xC0 w)
  | .refit w => some (.ext 0xC1 w)
  | .mshemit w => some (.ext 0xC2 w)
  | .mshdone w => some (.ext 0xC3 w)
  | .launch w => some (.ext 0xC8 w)
  | .tready w => some (.ext 0xC9 w)
  | .drain w => some (.ext 0xCA w)
  | .trap w => some (.ext 0xD0 w)
  | .tret w => some (.ext 0xD1 w)
  | .bkpt w => some (.ext 0xD2 w)
  | .echk w => some (.ext 0xD3 w)
  | .iclr w => some (.ext 0xD4 w)
  | _ => none

/-- The extended word whose every field is zero. -/
def blankExt : ExtWord := extOfWords 0 0 0 none

/-- An opcode that R46 assigns. -/
def opAssigned (op : BitVec 8) : Bool :=
  op == 0x01 || (extInstr op blankExt).isSome

/-- The instruction a layout stands for, or the offending bit (R50): a reserved opcode first, then LEN, then the fields. -/
def Parts.instr (p : Parts) : Except Nat Instr :=
  match p with
  | .base op w lit =>
    if !opAssigned op then .error 4
    else match baseInstr op w lit with
      | none => .error 0
      | some i =>
        if op = 0x01 && 2 ≤ w.x.toNat then .error 29
        else match Machine.firstOffence i with
          | some b => .error b
          | none => .ok i
  | .ext op w =>
    if !opAssigned op then .error 4
    else match extInstr op w with
      | none => .error 0
      | some i =>
        match Machine.firstOffence i with
        | some b => .error b
        | none => .ok i

/-- The words of a layout, in address order (R19). -/
def Parts.words (p : Parts) : List (BitVec 32) :=
  match p with
  | .base op w none => [word0 0 op w.pcl w.d w.a w.x]
  | .base op w (some v) => word0 1 op w.pcl w.d w.a w.x :: litWords v
  | .ext op w =>
    match w.lit with
    | none => [word0 2 op w.pcl w.d.num w.a.num w.x, word1 w, word2 w]
    | some v => word0 3 op w.pcl w.d.num w.a.num w.x :: word1 w :: word2 w :: litWords v

/-- The first `n` words of a byte list. -/
def takeWords : Nat → List Byte → Option (List (BitVec 32) × List Byte)
  | 0, bs => some ([], bs)
  | n + 1, b0 :: b1 :: b2 :: b3 :: bs =>
    match takeWords n bs with
    | some (ws, rest) => some (wordOfBytes b0 b1 b2 b3 :: ws, rest)
    | none => none
  | _ + 1, _ => none

/-- The layout that an instruction's words have (R19, R21). -/
def partsOfWords (ws : List (BitVec 32)) : Option Parts :=
  match ws with
  | [w0] => some (.base (opOfWord w0) (baseOfWord w0) none)
  | [w0, w1, w2] =>
    if (w0.extractLsb' 0 2) = 1 then some (.base (opOfWord w0) (baseOfWord w0) (some (litOfWords w1 w2)))
    else some (.ext (opOfWord w0) (extOfWords w0 w1 w2 none))
  | [w0, w1, w2, w3, w4] => some (.ext (opOfWord w0) (extOfWords w0 w1 w2 (some (litOfWords w3 w4))))
  | _ => none

/-- Decode the instruction at the head of a byte list: the instruction and the rest, or the named rejection. -/
def decode (bs : List Byte) : Except DecodeError (Instr × List Byte) :=
  match bs with
  | b0 :: b1 :: b2 :: b3 :: _ =>
    let w0 := wordOfBytes b0 b1 b2 b3
    match takeWords (lenBytes w0 / 4) bs with
    | none => .error .truncated
    | some (ws, rest) =>
      match partsOfWords ws with
      | none => .error .truncated
      | some p =>
        match p.instr with
        | .ok i => .ok (i, rest)
        | .error b => .error (.illegal w0 b)
  | _ => .error .truncated

/-- Bytes of words. -/
def bytesOfWords (ws : List (BitVec 32)) : List Byte := ws.flatMap bytesOfWord

/-- The encoder: the bytes of an instruction, lowest address first; none for an event, which has no words. -/
def encode (i : Instr) : Option (List Byte) := i.parts.map (fun p => bytesOfWords p.words)

/-- Byte length of an instruction (R19); 0 for an event. -/
def Instr.length (i : Instr) : Nat :=
  match i.parts with
  | some p => 4 * p.words.length
  | none => 0

/-- Word 0 of an instruction. -/
def Instr.word0 (i : Instr) : BitVec 32 :=
  match i.parts with
  | some p => p.words.headD 0
  | none => 0

/-- `n` bytes of a number, least significant first. -/
def natBytes : Nat → Nat → List Byte
  | 0, _ => []
  | n + 1, v => BitVec.ofNat 8 v :: natBytes n (v / 256)

/-- The bytes of a table word, zeros above `nbits`, as long as the longest instruction. -/
def tableBytes (nbits w : Nat) : List Byte := natBytes 20 (w % 2 ^ nbits)

/-- The instruction the decoder reads from a table word. -/
def decodeTableWord (nbits w : Nat) : Option Instr :=
  match decode (tableBytes nbits w) with
  | .ok (i, _) => some i
  | .error _ => none

end Sys2Proof
end

