-- ==== Sys2Proof/Machine/Uses.lean ====
section
/-! DEFINITION. Machine/Uses.lean: which registers each instruction names (the interlocks of R32, the block checks of R168), and
which instructions are control transfers and hold instructions (R41). -/

namespace Sys2Proof.Machine

/-- The registers from each operand on that an instruction uses: counts for D, A, B and C, and whether MOD[4:0] names a predicate. -/
structure Spans where
  d : Nat
  a : Nat
  b : Nat
  c : Nat
  p : Bool
deriving DecidableEq, Repr

/-- One register where an optional operand is a scalar, none where it is absent or an immediate. -/
def optS (o : Operand) : Nat := if o.cls == .scal then 1 else 0

/-- Registers of a memory instruction's data (R118). -/
def wide (w : ExtWord) : Nat := if (w.sub &&& 7) == 4 then 2 else 1

/-- The spans of an extended instruction. -/
def extSpans (i : Instr) : Option (ExtWord × Spans) :=
  match i with
  | .bra w => some (w, ⟨0, 0, 0, 0, false⟩)
  | .brx w => some (w, ⟨0, 1, 0, 0, false⟩)
  | .call w => some (w, ⟨1, optS w.a, 0, 0, false⟩)
  | .retn w => some (w, ⟨0, 1, 0, 0, false⟩)
  | .loop w => some (w, ⟨1, 0, 0, 0, false⟩)
  | .rcv w => some (w, ⟨0, optS w.a, 0, 0, false⟩)
  | .fuse w => some (w, ⟨0, 0, 0, 0, false⟩)
  | .elect w => some (w, ⟨0, 0, 0, 0, false⟩)
  | .exit w => some (w, ⟨0, 0, 0, 0, false⟩)
  | .exitSucc w => some (w, ⟨0, 1, 0, 0, false⟩)
  | .iadd w => some (w, ⟨1, 1, 1, 0, false⟩)
  | .isub w => some (w, ⟨1, 1, 1, 0, false⟩)
  | .iaddc w => some (w, ⟨1, 1, 1, 0, true⟩)
  | .isubb w => some (w, ⟨1, 1, 1, 0, true⟩)
  | .imul w => some (w, ⟨1, 1, 1, 0, false⟩)
  | .imulh w => some (w, ⟨1, 1, 1, 0, false⟩)
  | .imad w => some (w, ⟨1, 1, 1, 1, false⟩)
  | .imadc w => some (w, ⟨2, 1, 1, 1, true⟩)
  | .idiv w => some (w, ⟨1, 1, 1, 0, false⟩)
  | .irem w => some (w, ⟨1, 1, 1, 0, false⟩)
  | .imin w => some (w, ⟨1, 1, 1, 0, false⟩)
  | .imax w => some (w, ⟨1, 1, 1, 0, false⟩)
  | .iabs w => some (w, ⟨1, 1, 0, 0, false⟩)
  | .ineg w => some (w, ⟨1, 1, 0, 0, false⟩)
  | .and w => some (w, ⟨1, 1, 1, 0, false⟩)
  | .or w => some (w, ⟨1, 1, 1, 0, false⟩)
  | .xor w => some (w, ⟨1, 1, 1, 0, false⟩)
  | .not w => some (w, ⟨1, 1, 0, 0, false⟩)
  | .andn w => some (w, ⟨1, 1, 1, 0, false⟩)
  | .blut w => some (w, ⟨1, 1, 1, 1, false⟩)
  | .shl w => some (w, ⟨1, 1, 1, 0, false⟩)
  | .shr w => some (w, ⟨1, 1, 1, 0, false⟩)
  | .sar w => some (w, ⟨1, 1, 1, 0, false⟩)
  | .rot w => some (w, ⟨1, 1, 1, 0, false⟩)
  | .fshl w => some (w, ⟨1, 1, 1, 1, false⟩)
  | .fshr w => some (w, ⟨1, 1, 1, 1, false⟩)
  | .popc w => some (w, ⟨1, 1, 0, 0, false⟩)
  | .clz w => some (w, ⟨1, 1, 0, 0, false⟩)
  | .ctz w => some (w, ⟨1, 1, 0, 0, false⟩)
  | .brev w => some (w, ⟨1, 1, 0, 0, false⟩)
  | .bfx w => some (w, ⟨1, 1, 1, 0, false⟩)
  | .bfi w => some (w, ⟨1, 1, 1, 1, false⟩)
  | .bswz w => some (w, ⟨1, 1, 1, 1, false⟩)
  | .icmp w => some (w, ⟨1, 1, 1, 0, false⟩)
  | .pick w => some (w, ⟨1, 1, 1, 0, false⟩)
  | .mov w => some (w, ⟨1, 1, 0, 0, false⟩)
  | .movl w => some (w, ⟨1, 0, 0, 0, false⟩)
  | .lea w => some (w, ⟨1, 1, 1, 1, false⟩)
  | .sad w => some (w, ⟨1, 1, 1, 1, false⟩)
  | .pand w => some (w, ⟨0, 0, 0, 0, false⟩)
  | .por w => some (w, ⟨0, 0, 0, 0, false⟩)
  | .pxor w => some (w, ⟨0, 0, 0, 0, false⟩)
  | .pnot w => some (w, ⟨0, 0, 0, 0, false⟩)
  | .pset w => some (w, ⟨0, 1, 0, 0, false⟩)
  | .pmov w => some (w, ⟨0, 0, 0, 0, false⟩)
  | .fadd w => some (w, ⟨1, 1, 1, 0, false⟩)
  | .fsub w => some (w, ⟨1, 1, 1, 0, false⟩)
  | .fmul w => some (w, ⟨1, 1, 1, 0, false⟩)
  | .ffma w => some (w, ⟨1, 1, 1, 1, false⟩)
  | .fmin w => some (w, ⟨1, 1, 1, 0, false⟩)
  | .fmax w => some (w, ⟨1, 1, 1, 0, false⟩)
  | .fset w => some (w, ⟨1, 1, 1, 0, false⟩)
  | .fclass w => some (w, ⟨1, 1, optS w.b, 0, false⟩)
  | .frnd w => some (w, ⟨1, 1, 0, 0, false⟩)
  | .fexf w => some (w, ⟨1, 1, 0, 0, false⟩)
  | .fxpi w => some (w, ⟨1, 1, 1, 0, false⟩)
  | .fgetx w => some (w, ⟨1, 1, 0, 0, false⟩)
  | .flog2 w => some (w, ⟨1, 1, 0, 0, false⟩)
  | .frcp w => some (w, ⟨1, 1, 0, 0, false⟩)
  | .frsq w => some (w, ⟨1, 1, 0, 0, false⟩)
  | .fsqrt w => some (w, ⟨1, 1, 0, 0, false⟩)
  | .fsin w => some (w, ⟨1, 1, 0, 0, false⟩)
  | .fcos w => some (w, ⟨1, 1, 0, 0, false⟩)
  | .ftanh w => some (w, ⟨1, 1, 0, 0, false⟩)
  | .fdot2 w => some (w, ⟨1, 1, 1, 1, false⟩)
  | .fdot4 w => some (w, ⟨1, 1, 1, 1, false⟩)
  | .cvt w => some (w, ⟨1, 1, 0, 0, false⟩)
  | .cvti w => some (w, ⟨1, 1, 0, 0, false⟩)
  | .cvtf w => some (w, ⟨1, 1, 0, 0, false⟩)
  | .pack w => some (w, ⟨1, 1, 1, 0, false⟩)
  | .unpk w => some (w, ⟨2, 1, 0, 0, false⟩)
  | .mxq w => some (w, ⟨if w.fmt == 11 then 2 else 4, 8, 0, 1, false⟩)
  | .mxd w => some (w, ⟨8, if w.sub == 11 then 2 else 4, 0, 1, false⟩)
  | .tagset w => some (w, ⟨1, 1, if w.mod.getLsbD 0 then 1 else 0, 0, false⟩)
  | .shfl w => some (w, ⟨1, 1, 1, 0, true⟩)
  | .shflx w => some (w, ⟨1, 1, (tagCount w.tag + 3) / 4, 0, true⟩)
  | .shup w => some (w, ⟨1, 1, optS w.b, 0, true⟩)
  | .shdn w => some (w, ⟨1, 1, optS w.b, 0, true⟩)
  | .bcst w => some (w, ⟨1, 1, optS w.b, 0, true⟩)
  | .vote w => some (w, ⟨if w.d.cls == .pred then 0 else 1, 0, 0, 0, false⟩)
  | .matchv w => some (w, ⟨1, 1, 0, 0, true⟩)
  | .redw w => some (w, ⟨1, 1, 0, 0, false⟩)
  | .scanw w => some (w, ⟨1, 1, 0, 0, false⟩)
  | .mfs w => some (w, ⟨1, 0, 0, 0, false⟩)
  | .mts w => some (w, ⟨0, 1, 0, 0, false⟩)
  | .racq w => some (w, ⟨0, optS w.a, 0, 0, false⟩)
  | .rrel w => some (w, ⟨0, optS w.a, 0, 0, false⟩)
  | .rgive w => some (w, ⟨optS w.d, optS w.a, 0, 0, false⟩)
  | .ld w => some (w, ⟨wide w, 1, 1, 0, false⟩)
  | .st w => some (w, ⟨wide w, 1, 1, 0, false⟩)
  | .lds w => some (w, ⟨wide w, 1, 1, 0, false⟩)
  | .sts w => some (w, ⟨wide w, 1, 1, 0, false⟩)
  | .ldc w => some (w, ⟨wide w, 1, 1, 0, false⟩)
  | .pref w => some (w, ⟨0, 1, 1, 0, false⟩)
  | .cctl w => some (w, ⟨0, if w.sub.getLsbD 3 then 0 else 1, if w.sub.getLsbD 3 then 0 else 1, 0, false⟩)
  | .fence w => some (w, ⟨0, 0, 0, 0, false⟩)
  | .atom w => some (w, ⟨1, 1, 1, 1, false⟩)
  | .atoms w => some (w, ⟨1, 1, 1, 1, false⟩)
  | .red w => some (w, ⟨0, 1, 1, 1, false⟩)
  | .reds w => some (w, ⟨0, 1, 1, 1, false⟩)
  | .wake w => some (w, ⟨optS w.d, 1, optS w.b, 0, false⟩)
  | .waitB w => some (w, ⟨0, 1, optS w.b, 0, false⟩)
  | .waitA w => some (w, ⟨0, 1, optS w.b, 0, false⟩)
  | .waitF w => some (w, ⟨0, 1, 0, 0, false⟩)
  | .waitK w => some (w, ⟨0, 0, 0, 0, false⟩)
  | .cpy w => some (w, ⟨0, 3, optS w.b, 0, false⟩)
  | .cpyt w => some (w, ⟨0, 2, optS w.b, 0, false⟩)
  | .cpym w => some (w, ⟨0, 4, optS w.b, 0, false⟩)
  | .cpyr w => some (w, ⟨0, 3, optS w.b, 0, false⟩)
  | .cpyg w => some (w, ⟨0, 4, optS w.b, 0, false⟩)
  | .qfence w => some (w, ⟨0, 0, 0, 0, false⟩)
  | .binit w => some (w, ⟨0, 1, optS w.b, 0, false⟩)
  | .bqry w => some (w, ⟨1, 1, 0, 0, false⟩)
  | .barv w => some (w, ⟨0, 1, optS w.b, 0, false⟩)
  | .bexp w => some (w, ⟨0, 1, optS w.b, 0, false⟩)
  | .omclaim w => some (w, ⟨1, optS w.a, 0, 0, false⟩)
  | .omrel w => some (w, ⟨0, optS w.a, 0, 0, false⟩)
  | .omfill w => some (w, ⟨0, w.sub.toNat + 1, optS w.b, 0, false⟩)
  | .omread w => some (w, ⟨w.sub.toNat + 1, 0, optS w.b, 0, false⟩)
  | .mma w => some (w, ⟨0, optS w.a, optS w.b, optS w.c, false⟩)
  | .mmas w => some (w, ⟨0, optS w.a, optS w.b, optS w.c, false⟩)
  | .accz w => some (w, ⟨0, 0, 0, optS w.c, false⟩)
  | .accrd w => some (w, ⟨accRegs w.tag w.x.toNat, 0, 0, optS w.c, false⟩)
  | .accwr w => some (w, ⟨0, accRegs w.tag w.x.toNat, 0, optS w.c, false⟩)
  | .accst w => some (w, ⟨optS w.d, optS w.a, if w.b.cls == .imm then 0 else 1, 0, false⟩)
  | .accsc w => some (w, ⟨0, 1, 0, optS w.c, false⟩)
  | .accred w => some (w, ⟨1, 0, 0, optS w.c, false⟩)
  | .rcq w => some (w, ⟨2, 3, 0, 0, false⟩)
  | .rct w => some (w, ⟨0, 3, 1, 1, false⟩)
  | .rcgen w => some (w, ⟨1, 0, 0, 0, false⟩)
  | .rccfgLoad w => some (w, ⟨1, 1, 0, 0, false⟩)
  | .rccfgDrop w => some (w, ⟨1, 0, 0, 0, false⟩)
  | .rccfgPause w => some (w, ⟨1, 0, 0, 0, false⟩)
  | .rccfgRun w => some (w, ⟨1, 0, 0, 0, false⟩)
  | .rcstat w => some (w, ⟨1, 0, 0, 0, false⟩)
  | .trace w => some (w, ⟨w.x.toNat, 4, 1, optS w.c, true⟩)
  | .rqinit w => some (w, ⟨0, 4, 1, optS w.c, false⟩)
  | .rqstep w => some (w, ⟨0, 0, 0, 0, false⟩)
  | .hitget w => some (w, ⟨1, 0, 0, 0, false⟩)
  | .hitacc w => some (w, ⟨0, 0, 0, 0, false⟩)
  | .hitign w => some (w, ⟨0, 0, 0, 0, false⟩)
  | .vbld w => some (w, ⟨1, 1, 0, 0, false⟩)
  | .tex w => some (w, ⟨2, 1, 1, 1, true⟩)
  | .texfb w => some (w, ⟨0, 1, 1, 1, false⟩)
  | .refit w => some (w, ⟨1, 1, 0, 0, false⟩)
  | .mshemit w => some (w, ⟨0, 5, 0, 1, false⟩)
  | .mshdone w => some (w, ⟨0, 0, 0, 0, false⟩)
  | .launch w => some (w, ⟨optS w.d, 1, 0, 0, false⟩)
  | .tready w => some (w, ⟨0, 1, 0, 0, false⟩)
  | .drain w => some (w, ⟨0, 1, optS w.b, 0, false⟩)
  | .trap w => some (w, ⟨0, optS w.a, 0, 0, false⟩)
  | .tret w => some (w, ⟨0, 0, 0, 0, false⟩)
  | .bkpt w => some (w, ⟨0, optS w.a, 0, 0, false⟩)
  | .echk w => some (w, ⟨1, if w.sub.getLsbD 0 then 1 else 0, if w.sub.getLsbD 0 then 1 else 0, 0, false⟩)
  | .iclr w => some (w, ⟨0, if w.sub.getLsbD 0 then 0 else 1, if w.sub.getLsbD 0 then 0 else 1, 0, false⟩)
  | _ => none

/-- A vector and a vector base form, a predicate base form. -/
def baseRegs (i : Instr) : Option (BaseWord × Bool) :=
  match i with
  | .iaddBase w => some (w, false)
  | .iaddBaseLit w _ => some (w, false)
  | .isubBase w => some (w, false)
  | .isubBaseLit w _ => some (w, false)
  | .andBase w => some (w, false)
  | .andBaseLit w _ => some (w, false)
  | .orBase w => some (w, false)
  | .orBaseLit w _ => some (w, false)
  | .xorBase w => some (w, false)
  | .xorBaseLit w _ => some (w, false)
  | .shlBase w => some (w, false)
  | .shlBaseLit w _ => some (w, false)
  | .shrBase w => some (w, false)
  | .shrBaseLit w _ => some (w, false)
  | .sarBase w => some (w, false)
  | .sarBaseLit w _ => some (w, false)
  | .notBase w => some (w, false)
  | .popcBase w => some (w, false)
  | .clzBase w => some (w, false)
  | .ctzBase w => some (w, false)
  | .brevBase w => some (w, false)
  | .movBase w => some (w, false)
  | .movlBaseLit w _ => some (w, false)
  | .pnotBase w => some (w, true)
  | .pmovBase w => some (w, true)
  | _ => none

/-- The vector registers an operand covers, first number and count. -/
def operandVecs (o : Operand) (n : Nat) : List (Nat × Nat) := if o.cls == .vec && n != 0 then [(o.num.toNat, n)] else []
def operandScals (o : Operand) (n : Nat) : List (Nat × Nat) := if o.cls == .scal && n != 0 then [(o.num.toNat, n)] else []
def operandPreds (o : Operand) : List Nat := if o.cls == .pred then [o.num.toNat] else []

/-- The vector registers an instruction reads or writes, in the order A, B, C, D (log entry 9). -/
def vecUses (i : Instr) : List (Nat × Nat) :=
  match extSpans i with
  | some (w, n) => operandVecs w.a n.a ++ operandVecs w.b n.b ++ operandVecs w.c n.c ++ operandVecs w.d n.d
  | none =>
    match baseRegs i with
    | some (w, false) => (match i with | .movlBaseLit _ _ => [(w.d.toNat, 1)] | _ => [(w.a.toNat, 1), (w.d.toNat, 1)])
    | _ => []

/-- The scalar registers an instruction reads or writes. -/
def scalUses (i : Instr) : List (Nat × Nat) :=
  match extSpans i with
  | some (w, n) => operandScals w.a n.a ++ operandScals w.b n.b ++ operandScals w.c n.c ++ operandScals w.d n.d
      ++ (match i with | .exitSucc _ => [(0, 8)] | _ => [])
  | none => []

/-- The predicates an instruction reads or writes. -/
def predUses (i : Instr) : List Nat :=
  match extSpans i with
  | some (w, n) => w.g.toNat :: (operandPreds w.a ++ operandPreds w.b ++ operandPreds w.c ++ operandPreds w.d
      ++ (if n.p then [(w.mod &&& 31).toNat] else []))
  | none =>
    match baseRegs i with
    | some (w, true) => [w.a.toNat, w.d.toNat]
    | _ => []

/-- The run temporaries an instruction reads (R43). -/
def tmpReads (i : Instr) : List Nat :=
  match extSpans i with
  | some (w, _) => ([w.a, w.b, w.c].filter (fun o => o.cls == .tmp)).map (fun o => o.num.toNat)
  | none => []

/-- The control transfers (R41), TRET among them (R388). -/
def isTransfer (i : Instr) : Bool :=
  match i with
  | .bra _ => true
  | .brx _ => true
  | .call _ => true
  | .retn _ => true
  | .loop _ => true
  | .exit _ => true
  | .exitSucc _ => true
  | .tret _ => true
  | _ => false

/-- The extended word of an instruction, if it has one that the checks read. -/
def extWord (i : Instr) : Option ExtWord := (extSpans i).map Prod.fst

/-- The hold instructions (R41). -/
def isHold (i : Instr) : Bool :=
  match i with
  | .rcv _ => true
  | .fuse _ => true
  | .waitB _ => true
  | .waitA _ => true
  | .waitF _ => true
  | .waitK _ => true
  | .racq _ => true
  | .omclaim _ => true
  | i =>
    match extWord i with
    | some w => w.minw != 0 || w.d.cls == .queue || w.a.cls == .queue || w.b.cls == .queue || w.c.cls == .queue
    | none => false

/-! ## Lookahead (R34) -/

/-- D is read: the stored data of a store, the base of a scratch store. -/
def readsD (i : Instr) : Bool :=
  match i with
  | .st _ => true
  | .sts _ => true
  | .accst _ => true
  | .loop _ => true
  | _ => false

/-- D is written. -/
def writesD (i : Instr) : Bool :=
  match i with
  | .st _ => false
  | .sts _ => false
  | .accst _ => false
  | _ => true

/-- MOD[4:0] names a predicate that the instruction reads, the carry of IMADC (R189). -/
def readsP (i : Instr) : Bool := match i with | .imadc _ => true | _ => false

/-- MOD[4:0] names a predicate that the instruction writes: carry out (R189), or under MOD[5] the lanes that read nothing. -/
def writesP (i : Instr) (w : ExtWord) : Bool :=
  match i with
  | .iaddc _ => true
  | .isubb _ => true
  | .imadc _ => false
  | _ => w.mod.getLsbD 5

/-- What one operand touches. -/
def operandTouched (o : Operand) (n : Nat) : Touched :=
  ⟨operandVecs o n, operandScals o n, operandPreds o, if o.cls == .tmp && n != 0 then [o.num.toNat] else []⟩

def Touched.join (a b : Touched) : Touched := ⟨a.vecs ++ b.vecs, a.scals ++ b.scals, a.preds ++ b.preds, a.tmps ++ b.tmps⟩

def Touched.none : Touched := ⟨[], [], [], []⟩

/-- The registers that an instruction reads: its sources and its guard. -/
def readsOf (i : Instr) : Touched :=
  match extSpans i with
  | some (w, n) =>
    let src := (operandTouched w.a n.a).join ((operandTouched w.b n.b).join (operandTouched w.c n.c))
    let d := if readsD i then operandTouched w.d n.d else .none
    let p := if n.p && (readsP i || !writesP i w) then [(w.mod &&& 31).toNat] else []
    (src.join d).join ⟨[], match i with | .exitSucc _ => [(0, 8)] | _ => [], w.g.toNat :: p, []⟩
  | none =>
    match baseRegs i with
    | some (w, false) => ⟨match i with | .movlBaseLit _ _ => [] | _ => [(w.a.toNat, 1)], [], [], []⟩
    | some (w, true) => ⟨[], [], [w.a.toNat], []⟩
    | none => .none

/-- The registers that an instruction writes: D, a predicate, and the scale register of MXQ (R227). -/
def writesOf (i : Instr) : Touched :=
  match extSpans i with
  | some (w, n) =>
    let d := if writesD i then operandTouched w.d n.d else .none
    d.join ⟨match i with | .mxq _ => operandVecs w.c n.c | _ => [], [], if n.p && writesP i w then [(w.mod &&& 31).toNat] else [], []⟩
  | none =>
    match baseRegs i with
    | some (w, false) => ⟨[(w.d.toNat, 1)], [], [], []⟩
    | some (w, true) => ⟨[], [], [w.d.toNat], []⟩
    | none => .none

/-- Two runs of registers share a register. -/
def runsMeet (a b : List (Nat × Nat)) : Bool := a.any (fun x => b.any (fun y => x.1 < y.1 + y.2 && y.1 < x.1 + x.2))

def Touched.meets (a b : Touched) : Bool :=
  runsMeet a.vecs b.vecs || runsMeet a.scals b.scals || a.preds.any b.preds.contains || a.tmps.any b.tmps.contains

end Sys2Proof.Machine
end

