-- ==== Sys2Proof/Machine/Ops.lean ====
section
/-! DEFINITION. Machine/Ops.lean: the named operations over the state that every meaning uses: memory bytes, lookups, registers,
lanes that die, error records, taking an exception (R383 to R386), and the issue of one instruction (R41 to R50). -/

namespace Sys2Proof.Machine

/-! ## Time and open values -/

/-- The time after a number of steps, in 1/17 ns: each step takes a time that the spec leaves open (log entry 8). -/
def timeAt : Nat → Nat
  | 0 => 0
  | n + 1 => timeAt n + Config.elapsed n

def State.time (s : State) : Nat := timeAt s.ticks

/-- GTIME counts ns (R13). -/
def State.gtime (s : State) : Word := BitVec.ofNat 64 (s.time / 17)

/-- Arithmetic clocks since a step (R13: 850 MHz). -/
def State.clocksSince (s : State) (tick : Nat) : Nat := (s.time - timeAt tick) / 20

/-- CLK of a core (R13). -/
def State.clk (s : State) (core : Nat) : Word := BitVec.ofNat 64 (s.clocksSince (Tbl.get 0 s.sched.started core))

/-- The throttle level leaves this clock of a core to start runs and matrix operations in (R450). -/
def State.startClock (s : State) (core : Nat) : Bool := decide ((s.clk core).toNat % 8 < 8 - s.mgmt.level)

/-- Use one open value: its index, and the state that has used it (log entry 6). -/
def State.fresh (s : State) : Nat × State := (s.free, { s with free := s.free + 1 })

/-! ## Bytes -/

/-- The number that bytes stand for, least significant first (R2). -/
def bytesNat : List Byte → Nat
  | [] => 0
  | b :: bs => b.toNat + 256 * bytesNat bs

/-- `n` bytes of a table of bytes from an address on; an unlisted byte reads 0 (R71, R108). -/
def readBytes (m : Tbl Byte) (a n : Nat) : List Byte := (List.range n).map (fun i => Tbl.get 0 m (a + i))

/-- Write bytes from an address on. -/
def writeBytes (m : Tbl Byte) (a : Nat) : List Byte → Tbl Byte
  | [] => m
  | b :: bs => writeBytes (Tbl.set 0 m a b) (a + 1) bs

/-- A number of `n` bytes at an address. -/
def readNat (m : Tbl Byte) (a n : Nat) : Nat := bytesNat (readBytes m a n)
def writeNat (m : Tbl Byte) (a n v : Nat) : Tbl Byte := writeBytes m a (natBytes n v)

/-- The sectors of 32 bytes that a range touches (R93). -/
def sectorsOf (a n : Nat) : List Nat := if n = 0 then [] else (List.range ((a + n - 1) / 32 - a / 32 + 1)).map (fun i => a / 32 + i)

/-- The sectors that a set of byte addresses covers in full (R73, R108). -/
def coveredSectors (as : List Nat) : List Nat :=
  ((as.map (fun a => a / 32)).dedup).filter (fun k => (List.range 32).all (fun i => as.contains (32 * k + i)))

/-- The poison of sectors after one write: sectors written with poison gain it, sectors covered in full without it lose it. -/
def poisonAfter (p : List Nat) (cells : List (Nat × Byte)) (bad : List Nat) : List Nat :=
  let good := (coveredSectors (cells.map Prod.fst)).filter (fun k => !bad.contains k)
  bad.foldl NSet.insert (good.foldl NSet.remove p)

def writeCells (m : Tbl Byte) (cells : List (Nat × Byte)) : Tbl Byte := cells.foldl (fun m c => Tbl.set 0 m c.1 c.2) m

/-- One write to local device memory at its home (R73, R96): the bytes, and the sectors whose data carry poison. A codeword that it covers in
full is written without being read, whatever error it held. -/
def State.writeMem (s : State) (cells : List (Nat × Byte)) (bad : List Nat) : State :=
  let covered := coveredSectors (cells.map Prod.fst)
  let whole (line : Nat) : Bool := (List.range 4).all (fun i => covered.contains (4 * line + i))
  { s with mem := writeCells s.mem cells, poison := poisonAfter s.poison cells bad
           rel := { s.rel with rot := s.rel.rot.filter (fun l => !whole l) } }

/-- The canonical form of memory: addresses strictly rise, and no listed byte is the 0 that an unlisted one reads as. -/
def Memory.wf (m : List Host.Cell) : Bool := Tbl.wf 0 m

/-- Bytes from an address on, as cells. -/
def cellsAt (a : Nat) (bs : List Byte) : List (Nat × Byte) := bs.zipIdx.map (fun e => (a + e.2, e.1))

/-- The home die of a local address (R17). -/
def homeOf (pa : Nat) : Nat := pa / 2 ^ 35 % 8

/-- The line's entry in its home L2 (R95). -/
def State.l2Line (s : State) (line : Nat) : L2Line := Tbl.get ⟨[], [], []⟩ s.path.l2 line

/-- A sector lies in a codeword with an uncorrectable error that nothing has found, and no newer value of it stands in the L2 (R73). -/
def State.rotten (s : State) (sec : Nat) : Bool := s.rel.rot.contains (sec / 4) && !(s.l2Line (sec / 4)).dirty.contains sec

/-- What a read of a sector of device memory finds of poison (R73, R74): its bit, or an error that the read detects. -/
def State.bad (s : State) (sec : Nat) : Bool := s.poison.contains sec || s.rotten sec

def State.memNat (s : State) (a n : Nat) : Nat := readNat s.mem a n
def State.memPoisoned (s : State) (a n : Nat) : Bool := (sectorsOf a n).any s.bad

/-! ## Lookups and updates -/

def State.frag? (s : State) (f : Nat) : Option Frag := Tbl.find s.frags f
def State.wave? (s : State) (w : Nat) : Option Wave := Tbl.find s.waves w
def State.team? (s : State) (t : Nat) : Option Team := Tbl.find s.teams t

def State.adjFrag (s : State) (f : Nat) (g : Frag → Frag) : State := { s with frags := Tbl.adjust s.frags f g }
def State.adjWave (s : State) (w : Nat) (g : Wave → Wave) : State := { s with waves := Tbl.adjust s.waves w g }
def State.adjTeam (s : State) (t : Nat) (g : Team → Team) : State := { s with teams := Tbl.adjust s.teams t g }

/-- What an instruction's meaning works on: the current fragment, its wave and its team as they stand at issue, and the
instruction's length in bytes and opcode. -/
structure Ctx where
  f   : Nat
  F   : Frag
  w   : Nat
  W   : Wave
  t   : Nat
  T   : Team
  len : Nat
  op  : Nat
  cls : Nat
deriving DecidableEq, Repr

/-- The instruction that issues, as error records name it. -/
def Ctx.origin (c : Ctx) : Origin := ⟨c.F.pc, c.F.rwc, c.cls⟩
def Pend.origin (p : Pend) : Origin := ⟨p.pc, p.rwc, p.cls⟩

/-- MODE.PCL (R23). -/
def modePCL (m : Word) : Nat := (m.extractLsb' 7 2).toNat

/-- The protection class of an instruction: the fragment's, or its own (R23). -/
def classOf (mode : Word) (pcl : BitVec 2) : Nat := if pcl = 0 then modePCL mode else pcl.toNat

/-- The class field of an instruction (R23). -/
def pclOf (i : Instr) : BitVec 2 := i.word0.extractLsb' 2 2

/-- The context of fragment `f` for instruction `i`. -/
def State.ctxOf (s : State) (f : Nat) (i : Instr) : Option Ctx :=
  match s.frag? f with
  | none => none
  | some F =>
    match s.wave? F.wave with
    | none => none
    | some W =>
      match s.team? W.team with
      | none => none
      | some T => some ⟨f, F, F.wave, W, W.team, T, i.length, (i.word0.extractLsb' 4 8).toNat, classOf F.mode (pclOf i)⟩

/-- The fragments of a wave (R346). -/
def State.fragsOf (s : State) (w : Nat) : List (Nat × Frag) := s.frags.filter (fun e => e.2.wave == w)
def State.wavesOf (s : State) (t : Nat) : List (Nat × Wave) := s.waves.filter (fun e => e.2.team == t)

/-- The lanes a fragment holds: its ACTIVE lanes and those of its own stack entries (R351). -/
def heldLanes (W : Wave) (F : Frag) : Mask :=
  (W.stack.filter (fun e => e.owner == F.num)).foldl (fun m e => m ||| e.lanes) F.active

/-- Runs completed in the wave's quadrant, from which waits are counted (R381). -/
def State.runsIn (s : State) (W : Wave) : Nat := Tbl.get 0 s.sched.runs (W.core * 4 + W.quadrant)

/-- A fragment that becomes READY from another state than RUNNING takes a new age, and its wait begins (R381). -/
def State.readyNow (s : State) (f : Nat) : State :=
  match s.frag? f with
  | none => s
  | some F =>
    let runs := match s.wave? F.wave with | some W => s.runsIn W | none => 0
    { (s.adjFrag f (fun F => { F with fstate := .ready, age := s.nextId, waitFrom := runs, boost := none })) with nextId := s.nextId + 1 }

/-- Die, cluster and core numbers of a core of the package. -/
def dieOf (core : Nat) : Nat := core / 160
def clusterOf (core : Nat) : Nat := core / 4

/-! ## MODE (R170) -/

def modeTC (m : Word) : Bool := m.getLsbD 0
def modeFTZ (m : Word) : Bool := m.getLsbD 1
def modeEnables (m : Word) : FFlags := m.extractLsb' 2 5
def modeFTO (m : Word) : Nat := (m.extractLsb' 9 4).toNat
def modeFlags (m : Word) : FFlags := m.extractLsb' 13 5
def modeSeed (m : Word) : BitVec 32 := m.extractLsb' 32 32

/-- MODE with more sticky flags. -/
def modeOrFlags (m : Word) (f : FFlags) : Word := m ||| (f.zeroExtend 64 <<< 13)

/-- The enables INV to INX cleared (R385). -/
def modeNoTraps (m : Word) : Word := m &&& ~~~(0x7C : Word)

/-- The seed after one more narrowing CVT.SR (R181). -/
def modeNextSeed (m : Word) : Word := (modeSeed m + 1) ++ (m.extractLsb' 0 32)

/-- MODE of a freshly started task: FUSETO, PCLASS and TRAPCTL of the kernel header (R66, R170). -/
def modeOfHeader (h : Header) : Word := BitVec.ofNat 64 (h.fuseto % 16 * 2 ^ 9 + h.pclass % 4 * 2 ^ 7 + h.trapctl % 128)

/-! ## Registers -/

def Wave.reg (W : Wave) (lane n : Nat) : VReg := Tbl.get VReg.zero W.vregs (lane * 256 + n)
def Wave.setReg (W : Wave) (lane n : Nat) (v : VReg) : Wave := { W with vregs := Tbl.set VReg.zero W.vregs (lane * 256 + n) v }

/-- The lanes in which a predicate holds; p0 reads true (R24). -/
def Wave.pred (W : Wave) (p : Nat) : Mask := if p = 0 then BitVec.allOnes 64 else Tbl.get 0 W.preds p

/-- Write a predicate in some lanes; writing p0 has no effect (R24). -/
def Wave.setPred (W : Wave) (p : Nat) (lanes val : Mask) : Wave :=
  if p = 0 then W else { W with preds := Tbl.set 0 W.preds p ((W.pred p &&& ~~~lanes) ||| (val &&& lanes)) }

def Frag.scalar (F : Frag) (n : Nat) : Word := Tbl.get 0 F.scal n
def Frag.setScalar (F : Frag) (n : Nat) (v : Word) : Frag := { F with scal := Tbl.set 0 F.scal n v }
def Frag.setTmp (F : Frag) (n : Nat) (v : Word) : Frag :=
  { F with tmp := Tbl.set 0 F.tmp n v, tmpValid := F.tmpValid ||| BitVec.ofNat 8 (2 ^ n) }

/-- The vector register's block is held by the wave (R163, R165). -/
def Wave.holds (W : Wave) (n : Nat) : Bool := W.held.getLsbD (n / 32)

/-- The lanes that take part: active, live, and let in by the guard (R27, R185). -/
def Ctx.lanes (c : Ctx) (g : BitVec 5) (gn : Bool) : Mask :=
  c.F.active &&& c.W.live &&& (if gn then ~~~(c.W.pred g.toNat) else c.W.pred g.toNat)

def Ctx.part (c : Ctx) (w : ExtWord) : Mask := c.lanes w.g w.gn

/-- Lanes and quads of a wave (R346). -/
def Wave.lanes (W : Wave) : Nat := W.width

/-- The waves of one role of a header, and the lanes of each (R65). -/
def RoleDesc.lanes (r : RoleDesc) : Nat := 4 * 2 ^ r.width

/-- The lanes of the first `n` roles (R347). -/
def rolesLanes (roles : List RoleDesc) (n : Nat) : Nat := (roles.take n).foldl (fun k r => k + r.count * r.lanes) 0

/-- The team lane index of a wave's lane 0 (R347). -/
def tliBase (T : Team) (W : Wave) : Nat := rolesLanes T.task.roles W.role + W.roleIdx * W.width

/-- The role of a team lane index (R347). -/
def roleOfTli (T : Team) (l : Nat) : Nat := ((List.range T.task.roles.length).find? (fun r => l < rolesLanes T.task.roles (r + 1))).getD 0

/-! ## Completion tokens (R32, R33) -/

/-- The outstanding instructions of a wave on token `k` that cover some of the lanes. -/
def State.tokenCount (s : State) (w : Nat) (lanes : Mask) (k : Nat) : Nat :=
  (s.pend.filter (fun e => e.2.wave == w && e.2.tok == k && (e.2.lanes &&& lanes) != 0)).length

/-- Every token of a set is complete in the fragment. -/
def State.tokensDone (s : State) (W : Wave) (F : Frag) (ks : BitVec 16) : Bool :=
  (List.range 16).all (fun k => !ks.getLsbD k || s.tokenCount F.wave (heldLanes W F) k == 0)

/-- Start an outstanding instruction: its record takes a fresh identity, which is its place in issue order. -/
def State.addPend (s : State) (p : Pend) : Nat × State :=
  (s.nextId, { s with pend := Tbl.put s.pend s.nextId p, nextId := s.nextId + 1 })

/-- Some lanes of an outstanding instruction are complete; with the last of them the record goes. -/
def State.completeLanes (s : State) (id : Nat) (lanes : Mask) : State :=
  match Tbl.find s.pend id with
  | none => s
  | some p =>
    let rest := p.lanes &&& ~~~lanes
    if rest = 0 then { s with pend := Tbl.drop s.pend id }
    else { s with pend := Tbl.put s.pend id { p with lanes := rest } }

/-- The whole of an outstanding instruction is complete. -/
def State.completeAll (s : State) (id : Nat) : State := { s with pend := Tbl.drop s.pend id }

/-! ## Results -/

/-- Write a vector register in one lane of a wave. -/
def State.setReg (s : State) (w lane n : Nat) (v : VReg) : State := s.adjWave w (fun W => W.setReg lane n v)

/-- Write a scalar register of every fragment of a wave that holds one of the lanes: the fragment that issued, and the parts
it has split into since (R33). -/
def State.setScalars (s : State) (w : Nat) (lanes : Mask) (n : Nat) (v : Word) : State :=
  match s.wave? w with
  | none => s
  | some W => { s with frags := List.map (fun e => if e.2.wave == w && (heldLanes W e.2 &&& lanes) != 0
                                             then (e.1, e.2.setScalar n v) else e) s.frags }

def State.setPred (s : State) (w p : Nat) (lanes val : Mask) : State := s.adjWave w (fun W => W.setPred p lanes val)

/-! ## Counters (R433) -/

def ctrLAVIOL : Nat := 0
def ctrPREFDROP : Nat := 1
def ctrBARDUP : Nat := 2
def ctrBARLOST : Nat := 3
def ctrTRFAIL : Nat := 4
def ctrEXITDROP : Nat := 5
def ctrREDPSN : Nat := 6
def ctrNODEUNDER : Nat := 7
def ctrRASTDROP : Nat := 8
def ctrPROFLOSS : Nat := 9

/-- Count `n` events of one counter at one place; a counter saturates at 2^48 - 1 (R433). -/
def State.count (s : State) (ctr place n : Nat) : State :=
  let k := place * 16 + ctr
  { s with rel := { s.rel with counters := Tbl.set 0 s.rel.counters k (min (Tbl.get 0 s.rel.counters k + n) (2 ^ 48 - 1)) } }

/-! ## Error records (R411 to R414) -/

/-- LOC of a fragment; a lane where one is concerned (R413). -/
def locOf (T : Team) (W : Wave) (unit : Nat) (lane : Option Nat) : Word :=
  BitVec.ofNat 64 (W.idx % 2 ^ 16 * 2 ^ 48 + T.id % 2 ^ 16 * 2 ^ 32 + unit * 2 ^ 24
    + (match lane with | some l => l % 4 * 2 ^ 19 + (W.col0 + l / 4) % 32 * 2 ^ 14 | none => 0x1F * 2 ^ 14)
    + W.quadrant * 2 ^ 12 + W.core % 160 * 16 + dieOf W.core)

/-- LOC with another column. -/
def setColumn (loc : Word) (col : Nat) : Word := (loc &&& ~~~((0x1F : Word) <<< 14)) ||| (BitVec.ofNat 64 (col % 32) <<< 14)

/-- LOC of a unit with no wave. -/
def locUnit (unit core die : Nat) : Word :=
  BitVec.ofNat 64 (0xFFFF * 2 ^ 48 + 0xFFFF * 2 ^ 32 + unit * 2 ^ 24 + 0x1F * 2 ^ 14 + core * 16 + die)

/-- KIND: the cause of the trap concerned, severity, protection class and code (R413). -/
def kindWord (cause sev cls code : Nat) : BitVec 32 := BitVec.ofNat 32 (cause * 2 ^ 16 + sev * 2 ^ 10 + cls * 2 ^ 8 + code)

/-- Append one record to the ring of 4,096 (R411). -/
def State.log (s : State) (r : ErrorRecord) : State :=
  { s with rel := { s.rel with
      ring := (({ r with time := s.gtime, seqf := r.seqf ||| s.rel.seq.zeroExtend 64 } : ErrorRecord) :: s.rel.ring).take 4096
      seq := s.rel.seq + 1 } }

/-- ADDR is virtual, or physical (R413). -/
def addrVirt : Word := 1 <<< 32
def addrPhys : Word := 1 <<< 33

/-- A record about a fragment. -/
def State.logFrag (s : State) (T : Team) (W : Wave) (F : Frag) (lane : Option Nat) (kind : BitVec 32) (synd : Nat) (pc : Word)
    (lanes : Mask) (addr : Word) (flags : Word) : State :=
  s.log ⟨0, locOf T W 0 lane, pc, F.rwc, kind, BitVec.ofNat 32 synd, lanes, addr, flags⟩

/-- A record about a unit of a die, with no fragment. -/
def State.logUnit (s : State) (unit core die : Nat) (kind : BitVec 32) (synd : Nat) (addr flags : Word) : State :=
  s.log ⟨0, locUnit unit core die, 0, 0, kind, BitVec.ofNat 32 synd, 0, addr, flags⟩

/-! ## Barrier objects (R154 to R156) -/

def barPhase (o : Nat) : Nat := o % 2
def barExpect (o : Nat) : Nat := o / 2 % 2 ^ 13
def barArrived (o : Nat) : Nat := o / 2 ^ 14 % 2 ^ 13
def barPoison (o : Nat) : Nat := o / 2 ^ 27 % 2
def barBytes (o : Nat) : Nat := o / 2 ^ 64 % 2 ^ 48

/-- The 128 bits of a barrier object (R154). -/
def barPack (phase expect arrived poison bytes : Nat) : Nat :=
  phase + expect % 2 ^ 13 * 2 + arrived % 2 ^ 13 * 2 ^ 14 + poison * 2 ^ 27 + bytes % 2 ^ 48 * 2 ^ 64

def Team.barRead (T : Team) (a : Nat) : Nat := readNat T.scratch a 16
def Team.barWrite (T : Team) (a o : Nat) : Team := { T with scratch := writeNat T.scratch a 16 o }
def Team.bar? (T : Team) (a : Nat) : Option Barrier := T.barriers.find? (fun b => b.addr == a)
def Team.adjBar (T : Team) (a : Nat) (g : Barrier → Barrier) : Team :=
  { T with barriers := T.barriers.map (fun b => if b.addr == a then g b else b) }

/-- Test (R156): a phase completes when every expected lane has arrived and no byte is pending. -/
def Team.barTest (T : Team) (a : Nat) : Team :=
  let o := T.barRead a
  if barExpect o ≤ barArrived o && barBytes o == 0 then
    (T.barWrite a (barPack (1 - barPhase o) (barExpect o) 0 (barPoison o) 0)).adjBar a (fun b => { b with arrived := [] })
  else T

/-- A byte count changes by `n`, and POISON may be set (Expect and Signal of R156). -/
def Team.barAdd (T : Team) (a : Nat) (n : Int) (bad : Bool) : Team :=
  let o := T.barRead a
  let bytes := (((barBytes o : Int) + n) % 2 ^ 48).toNat
  (T.barWrite a (barPack (barPhase o) (barExpect o) (barArrived o) (if bad then 1 else barPoison o) bytes)).barTest a

/-- Arrive (R156): of the lanes given those of the object's roles arrive, each once a phase; the number of repeat arrivals. -/
def Team.barArrive (T : Team) (a : Nat) (lanes : List Nat) (n : Int) : Team × Nat :=
  match T.bar? a with
  | none => (T, 0)
  | some b =>
    let mine := lanes.filter (fun l => b.roles.getLsbD (roleOfTli T l))
    let new := mine.filter (fun l => !b.arrived.contains l)
    let o := T.barRead a
    let bytes := (((barBytes o : Int) + n) % 2 ^ 48).toNat
    let T1 := (T.barWrite a (barPack (barPhase o) (barExpect o) (barArrived o + new.length) (barPoison o) bytes)).adjBar a
      (fun b => { b with arrived := new.foldl NSet.insert b.arrived })
    (T1.barTest a, mine.length - new.length)

/-- KillLane on one object (R156). -/
def Team.barKill (T : Team) (a l : Nat) : Team :=
  match T.bar? a with
  | none => T
  | some b =>
    let o := T.barRead a
    let here := b.arrived.contains l
    let T1 := T.barWrite a (barPack (barPhase o) (barExpect o - 1) (if here then barArrived o - 1 else barArrived o) (barPoison o)
      (barBytes o))
    (T1.adjBar a (fun b => { b with arrived := NSet.remove b.arrived l })).barTest a

/-- KillLane of R156 on every registered object whose roles hold the lane's role. -/
def Team.killLane (T : Team) (role l : Nat) : Team :=
  T.barriers.foldl (fun T b => if b.roles.getLsbD role then T.barKill b.addr l else T) T

/-! ## Lanes that end (R202, R208, R357, R404) -/

/-- Work for a die's graph walker (R368). -/
def State.addTask (s : State) (die : Nat) (t : WalkTask) : State :=
  { s with sched := { s.sched with tasks := Tbl.set [] s.sched.tasks die (Tbl.get [] s.sched.tasks die ++ [t]) } }

/-- A later status replaces an earlier one of a grid only where it is worse: CONTEXT-LOST over LOST over OK (R369). -/
def worseStatus (a b : Nat) : Nat := if a = 6 || b = 6 then 6 else if a = 5 || b = 5 then 5 else max a b

/-- A team has ended with a status (R364): the grid counts it, and its last team completes its node (R370). -/
def State.teamEnded (s : State) (t : Nat) (status : Nat) : State :=
  match s.team? t with
  | none => s
  | some T =>
    if Tbl.get 0 s.sched.ended t ≠ 0 then s
    else
      let s1 := { s with
        teams := Tbl.adjust s.teams t (fun T => { T with barriers := [] })
        sched := { s.sched with ended := Tbl.set 0 s.sched.ended t status } }
      match Tbl.find s1.sched.grids T.grid with
      | none => s1
      | some g =>
        let g1 := { g with running := g.running - 1, worst := worseStatus g.worst status }
        let s2 := { s1 with sched := { s1.sched with grids := Tbl.put s1.sched.grids T.grid g1 } }
        if g1.running = 0 && g1.pending.isEmpty then s2.addTask g1.die (.complete g1.node g1.worst (some T.grid)) else s2

/-- A wave ends when no lane of it is live, and a team when every wave has ended (R364). -/
def State.checkEnds (s : State) (t : Nat) : State :=
  match s.team? t with
  | none => s
  | some T => if (s.wavesOf t).all (fun e => e.2.live == 0) then s.teamEnded t (if T.lost then 5 else 2) else s

/-- An outstanding instruction that goes on when every lane it serves is gone: what it does to memory or to a barrier is still due. -/
def Pend.owed (p : Pend) : Bool :=
  match p.kind with
  | .release _ _ => true
  | .fence _ _ => true
  | .store _ _ => true
  | .atom _ _ _ _ _ _ _ => true
  | .omrel _ _ => true
  | .writes => true
  | _ => false

/-- Lanes leave LIVE for good (R208, R404): from every fragment and stack entry of the wave, from the barriers of the team, and
their outstanding results are discarded. -/
def State.dropLanes (s : State) (w : Nat) (lanes : Mask) : State :=
  match s.wave? w with
  | none => s
  | some W =>
    let gone := lanes &&& W.live
    let s1 := s.adjTeam W.team (fun T => gone.lanes.foldl (fun T l => T.killLane W.role (tliBase T W + l)) T)
    let s2 := s1.adjWave w (fun W => { W with
      live := W.live &&& ~~~gone
      stack := (W.stack.map (fun e => { e with lanes := e.lanes &&& ~~~gone })).filter (fun e => e.lanes != 0) })
    { s2 with
      frags := List.map (fun e => if e.2.wave == w then (e.1, { e.2 with active := e.2.active &&& ~~~gone }) else e) s2.frags
      pend := (List.map (fun e => if e.2.wave == w then (e.1, { e.2 with lanes := e.2.lanes &&& ~~~gone }) else e) s2.pend).filter
        (fun e => e.2.lanes != 0 || e.2.owed) }

/-- A fragment stops HALTED with a debug cause (R420). -/
def State.halt (s : State) (f cause : Nat) : State := s.adjFrag f (fun F => { F with fstate := .halted, stop := some cause })

/-- What names the remote requests of an instruction that a fragment reads for before it issues. -/
def heldKey (f : Nat) : Nat := 2 ^ 62 + f

/-- A member that stands at a rendezvous no longer has not arrived; one that nobody has arrived at is discarded (R246). -/
def leaveClasps (ks : Tbl Clasp) (f : Nat) : Tbl Clasp :=
  if ks.any (fun e => e.2.arrived.any (fun m => m.2 == f)) then
    (List.map (fun (e : Nat × Clasp) => (e.1, { e.2 with arrived := e.2.arrived.filter (fun m => m.2 != f) })) ks).filter (fun e => !e.2.arrived.isEmpty)
  else ks

/-- A fragment waits no longer, because it traps, ends or goes elsewhere: its wait-table entry is removed (R327), and so are its places in the
orders of RACQ and OMCLAIM (R167, R255) and at the clasp (R246). -/
def State.forget (s : State) (f : Nat) : State :=
  { s with
    mx := { s.mx with clasps := leaveClasps s.mx.clasps f }
    path := { s.path with waits := List.filter (fun e => e.2.frag != f) s.path.waits
                          remote := List.filter (fun e => e.2.pend != some (heldKey f)) s.path.remote }
    teams := List.map (fun e => (e.1, { e.2 with racq := e.2.racq.erase f
                                                 om := e.2.om.map (fun o => { o with waiters := o.waiters.erase f }) })) s.teams }

/-- A fragment begins a run at `pc` (R38): its temporaries are invalid, and it awaits `await`. -/
def Frag.beginRun (F : Frag) (pc : Word) (await : BitVec 16) (age runs : Nat) : Frag :=
  { F with pc := pc, tmpValid := 0, runCount := 0, await := await, fstate := .ready, meet := none, target := none,
           gathered := false, hold := none, age := age, waitFrom := runs, boost := none }

/-- The same outside any handler: an EXIT that empties ACTIVE discards the trap save (R386). -/
def Frag.runStart (F : Frag) (pc : Word) (await : BitVec 16) (age runs : Nat) : Frag :=
  { F.beginRun pc await age runs with save := none }

/-- The end of a profiled fragment leaves a report for the next PC sample of its entry (R429). -/
def State.noteExit (s : State) (f : Nat) : State :=
  match s.frag? f with
  | none => s
  | some F =>
    match s.wave? F.wave with
    | none => s
    | some W =>
      match s.team? W.team with
      | none => s
      | some T =>
        if s.prof.grids.contains T.grid then
          { s with prof := { s.prof with exits := Tbl.put s.prof.exits (W.core * 512 + W.quadrant * 128 + F.entry) ⟨F.pc, W.idx, F.num, T.id⟩ } }
        else s

/-- A fragment-table entry is used again: a report that it still carries is dropped and counted (R429). -/
def State.reuseEntry (s : State) (core quadrant entry : Nat) : State :=
  let k := core * 512 + quadrant * 128 + entry
  match Tbl.find s.prof.exits k with
  | none => s
  | some _ => { s with prof := { s.prof with exits := Tbl.drop s.prof.exits k } }.count ctrEXITDROP core 1

/-- A fragment whose ACTIVE is empty takes its top own stack entry, or ends (R202, R357). -/
def State.emptied (s : State) (f : Nat) : State :=
  match s.frag? f with
  | none => s
  | some F =>
    if F.active ≠ 0 then s
    else
      let s := s.forget f
      match s.wave? F.wave with
      | none => s
      | some W =>
        match W.stack.find? (fun e => e.owner == F.num) with
        | some e =>
          let s1 := s.adjWave F.wave (fun W => { W with stack := W.stack.erase e })
          { (s1.adjFrag f (fun F => { F.runStart e.pc (if e.parked then 0 else e.await) s.nextId (s.runsIn W) with active := e.lanes }))
            with nextId := s.nextId + 1 }
        | none =>
          let s1 := s.noteExit f
          { s1 with frags := Tbl.drop s1.frags f }.checkEnds W.team

/-- Every fragment of the wave whose ACTIVE has become empty moves on (R357). -/
def State.emptiedAll (s : State) (w : Nat) : State :=
  ((s.fragsOf w).filter (fun e => e.2.active == 0)).foldl (fun s e => s.emptied e.1) s

/-- KillLane (R404) on some lanes of a wave, by a consumer with opcode `op`. -/
def State.killLanes (s : State) (w : Nat) (lanes : Mask) (o : Origin) (op : Nat) (addr : Word) : State :=
  match s.wave? w with
  | none => s
  | some W =>
    let gone := lanes &&& W.live
    match s.team? W.team with
    | none => s
    | some T =>
      let s1 := gone.lanes.foldl (fun s l =>
        match (s.fragsOf w).find? (fun e => (heldLanes W e.2).has l) with
        | some e => s.logFrag T W { e.2 with rwc := o.rwc } (some l) (kindWord 8 1 o.cls 0x05) op o.pc (Mask.one l) addr (if addr = 0 then 0 else addrVirt)
        | none => s) s
      (s1.dropLanes w gone).emptiedAll w

/-- A fragment ends LOST (R357): every lane it held leaves LIVE, and its team will end LOST. -/
def State.endLost (s : State) (f : Nat) : State :=
  match s.frag? f with
  | none => s
  | some F =>
    match s.wave? F.wave with
    | none => s
    | some W =>
      let held := heldLanes W F
      let s1 := (((s.noteExit f).forget f).adjTeam W.team (fun T => { T with lost := true })).dropLanes F.wave held
      ({ s1 with frags := Tbl.drop s1.frags f }.emptiedAll F.wave).checkEnds W.team

/-- LoseFragment (R404): one record of kind 0x06, and the fragment ends LOST. `from_` is the consuming instruction, if it is not a fetch. -/
def State.loseFragment (s : State) (f : Nat) (op : Nat) (addr : Word) (from_ : Option Origin) : State :=
  match s.frag? f with
  | none => s
  | some F =>
    match s.wave? F.wave with
    | none => s
    | some W =>
      match s.team? W.team with
      | none => s
      | some T =>
        let o : Origin := from_.getD ⟨F.pc, F.rwc, 0⟩
        (s.logFrag T W { F with rwc := o.rwc } none (kindWord 0 1 o.cls 0x06) op o.pc (heldLanes W F) addr (if addr = 0 then 0 else addrVirt)).endLost f

/-! ## Splitting a fragment (R352, R356) -/

/-- The lowest fragment number that no fragment of the wave holds (R352). -/
def State.freeNum (s : State) (w : Nat) : Option Nat :=
  (List.range 16).find? (fun n => (s.fragsOf w).all (fun e => e.2.num != n))

/-- A team holds its resources: it is live, or parked with an image that is not complete (R389, R394). -/
def State.occupies (s : State) (T : Team) : Bool :=
  match T.where_ with
  | .live => true
  | .slot => false
  | .image k => match Tbl.find s.saves.images k with | some m => m.kind == .park && !m.complete | none => false

/-- A swap of the core is under way: nothing issues there (R392). -/
def State.swapping (s : State) (core : Nat) : Bool := s.saves.swaps.any (fun e => e.2.since.isSome && e.2.cores.contains core)

/-- A team executes on a core now: it is resident, and no swap of the core is under way (R354, R392). -/
def State.resides (s : State) (t core : Nat) : Bool :=
  match s.team? t with
  | some T => T.where_ == .live && !s.swapping core
  | none => false

/-- A team's context on its cores stands there, not in a shadow slot or a complete image (R263). -/
def State.onCores (s : State) (t : Nat) : Bool := match s.team? t with | some T => s.occupies T | none => false

/-- Fragments in the fragment table of a quadrant: those of its resident waves (R349). -/
def State.inQuadrant (s : State) (core quadrant : Nat) : List (Nat × Frag) :=
  s.frags.filter (fun e => match s.wave? e.2.wave with
    | some W => W.core == core && W.quadrant == quadrant && (match s.team? W.team with | some T => s.occupies T | none => false)
    | none => false)

/-- A free entry of the quadrant's fragment table: which one the spec leaves open (log entry 10). -/
def State.freeEntry (s : State) (core quadrant : Nat) : Option Nat :=
  let used := (s.inQuadrant core quadrant).map (fun e => e.2.entry)
  let free := (List.range 128).filter (fun n => !used.contains n)
  if (s.inQuadrant core quadrant).length < 128 then some (free.getD (Config.freeNat s.free % free.length) 0) else none

/-- A split is possible: the wave has fewer than 16 fragments and the table a free entry (R201, R352). -/
def State.room (s : State) (w : Nat) (W : Wave) : Bool :=
  (s.fragsOf w).length < 16 && (s.inQuadrant W.core W.quadrant).length < 128

/-- Some ACTIVE lanes of a fragment leave as a new fragment, which copies what R169 and R201 say. -/
def State.splitOff (s : State) (f : Nat) (lanes : Mask) : Option (Nat × State) :=
  match s.frag? f with
  | none => none
  | some F =>
    match s.wave? F.wave with
    | none => none
    | some W =>
      match s.freeNum F.wave, s.freeEntry W.core W.quadrant with
      | some n, some e =>
        if s.room F.wave W then
          let N : Frag := { F with num := n, entry := e, parent := some F.num, active := lanes, age := s.nextId, waitFrom := s.runsIn W,
                                   boost := none, fstate := .ready, rwc := F.rwc + 1, meet := none }
          let s1 := (s.reuseEntry W.core W.quadrant e).adjFrag f (fun F => { F with active := F.active &&& ~~~lanes })
          some (s.nextId, { s1 with frags := Tbl.put s1.frags s.nextId N, nextId := s.nextId + 1, free := s.free + 1 })
        else none
      | _, _ => none

/-! ## Errors at rest (R73 to R75, R344) -/

/-- The home holds reads of a line while a release at DEVICE or SYSTEM scope has invalidations outstanding (R340). -/
def State.homeHolds (s : State) (line : Nat) : Bool :=
  s.path.writes.any (fun e => e.2.region == .loc && e.2.line == line && e.2.release && 4 ≤ e.2.scope && e.2.accepted &&
    !(e.2.invals.isEmpty && e.2.acks.isEmpty))

/-- A waiting fragment reads poison: it is lost at its WAIT.A. -/
def State.loseWaiter (s : State) (w : Waiter) : State :=
  match s.frag? w.frag with
  | none => s
  | some F => s.loseFragment w.frag 0x95 w.va (some ⟨F.pc, F.rwc, w.cls⟩)

/-- WAIT.A's recheck after a write to some sectors: a changed value completes the wait, poison loses the fragment (R326). Where the home holds
reads of the line it comes once the hold is over (R340). -/
def State.recheck (s : State) (secs : List Nat) : State :=
  (s.path.waits.filter (fun e => e.2.listed && !e.2.done && secs.contains (e.2.pa / 32) && !s.homeHolds (e.2.pa / 128))).foldl (fun s e =>
    if s.memPoisoned e.2.pa 4 then
      { s with path := { s.path with waits := Tbl.drop s.path.waits e.1 } }.loseWaiter e.2
    else if s.memNat e.2.pa (if e.2.wide then 8 else 4) != e.2.value.toNat then
      { s with path := { s.path with waits := Tbl.put s.path.waits e.1 { e.2 with done := true, listed := false } } }
    else s) s

/-- The sectors of a line. -/
def lineSecs (line : Nat) : List Nat := (List.range 4).map (fun i => 4 * line + i)

/-- An uncorrectable error is found in a codeword: the sectors that device memory holds the latest value of have unspecified bytes and are
poisoned, a write by no agent (R73, R74, R344); sectors that are dirty in the L2 are newer and stay (R75). No RDC keeps an older copy. -/
def State.spoil (s : State) (line : Nat) : State :=
  let lost := (lineSecs line).filter (fun k => !(s.l2Line line).dirty.contains k)
  let cells := lost.flatMap (fun k => (List.range 32).map (fun i => (32 * k + i, Config.freeByte s.free (32 * (k % 4) + i))))
  ({ s with mem := writeCells s.mem cells, poison := lost.foldl NSet.insert s.poison, free := s.free + 1
            rel := { s.rel with rot := s.rel.rot.filter (fun l => l != line) }
            path := { s.path with rdc := List.map (fun (d : Nat × Tbl RdcLine) => (d.1, Tbl.adjust d.2 line (fun e =>
              { e with sectors := List.filter (fun x => !lost.contains x.1) e.sectors }))) s.path.rdc } }).recheck lost

/-- The codeword's error is found and logged once; a die whose repair is exhausted names the page to retire, which is open (R75, R414). -/
def State.findError (s : State) (line : Nat) : State :=
  let die := homeOf (128 * line)
  let mask := ((lineSecs line).filter (fun k => !(s.l2Line line).dirty.contains k)).foldl (fun m k => m + 2 ^ (k % 16)) 0
  let s1 := (s.spoil line).logUnit 2 0xFF die (kindWord 0 1 0 0x02) mask (BitVec.ofNat 64 (128 * line)) addrPhys
  if Config.freeBool s1.free then
    { s1 with free := s1.free + 1 }.logUnit 2 0xFF die (kindWord 0 0 0 0x0F) 0 (BitVec.ofNat 64 (128 * line / 65536 * 65536)) addrPhys
  else { s1 with free := s1.free + 1 }

/-- Reads of some sectors at their homes find what errors their codewords hold. -/
def State.findErrors (s : State) (secs : List Nat) : State :=
  if s.rel.rot = [] then s else ((secs.filter s.rotten).map (· / 4)).dedup.foldl State.findError s

/-- The same for a range of local device memory. -/
def State.findIn (s : State) (a n : Nat) : State := s.findErrors (sectorsOf a n)

/-- The record of a walk that has read a poisoned entry (R92), which its read may have found. -/
def State.foundEntry (s : State) (pa : Nat) : State := s.findErrors [pa / 32]

/-! ## Taking an exception (R383 to R386) -/

/-- A subcode in [63:56] and a value in [55:0]: the TVAL of most causes. -/
def tvalSub (sub : Nat) (v : Nat) : Word := BitVec.ofNat 64 (sub * 2 ^ 56 + v % 2 ^ 56)

/-- A trap of the whole fragment at its instruction; TMASK holds every active lane. -/
def trapWhole (c : Ctx) (cause : Nat) (tval : Word) : Trap := ⟨cause, tval, c.F.active, none, false, []⟩

/-- Handler entry (R385): the trap registers, the trap save, MODE's enables, the PC. -/
def Frag.enter (F : Frag) (t : Trap) (handler : Word) (age runs : Nat) : Frag :=
  { F with
    tcause := BitVec.ofNat 64 t.cause, tpc := F.pc, tval := t.tval, tmask := t.mask
    save := some ⟨F.tmp, F.tmpValid, F.runCount, F.mode, F.target⟩
    tmpValid := 0, runCount := 0, mode := modeNoTraps F.mode
    pc := handler, await := 0, fstate := .ready, meet := none, target := none, gathered := false, hold := none
    age := age, waitFrom := runs, boost := none }

/-- The records of walks that have read a poisoned entry (R92), one for each. -/
def State.logWalks (s : State) (T : Team) (W : Wave) (F : Frag) (op : Word) (mask : Mask) (walks : List (Nat × Nat)) : State :=
  walks.foldl (fun s e => (s.foundEntry e.2).logFrag T W F none (kindWord 0x06 1 0 0x14) e.1 op mask (BitVec.ofNat 64 e.2) addrPhys) s

/-- The trap that a fragment takes with its PC where TPC is to be: into its handler, HALTED as a Double Fault, or LOST without a
handler (R385, R386). -/
def State.takeTrap (s : State) (f : Nat) (t : Trap) (op : Word) : State :=
  match s.frag? f with
  | none => s
  | some F =>
    match s.wave? F.wave with
    | none => s
    | some W =>
      match s.team? W.team with
      | none => s
      | some T =>
        let s := (s.logWalks T W F op t.mask t.walk).forget f
        if F.save.isSome then
          (s.logFrag T W F none (kindWord 0x18 1 0 0x0C) t.cause op t.mask 0 0).adjFrag f
            (fun F => { F with fstate := .halted, stop := some 0x18, meet := none })
        else if T.task.handler = 0 then
          (s.logFrag T W F none (kindWord t.cause 2 0 0x0E) (t.tval.toNat % 2 ^ 32) F.pc t.mask 0 0).endLost f
        else
          { (s.adjFrag f (fun F => F.enter t (T.task.entry + T.task.handler.signExtend 64) s.nextId (s.runsIn W))) with nextId := s.nextId + 1 }

/-- The fragment passes its instruction (R19, R41, R425); a late mark for it leaves the set (R361). -/
def Frag.pass (F : Frag) (len : Nat) : Frag :=
  { F with pc := F.pc + BitVec.ofNat 64 len, runCount := F.runCount + 1, rwc := F.rwc + 1, gathered := false
           late := F.late.filter (fun a => a.1 != F.pc) }

/-- The instruction retires. -/
def State.retire (s : State) (f len : Nat) : State := s.adjFrag f (fun F => F.pass len)

/-- A trap of the whole fragment, at its instruction or after it. -/
def State.trapFrag (s : State) (f : Nat) (t : Trap) (len : Nat) : State :=
  match s.frag? f with
  | none => s
  | some F => if t.after then (s.retire f len).takeTrap f t F.pc else s.takeTrap f t F.pc

/-- The condition of a hold instruction is false: the fragment is BLOCKED and lets its sequencer go (R41, R354). -/
def State.unselect (s : State) (f : Nat) : State :=
  s.adjFrag f (fun F => { F with fstate := .blocked })

/-- What follows from the end of a body. A trap in only some lanes is taken by the whole fragment here (R356). -/
def Ctx.finish (c : Ctx) (s : State) (r : Res) : State :=
  match r with
  | .done s' => s'.retire c.f c.len
  | .keep s' => s'
  | .trap t => s.trapFrag c.f t c.len
  | .stall => s
  | .unselect => s.unselect c.f

/-- Run a body. Where it raises a trap in only some of the fragment's lanes and there is room, those lanes leave as the trapping
fragment and the others perform the instruction (R91, R356). -/
def Ctx.run (c : Ctx) (i : Instr) (body : Ctx → State → Res) (s : State) : State :=
  match body c s with
  | .trap t =>
    match t.lanes with
    | none => c.finish s (.trap t)
    | some m =>
      if c.F.active &&& ~~~m = 0 then c.finish s (.trap t)
      else
        match s.splitOff c.f m with
        | none => c.finish s (.trap t)
        | some (n, s1) =>
          let s2 := if t.after then ((s1.adjFrag n (fun F => { F with pc := F.pc + BitVec.ofNat 64 c.len, runCount := F.runCount + 1 })).takeTrap
                      n t c.F.pc) else s1.takeTrap n t c.F.pc
          match s2.ctxOf c.f i with
          | none => s2
          | some c2 =>
            match body c2 s2 with
            | .stall => s
            | .unselect => s
            | r => c2.finish s2 r
  | r => c.finish s r

/-! ## The checks before an instruction's effect (R48 to R50) -/

/-- Illegal Instruction at a bit position of an instruction (R50). -/
def illegal (c : Ctx) (word0 : BitVec 32) (bit : Nat) : Trap := trapWhole c 0x01 (BitVec.ofNat 64 (word0.toNat * 2 ^ 32 + bit % 256))

/-- Illegal Run (R44). -/
def illegalRun (c : Ctx) (sub : Nat) (addr : Word) : Trap := trapWhole c 0x02 (tvalSub sub addr.toNat)

/-- The lanes that a MINW code stands for (R35). -/
def minwLanes (m : BitVec 3) : Nat := if m = 0 then 0 else 4 * 2 ^ (m.toNat - 1)

/-- The segment width of an instruction with lane segments (R230): MINW's, or the wave's width. -/
def segWidth (W : Wave) (w : ExtWord) : Nat := if w.minw = 0 then W.width else minwLanes w.minw

/-- The checks of encodings that depend on the issuing wave: TRACE in a shader wave (R297), a MINW wider than the wave (R35), a scalar result of
less than the whole wave (R231). -/
def waveOffence (c : Ctx) (i : Instr) : Option Nat :=
  match extWord i with
  | none => none
  | some w =>
    let scalD := match i with
      | .bcst _ => w.d.cls == .scal
      | .vote _ => w.d.cls == .scal
      | .redw _ => w.d.cls == .scal
      | _ => false
    let nested := match i with | .trace _ => c.T.shader | _ => false
    if nested then some 4
    else if scalD && w.minw.toNat ≤ 5 && segWidth c.W w != c.W.width then some posD
    else if c.W.width < minwLanes w.minw then some posMinw else none

/-- The lower of two offences, where there is one (R50). -/
def lowestOffence (a b : Option Nat) : Option Nat :=
  match a, b with
  | none, x => x
  | some a, none => some a
  | some a, some b => some (min a b)

/-- The first offending bit position at issue. -/
def offence (c : Ctx) (i : Instr) : Option Nat := lowestOffence (firstOffence i) (waveOffence c i)

/-- The offence that is reported for bytes whose encoding offends at `bit` whatever the wave (R50). -/
def rawOffence (c : Ctx) (bs : List Byte) (bit : Nat) : Nat :=
  match (takeWords (bs.length / 4) bs).bind (fun r => partsOfWords r.1) with
  | some (.ext op w) => (lowestOffence (some bit) ((extInstr op w).bind (waveOffence c))).getD bit
  | _ => bit

/-- MTS to a handler register outside a handler, and TRET outside one (R169, R388). -/
def privilege (c : Ctx) (i : Instr) : Option Trap :=
  match i with
  | .mts w => if 0x30 ≤ w.d.num.toNat && c.F.save.isNone then some (trapWhole c 0x03 (w.d.num.zeroExtend 64)) else none
  | .tret _ => if c.F.save.isNone then some (trapWhole c 0x03 0) else none
  | _ => none

/-- The order checks of a run (R41, R43, R44); `next` is the word after the instruction, where it could be read. Where several fail the lowest
subcode is reported: R44 gives no order, and this one is the model's choice (log entry 93). -/
def runOffence (c : Ctx) (i : Instr) (next : Option (BitVec 32)) : Option Trap :=
  let seam := match i with | .seam _ => true | _ => false
  if 24 ≤ c.F.runCount && !seam then some (illegalRun c 0x01 c.F.pc)
  else if isTransfer i && (match next with | some v => v.extractLsb' 0 2 != 0 || v.extractLsb' 4 8 != 1 || v.extractLsb' 29 3 != 0 | none => true)
    then some (illegalRun c 0x02 c.F.pc)
  else if isHold i && c.F.runCount != 0 then some (illegalRun c 0x04 c.F.pc)
  else if (tmpReads i).any (fun n => !c.F.tmpValid.getLsbD n) then some (illegalRun c 0x05 c.F.pc)
  else none

/-- A vector register in a block that the wave does not hold (R168). -/
def blockOffence (c : Ctx) (i : Instr) : Option Trap :=
  let regs := (vecUses i).flatMap (fun e => (List.range e.2).map (fun k => e.1 + k))
  match regs.find? (fun n => !c.W.holds n) with
  | some n => some (trapWhole c 0x0C (tvalSub 0x01 n))
  | none => none

/-- The two ranges of registers meet. -/
def overlaps (a b : Nat × Nat) : Bool := a.1 < b.1 + b.2 && b.1 < a.1 + a.2

/-- The vector registers that RCQ and RCT read only where the instance's record asks for them (R272): A + 3 with more than two auxiliary inputs,
B + 1 with four outputs. -/
def State.recordUses (s : State) (i : Instr) : List (Nat × Nat) :=
  let cfg (w : ExtWord) : Option RcConfig := (Tbl.find s.rc.insts (w.x &&& 3).toNat).map Instance.cfg
  let aux (w : ExtWord) : List (Nat × Nat) := match cfg w with | some k => if 2 < k.naux then [(w.a.num.toNat + 3, 1)] else [] | none => []
  match i with
  | .rcq w => aux w
  | .rct w => aux w ++ (match cfg w with | some k => if k.nout = 4 then [(w.b.num.toNat + 1, 1)] else [] | none => [])
  | _ => []

/-- A register that the instruction reads or writes still awaits an earlier result (R32). -/
def interlocked (c : Ctx) (i : Instr) (s : State) : Bool :=
  let lanes := heldLanes c.W c.F
  let vecs := vecUses i ++ s.recordUses i
  s.pend.any (fun e => e.2.wave == c.w && (e.2.lanes &&& lanes) != 0 &&
    (match e.2.dst with
     | .vec n k => vecs.any (fun r => overlaps r (n, k))
     | .scal n k => (scalUses i).any (fun r => overlaps r (n, k))
     | .pred n => n != 0 && (predUses i).contains n
     | .both n k p => vecs.any (fun r => overlaps r (n, k)) || (p != 0 && (predUses i).contains p)
     | .none => false))

/-- The instruction waits in place for a token count under 63 (R32). -/
def tokenFull (c : Ctx) (i : Instr) (s : State) : Bool :=
  match extWord i with
  | some w => 0x80 ≤ c.op && (c.op ≤ 0xCA || c.op = 0xD3 || c.op = 0xD4) && 63 ≤ s.tokenCount c.w (heldLanes c.W c.F) w.tok.toNat
  | none => false

/-! ## Liners (R407 to R409) -/

/-- The lanes that an instruction acts on. -/
def Ctx.readers (c : Ctx) (i : Instr) : Mask := match extWord i with | some w => c.part w | none => c.lanes 0 false

/-- What the liners of the lanes `part` say of an operation of a class when an upset strikes it (R409, R410): a trap, or the corrected vote. An upset
that names no lane is one of operands captured once. -/
def Ctx.struckAt (c : Ctx) (cls : Nat) (part : Mask) (s : State) : Except Trap State :=
  match s.rel.upset with
  | none => .ok s
  | some u =>
    let mask := if u.lanes = 0 then c.F.active else u.lanes &&& part
    if cls < 2 || part = 0 || mask = 0 then .ok s
    else
      let tval := BitVec.ofNat 64 (u.subcode * 2 ^ 56 + u.cls % 8 * 2 ^ 16 + u.number % 256 * 2 ^ 8)
      if cls = 3 && u.majority then
        let synd := u.liner % 4 + (if u.spatial then 4 else 0) + u.number % 256 * 2 ^ 8 + u.cls % 8 * 2 ^ 16
        let lane := mask.lanes.headD 0
        let col := if u.spatial then u.column else c.W.col0 + lane / 4
        let loc := setColumn (locOf c.T c.W 0 (some lane)) col
        .ok ({ s with rel := { s.rel with upset := none } }.log ⟨0, loc, c.F.pc, c.F.rwc, kindWord 0 0 cls 0x08, BitVec.ofNat 32 synd, mask, 0, 0⟩)
      else .error ⟨if cls = 2 then 0x09 else 0x0A, tval, mask, none, false, []⟩

/-- No liners of one fragment run at the instruction's issue: SEAM and NOP have no class (R23), FENCE executes once with nothing to compare (R130),
and the operation of MMA and MMAS is the gang's, compared when the clasp closes (R262). -/
def linersElsewhere (i : Instr) : Bool :=
  match i with
  | .seam _ => true
  | .nop _ => true
  | .nopLong _ => true
  | .fence _ => true
  | .mma _ => true
  | .mmas _ => true
  | _ => false

/-- What the liners of an instruction say at its issue (R409). -/
def strike (c : Ctx) (i : Instr) (s : State) : Except Trap State :=
  if linersElsewhere i then .ok s else c.struckAt (classOf c.F.mode (pclOf i)) (c.readers i) s

/-- The upset is spent, and its record is logged (R409). -/
def struck (c : Ctx) (i : Instr) (t : Trap) (s : State) : State :=
  let cls := classOf c.F.mode (pclOf i)
  let synd := t.tval.toNat / 2 ^ 56 % 256 * 2 ^ 24 + t.tval.toNat % 2 ^ 19
  { s with rel := { s.rel with upset := none } }.logFrag c.T c.W c.F t.mask.lanes.head? (kindWord t.cause 1 cls (if t.cause = 9 then 0x07 else 0x09)) synd
    c.F.pc t.mask 0 0

end Sys2Proof.Machine
end

