-- ==== Sys2Proof/Machine/Translate.lean ====
section
/-! DEFINITION. Machine/Translate.lean: virtual addresses, page tables, translation caches, and the checks of an access (R76 to R93). -/

namespace Sys2Proof.Machine

/-! ## Addresses -/

/-- A virtual address is canonical when bits 63 to 55 all equal bit 54 (R79). -/
def canonical (va : Word) : Bool := va.extractLsb' 54 10 == 0 || va.extractLsb' 54 10 == BitVec.allOnes 10

/-- Where a physical address lies (R76). -/
def paTop (pa : Nat) : Nat := pa / 2 ^ 48
def paMid (pa : Nat) : Nat := pa / 2 ^ 38 % 2 ^ 10
def paLow (pa : Nat) : Nat := pa % 2 ^ 38

/-- A peer-window address with this device's own id is a local address (R77). Its leaf is of type UC, as every leaf of the window (R76, R84). -/
def State.alias (s : State) (pa : Nat) : Nat := if paTop pa = 1 && paMid pa = s.links.self then paLow pa else pa

/-! ## Page-table entries (R81, R82) -/

def pteV (e : Nat) : Bool := e % 2 == 1
def pteL (e : Nat) : Bool := e / 2 % 2 == 1
def pteMT (e : Nat) : Nat := e / 4 % 4
def pteW (e : Nat) : Bool := e / 16 % 2 == 1
def pteX (e : Nat) : Bool := e / 32 % 2 == 1
def pteHost (e : Nat) : Bool := e / 64 % 2 == 1
def pteAddr (e : Nat) : Nat := e / 2 ^ 16 % 2 ^ 36 * 2 ^ 16
def pteReserved (e : Nat) : Bool := e / 2 ^ 7 % 2 ^ 9 != 0 || e / 2 ^ 52 % 16 != 0

/-- A valid entry is malformed (R82). -/
def pteMalformed (level e : Nat) : Bool :=
  pteReserved e || (level == 1 && pteL e) || (level == 3 && !pteL e) || pteMT e == 3 ||
  (if pteL e then level == 2 && pteAddr e % 2 ^ 29 != 0
   else pteX e || pteW e || pteMT e != 0 || 2 ^ 38 ≤ pteAddr e)

/-! ## Faults of an access -/

/-- What keeps an access from being performed (R90): the cause and subcode, whether the host services it, the level at which an
invalid entry stood, and the poisoned table entry. -/
structure XFault where
  cause : Nat
  sub   : Nat
  host  : Bool
  walk  : Option (Nat × Nat)
deriving DecidableEq, Repr

def xfault (cause sub : Nat) : XFault := ⟨cause, sub, false, none⟩

/-! ## Translation -/

/-- Who translates: a core, a cluster's engines (copy engines, radiance-cache unit), or a die's units (R85). -/
inductive Agent where
  | core (n : Nat)
  | cluster (n : Nat)
  | die (n : Nat)
deriving DecidableEq, Repr

def Agent.die? : Agent → Nat
  | .core n => n / 160
  | .cluster n => n / 40
  | .die n => n

/-- The page of a virtual address at 64 KiB, and its block at 512 MiB. -/
def vaPage (va : Word) : Nat := (va.extractLsb' 16 39).toNat

/-- A cached entry covers the page. -/
def TlbEntry.covers (e : TlbEntry) (asid page : Nat) : Bool :=
  e.asid == asid && (if e.block then e.page / 2 ^ 13 == page / 2 ^ 13 else e.page == page)

def tlbFind (l : List TlbEntry) (asid page : Nat) : Option TlbEntry := l.find? (fun e => e.covers asid page)

/-- The translation caches that an agent looks up, nearest first (R85). -/
def State.tlbs (s : State) (who : Agent) : List (List TlbEntry) :=
  match who with
  | .core n => [Tbl.get [] s.path.tlbCore n, Tbl.get [] s.path.tlbClus (n / 4), Tbl.get [] s.path.tlbDie (n / 160)]
  | .cluster n => [Tbl.get [] s.path.tlbClus n, Tbl.get [] s.path.tlbDie (n / 40)]
  | .die n => [Tbl.get [] s.path.tlbDie n]

/-- The table entry at an address, read at the home L2 (R83), with its poison. -/
def State.readPte (s : State) (a : Nat) : Nat × Bool := (s.memNat a 8, s.memPoisoned a 8)

/-- One step of a walk with a cached upper entry where the die holds one (R85). -/
def State.walkEntry (s : State) (die asid level table index : Nat) : Nat × Bool :=
  match (Tbl.get [] s.path.walkc die).find? (fun e => e.asid == asid && e.level == level && e.table == table && e.index == index) with
  | some e => (e.value.toNat, false)
  | none => s.readPte (table + 8 * index)

/-- A walk's result: the leaf and whether it is a block, with the upper entries read on the way. -/
structure Walked where
  leaf  : Nat
  block : Bool
  upper : List (Nat × Nat × Nat × Nat)
deriving DecidableEq, Repr

/-- The table walk (R80 to R83, R90, R92). -/
def State.walk (s : State) (die asid root : Nat) (va : Word) : Except XFault Walked :=
  let i1 := (va.extractLsb' 42 13).toNat
  let i2 := (va.extractLsb' 29 13).toNat
  let i3 := (va.extractLsb' 16 13).toNat
  let check (level table index : Nat) (r : Nat × Bool) : Except XFault Nat :=
    if r.2 then .error ⟨0x06, 0x06, false, some (level, table + 8 * index)⟩
    else if !pteV r.1 then .error ⟨0x06, level, pteHost r.1, none⟩
    else if pteMalformed level r.1 then .error (xfault 0x06 0x04)
    else .ok r.1
  match check 1 root i1 (s.walkEntry die asid 1 root i1) with
  | .error e => .error e
  | .ok e1 =>
    let t2 := pteAddr e1
    match check 2 t2 i2 (s.walkEntry die asid 2 t2 i2) with
    | .error e => .error e
    | .ok e2 =>
      if pteL e2 then .ok ⟨e2, true, [(1, root, i1, e1)]⟩
      else
        let t3 := pteAddr e2
        match check 3 t3 i3 (s.readPte (t3 + 8 * i3)) with
        | .error e => .error e
        | .ok e3 => .ok ⟨e3, false, [(1, root, i1, e1), (2, t2, i2, e2)]⟩

/-- The translation of an address: from the nearest cache that holds it, else by a walk (R79 to R87). Before an invalidation an access may use the
old translation or the new one (R87): that the model uses the nearest cached entry while there is one is its choice (log entry 94). -/
def State.translate (s : State) (who : Agent) (asid root : Nat) (va : Word) : Except XFault Walked :=
  if !canonical va then .error (xfault 0x06 0x05)
  else
    match (s.tlbs who).findSome? (fun l => tlbFind l asid (vaPage va)) with
    | some e => .ok ⟨e.leaf.toNat, e.block, []⟩
    | none => s.walk who.die? asid root va

/-- The physical address a leaf gives (R80). -/
def leafPa (r : Walked) (va : Word) : Nat := pteAddr r.leaf + (if r.block then va.toNat % 2 ^ 29 else va.toNat % 2 ^ 16)

/-- Keep at most `cap` elements: which of them leaves is open (log entry 11). -/
def evictList {α : Type} (cap pick : Nat) (l : List α) : List α := if l.length ≤ cap then l else l.eraseIdx (pick % l.length)

def tlbAdd (cap pick : Nat) (e : TlbEntry) (l : List TlbEntry) : List TlbEntry := if l.contains e then l else evictList cap pick (l ++ [e])

/-- Fill the translation caches on the way back (R85). -/
def State.fillTlb (s : State) (who : Agent) (asid root : Nat) (va : Word) : State :=
  match s.translate who asid root va with
  | .error _ => s
  | .ok r =>
    let e : TlbEntry := ⟨asid, if r.block then vaPage va / 2 ^ 13 * 2 ^ 13 else vaPage va, r.block, BitVec.ofNat 64 r.leaf⟩
    let pick := Config.freeNat s.free
    let die := who.die?
    let p1 := { s.path with
      tlbDie := Tbl.set [] s.path.tlbDie die (tlbAdd 65536 pick e (Tbl.get [] s.path.tlbDie die))
      walkc := Tbl.set [] s.path.walkc die (r.upper.foldl (fun l u =>
        let w : WalkEntry := ⟨asid, u.1, u.2.2.1, u.2.1, BitVec.ofNat 64 u.2.2.2⟩
        if l.contains w then l else l ++ [w]) (Tbl.get [] s.path.walkc die)) }
    let p2 := match who with
      | .core n => { p1 with
          tlbClus := Tbl.set [] p1.tlbClus (n / 4) (tlbAdd 4096 pick e (Tbl.get [] p1.tlbClus (n / 4)))
          tlbCore := Tbl.set [] p1.tlbCore n (tlbAdd 512 pick e (Tbl.get [] p1.tlbCore n)) }
      | .cluster n => { p1 with tlbClus := Tbl.set [] p1.tlbClus n (tlbAdd 4096 pick e (Tbl.get [] p1.tlbClus n)) }
      | .die _ => p1
    { s with path := p2, free := s.free + 1 }

/-! ## Walkers (R86) -/

/-- The page misses every translation cache on the way. -/
def State.tlbMiss (s : State) (who : Agent) (asid : Nat) (va : Word) : Bool :=
  canonical va && ((s.tlbs who).findSome? (fun l => tlbFind l asid (vaPage va))).isNone

/-- A walk of the page is under way. -/
def WalkRequest.same (r : WalkRequest) (asid : Nat) (va : Word) : Bool := r.asid == asid && vaPage r.va == vaPage va

/-- The walks of a die, one for each page asked for, in order of arrival: its 128 walkers have the first of them. -/
def State.dieWalks (s : State) (die : Nat) : List (Nat × Nat) :=
  ((s.path.walkq.filter (fun r => r.die == die)).map (fun r => (r.asid, vaPage r.va))).eraseDups

/-- A miss cannot be walked at once: it joins a walk under way for its page, or every walker of the die is busy. -/
def State.walkBusy (s : State) (who : Agent) (asid : Nat) (va : Word) : Bool :=
  s.tlbMiss who asid va && (128 ≤ (s.dieWalks who.die?).length || (s.dieWalks who.die?).contains (asid, vaPage va))

/-- The misses that a die can still take: those in its walkers and 1,024 in its queue. -/
def State.walkRoom (s : State) (die : Nat) : Nat := 1152 - (s.dieWalks die).length

/-- A miss of an access that waits in place takes its place in the die's queue, once, where there is room. -/
def State.awaitWalk (s : State) (core asid root : Nat) (va : Word) : State :=
  let die := core / 160
  if s.walkRoom die = 0 || (s.dieWalks die).contains (asid, vaPage va) then s
  else { s with path := { s.path with walkq := s.path.walkq ++ [(⟨die, core, asid, root, va, none, 0, 0⟩ : WalkRequest)] } }

/-! ## The checks of an access (R89) -/

/-- The kind of an access: fetch, read, write, atomic. -/
inductive Acc where
  | fetch | read | write | atomic
deriving DecidableEq, Repr

/-- The region limits of the instruction itself (R89): none, those of WAIT.A and WAKE (R326), those of LAUNCH, TREADY and DRAIN
(R374), those of a command in q2 (R438). -/
inductive Limit where
  | none | wait | launch | q2
deriving DecidableEq, Repr

/-- The entry of the host window table that covers an offset (R438). -/
def State.hostWindow (s : State) (off : Nat) : Option HostWindow :=
  (s.links.windows.find? (fun e => e.2.offset ≤ off && off < e.2.offset + e.2.size)).map Prod.snd

/-- Access checks on one piece, in the order of R89; the first that fails gives the subcode of R90. -/
def State.accessCheck (s : State) (leaf pa0 : Nat) (kind : Acc) (limit : Limit) : Option Nat :=
  let pa := s.alias pa0
  let region := paTop pa
  if kind == .fetch && !pteX leaf then some 0x02
  else if (kind == .write || kind == .atomic) && !pteW leaf then some 0x01
  else if (paTop pa0 == 1 || paTop pa0 == 2) && pteMT leaf != 2 then some 0x04
  else if 3 ≤ region || (region == 0 && paMid pa != 0) then some 0x03
  else if kind == .fetch && region != 0 then some 0x02
  else
    match limit with
    | .wait => if region != 0 then some 0x0B else none
    | .launch => if region != 0 then some 0x0C else none
    | lim =>
      if kind == .atomic && region == 2 then some 0x06
      else if region == 1 && (Tbl.find s.links.peers (paMid pa)).isNone then some 0x07
      else if region == 2 then
        match s.hostWindow (pa % 2 ^ 48) with
        | none => some 0x05
        | some h => if (2 ≤ h.port && lim != .q2) || (kind == .read && !h.rights.getLsbD 0) || (kind != .read && !h.rights.getLsbD 1)
                    then some 0x05 else none
      else none

/-- The region of a physical address whose checks have passed, with the address in that region. -/
def regionOf (pa : Nat) : Region × Nat :=
  if paTop pa = 1 then (.peer (paMid pa), paLow pa) else if paTop pa = 2 then (.host, pa % 2 ^ 48) else (.loc, paLow pa)

/-- The pieces of an access of up to 16 bytes (R93): one, or two split at a sector boundary. -/
def splitPieces (va : Word) (n : Nat) : List (Word × Nat) :=
  let r := 32 - va.toNat % 32
  if n ≤ r then [(va, n)] else [(va, r), (va + BitVec.ofNat 64 r, n - r)]

/-- A fault of one access, with the address of the piece that failed (R90). -/
structure LaneFault where
  x  : XFault
  va : Word
deriving DecidableEq, Repr

/-- Translate and check an access (R89, R93): its pieces, or its first fault. -/
def State.access (s : State) (who : Agent) (asid root : Nat) (va : Word) (n : Nat) (kind : Acc) (limit : Limit) :
    Except LaneFault (List Piece) :=
  if kind == .atomic && va.toNat % n != 0 then .error ⟨xfault 0x05 0x01, va⟩
  else
    let ps := splitPieces va n
    match ps.mapM (fun p => match s.translate who asid root p.1 with
        | .ok r => Except.ok (p, r)
        | .error x => .error (⟨x, p.1⟩ : LaneFault)) with
    | .error e => .error e
    | .ok rs =>
      let mts := rs.map (fun r => pteMT r.2.leaf)
      if mts.any (fun m => m != mts.headD 0) then .error ⟨xfault 0x05 0x02, va⟩
      else
        match rs.findSome? (fun r => (s.accessCheck r.2.leaf (leafPa r.2 r.1.1) kind limit).map (fun sub => (⟨xfault 0x07 sub, r.1.1⟩ : LaneFault))) with
        | some e => .error e
        | none => .ok (rs.map (fun r =>
            let at_ := regionOf (s.alias (leafPa r.2 r.1.1))
            ⟨at_.1, at_.2, r.1.2, pteMT r.2.leaf⟩))

/-- The fills that an access leaves in the translation caches. -/
def State.fillAccess (s : State) (who : Agent) (asid root : Nat) (va : Word) (n : Nat) : State :=
  (splitPieces va n).foldl (fun s p => s.fillTlb who asid root p.1) s

/-- TVAL of an access fault (R90). -/
def LaneFault.tval (e : LaneFault) : Word := tvalSub e.x.sub e.va.toNat

/-! ## Events to the owner (R444) -/

/-- A message leaves. -/
def State.say (s : State) (m : Message) : State := { s with mgmt := { s.mgmt with out := m :: s.mgmt.out } }

/-- The next held event is sent, where there is an owner and fewer than 1,024 are unacknowledged. -/
def State.sendEvent (s : State) : State :=
  let m := s.mgmt
  match m.owner, m.queue with
  | some id, e :: rest =>
    (match Tbl.find m.sessions id with
     | none => s
     | some x =>
       if 1024 ≤ m.unacked.length then s
       else
         let m1 : Mgmt := { m with sessions := Tbl.put m.sessions id { x with evSeq := x.evSeq + 1 }
                                   queue := rest, unacked := m.unacked ++ [(⟨x.evSeq, e, s.ticks⟩ : SentEvent)] }
         { s with mgmt := m1 }.say (.event x.port id x.evSeq e.kind e.body))
  | _, _ => s

/-- Every event that may be sent is sent, in the order raised. -/
def State.sendEvents (s : State) : State := s.mgmt.queue.foldl (fun s _ => s.sendEvent) s

/-- Raise an event: it is held, and sent when fewer than 1,024 are unacknowledged and there is an owner. -/
def State.raise (s : State) (kind : Nat) (body : List Byte) : State :=
  { s with mgmt := { s.mgmt with queue := s.mgmt.queue ++ [(⟨kind, body⟩ : Event)] } }.sendEvents

/-! ## Parking (R389) -/

/-- The team's cores stop issuing: its running fragments are interrupted after their instruction (R45, R389). -/
def State.stopTeam (s : State) (t : Nat) : State :=
  { s with frags := List.map (fun e => match s.wave? e.2.wave with
      | some W => if W.team == t && e.2.fstate == .running then (e.1, { e.2 with fstate := .ready, waitFrom := s.runsIn W, boost := none }) else e
      | none => e) s.frags }

/-- The bytes an image of a team may take (R394). -/
def imageSize (T : Team) : Nat := T.cores.length * 2816 * 1024 + 64 * 1024

/-- Begin an image of a team: a fresh context id (R394). -/
def State.newImage (s : State) (t : Nat) (kind : ImageKind) (pages : List ParkPage) (traps : List (Nat × Trap)) : Nat × State :=
  match s.team? t with
  | none => (0, s)
  | some T =>
    let id := s.saves.nextCtx
    let die := dieOf (T.cores.headD 0)
    (id, { s with
      saves := { s.saves with
        images := Tbl.put s.saves.images id ⟨t, die, imageSize T, kind, pages, traps, false, false, false, s.nextId, 0⟩
        nextCtx := (id + 1) % 2 ^ 32 }
      nextId := s.nextId + 1 })

/-- The body of a PARK event (R444): the 64 lowest of the pages. -/
def parkBody (ctx asid die : Nat) (pages : List ParkPage) : List Byte :=
  let ps := (pages.mergeSort (fun a b => a.page ≤ b.page)).take 64
  natBytes 4 ctx ++ natBytes 2 asid ++ natBytes 2 ps.length ++
    ps.flatMap (fun p => natBytes 8 (p.page * 2 ^ 16) ++ natBytes 1 p.kind ++ natBytes 1 die ++ natBytes 6 0)

/-- Park a team on the pages that its fragment faults on: its fragments stop, the owner is told, the spill engine begins the image,
and the fault is recorded for an answer DELIVER (R389). -/
def State.park (s : State) (t : Nat) (pages : List ParkPage) (traps : List (Nat × Trap)) : State :=
  match s.team? t with
  | none => s
  | some T =>
    let r := s.newImage t .park pages traps
    let s1 := (r.2.stopTeam t).adjTeam t (fun T => { T with where_ := .image r.1 })
    s1.raise 1 (parkBody r.1 T.asid (dieOf (T.cores.headD 0)) pages)

end Sys2Proof.Machine
end

