-- ==== Sys2Proof/Machine/Memory.lean ====
section
/-! DEFINITION. Machine/Memory.lean: the caches between the registers and the homes (R95 to R104, R124, R334, R340) and the fetch of
instruction bytes (R19, R20, R92, R393). -/

namespace Sys2Proof.Machine

/-- Reads of every sector of a range of local memory find what errors lie there (R73). -/
def State.findRange (s : State) (a n : Nat) : State :=
  if s.rel.rot = [] then s
  else s.findErrors ((s.rel.rot.flatMap (fun l => (List.range 4).map (fun i => 4 * l + i))).filter (fun z => a < 32 * z + 32 && 32 * z < a + n))

/-! ## Walks that meet poison (R92) -/

/-- A unit's or an engine's access has faulted: a walk that read a poisoned entry logs its record. -/
def State.logWalk (s : State) (unit core die : Nat) (e : LaneFault) : State :=
  match e.x.walk with
  | some (level, pa) => (s.foundEntry pa).logUnit unit core die (kindWord 0x06 1 0 0x14) level (BitVec.ofNat 64 pa) addrPhys
  | none => s

/-! ## Caches as tables of sectors -/

/-- Put an entry into a cache that holds `cap` of them: where it is full, which one leaves is open (log entry 11). -/
def capPut {α : Type} (cap pick : Nat) (t : Tbl α) (k : Nat) (v : α) : Tbl α :=
  let t1 := Tbl.put t k v
  if t1.length ≤ cap then t1
  else
    let others := List.filter (fun e => e.1 != k) t1
    Tbl.drop t1 ((others.getD (pick % others.length) (k, v)).1)

/-- A sector of local device memory at its home: the L2 over the memory behind it (R96). -/
def State.homeSector (s : State) (sec : Nat) : Sector := ⟨readBytes s.mem (32 * sec) 32, s.bad sec⟩

/-- A line leaves its home L2 (R96, R100): dirty sectors go back to memory, by a write that finds an error in a codeword it covers in part; each
sharer is sent a detach notice. -/
def State.l2Evict (s : State) (line : Nat) : State :=
  let l := s.l2Line line
  let s1 := if l.dirty.length = 4 then { s with rel := { s.rel with rot := s.rel.rot.filter (fun x => x != line) } }
            else if l.dirty.isEmpty then s else if s.rel.rot.contains line then s.findError line else s
  { s1 with path := { s1.path with l2 := Tbl.set ⟨[], [], []⟩ s1.path.l2 line ⟨[], [], []⟩
                                   detach := s1.path.detach ++ l.sharers.map (fun d => (d, line)) } }

/-- The lines that a die's L2 holds at most: 512 MiB (R95). -/
def l2Lines : Nat := 2 ^ 22

/-- A line's entry in its home L2; where the die's L2 is full another line leaves, and which one is open (log entry 11). -/
def State.setL2 (s : State) (line : Nat) (l : L2Line) : State :=
  let s1 := { s with path := { s.path with l2 := Tbl.set ⟨[], [], []⟩ s.path.l2 line l } }
  let die := homeOf (128 * line)
  let there := s1.path.l2.filter (fun e => homeOf (128 * e.1) == die && e.1 != line)
  if there.length < l2Lines then s1
  else { s1 with free := s1.free + 1 }.l2Evict ((there.getD (Config.freeNat s1.free % there.length) (line, l)).1)

/-- A sector read at its home: the L2 holds it from then on, unless the access is of type UC (R84, R95), and an error at rest is found. -/
def State.homeRead (s : State) (sec : Nat) (uc : Bool) : State :=
  let s1 := s.findErrors [sec]
  if uc then s1
  else
    let l := s1.l2Line (sec / 4)
    if l.valid.contains sec then s1 else s1.setL2 (sec / 4) { l with valid := NSet.insert l.valid sec }

/-- One write of an agent at the home (R73, R96): a sector that it covers in part is read first unless the L2 holds it, which finds an error in
the codeword; then its bytes are stored, and the fragments that wait on an address there read it again (R326). -/
def State.storeHome (s : State) (cells : List (Nat × Byte)) (bad : List Nat) : State :=
  let secs := (cells.map (fun c => c.1 / 32)).dedup
  let covered := coveredSectors (cells.map Prod.fst)
  let part := secs.filter (fun k => !covered.contains k && !(s.l2Line (k / 4)).valid.contains k)
  ((s.findErrors part).writeMem cells bad).recheck secs

/-- The scratchpad bytes reserved on a core by the teams that hold resources there (R102). -/
def State.reserved (s : State) (core : Nat) : Nat :=
  (s.teams.filter (fun e => e.2.cores.contains core && s.occupies e.2)).foldl (fun n e => n + e.2.placed.scratch) 0

/-- The sectors that a core's L1 holds at most: the pool less the reservations (R102). -/
def State.l1Cap (s : State) (core : Nat) : Nat := (524288 - s.reserved core) / 32

def State.l1Find (s : State) (core sec : Nat) : Option Sector := Tbl.find (Tbl.get [] s.path.l1 core) sec

def State.l1Fill (s : State) (core sec : Nat) (v : Sector) : State :=
  { s with
    path := { s.path with l1 := Tbl.set [] s.path.l1 core (capPut (s.l1Cap core) (Config.freeNat s.free) (Tbl.get [] s.path.l1 core) sec v) }
    free := s.free + 1 }

/-- What a performed store leaves of an L1 copy of its own core (R103): its bytes, the last where several lanes write one (R122). A store that
covers the sector clears its poison (R73). -/
def Sector.refresh (v : Sector) (sec : Nat) (cells : List (Nat × Byte)) : Sector :=
  let here := (cells.filter (fun c => c.1 / 32 == sec)).reverse
  let at_ (i : Nat) : Option Byte := (here.find? (fun c => c.1 == 32 * sec + i)).map Prod.snd
  { data := v.data.zipIdx.map (fun e => (at_ e.2).getD e.1), poison := v.poison && !(List.range 32).all (fun i => (at_ i).isSome) }

def State.l1Update (s : State) (core : Nat) (cells : List (Nat × Byte)) : State :=
  let t := List.map (fun e => (e.1, e.2.refresh e.1 cells)) (Tbl.get [] s.path.l1 core)
  { s with path := { s.path with l1 := Tbl.set [] s.path.l1 core t } }

def State.l1Drop (s : State) (core : Nat) (p : Nat → Bool) : State :=
  let t := List.filter (fun e => !p e.1) (Tbl.get [] s.path.l1 core)
  { s with path := { s.path with l1 := Tbl.set [] s.path.l1 core t } }

/-! ## The remote-data cache (R98 to R101) -/

def State.rdcLine (s : State) (die line : Nat) : Option RdcLine := Tbl.find (Tbl.get [] s.path.rdc die) line

def State.setRdc (s : State) (die : Nat) (t : Tbl RdcLine) : State := { s with path := { s.path with rdc := Tbl.set [] s.path.rdc die t } }

/-- Drop a line, if the RDC holds it. -/
def State.rdcDrop (s : State) (die line : Nat) : State := s.setRdc die (Tbl.drop (Tbl.get [] s.path.rdc die) line)

/-- Drop some sectors of the RDC of a die: the written sectors, when a write leaves the die (R99). -/
def State.rdcDropSectors (s : State) (die : Nat) (secs : List Nat) : State :=
  s.setRdc die (List.map (fun e => (e.1, { e.2 with sectors := List.filter (fun x => !secs.contains x.1) e.2.sectors }))
    (Tbl.get [] s.path.rdc die))

/-- The home directory lists a die as a sharer (R98). -/
def State.addSharer (s : State) (line die : Nat) : State :=
  let l := s.l2Line line
  s.setL2 line { l with sharers := NSet.insert l.sharers die }

/-- It no longer does: the die's copy is gone. -/
def State.dropSharer (s : State) (line die : Nat) : State :=
  let l := s.l2Line line
  if l.sharers.contains die then s.setL2 line { l with sharers := NSet.remove l.sharers die } else s

/-- The lines that a die's RDC holds at most: 128 MiB (R95). -/
def rdcLines : Nat := 2 ^ 20

/-- A fill of the RDC from the home: the line is Current, and only sectors fetched since it was last Detached remain (log entry 12). A detach
notice on the way to the die has been overtaken (R97). -/
def State.rdcFill (s : State) (die sec : Nat) (v : Sector) : State :=
  let line := sec / 4
  let old := match s.rdcLine die line with
    | some l => if l.detached.isNone then l.sectors else []
    | none => []
  let s1 := s.setRdc die (capPut rdcLines (Config.freeNat s.free) (Tbl.get [] s.path.rdc die) line ⟨none, Tbl.put old sec v⟩)
  ({ s1 with path := { s1.path with detach := s1.path.detach.filter (fun e => e != (die, line)) }, free := s1.free + 1 }).addSharer line die

/-- A die's copy of a line has left its home's directory, whether or not the notice has reached the die (R100). -/
def State.loose (s : State) (die line : Nat) : Bool :=
  s.path.detach.contains (die, line) || (match s.rdcLine die line with | some l => l.detached.isSome | none => false)

/-- An acquire at DIE scope or wider drops every Detached line of the die (R116), those among them whose notice is on its way: it is taken
to arrive first, since an acquire is not to see what a later write no longer invalidates (R338). -/
def State.dropDetached (s : State) (die : Nat) : State :=
  let s1 := s.setRdc die (List.filter (fun e => !s.loose die e.1) (Tbl.get [] s.path.rdc die))
  { s1 with path := { s1.path with detach := s1.path.detach.filter (fun e => e.1 != die) } }

/-- The cache actions of an acquire at a scope (R116). -/
def State.acquire (s : State) (core scope : Nat) : State :=
  let s1 := if 2 ≤ scope then s.l1Drop core (fun _ => true) else s
  if 3 ≤ scope then s1.dropDetached (dieOf core) else s1

/-! ## A sector read (R103, R334, R340) -/

/-- The bytes or steps of a write touch a sector. -/
def WriteRec.touches (r : WriteRec) (sec : Nat) : Bool :=
  r.cells.any (fun c => c.1 / 32 == sec) || r.steps.any (fun a => a.pieces.any (fun p => p.addr / 32 == sec))

/-- A write that a read of the sector has to wait for: one of the core's waves to the same sector that is on its way to its home (R334),
or one of the die to the same line of another die's home, which requests of the die reach in the order in which they left (R97). -/
def State.writeOnWay (s : State) (core sec : Nat) : Bool :=
  s.path.writes.any (fun e => e.2.region == .loc && e.2.line == sec / 4 && !e.2.accepted &&
    ((e.2.core == core && e.2.touches sec && (match e.2.source with | .wave _ _ => true | _ => false)) ||
     (e.2.die == dieOf core && homeOf (32 * sec) != dieOf core)))

/-- A sector read of a core by memory type, as an acquire at `scope` where `acq` holds: the sector and the fills it leaves, or none
while it has to wait (R98, R101, R103, R115). `noL1` is the hint .NA (R125). -/
def State.readSector (s : State) (core sec mt : Nat) (acq : Bool) (scope : Nat) (noL1 : Bool) : Option (Sector × State) :=
  let die := dieOf core
  let bypass := acq && 2 ≤ scope
  match (if mt == 0 && !bypass then s.l1Find core sec else none) with
  | some v => some (v, s)
  | none =>
    if s.writeOnWay core sec then none
    else
      let fill (v : Sector) (s : State) : State := if mt == 0 && !bypass && !noL1 then s.l1Fill core sec v else s
      let home := homeOf (32 * sec)
      if home == die || mt == 2 then
        if s.homeHolds (sec / 4) then none
        else
          let s := s.homeRead sec (mt == 2)
          some (s.homeSector sec, fill (s.homeSector sec) s)
      else
        let hit := match s.rdcLine die (sec / 4) with
          | some l => if acq && 3 ≤ scope && s.loose die (sec / 4) then none else Tbl.find l.sectors sec
          | none => none
        match hit with
        | some v => some (v, fill v s)
        | none =>
          if s.homeHolds (sec / 4) then none
          else
            let s := s.homeRead sec false
            let v := s.homeSector sec
            some (v, fill v (s.rdcFill die sec v))

/-- A sector read through the cluster's constant cache (R124). -/
def State.readConst (s : State) (core sec : Nat) : Option (Sector × State) :=
  let cl := clusterOf core
  match Tbl.find (Tbl.get [] s.path.const cl) sec with
  | some v => some (v, s)
  | none =>
    match s.readSector core sec 1 false 0 true with
    | none => none
    | some (v, s1) =>
      some (v, { s1 with
        path := { s1.path with const := Tbl.set [] s1.path.const cl (capPut 2048 (Config.freeNat s1.free) (Tbl.get [] s1.path.const cl) sec v) }
        free := s1.free + 1 })

/-! ## Request entries (R109) -/

/-- The reads of the outstanding instructions of a core's waves, in the order in which they take the core's request entries. -/
def State.coreReads (s : State) (core : Nat) : List (Nat × Pend) :=
  s.pend.filter (fun e => !e.2.reads.isEmpty && (match s.wave? e.2.wave with | some W => W.core == core | none => false))

/-- Request entries of a core that no read has or waits for: it has 1,024. -/
def State.freeEntries (s : State) (core : Nat) : Nat := (s.coreReads core).foldl (fun n e => n - e.2.reads.length) 1024

/-- The reads of an outstanding instruction that have entries: those of older instructions come first. -/
def State.entered (s : State) (core id : Nat) (p : Pend) : List Nat :=
  p.reads.take (((s.coreReads core).filter (fun e => e.1 < id)).foldl (fun n e => n - e.2.reads.length) 1024)

/-- A read of an outstanding instruction still lacks its entry. -/
def State.lacksEntries (s : State) (core id : Nat) (p : Pend) : Bool := (s.entered core id p).length < p.reads.length

/-- The fragment waits in place for the entries of its last load. -/
def State.awaitsEntries (s : State) (c : Ctx) : Bool :=
  s.pend.any (fun e => e.2.wave == c.w && (e.2.lanes &&& heldLanes c.W c.F) != 0 && s.lacksEntries c.W.core e.1 e.2)

/-! ## Fetch -/

/-- A sector of code as the core's instruction cache, the cluster's, or the home gives it: never an RDC (R393, R402), and the home alone for a
leaf of type UC (R84). -/
def State.codeSector (s : State) (core sec mt : Nat) : Sector :=
  if mt = 2 then s.homeSector sec
  else match Tbl.find (Tbl.get [] s.path.icore core) sec with
  | some v => v
  | none =>
    match Tbl.find (Tbl.get [] s.path.iclus (clusterOf core)) sec with
    | some v => v
    | none => s.homeSector sec

/-- The instruction caches hold a sector that has been fetched, unless it is of type UC. -/
def State.fillCode (s : State) (core sec mt : Nat) : State :=
  let s := s.homeRead sec (mt == 2)
  let v := s.codeSector core sec mt
  if mt = 2 then s
  else { s with path := { s.path with
      icore := Tbl.set [] s.path.icore core (Tbl.put (Tbl.get [] s.path.icore core) sec v)
      iclus := Tbl.set [] s.path.iclus (clusterOf core) (Tbl.put (Tbl.get [] s.path.iclus (clusterOf core)) sec v) } }

/-- What fetching some words ends in: their bytes, a fault with the address of the word that failed, or a poisoned sector. -/
inductive Fetched where
  | ok (bytes : List Byte)
  | fault (e : LaneFault)
  | poison (va : Word) (sec : Nat)
deriving DecidableEq, Repr

/-- Fetch `n` words from `va` on. -/
def State.fetchWords (s : State) (core asid root : Nat) : Nat → Word → Fetched
  | 0, _ => .ok []
  | n + 1, va =>
    match s.access (.core core) asid root va 4 .fetch .none with
    | .error e => .fault e
    | .ok ps =>
      let pa := (ps.map Piece.addr).headD 0
      let v := s.codeSector core (pa / 32) ((ps.map Piece.mt).headD 0)
      if v.poison then .poison va (pa / 32)
      else
        match s.fetchWords core asid root n (va + 4) with
        | .ok bs => .ok ((v.data.drop (pa % 32)).take 4 ++ bs)
        | r => r

/-- The fills that a fetch leaves. -/
def State.fillFetch (s : State) (core asid root : Nat) : Nat → Word → State
  | 0, _ => s
  | n + 1, va =>
    match s.access (.core core) asid root va 4 .fetch .none with
    | .error _ => s
    | .ok ps => ((s.fillTlb (.core core) asid root va).fillCode core ((ps.map Piece.addr).headD 0 / 32) ((ps.map Piece.mt).headD 0)).fillFetch core asid root n (va + 4)

/-- Words of an instruction by its first byte (R19). -/
def lenWords (b : Byte) : Nat := if b.extractLsb' 0 2 = 0 then 1 else if b.extractLsb' 0 2 = 3 then 5 else 3

/-- Fetch a whole instruction (R19, R20). -/
def State.fetchInstr (s : State) (core asid root : Nat) (pc : Word) : Fetched :=
  match s.fetchWords core asid root 1 pc with
  | .ok (b :: bs) =>
    match s.fetchWords core asid root (lenWords b - 1) (pc + 4) with
    | .ok rest => .ok (b :: bs ++ rest)
    | r => r
  | r => r

/-- The word after the instruction, where it can be read: what a control transfer's seam check needs (R41, R44). -/
def State.nextWord (s : State) (c : Ctx) : Option (BitVec 32) :=
  match s.fetchWords c.W.core c.T.asid c.T.table 1 (c.F.pc + BitVec.ofNat 64 c.len) with
  | .ok [b0, b1, b2, b3] => some (wordOfBytes b0 b1 b2 b3)
  | _ => none

/-- The trap of a fault of the whole fragment. -/
def faultTrap (c : Ctx) (e : LaneFault) : Trap := ⟨e.x.cause, e.tval, c.F.active, none, false, e.x.walk.toList⟩

/-- A fault on fetch: the host services it and the team parks, or the fragment traps (R20, R89). -/
def State.fetchFault (s : State) (c : Ctx) (e : LaneFault) : State :=
  if e.x.host then s.park c.t [⟨vaPage e.va, 3⟩] [(c.f, { faultTrap c e with cause := 0x06 })]
  else s.takeTrap c.f (faultTrap c e) c.F.pc

/-! ## Lookahead (R34, R433) -/

/-- The instruction is long-latency (R31). -/
def longLatency (c : Ctx) : Bool := 0x80 ≤ c.op && (c.op ≤ 0xCA || c.op = 0xD3 || c.op = 0xD4)

/-- The registers that an instruction reads. -/
def State.readSet (s : State) (i : Instr) : Touched := (readsOf i).join ⟨s.recordUses i, [], [], []⟩

/-- The windows that stand open behind an instruction: those open before it that go on, and a long-latency instruction's own. -/
def State.windows (s : State) (c : Ctx) (i : Instr) : List Ahead :=
  let la := ((extWord i).map (fun w => w.la.toNat)).getD 0
  let older := (c.F.ahead.filter (fun a => 1 < a.left)).map (fun a => { a with left := a.left - 1 })
  older ++ (if longLatency c && 1 ≤ la && la ≤ 14 then [⟨la, s.readSet i, writesOf i⟩] else [])

/-- An instruction that retires, or begins to wait in a meeting, passes the lookahead windows open before it: a dependent one is
counted in LAVIOL; a long-latency instruction opens its own. A SEAM is not counted. -/
def State.lookahead (s : State) (c : Ctx) (i : Instr) : State :=
  match i with
  | .seam _ => s
  | _ =>
    if c.F.ahead = [] && s.windows c i = [] then s
    else
      match s.frag? c.f with
      | none => s
      | some F =>
        if F.rwc = c.F.rwc && (F.fstate != .meeting || c.F.fstate == .meeting) then s
        else
          let wr := writesOf i
          let s1 := if c.F.ahead.any (fun a => a.dsts.meets ((s.readSet i).join wr) || a.srcs.meets wr) then s.count ctrLAVIOL c.W.core 1 else s
          s1.adjFrag c.f (fun F => { F with ahead := s.windows c i })

/-! ## Errors in a fragment's registers (R403, R404) -/

def inRuns (rs : List (Nat × Nat)) (n : Nat) : Bool := rs.any (fun r => r.1 ≤ n && n < r.1 + r.2)

/-- The lanes whose element of the fragment lies among some registers. -/
def Weak.lane (c : Ctx) (m : Mask) (r : Touched) : Weak → Mask
  | .vec w l n => if w = c.w && m.has l && inRuns r.vecs n then Mask.one l else 0
  | .pred w l n => if w = c.w && c.F.active.has l && r.preds.contains n then Mask.one l else 0
  | _ => 0

/-- The element is one of the fragment's own among some registers. -/
def Weak.own (c : Ctx) (r : Touched) : Weak → Bool
  | .scal f n => f == c.f && inRuns r.scals n
  | .tmp f n => f == c.f && r.tmps.contains n
  | .entry f => f == c.f
  | _ => false

/-- The array of an element, as records name it: a register bank, or another (R414). -/
def Weak.array : Weak → Nat
  | .vec _ _ _ => 6
  | .scal _ _ => 6
  | _ => 7

/-- An uncorrectable error of an on-chip array is found: one record, in which the bit of the word is open (R414). -/
def State.logArray (s : State) (c : Ctx) (e : Weak) : State :=
  { s with free := s.free + 1 }.logFrag c.T c.W c.F (match e with | .vec _ l _ => some l | .pred _ l _ => some l | _ => none) (kindWord 0 1 c.cls 0x04)
    (e.array + 256 * (Config.freeNat s.free % 64)) c.F.pc 0 0 0

def State.dropWeak (s : State) (p : Weak → Bool) : State := { s with rel := { s.rel with weak := s.rel.weak.filter (fun e => !p e) } }

/-- The instruction would read an element with an uncorrectable error: the fragment is lost, or the lanes that read one die, and the others
execute the instruction after that (R403, R404). -/
def State.consume (s : State) (c : Ctx) (i : Instr) : Option State :=
  if s.rel.weak = [] then none
  else
    let r := s.readSet i
    let found (p : Weak → Bool) : State := (s.rel.weak.filter p).foldl (fun s e => s.logArray c e) (s.dropWeak p)
    if s.rel.weak.any (Weak.own c r) then some ((found (Weak.own c r)).loseFragment c.f c.op 0 (some c.origin))
    else
      let m := s.rel.weak.foldl (fun m e => m ||| e.lane c (c.readers i) r) 0
      if m = 0 then none else some ((found (fun e => e.lane c (c.readers i) r != 0)).killLanes c.w m c.origin c.op 0)

/-- An instruction that has retired has written its destinations anew; a long-latency one is the next to write them, and nothing reads them
before (R32). `weak` are the errors that there were. -/
def State.rewrite (s : State) (weak : List Weak) (c : Ctx) (i : Instr) : State :=
  if weak = [] then s
  else
    match s.frag? c.f with
    | some F => if F.rwc = c.F.rwc then s else s.dropWeak (fun e => Weak.own c (writesOf i) e && e != .entry c.f || e.lane c (c.readers i) (writesOf i) != 0)
    | none => s

/-! ## Issue -/

/-- The instruction at the PC does what its body says, once every check before its effect has passed (R49). `early` are the checks of its
description that rank before the liners' (R409): those of Illegal Run and of Register Block that need the operands' values. -/
def Ctx.issueWith (c : Ctx) (i : Instr) (early : Ctx → State → Option Res) (body : Ctx → State → Res) (s : State) : State :=
  match offence c i with
  | some b => s.trapFrag c.f (illegal c i.word0 b) c.len
  | none =>
    match privilege c i with
    | some t => s.trapFrag c.f t c.len
    | none =>
      match runOffence c i (s.nextWord c) with
      | some t => s.trapFrag c.f t c.len
      | none =>
        match blockOffence c i with
        | some t => s.trapFrag c.f t c.len
        | none =>
          if interlocked c i s || tokenFull c i s then s
          else
            match s.consume c i with
            | some s1 => s1
            | none =>
              match early c s with
              | some r => c.finish s r
              | none =>
                match strike c i s with
                | .error t => (struck c i t s).trapFrag c.f t c.len
                | .ok s1 => ((c.run i body s1).lookahead c i).rewrite s.rel.weak c i

/-- An instruction without early checks of its own. -/
def noEarly (_ : Ctx) (_ : State) : Option Res := none

def Ctx.issue (c : Ctx) (i : Instr) (body : Ctx → State → Res) (s : State) : State := c.issueWith i noEarly body s

/-- The meaning of an instruction with early checks: its body, at the current fragment. -/
def issueChecked (i : Instr) (early : Ctx → State → Option Res) (body : Ctx → State → Res) (s : State) : Host.Outcome State Fault Refusal :=
  match s.cur with
  | none => .fault .noFragment
  | some f =>
    match s.ctxOf f i with
    | none => .fault .noFragment
    | some c => .next (c.issueWith i early body s)

/-- The meaning of an instruction: its body, at the current fragment. -/
def issue (i : Instr) (body : Ctx → State → Res) (s : State) : Host.Outcome State Fault Refusal := issueChecked i noEarly body s

end Sys2Proof.Machine
end

