-- ==== Sys2Proof/Machine/Agenda.lean ====
section
/-! DEFINITION. Machine/Agenda.lean: the fetch of the instruction that a fragment issues, and the state that is about to fetch one. -/

namespace Sys2Proof.Machine

/-- What fetching for a fragment ends in: the state alone, or an instruction to execute. -/
inductive Fetching where
  | stop (s : State)
  | go (i : Instr) (s : State)
deriving DecidableEq, Repr

/-- What `Frag.stop` holds while a fragment goes on from an address breakpoint. -/
def passing (pc : Word) : Option Nat := some (2 ^ 10 + pc.toNat)

/-- A breakpoint of the attached debugger is at the instruction, and the fragment is not going on from it (R420). -/
def State.breakHere (s : State) (c : Ctx) : Bool :=
  match Tbl.find s.debug c.t with
  | some d => d.breaks.contains c.F.pc && c.F.stop != passing c.F.pc
  | none => false

/-- The next instruction of a RUNNING fragment (R19, R20, R92). -/
def State.fetchFor (s : State) (f : Nat) : Fetching :=
  match s.ctxOf f (.instructionFetch) with
  | none => .stop s
  | some c =>
    if c.F.fstate != .running || c.T.where_ != .live || s.swapping c.W.core then .stop s
    else if s.breakHere c then .stop (s.halt f 0x11)
    else if s.awaitsEntries c then .stop s
    else if s.walkBusy (.core c.W.core) c.T.asid c.F.pc then .stop (s.awaitWalk c.W.core c.T.asid c.T.table c.F.pc)
    else
      match s.fetchInstr c.W.core c.T.asid c.T.table c.F.pc with
      | .poison va sec => .stop ((s.findErrors [sec]).loseFragment f 0x100 va none)
      | .fault e => .stop (s.fetchFault c e)
      | .ok bs =>
        let s0 := if c.F.stop.isSome && c.F.stop != passing c.F.pc then s.adjFrag f (fun F => { F with stop := none }) else s
        let s1 := { (s0.fillFetch c.W.core c.T.asid c.T.table (bs.length / 4) c.F.pc) with cur := some f }
        match decode bs with
        | .ok (i, _) => .go i s1
        | .error (.illegal w0 b) => .go (.reservedOpcode w0 (BitVec.ofNat 8 (rawOffence c bs b))) s1
        | .error .truncated => .stop s

/-! ## A machine that is about to fetch one instruction -/

/-- A header with nothing in it, for the team below. -/
def plainHeader : Header :=
  { entry := 0x100, flags := 0, lanes := 64, pclass := 1, scratch := 0x4000, roles := [⟨4, 8, 1, 8⟩], slots := 0, regions := 0, fuseto := 0,
    trapctl := 0, handler := 0x1000 }

/-- A team of one 64-lane wave on core 0 (R346). -/
def plainTeam : Team :=
  { grid := 0, id := 0, asid := 0, table := 0x10000, x := 0, y := 0, z := 0, ex := 1, ey := 1, ez := 1, placed := plainHeader,
    task := plainHeader, cores := [0], where_ := .live, quotas := [8, 0, 0, 0], racq := [], lost := false, shader := false, gate := 0, scratch := [], spoison := [],
    barriers := [], om := [], acc := [] }

def noQueues : Queues := ⟨[], [], [], [], []⟩

/-- A wave as R164 starts it: columns from `col0` on of a quadrant. -/
def startWave (team idx role roleIdx core quadrant col0 width base : Nat) : Wave :=
  { team := team, idx := idx, role := role, roleIdx := roleIdx, core := core, quadrant := quadrant, col0 := col0, width := width,
    live := Mask.first width, held := BitVec.ofNat 8 (2 ^ base - 1), vregs := [], preds := [], stack := [], storeq := [], admits := [], epoch := 0,
    queues := noQueues, failed := [], samples := [] }

/-- Fragment 0 of a wave at its start (R164, R351): every lane active, PARENT[4] set, the scalar registers that the launch gives. -/
def startFrag (wave entry : Nat) (pc : Word) (width : Nat) (scal : List Word) (h : Header) (age runs : Nat) : Frag :=
  { wave := wave, num := 0, entry := entry, parent := none, pc := pc, active := Mask.first width
    scal := scal.zipIdx.foldl (fun t e => Tbl.set 0 t e.2 e.1) [], tmp := [], tmpValid := 0, runCount := 0, mode := modeOfHeader h
    gang := BitVec.allOnes 64, tcause := 0, tpc := 0, tval := 0, tmask := 0, save := none, fstate := .ready, await := 0, late := []
    target := none, meet := none, age := age, waitFrom := runs, boost := none, rwc := 0, hold := none, gathered := false, stop := none
    marks := 0, gens := [], ahead := [] }

/-- Page tables of one executable page at virtual address 0: level 1 at 0x10000, level 2 at 0x20000, level 3 at 0x30000, page at
0x40000 (R80, R81). -/
def plainTables (m : Tbl Byte) : Tbl Byte :=
  writeNat (writeNat (writeNat m 0x10000 8 0x20001) 0x20000 8 0x30001) 0x30000 8 0x40033

/-- The state with a RUNNING fragment of a fresh team whose PC, 0x100, is where the bytes are stored. -/
def State.withCode (s : State) (bs : List Byte) : State :=
  let id := s.nextId
  { s with
    mem := writeBytes (plainTables s.mem) 0x40100 bs
    teams := Tbl.put s.teams id plainTeam
    waves := Tbl.put s.waves id (startWave id 0 0 0 0 0 0 64 8)
    frags := Tbl.put s.frags id { startFrag id 0 0x100 64 [] plainHeader id 0 with fstate := .running }
    nextId := id + 1
    agenda := [.issue id]
    ready := true }

end Sys2Proof.Machine
end

