-- ==== Sys2Proof/Machine/Header.lean ====
section
/-! DEFINITION. Machine/Header.lean: the kernel header (R64 to R68). -/

namespace Sys2Proof.Machine

/-- A little-endian field of a byte list. -/
def field (bs : List Byte) (off n : Nat) : Nat := bytesNat ((bs.drop off).take n)

/-- The exclusive or of the 32-bit words of a byte list. -/
def xorWords (bs : List Byte) : Nat := (List.range (bs.length / 4)).foldl (fun x i => x ^^^ field bs (4 * i) 4) 0

/-- A role descriptor in its range (R65). -/
def roleOk (r : RoleDesc) (reserved : Nat) : Bool :=
  r.width ≤ 4 && 1 ≤ r.base && r.base ≤ 8 && 1 ≤ r.count && r.count ≤ 1024 && r.count * r.base ≤ r.pool && r.pool ≤ r.count * 8 && reserved == 0

def roleAt (bs : List Byte) (k : Nat) : RoleDesc :=
  ⟨field bs (16 + 8 * k) 1, field bs (17 + 8 * k) 1, field bs (18 + 8 * k) 2, field bs (20 + 8 * k) 2⟩

/-- The header before an entry point, if it is valid (R67). An entry that is not 64-byte aligned (R64) counts as an invalid header: neither R67 nor R369
says what such a launch ends in (log entry 96). -/
def parseHeader (bs : List Byte) (entry : Word) : Option Header :=
  let nroles := field bs 0x0A 1
  let roles := (List.range nroles).map (roleAt bs)
  let h : Header :=
    { entry := entry, flags := field bs 0x06 2, lanes := field bs 0x08 2, pclass := field bs 0x0B 1, scratch := field bs 0x0C 4, roles := roles
      slots := field bs 0x30 1, regions := field bs 0x31 1, fuseto := field bs 0x32 1, trapctl := field bs 0x34 4
      handler := BitVec.ofNat 32 (field bs 0x38 4) }
  let ok := bs.length == 64 && field bs 0 4 == 0x31484D4B && field bs 4 2 == 1 && h.flags < 16 && 4 ≤ h.lanes && h.lanes ≤ 4096 &&
    1 ≤ nroles && nroles ≤ 4 && 1 ≤ h.pclass && h.pclass ≤ 3 && h.scratch % 16384 == 0 && h.scratch ≤ 458752 &&
    (List.range 4).all (fun k => if k < nroles then roleOk (roleAt bs k) (field bs (22 + 8 * k) 2) else field bs (16 + 8 * k) 8 == 0) &&
    h.slots ≤ 64 && h.regions ≤ 32 && h.fuseto ≤ 15 && field bs 0x33 1 == 0 && h.trapctl < 128 && h.handler.toNat % 4 == 0 && xorWords bs == 0 &&
    h.lanes == rolesLanes roles nroles && entry.toNat % 64 == 0
  if ok then some h else none

/-- The successor-compatible flag (R64). -/
def Header.successor (h : Header) : Bool := h.flags.testBit 3
/-- The persistent-capable flag (R64). -/
def Header.persistent (h : Header) : Bool := h.flags.testBit 2

/-- A successor header fits what the team holds (R68). -/
def successorFits (T : Team) (h : Header) : Bool :=
  h.successor && h.roles.length ≤ T.task.roles.length &&
  (h.roles.zip T.task.roles).all (fun p => p.1.width == p.2.width && p.1.count ≤ p.2.count && p.1.pool ≤ p.2.pool) &&
  h.lanes ≤ T.task.lanes && h.scratch ≤ T.placed.scratch && h.slots ≤ T.placed.slots && h.regions ≤ T.placed.regions

end Sys2Proof.Machine
end

