-- ==== Sys2Proof/Machine/Operands.lean ====
section
/-! DEFINITION. Machine/Operands.lean: how operands are read and results written (R24 to R27, R172, R178, R179, R184, R185). -/

namespace Sys2Proof.Machine

/-! ## Elements of a register (R172) -/

/-- Element `e` of width `w`, unsigned. -/
def elem (w : Nat) (v : Word) (e : Nat) : Nat := v.toNat / 2 ^ (w * e) % 2 ^ w

/-- An element's two's-complement value. -/
def toSigned (w n : Nat) : Int := if n < 2 ^ (w - 1) then n else (n : Int) - 2 ^ w

/-- Signed or unsigned (R184). -/
def elemInt (w : Nat) (sg : Bool) (v : Word) (e : Nat) : Int := if sg then toSigned w (elem w v e) else elem w v e

/-- A register from its elements, each taken modulo 2^w. -/
def packWith (w : Nat) (f : Nat → Nat) : Word :=
  BitVec.ofNat 64 ((List.range (64 / w)).foldl (fun n e => n + f e % 2 ^ w * 2 ^ (w * e)) 0)

/-- An integer modulo 2^w. -/
def wrap (w : Nat) (x : Int) : Nat := (x % 2 ^ w).toNat

/-! ## Reading -/

/-- An immediate replicated into every element of a tag (R25). -/
def immBits (tag : Nat) (n : Int) : Word := packWith (tagWidth tag) (fun _ => (immElem tag n).getD 0)

/-- A source's bits in a lane: a register, the immediate in the format `tag`, or the whole literal. -/
def Ctx.bits (c : Ctx) (x : ExtWord) (o : Operand) (tag lane : Nat) : Word :=
  match o.cls with
  | .vec => (c.W.reg lane o.num.toNat).val
  | .scal => c.F.scalar o.num.toNat
  | .tmp => Tbl.get 0 c.F.tmp o.num.toNat
  | .imm => if o.isLit then x.lit.getD 0 else immBits tag o.imm8
  | _ => 0

/-- How a found tag is read where another is expected (R178). -/
inductive TagRead where
  | asIs | convert | mismatch
deriving DecidableEq, Repr

/-- The tag table of R178. -/
def readTag (tc : Bool) (expect found : Nat) : TagRead :=
  let half (t : Nat) := t == 7 || t == 8
  let byte (t : Nat) := t == 9 || t == 10 || t == 12 || t == 13
  if found = expect || found = 0 then .asIs
  else if !tc && ((half expect && half found) || (byte expect && byte found)) then .convert
  else .mismatch

/-- A register read in a format that is not its own: each element converted with RNE, whatever MODE.FTZ holds (R178). -/
def convertReg (expect found : Nat) (v : Word) : Word × FFlags :=
  match fmtOf expect, fmtOf found with
  | some d, some f =>
    let w := tagWidth expect
    let r (e : Nat) := d.convert false 0 false 0 (f.decode (elem w v e))
    (packWith w (fun e => (r e).1), (List.range (64 / w)).foldl (fun fl e => fl ||| (r e).2) 0)
  | _, _ => (v, 0)

/-- A source of an instruction: its position (0 D, 1 A, 2 B, 3 C), the operand, the tag it is expected in (0 where it is read
untyped), and the format of an immediate. -/
structure Src where
  pos    : Nat
  o      : Operand
  expect : Nat
  fmt    : Nat
deriving DecidableEq, Repr

/-- A source read in a format, and one read untyped. -/
def src (pos : Nat) (o : Operand) (t : Nat) : Src := ⟨pos, o, t, t⟩
def rawSrc (pos : Nat) (o : Operand) (t : Nat) : Src := ⟨pos, o, 0, t⟩

/-- The tag found in a vector source. -/
def Ctx.tagIn (c : Ctx) (o : Operand) (lane : Nat) : Nat := (c.W.reg lane o.num.toNat).tag.toNat

/-- The source mismatches in a lane. -/
def Ctx.clashes (c : Ctx) (x : Src) (lane : Nat) : Bool :=
  x.o.cls == .vec && x.expect != 0 && readTag (modeTC c.F.mode) x.expect (c.tagIn x.o lane) == .mismatch

/-- Tag Mismatch (R179): over the lanes that read each source. The first operand with a mismatch is reported, and of its registers the first that
mismatches in the operand's lowest lane with one. -/
def Ctx.tagTrap (c : Ctx) (lanes : List Nat) (srcs : List Src) : Option Trap :=
  match srcs.find? (fun x => lanes.any (c.clashes x)) with
  | none => none
  | some x =>
    let l := (lanes.find? (fun l => srcs.any (fun y => y.pos == x.pos && c.clashes y l))).getD 0
    let x := (srcs.find? (fun y => y.pos == x.pos && c.clashes y l)).getD x
    let mask := Mask.ofList (lanes.filter (fun l => srcs.any (fun x => c.clashes x l)))
    some ⟨0x04, BitVec.ofNat 64 (2 ^ 56 + x.pos * 2 ^ 16 + x.expect * 2 ^ 12 + c.tagIn x.o l * 2 ^ 8 + x.o.num.toNat), mask, none, false, []⟩

/-- The value of a source in a lane, with the flags of a conversion on read. -/
def Ctx.value (c : Ctx) (x : ExtWord) (r : Src) (lane : Nat) : Word × FFlags :=
  let v := c.bits x r.o r.fmt lane
  if r.o.cls == .vec && r.expect != 0 && readTag (modeTC c.F.mode) r.expect (c.tagIn r.o lane) == .convert
  then convertReg r.expect (c.tagIn r.o lane) v else (v, 0)

/-- Signed 64-bit value of a scalar or immediate operand, for counts and offsets. -/
def Ctx.count (c : Ctx) (x : ExtWord) (o : Operand) : Word := c.bits x o 1 0

/-! ## Writing -/

/-- Write D: a vector register with a tag in some lanes, or a scalar or a temporary once. -/
def Ctx.write (c : Ctx) (d : Operand) (lanes : Mask) (val : Nat → Word) (tag : Nat → Tag) (s : State) : State :=
  match d.cls with
  | .vec => s.adjWave c.w (fun W => lanes.lanes.foldl (fun W l => W.setReg l d.num.toNat ⟨val l, tag l⟩) W)
  | .scal => s.adjFrag c.f (fun F => F.setScalar d.num.toNat (val 0))
  | .tmp => s.adjFrag c.f (fun F => F.setTmp d.num.toNat (val 0))
  | _ => s

/-- Write predicate D in some lanes. -/
def Ctx.writePred (c : Ctx) (p : Nat) (lanes : Mask) (val : Nat → Bool) (s : State) : State :=
  s.setPred c.w p lanes (Mask.ofList (lanes.lanes.filter val))

/-- The lanes in which an instruction is computed: the participating lanes, or one for a scalar D (R26). -/
def Ctx.lanesOf (c : Ctx) (x : ExtWord) : List Nat := if x.d.isScalar then [0] else (c.part x).lanes

end Sys2Proof.Machine
end

