-- ==== Sys2Proof/Machine/Flags.lean ====
section
/-! DEFINITION. Machine/Flags.lean: MODE's sticky flags and the FP exception trap (R170, R179), and the shape of an instruction that
computes one result a lane from its sources. -/

namespace Sys2Proof.Machine

/-- FP exception (R179): the enabled exceptions that some lane raised, and the lanes that raised one. -/
def Ctx.fpTrap (c : Ctx) (lanes : List Nat) (flags : Nat → FFlags) : Option Trap :=
  let en := modeEnables c.F.mode
  let raised := lanes.foldl (fun fl l => fl ||| flags l) 0 &&& en
  if raised = 0 then none
  else some ⟨0x14, raised.zeroExtend 64, Mask.ofList (lanes.filter (fun l => flags l &&& en != 0)), none, false, []⟩

/-- MODE's flags gain the exceptions of the participating lanes (R179). -/
def Ctx.setFlags (c : Ctx) (lanes : List Nat) (flags : Nat → FFlags) (s : State) : State :=
  s.adjFrag c.f (fun F => { F with mode := modeOrFlags F.mode (lanes.foldl (fun fl l => fl ||| flags l) 0) })

/-- The values of an instruction's sources in a lane, and the flags of their conversions. -/
def Ctx.values (c : Ctx) (x : ExtWord) (srcs : List Src) (l : Nat) : List Word × FFlags :=
  let vs := srcs.map (fun r => c.value x r l)
  (vs.map Prod.fst, vs.foldl (fun fl v => fl ||| v.2) 0)

/-- The result of an instruction in a lane: what `f` gives for the sources, with every flag. -/
def Ctx.result (c : Ctx) (x : ExtWord) (srcs : List Src) (f : Nat → List Word → Word × FFlags) (l : Nat) : Word × FFlags :=
  let vs := c.values x srcs l
  let r := f l vs.1
  (r.1, vs.2 ||| r.2)

/-- An instruction that computes D lane by lane: the tag check, the result and its flags, the FP exception trap, the write with
`tag`. `f` is given the lane and the values of the sources. R179 says that TMASK of an FP exception holds the lanes that raised it; a scalar D is
computed once and in no lane: that TMASK then holds ACTIVE is the model's choice (log entry 28). -/
def Ctx.compute (c : Ctx) (x : ExtWord) (srcs : List Src) (f : Nat → List Word → Word × FFlags) (tag : Nat → Tag) (s : State) : Res :=
  let lanes := c.lanesOf x
  match c.tagTrap lanes srcs with
  | some t => .trap t
  | none =>
    let r := c.result x srcs f
    match c.fpTrap lanes (fun l => (r l).2) with
    | some t => .trap (if x.d.isScalar then { t with mask := c.F.active } else t)
    | none => .done (c.setFlags lanes (fun l => (r l).2) (c.write x.d (c.part x) (fun l => (r l).1) tag s))

/-- An instruction that computes predicate D lane by lane. -/
def Ctx.computePred (c : Ctx) (x : ExtWord) (srcs : List Src) (f : List Word → Bool × FFlags) (s : State) : Res :=
  let lanes := (c.part x).lanes
  match c.tagTrap lanes srcs with
  | some t => .trap t
  | none =>
    let r (l : Nat) : Bool × FFlags := let vs := c.values x srcs l; let b := f vs.1; (b.1, vs.2 ||| b.2)
    match c.fpTrap lanes (fun l => (r l).2) with
    | some t => .trap t
    | none => .done (c.setFlags lanes (fun l => (r l).2) (c.writePred x.d.num.toNat (c.part x) (fun l => (r l).1) s))

/-- An integer result: no exception, no flag (R184). -/
def Ctx.compInt (c : Ctx) (x : ExtWord) (srcs : List Src) (f : List Word → Word) (tag : Nat → Tag) (s : State) : Res :=
  let lanes := c.lanesOf x
  match c.tagTrap lanes srcs with
  | some t => .trap t
  | none => .done (c.write x.d (c.part x) (fun l => f (c.values x srcs l).1) tag s)

/-- An integer predicate. -/
def Ctx.predInt (c : Ctx) (x : ExtWord) (srcs : List Src) (f : List Word → Bool) (s : State) : Res :=
  let lanes := (c.part x).lanes
  match c.tagTrap lanes srcs with
  | some t => .trap t
  | none => .done (c.writePred x.d.num.toNat (c.part x) (fun l => f (c.values x srcs l).1) s)

end Sys2Proof.Machine
end

