-- ==== Sys2Proof/Machine/Base.lean ====
section
/-! DEFINITION. Machine/Base.lean: SEAM, NOP, the base forms (R36, R37, R39, R40), emulation and reserved opcodes (R46, R51). -/

namespace Sys2Proof.Machine

/-! ## Bits of a value (R37, R190) -/

def popcount (w n : Nat) : Nat := ((List.range w).filter n.testBit).length
def leadingZeros (w n : Nat) : Nat := if n = 0 then w else w - 1 - Nat.log2 n
def trailingZeros (w n : Nat) : Nat := ((List.range w).find? n.testBit).getD w
def reverseBits (w n : Nat) : Nat := (List.range w).foldl (fun r i => if n.testBit i then r + 2 ^ (w - 1 - i) else r) 0

/-! ## The seam and padding -/

/-- One more run has completed in the quadrant (R381). -/
def State.runDone (s : State) (W : Wave) : State :=
  { s with sched := { s.sched with runs := Tbl.set 0 s.sched.runs (W.core * 4 + W.quadrant) (s.runsIn W + 1) } }

/-- SEAM (R39): the run ends; the next one is at the transfer's target or falls through, and awaits the listed tokens. With YIELD the
fragment is the youngest of its quadrant; a fragment that is not eligible at once is BLOCKED (R381). -/
def seamBody (w : SeamWord) (c : Ctx) (s : State) : Res :=
  let s1 := s.runDone c.W
  let eligible := s.tokensDone c.W c.F w.await
  .keep { (s1.adjFrag c.f (fun F => { F with
      pc := F.target.getD (F.pc + 4), target := none, tmpValid := 0, runCount := 0, rwc := F.rwc + 1, await := w.await
      fstate := if eligible then .ready else .blocked
      age := if w.yield then s.nextId else F.age
      waitFrom := s1.runsIn c.W, boost := none })) with nextId := s.nextId + 1 }

def execSeam (w : SeamWord) (s : State) : Host.Outcome State Fault Refusal := issue (.seam w) (seamBody w) s

/-- An instruction with no effect but the PC's advance (R40). -/
def noEffect (_ : Ctx) (s : State) : Res := .done s

def execNop (w : BaseWord) (s : State) : Host.Outcome State Fault Refusal := issue (.nop w) noEffect s
def execNopLong (w : NopWord) (s : State) : Host.Outcome State Fault Refusal := issue (.nopLong w) noEffect s

/-! ## Base forms -/

/-- A base form on vector registers (R37): every active lane's value and tag. -/
def baseVec (w : BaseWord) (f : VReg → VReg) (c : Ctx) (s : State) : Res :=
  .done (s.adjWave c.w (fun W => (c.lanes 0 false).lanes.foldl (fun W l => W.setReg l w.d.toNat (f (c.W.reg l w.a.toNat))) W))

/-- The immediate in X. -/
def baseImm (w : BaseWord) : Word := w.x.zeroExtend 64

def addI64 (v : Word) (r : VReg) : VReg := ⟨r.val + v, 1⟩
def subI64 (v : Word) (r : VReg) : VReg := ⟨r.val - v, 1⟩
def andBits (v : Word) (r : VReg) : VReg := ⟨r.val &&& v, r.tag⟩
def orBits (v : Word) (r : VReg) : VReg := ⟨r.val ||| v, r.tag⟩
def xorBits (v : Word) (r : VReg) : VReg := ⟨r.val ^^^ v, r.tag⟩
def shlI64 (v : Word) (r : VReg) : VReg := ⟨r.val <<< min v.toNat 64, 1⟩
def shrI64 (v : Word) (r : VReg) : VReg := ⟨r.val >>> min v.toNat 64, 1⟩
def sarI64 (v : Word) (r : VReg) : VReg := ⟨r.val.sshiftRight (min v.toNat 63), 1⟩

def execIaddBase (w : BaseWord) (s : State) : Host.Outcome State Fault Refusal := issue (.iaddBase w) (baseVec w (addI64 (baseImm w))) s
def execIaddBaseLit (w : BaseWord) (lit : Word) (s : State) : Host.Outcome State Fault Refusal := issue (.iaddBaseLit w lit) (baseVec w (addI64 lit)) s
def execIsubBase (w : BaseWord) (s : State) : Host.Outcome State Fault Refusal := issue (.isubBase w) (baseVec w (subI64 (baseImm w))) s
def execIsubBaseLit (w : BaseWord) (lit : Word) (s : State) : Host.Outcome State Fault Refusal := issue (.isubBaseLit w lit) (baseVec w (subI64 lit)) s
def execAndBase (w : BaseWord) (s : State) : Host.Outcome State Fault Refusal := issue (.andBase w) (baseVec w (andBits (baseImm w))) s
def execAndBaseLit (w : BaseWord) (lit : Word) (s : State) : Host.Outcome State Fault Refusal := issue (.andBaseLit w lit) (baseVec w (andBits lit)) s
def execOrBase (w : BaseWord) (s : State) : Host.Outcome State Fault Refusal := issue (.orBase w) (baseVec w (orBits (baseImm w))) s
def execOrBaseLit (w : BaseWord) (lit : Word) (s : State) : Host.Outcome State Fault Refusal := issue (.orBaseLit w lit) (baseVec w (orBits lit)) s
def execXorBase (w : BaseWord) (s : State) : Host.Outcome State Fault Refusal := issue (.xorBase w) (baseVec w (xorBits (baseImm w))) s
def execXorBaseLit (w : BaseWord) (lit : Word) (s : State) : Host.Outcome State Fault Refusal := issue (.xorBaseLit w lit) (baseVec w (xorBits lit)) s
def execShlBase (w : BaseWord) (s : State) : Host.Outcome State Fault Refusal := issue (.shlBase w) (baseVec w (shlI64 (baseImm w))) s
def execShlBaseLit (w : BaseWord) (lit : Word) (s : State) : Host.Outcome State Fault Refusal := issue (.shlBaseLit w lit) (baseVec w (shlI64 lit)) s
def execShrBase (w : BaseWord) (s : State) : Host.Outcome State Fault Refusal := issue (.shrBase w) (baseVec w (shrI64 (baseImm w))) s
def execShrBaseLit (w : BaseWord) (lit : Word) (s : State) : Host.Outcome State Fault Refusal := issue (.shrBaseLit w lit) (baseVec w (shrI64 lit)) s
def execSarBase (w : BaseWord) (s : State) : Host.Outcome State Fault Refusal := issue (.sarBase w) (baseVec w (sarI64 (baseImm w))) s
def execSarBaseLit (w : BaseWord) (lit : Word) (s : State) : Host.Outcome State Fault Refusal := issue (.sarBaseLit w lit) (baseVec w (sarI64 lit)) s

def notBits (r : VReg) : VReg := ⟨~~~r.val, r.tag⟩
def popcI64 (r : VReg) : VReg := ⟨BitVec.ofNat 64 (popcount 64 r.val.toNat), 1⟩
def clzI64 (r : VReg) : VReg := ⟨BitVec.ofNat 64 (leadingZeros 64 r.val.toNat), 1⟩
def ctzI64 (r : VReg) : VReg := ⟨BitVec.ofNat 64 (trailingZeros 64 r.val.toNat), 1⟩
def brevBits (r : VReg) : VReg := ⟨BitVec.ofNat 64 (reverseBits 64 r.val.toNat), r.tag⟩

def execNotBase (w : BaseWord) (s : State) : Host.Outcome State Fault Refusal := issue (.notBase w) (baseVec w notBits) s
def execPopcBase (w : BaseWord) (s : State) : Host.Outcome State Fault Refusal := issue (.popcBase w) (baseVec w popcI64) s
def execClzBase (w : BaseWord) (s : State) : Host.Outcome State Fault Refusal := issue (.clzBase w) (baseVec w clzI64) s
def execCtzBase (w : BaseWord) (s : State) : Host.Outcome State Fault Refusal := issue (.ctzBase w) (baseVec w ctzI64) s
def execBrevBase (w : BaseWord) (s : State) : Host.Outcome State Fault Refusal := issue (.brevBase w) (baseVec w brevBits) s
def execMovBase (w : BaseWord) (s : State) : Host.Outcome State Fault Refusal := issue (.movBase w) (baseVec w id) s

/-- MOVL's base form writes the literal with the tag in X. -/
def execMovlBaseLit (w : BaseWord) (lit : Word) (s : State) : Host.Outcome State Fault Refusal :=
  issue (.movlBaseLit w lit) (baseVec w (fun _ => ⟨lit, w.x⟩)) s

/-- A base form on predicates (R37). -/
def basePred (w : BaseWord) (f : Mask → Mask) (c : Ctx) (s : State) : Res :=
  .done (s.setPred c.w w.d.toNat (c.lanes 0 false) (f (c.W.pred w.a.toNat)))

def execPnotBase (w : BaseWord) (s : State) : Host.Outcome State Fault Refusal := issue (.pnotBase w) (basePred w (fun m => ~~~m)) s
def execPmovBase (w : BaseWord) (s : State) : Host.Outcome State Fault Refusal := issue (.pmovBase w) (basePred w id) s

/-! ## Emulation and reserved opcodes -/

/-- Opcode 0xFF with no hook installed: Illegal Instruction with TVAL[8] set; the instruction counts towards the length of the run, which the
trap save keeps (R51, R385). -/
def emulationBody (word0 : BitVec 32) (c : Ctx) (s : State) : Res :=
  .keep ((s.adjFrag c.f (fun F => { F with runCount := F.runCount + 1 })).takeTrap c.f
    (trapWhole c 0x01 (BitVec.ofNat 64 (word0.toNat * 2 ^ 32 + 0x104))) c.F.pc)

def execEmulationBase (w : BaseWord) (lit : Option Word) (s : State) : Host.Outcome State Fault Refusal :=
  issue (.emulationBase w lit) (emulationBody (Instr.emulationBase w lit).word0) s
def execEmulation (w : ExtWord) (s : State) : Host.Outcome State Fault Refusal :=
  issue (.emulation w) (emulationBody (Instr.emulation w).word0) s

/-- An encoding that the decoder rejects: Illegal Instruction, with word 0 and the offending bit (R48, R50). -/
def execReservedOpcode (word0 : BitVec 32) (bit : BitVec 8) (s : State) : Host.Outcome State Fault Refusal :=
  match s.cur with
  | none => .fault .noFragment
  | some f =>
    match s.ctxOf f (.reservedOpcode word0 bit) with
    | none => .fault .noFragment
    | some c => .next (s.trapFrag f (illegal c word0 bit.toNat) c.len)

end Sys2Proof.Machine
end

