-- ==== Sys2Proof/Machine/Integer.lean ====
section
/-! DEFINITION. Machine/Integer.lean: integer arithmetic, logic, shifts, bit fields, compares, moves and predicates (R182 to R197). -/

namespace Sys2Proof.Machine

/-- The first sources of an instruction in one format (R184). -/
def srcsIn (x : ExtWord) (n t : Nat) : List Src := [src 1 x.a t, src 2 x.b t, src 3 x.c t].take n

/-- A value of a list of sources. -/
def nth (vs : List Word) (k : Nat) : Word := vs.getD k 0

/-- FMT as a tag. -/
def fmtTag (x : ExtWord) (_ : Nat) : Tag := x.fmt

/-! ## Arithmetic (R187, R188) -/

/-- Clamp to the element's range (R188). -/
def clampInt (w : Nat) (sg : Bool) (x : Int) : Int :=
  if sg then max (-(2 ^ (w - 1))) (min x (2 ^ (w - 1) - 1)) else max 0 (min x (2 ^ w - 1))

/-- One element of the body of R188. -/
def intElem (w : Nat) (sg sat : Bool) (op : Int → Int → Int → Int) (vs : List Word) (e : Nat) : Nat :=
  let r := op (elemInt w sg (nth vs 0) e) (elemInt w sg (nth vs 1) e) (elemInt w sg (nth vs 2) e)
  wrap w (if sat then clampInt w sg r else r)

/-- The body of R188 over `n` sources. -/
def intBody (x : ExtWord) (n : Nat) (op : Int → Int → Int → Int) (c : Ctx) (s : State) : Res :=
  let w := tagWidth x.tag
  c.compInt x (srcsIn x n x.tag) (fun vs => packWith w (intElem w (x.mod.getLsbD 0) x.sat op vs)) (fmtTag x) s

def execIadd (w : ExtWord) (s : State) : Host.Outcome State Fault Refusal := issue (.iadd w) (intBody w 2 (fun a b _ => a + b)) s
def execIsub (w : ExtWord) (s : State) : Host.Outcome State Fault Refusal := issue (.isub w) (intBody w 2 (fun a b _ => a - b)) s
def execImul (w : ExtWord) (s : State) : Host.Outcome State Fault Refusal := issue (.imul w) (intBody w 2 (fun a b _ => a * b)) s

/-- The high half of a product. -/
def mulHigh (w : Nat) (a b _c : Int) : Int := a * b / 2 ^ w
def execImulh (w : ExtWord) (s : State) : Host.Outcome State Fault Refusal := issue (.imulh w) (intBody w 2 (mulHigh (tagWidth w.tag))) s
def execImad (w : ExtWord) (s : State) : Host.Outcome State Fault Refusal := issue (.imad w) (intBody w 3 (fun a b c => a * b + c)) s

/-- Division truncates toward zero; by zero it gives 2^w - 1 (R188). -/
def divOp (w : Nat) (a b _c : Int) : Int := if b = 0 then 2 ^ w - 1 else a.tdiv b
def remOp (a b _c : Int) : Int := if b = 0 then a else a - b * a.tdiv b
def execIdiv (w : ExtWord) (s : State) : Host.Outcome State Fault Refusal := issue (.idiv w) (intBody w 2 (divOp (tagWidth w.tag))) s
def execIrem (w : ExtWord) (s : State) : Host.Outcome State Fault Refusal := issue (.irem w) (intBody w 2 remOp) s
def execImin (w : ExtWord) (s : State) : Host.Outcome State Fault Refusal := issue (.imin w) (intBody w 2 (fun a b _ => min a b)) s
def execImax (w : ExtWord) (s : State) : Host.Outcome State Fault Refusal := issue (.imax w) (intBody w 2 (fun a b _ => max a b)) s
def execIabs (w : ExtWord) (s : State) : Host.Outcome State Fault Refusal := issue (.iabs w) (intBody w 1 (fun a _ _ => if a < 0 then -a else a)) s
def execIneg (w : ExtWord) (s : State) : Host.Outcome State Fault Refusal := issue (.ineg w) (intBody w 1 (fun a _ _ => -a)) s

/-- SAD (R188): the 64-bit C plus the sum of the elements' absolute differences, tagged I64. -/
def sadWord (w : Nat) (sg : Bool) (vs : List Word) : Word :=
  BitVec.ofNat 64 ((nth vs 2).toNat +
    (List.range (64 / w)).foldl (fun n e => n + (elemInt w sg (nth vs 0) e - elemInt w sg (nth vs 1) e).natAbs) 0)
def sadBody (x : ExtWord) (c : Ctx) (s : State) : Res :=
  c.compInt x [src 1 x.a x.tag, src 2 x.b x.tag, ⟨3, x.c, 1, 1⟩] (sadWord (tagWidth x.tag) (x.mod.getLsbD 0)) (fun _ => 1) s
def execSad (w : ExtWord) (s : State) : Host.Outcome State Fault Refusal := issue (.sad w) (sadBody w) s

/-! ## Carry chains (R189) -/

/-- The carry into a lane: a predicate, or the immediate. -/
def Ctx.carryIn (c : Ctx) (o : Operand) (l : Nat) : Nat :=
  match o.cls with
  | .pred => if (c.W.pred o.num.toNat).has l then 1 else 0
  | _ => (o.num &&& 1).toNat

/-- IADDC and ISUBB: the exact sum or difference; its carry or borrow goes to the predicate in MOD. -/
def carryBody (x : ExtWord) (op : Int → Int → Int → Int) (out : Int → Bool) (c : Ctx) (s : State) : Res :=
  let lanes := c.part x
  let srcs := [src 1 x.a 1, src 2 x.b 1]
  match c.tagTrap lanes.lanes srcs with
  | some t => .trap t
  | none =>
    let r (l : Nat) : Int := let vs := (c.values x srcs l).1; op (nth vs 0).toNat (nth vs 1).toNat (c.carryIn x.c l)
    .done (c.writePred (x.mod &&& 31).toNat lanes (fun l => out (r l))
      (c.write x.d lanes (fun l => BitVec.ofNat 64 (wrap 64 (r l))) (fun _ => 1) s))

def execIaddc (w : ExtWord) (s : State) : Host.Outcome State Fault Refusal :=
  issue (.iaddc w) (carryBody w (fun a b ci => a + b + ci) (fun r => decide (2 ^ 64 ≤ r))) s
def execIsubb (w : ExtWord) (s : State) : Host.Outcome State Fault Refusal :=
  issue (.isubb w) (carryBody w (fun a b ci => a - b - ci) (fun r => decide (r < 0))) s

/-- IMADC: the 128-bit product and sum, to D and D + 1. -/
def imadcBody (x : ExtWord) (c : Ctx) (s : State) : Res :=
  let lanes := c.part x
  let srcs := srcsIn x 3 1
  match c.tagTrap lanes.lanes srcs with
  | some t => .trap t
  | none =>
    let cin (l : Nat) : Nat := if x.mod.getLsbD 5 && (c.W.pred (x.mod &&& 31).toNat).has l then 1 else 0
    let r (l : Nat) : Nat := let vs := (c.values x srcs l).1; (nth vs 0).toNat * (nth vs 1).toNat + (nth vs 2).toNat + cin l
    .done (c.write { x.d with num := x.d.num + 1 } lanes (fun l => BitVec.ofNat 64 (r l / 2 ^ 64)) (fun _ => 1)
      (c.write x.d lanes (fun l => BitVec.ofNat 64 (r l)) (fun _ => 1) s))
def execImadc (w : ExtWord) (s : State) : Host.Outcome State Fault Refusal := issue (.imadc w) (imadcBody w) s

/-! ## Logic, shifts, counts (R190) -/

/-- The tag of a bitwise result: FMT, or A's tag under FMT 0. Where A is no vector register it carries no tag, and R190 names none: RAW is the
model's choice (log entry 98). -/
def Ctx.logicTag (c : Ctx) (x : ExtWord) (l : Nat) : Tag :=
  if x.fmt = 0 then (match x.a.cls with | .vec => (c.W.reg l x.a.num.toNat).tag | _ => 0) else x.fmt

/-- An operation on unsigned elements of width `w`. -/
def natBody (x : ExtWord) (n : Nat) (op : Nat → Nat → Nat → Nat → Nat) (c : Ctx) (s : State) : Res :=
  let w := tagWidth x.tag
  c.compInt x (srcsIn x n x.tag) (fun vs => packWith w (fun e => op w (elem w (nth vs 0) e) (elem w (nth vs 1) e) (elem w (nth vs 2) e)))
    (c.logicTag x) s

def execAnd (w : ExtWord) (s : State) : Host.Outcome State Fault Refusal := issue (.and w) (natBody w 2 (fun _ a b _ => a &&& b)) s
def execOr (w : ExtWord) (s : State) : Host.Outcome State Fault Refusal := issue (.or w) (natBody w 2 (fun _ a b _ => a ||| b)) s
def execXor (w : ExtWord) (s : State) : Host.Outcome State Fault Refusal := issue (.xor w) (natBody w 2 (fun _ a b _ => a ^^^ b)) s
def execNot (w : ExtWord) (s : State) : Host.Outcome State Fault Refusal := issue (.not w) (natBody w 1 (fun w a _ _ => 2 ^ w - 1 - a)) s
def execAndn (w : ExtWord) (s : State) : Host.Outcome State Fault Refusal := issue (.andn w) (natBody w 2 (fun w a b _ => a &&& (2 ^ w - 1 - b))) s

/-- BLUT: bit i is bit 4 a_i + 2 b_i + c_i of the table. -/
def lutOp (lut w a b c : Nat) : Nat :=
  (List.range w).foldl (fun r i =>
    if lut.testBit ((if a.testBit i then 4 else 0) + (if b.testBit i then 2 else 0) + (if c.testBit i then 1 else 0)) then r + 2 ^ i else r) 0
def execBlut (w : ExtWord) (s : State) : Host.Outcome State Fault Refusal :=
  issue (.blut w) (natBody w 3 (lutOp (w.sub.toNat * 16 + w.x.toNat))) s

def execShl (w : ExtWord) (s : State) : Host.Outcome State Fault Refusal := issue (.shl w) (natBody w 2 (fun w a b _ => a * 2 ^ min b w)) s
def execShr (w : ExtWord) (s : State) : Host.Outcome State Fault Refusal := issue (.shr w) (natBody w 2 (fun w a b _ => a / 2 ^ min b w)) s
def execSar (w : ExtWord) (s : State) : Host.Outcome State Fault Refusal :=
  issue (.sar w) (natBody w 2 (fun w a b _ => wrap w (toSigned w a / 2 ^ min b (w - 1)))) s

/-- Rotation left by k modulo the width. -/
def rotl (w a k : Nat) : Nat := a * 2 ^ (k % w) % 2 ^ w + a / 2 ^ (w - k % w)
def execRot (w : ExtWord) (s : State) : Host.Outcome State Fault Refusal :=
  issue (.rot w) (natBody w 2 (fun n a b _ => rotl n a (if w.sub.getLsbD 0 then n - b % n else b % n))) s
def execFshl (w : ExtWord) (s : State) : Host.Outcome State Fault Refusal :=
  issue (.fshl w) (natBody w 3 (fun w a b c => (a * 2 ^ w + b) * 2 ^ (c % w) / 2 ^ w)) s
def execFshr (w : ExtWord) (s : State) : Host.Outcome State Fault Refusal :=
  issue (.fshr w) (natBody w 3 (fun w a b c => (a * 2 ^ w + b) / 2 ^ (c % w))) s
def execPopc (w : ExtWord) (s : State) : Host.Outcome State Fault Refusal := issue (.popc w) (natBody w 1 (fun w a _ _ => popcount w a)) s
def execClz (w : ExtWord) (s : State) : Host.Outcome State Fault Refusal := issue (.clz w) (natBody w 1 (fun w a _ _ => leadingZeros w a)) s
def execCtz (w : ExtWord) (s : State) : Host.Outcome State Fault Refusal := issue (.ctz w) (natBody w 1 (fun w a _ _ => trailingZeros w a)) s
def execBrev (w : ExtWord) (s : State) : Host.Outcome State Fault Refusal := issue (.brev w) (natBody w 1 (fun w a _ _ => reverseBits w a)) s

/-! ## Bit fields (R191, R192) -/

/-- The position and length that a control element gives. -/
def fieldPos (k : Nat) : Nat := k % 256
def fieldLen (w k : Nat) : Nat := if w ≤ fieldPos k then 0 else min (k / 256 % 256) (w - fieldPos k)

/-- BFX: the field, sign-extended where it is signed and not empty. -/
def bfxOp (sg : Bool) (w a k _c : Nat) : Nat :=
  let f := a / 2 ^ fieldPos k % 2 ^ fieldLen w k
  if sg && 0 < fieldLen w k then wrap w (toSigned (fieldLen w k) f) else f

/-- BFI: the field of a replaced by the low bits of b. -/
def bfiOp (w a b k : Nat) : Nat :=
  let p := 2 ^ fieldPos k
  let q := 2 ^ fieldLen w k
  a % p + b % q * p + a / (p * q) * (p * q)

def execBfx (w : ExtWord) (s : State) : Host.Outcome State Fault Refusal := issue (.bfx w) (natBody w 2 (bfxOp (w.mod.getLsbD 0))) s
def execBfi (w : ExtWord) (s : State) : Host.Outcome State Fault Refusal := issue (.bfi w) (natBody w 3 bfiOp) s

/-- BSWZ: each result byte is zero, or the pool byte that its selector names. -/
def bswzWord (vs : List Word) : Word :=
  let pool := (nth vs 0).toNat + (nth vs 1).toNat * 2 ^ 64
  let k := (nth vs 2).toNat
  packWith 8 (fun i => if k.testBit (32 + i) then 0 else pool / 2 ^ (8 * (k / 2 ^ (4 * i) % 16)) % 256)
def bswzBody (x : ExtWord) (c : Ctx) (s : State) : Res :=
  c.compInt x [rawSrc 1 x.a x.tag, rawSrc 2 x.b x.tag, rawSrc 3 x.c x.tag] bswzWord (fmtTag x) s
def execBswz (w : ExtWord) (s : State) : Host.Outcome State Fault Refusal := issue (.bswz w) (bswzBody w) s

/-! ## Compare, select, move (R193 to R196) -/

/-- The six conditions. -/
def cond (k : Nat) (a b : Int) : Bool :=
  match k with
  | 0 => a == b | 1 => a != b | 2 => decide (a < b) | 3 => decide (a ≤ b) | 4 => decide (b < a) | _ => decide (b ≤ a)

/-- All the elements of a register, or any of them. -/
def overElems (w : Nat) (any : Bool) (p : Nat → Bool) : Bool := if any then (List.range (64 / w)).any p else (List.range (64 / w)).all p

def icmpBody (x : ExtWord) (c : Ctx) (s : State) : Res :=
  let w := tagWidth x.tag
  let holds (vs : List Word) (e : Nat) : Bool :=
    cond (x.sub &&& 7).toNat (elemInt w (x.mod.getLsbD 0) (nth vs 0) e) (elemInt w (x.mod.getLsbD 0) (nth vs 1) e)
  if x.d.cls == .pred then c.predInt x (srcsIn x 2 x.tag) (fun vs => overElems w (x.mod.getLsbD 1) (holds vs)) s
  else c.compInt x (srcsIn x 2 x.tag) (fun vs => packWith w (fun e => if holds vs e then 2 ^ w - 1 else 0)) (fmtTag x) s
def execIcmp (w : ExtWord) (s : State) : Host.Outcome State Fault Refusal := issue (.icmp w) (icmpBody w) s

/-- The tag that travels with a copied operand: a vector register's own, else RAW. -/
def Ctx.copyTag (c : Ctx) (o : Operand) (other : Tag) (l : Nat) : Tag :=
  match o.cls with
  | .vec => (c.W.reg l o.num.toNat).tag
  | _ => other

/-- PICK: A where the predicate holds, else B, each with its tag. -/
def pickBody (x : ExtWord) (c : Ctx) (s : State) : Res :=
  let p (l : Nat) : Operand := if (c.W.pred x.c.num.toNat).has l then x.a else x.b
  .done (c.write x.d (c.part x) (fun l => c.bits x (p l) 0 l) (fun l => c.copyTag (p l) 0 l) s)
def execPick (w : ExtWord) (s : State) : Host.Outcome State Fault Refusal := issue (.pick w) (pickBody w) s

/-- A queue of completion records (R131). -/
def Queues.records (q : Queues) (n : Nat) : List Word :=
  match n with
  | 4 => q.q4 | 5 => q.q5 | 6 => q.q6 | _ => q.q7
def Queues.setRecords (q : Queues) (n : Nat) (l : List Word) : Queues :=
  match n with
  | 4 => { q with q4 := l } | 5 => { q with q5 := l } | 6 => { q with q6 := l } | _ => { q with q7 := l }

/-- Queue Fault (R133). -/
def queueFault (c : Ctx) (sub v : Nat) : Trap := trapWhole c 0x15 (tvalSub sub v)

/-- MOV (R132, R195): a copy, a pop of one entry, or a push that no queue takes. -/
def movBody (x : ExtWord) (c : Ctx) (s : State) : Res :=
  if x.d.cls == .queue then .trap (queueFault c 0x01 x.d.num.toNat)
  else if x.a.cls == .queue then
    let n := x.a.num.toNat
    if n < 4 then .trap (queueFault c 0x01 n)
    else
      match c.W.queues.records n with
      | [] => .unselect
      | v :: rest =>
        .done (c.write x.d (c.part x) (fun _ => v) (fun _ => 0)
          (s.adjWave c.w (fun W => { W with queues := W.queues.setRecords n rest })))
  else .done (c.write x.d (c.part x) (c.bits x x.a x.tag) (c.copyTag x.a x.fmt) s)
def execMov (w : ExtWord) (s : State) : Host.Outcome State Fault Refusal := issue (.mov w) (movBody w) s

def movlBody (x : ExtWord) (c : Ctx) (s : State) : Res :=
  .done (c.write x.d (c.part x) (fun _ => x.lit.getD 0) (fun _ => x.x) s)
def execMovl (w : ExtWord) (s : State) : Host.Outcome State Fault Refusal := issue (.movl w) (movlBody w) s

/-- LEA: base plus scaled index plus displacement, modulo 2^64. -/
def leaWord (k : Nat) (vs : List Word) : Word := nth vs 0 + nth vs 1 * BitVec.ofNat 64 (2 ^ k) + nth vs 2
def leaBody (x : ExtWord) (c : Ctx) (s : State) : Res := c.compInt x (srcsIn x 3 1) (leaWord (x.x &&& 3).toNat) (fun _ => 1) s
def execLea (w : ExtWord) (s : State) : Host.Outcome State Fault Refusal := issue (.lea w) (leaBody w) s

/-! ## Predicates (R197) -/

/-- A predicate operand, inverted where a MOD bit says so. -/
def Ctx.predIn (c : Ctx) (o : Operand) (inv : Bool) : Mask := if inv then ~~~(c.W.pred o.num.toNat) else c.W.pred o.num.toNat

def predBody (x : ExtWord) (val : Ctx → Mask) (c : Ctx) (s : State) : Res := .done (s.setPred c.w x.d.num.toNat (c.part x) (val c))

def execPand (w : ExtWord) (s : State) : Host.Outcome State Fault Refusal :=
  issue (.pand w) (predBody w (fun c => c.predIn w.a (w.mod.getLsbD 0) &&& c.predIn w.b (w.mod.getLsbD 1))) s
def execPor (w : ExtWord) (s : State) : Host.Outcome State Fault Refusal :=
  issue (.por w) (predBody w (fun c => c.predIn w.a (w.mod.getLsbD 0) ||| c.predIn w.b (w.mod.getLsbD 1))) s
def execPxor (w : ExtWord) (s : State) : Host.Outcome State Fault Refusal :=
  issue (.pxor w) (predBody w (fun c => c.predIn w.a (w.mod.getLsbD 0) ^^^ c.predIn w.b (w.mod.getLsbD 1))) s
def execPnot (w : ExtWord) (s : State) : Host.Outcome State Fault Refusal := issue (.pnot w) (predBody w (fun c => c.predIn w.a true)) s
def execPmov (w : ExtWord) (s : State) : Host.Outcome State Fault Refusal := issue (.pmov w) (predBody w (fun c => c.predIn w.a false)) s

/-- PSET: a register that is not zero, a bit of a scalar, or an immediate that is not zero. -/
def psetMask (x : ExtWord) (c : Ctx) : Mask :=
  match x.a.cls with
  | .scal => c.F.scalar x.a.num.toNat
  | _ => Mask.ofPred (fun l => c.bits x x.a 1 l != 0)
def execPset (w : ExtWord) (s : State) : Host.Outcome State Fault Refusal := issue (.pset w) (predBody w (psetMask w)) s

end Sys2Proof.Machine
end

