-- ==== Sys2Proof/Machine/Control.lean ====
section
/-! DEFINITION. Machine/Control.lean: control transfers, divergence, reconvergence, ELECT, EXIT (R198 to R208), and the
forced fuse (R358 to R361). -/

namespace Sys2Proof.Machine

/-! ## Targets (R42, R199) -/

/-- The next run start of a fall-through: past the transfer and its seam (R200). -/
def Ctx.nextPc (c : Ctx) : Word := c.F.pc + BitVec.ofNat 64 (c.len + 4)

/-- A word is a seam whose reserved bits are zero (R42). -/
def isSeamWord (v : BitVec 32) : Bool := v.extractLsb' 0 2 == 0 && v.extractLsb' 4 8 == 1 && v.extractLsb' 29 3 == 0

/-- AWAIT of the seam that follows the transfer (R39, R201). -/
def State.seamAwait (s : State) (c : Ctx) : BitVec 16 :=
  match s.nextWord c with
  | some v => v.extractLsb' 12 16
  | none => 0

/-- What the check of targets finds: nothing, a trap, or a page that the host services, with the lanes whose targets meet it. -/
inductive TargetCheck where
  | ok
  | trap (t : Trap)
  | host (e : LaneFault) (lanes : Mask)
deriving DecidableEq, Repr

/-- The check of one target (R42, R199). -/
def State.checkTarget (s : State) (c : Ctx) (target : Word) : TargetCheck :=
  if target.toNat % 4 != 0 then .trap (illegalRun c 0x03 target)
  else
    match s.fetchWords c.W.core c.T.asid c.T.table 1 (target - 4) with
    | .fault e => if e.x.host then .host e c.F.active else .trap (faultTrap c e)
    | .poison va _ => .trap (trapWhole c 0x06 (tvalSub 0x06 va.toNat))
    | .ok [b0, b1, b2, b3] => if isSeamWord (wordOfBytes b0 b1 b2 b3) then .ok else .trap (illegalRun c 0x03 target)
    | .ok _ => .trap (illegalRun c 0x03 target)

/-- The check of the targets of some lanes: TMASK holds the failing lanes, and TVAL is the lowest lane's (R199). -/
def State.checkTargets (s : State) (c : Ctx) (lanes : List Nat) (target : Nat → Word) (perLane : Bool) : TargetCheck :=
  let bad := lanes.filter (fun l => s.checkTarget c (target l) != .ok)
  match bad with
  | [] => .ok
  | l :: _ =>
    match bad.filterMap (fun l => match s.checkTarget c (target l) with | .host e m => some (l, e, m) | _ => none) with
    | (k, e, m) :: more => .host e (if perLane then Mask.ofList (k :: more.map Prod.fst) else m)
    | [] =>
      match s.checkTarget c (target l) with
      | .trap t => .trap (if perLane then { t with mask := Mask.ofList bad } else t)
      | r => r

/-- A fault of the fragment's own read that the host services: the team parks and nothing is performed (R89, R389). -/
def State.parkFor (s : State) (c : Ctx) (kind : Nat) (e : LaneFault) (mask : Mask) : State :=
  s.park c.t [⟨vaPage e.va, kind⟩] [(c.f, ⟨0x06, e.tval, mask, none, false, []⟩)]

/-! ## Divergence (R201 to R203) -/

/-- The groups of a transfer: the lanes that fall through first, then one for each target in order of its lowest lane. -/
def groupsOf (fall : Mask) (next : Word) (lanes : List Nat) (target : Nat → Word) : List (Mask × Word) :=
  let gs := lanes.foldl (fun (gs : List (Mask × Word)) l =>
    if gs.any (fun g => g.2 == target l) then gs.map (fun g => if g.2 == target l then (g.1 ||| Mask.one l, g.2) else g)
    else gs ++ [(Mask.one l, target l)]) []
  if fall = 0 then gs else (fall, next) :: gs

/-- Later groups become fragments while splitting is permitted; the rest are left over. -/
def State.splitGroups (s : State) (c : Ctx) (await : BitVec 16) : List (Mask × Word) → State × List (Mask × Word)
  | [] => (s, [])
  | g :: gs =>
    match s.splitOff c.f g.1 with
    | none => (s, g :: gs)
    | some (n, s1) =>
      let s2 := s1.adjFrag n (fun F => { F.beginRun g.2 await F.age F.waitFrom with active := g.1 })
      s2.splitGroups c await gs

/-- A divergent transfer: the fragment keeps the first group, later groups split off or wait on the stack (R201). -/
def State.diverge (s : State) (c : Ctx) (groups : List (Mask × Word)) : Res :=
  match groups with
  | [] => .done s
  | [g] => .done (s.adjFrag c.f (fun F => { F with target := some g.2 }))
  | g :: rest =>
    let await := s.seamAwait c
    let r := s.splitGroups c await rest
    if 32 < c.W.stack.length + r.2.length then .trap (trapWhole c 0x17 0)
    else
      let entries := r.2.map (fun g => (⟨c.F.num, false, g.1, g.2, await⟩ : StackEntry))
      .done ((r.1.adjWave c.w (fun W => { W with stack := entries ++ W.stack })).adjFrag c.f
        (fun F => { F with active := g.1, target := some g.2 }))

/-- What ends a transfer whose targets fail a check. -/
def State.targetRes (s : State) (c : Ctx) (k : TargetCheck) : Option Res :=
  match k with
  | .ok => none
  | .trap t => some (.trap t)
  | .host e m => some (.keep (s.parkFor c 3 e m))

/-- Illegal Run of a target ranks before the liners' causes, a fault on reading the word before the target after them (R49, R199, R409). -/
def earlyTarget (k : TargetCheck) : Option Res :=
  match k with
  | .trap t => if t.cause = 0x02 then some (.trap t) else none
  | _ => none

/-- A transfer of the participating lanes to their targets (R198 to R201). -/
def transferBody (x : ExtWord) (target : Ctx → Nat → Word) (perLane : Bool) (c : Ctx) (s : State) : Res :=
  let part := c.part x
  match s.targetRes c (s.checkTargets c part.lanes (target c) perLane) with
  | some r => r
  | none => s.diverge c (groupsOf (c.F.active &&& ~~~part) c.nextPc part.lanes (target c))

/-- A class-6 offset from the transfer's own address (R198). -/
def Ctx.offsetTarget (c : Ctx) (x : ExtWord) : Word := c.F.pc + c.bits x x.a 0 0

/-- The meaning of a transfer, with the check of its targets. -/
def issueTransfer (i : Instr) (x : ExtWord) (target : Ctx → Nat → Word) (perLane : Bool) (s : State) : Host.Outcome State Fault Refusal :=
  issueChecked i (fun c s => earlyTarget (s.checkTargets c (c.part x).lanes (target c) perLane)) (transferBody x target perLane) s

def execBra (w : ExtWord) (s : State) : Host.Outcome State Fault Refusal := issueTransfer (.bra w) w (fun c _ => c.offsetTarget w) false s
def execBrx (w : ExtWord) (s : State) : Host.Outcome State Fault Refusal :=
  issueTransfer (.brx w) w (fun c l => c.bits w w.a 0 l) (w.a.cls == .vec) s
def execRetn (w : ExtWord) (s : State) : Host.Outcome State Fault Refusal :=
  issueTransfer (.retn w) w (fun c _ => c.F.scalar w.a.num.toNat) false s

/-- CALL's target: an offset, or a scalar register read before the link is written (R200). -/
def callTarget (x : ExtWord) (c : Ctx) : Word := if x.a.cls == .imm then c.offsetTarget x else c.F.scalar x.a.num.toNat

/-- CALL (R200): the link, then the transfer. -/
def callBody (x : ExtWord) (c : Ctx) (s : State) : Res :=
  match s.targetRes c (s.checkTarget c (callTarget x c)) with
  | some r => r
  | none => .done (s.adjFrag c.f (fun F => { F.setScalar x.d.num.toNat c.nextPc with target := some (callTarget x c) }))
def execCall (w : ExtWord) (s : State) : Host.Outcome State Fault Refusal :=
  issueChecked (.call w) (fun c s => earlyTarget (s.checkTarget c (callTarget w c))) (callBody w) s

/-- LOOP (R200): the counter falls by one; the transfer is taken while it is not 0. -/
def loopBody (x : ExtWord) (c : Ctx) (s : State) : Res :=
  let v := c.F.scalar x.d.num.toNat - 1
  match s.targetRes c (s.checkTarget c (c.offsetTarget x)) with
  | some r => r
  | none => .done (s.adjFrag c.f (fun F => { F.setScalar x.d.num.toNat v with target := if v = 0 then none else some (c.offsetTarget x) }))
def execLoop (w : ExtWord) (s : State) : Host.Outcome State Fault Refusal :=
  issueChecked (.loop w) (fun c s => earlyTarget (s.checkTarget c (c.offsetTarget w))) (loopBody w) s

/-! ## Fusing (R162, R206) -/

/-- A mark added at a step to a set of at most 8, one an address, oldest first: the oldest is displaced (R361). -/
def addLate (l : List (Word × Nat)) (m : Word × Nat) : List (Word × Nat) :=
  let older := (l.filter (fun x => x.1 != m.1)).span (fun x => x.2 ≤ m.2)
  let l1 := older.1 ++ m :: older.2
  l1.drop (l1.length - 8)

/-- The late marks of a forced fuse: the union, of which the 8 most recently added are kept (R361). -/
def joinLate (fs : List (Nat × Frag)) : List (Word × Nat) :=
  (fs.flatMap (fun e => e.2.late)).foldl (fun l m => if l.any (fun x => x.1 == m.1 && m.2 ≤ x.2) then l else addLate l m) []

/-- A fragment holds a late mark for an address. -/
def Frag.lateAt (F : Frag) (a : Word) : Bool := F.late.any (fun m => m.1 == a)

/-- The member that holds the lowest-numbered lane. -/
def primaryOf (fs : List (Nat × Frag)) : Option (Nat × Frag) :=
  (List.range 64).findSome? (fun l => fs.find? (fun e => e.2.active.has l))

/-- An outstanding instruction of a fuse: what it has issued stands before all that the fused fragment does later (R331), a scalar result
of the primary member is the fused fragment's, and one of another member is not (R206). `joint` holds the lanes of every member. -/
def Pend.fused (p : Pend) (primary joint : Mask) : Pend :=
  if p.own &&& joint = 0 then p
  else
    let p1 := { p with own := p.own ||| joint }
    match p.dst with
    | .scal _ _ => if p.lanes &&& primary = 0 then { p1 with dst := .none } else { p1 with lanes := p.lanes ||| joint }
    | _ => p1

/-- Fuse some fragments of a wave into the primary member (R33, R206). -/
def State.fuse (s : State) (w : Nat) (fs : List (Nat × Frag)) (forced : Bool) : State :=
  match primaryOf fs, s.wave? w with
  | some p, some W =>
    let others := fs.filter (fun e => e.1 != p.1)
    let nums := others.map (fun e => e.2.num)
    let F : Frag := { p.2 with
      active := fs.foldl (fun m e => m ||| e.2.active) 0
      mode := others.foldl (fun m e => modeOrFlags m (modeFlags e.2.mode)) p.2.mode
      late := if forced then joinLate fs else []
      marks := fs.foldl (fun m e => m ||| e.2.marks) 0
      gens := others.foldl (fun g e => e.2.gens.foldl (fun g k => Tbl.set 0 g k.1 (max (Tbl.get 0 g k.1) k.2)) g) p.2.gens
      tmpValid := 0 }
    let mine := heldLanes W p.2
    let joint := fs.foldl (fun m e => m ||| heldLanes W e.2) 0
    let entry (e : StoreEntry) : StoreEntry := if e.own &&& joint = 0 then e else { e with own := e.own ||| joint }
    let s1 := s.adjWave w (fun W => { W with
      stack := W.stack.map (fun e => if nums.contains e.owner then { e with owner := p.2.num } else e)
      storeq := W.storeq.map entry, admits := W.admits.map entry })
    { s1 with
      frags := (List.filter (fun e => !(others.map Prod.fst).contains e.1) s1.frags).map (fun e => if e.1 = p.1 then (e.1, F) else e)
      pend := List.map (fun e => if e.2.wave == w then (e.1, e.2.fused mine joint) else e) s1.pend }
  | _, _ => s

/-- The fused fragment passes its RCV or FUSE; FUSE's predicate says whether the whole wave is together (R206). -/
def State.passMeet (s : State) (w f : Nat) (m : Meet) (run : Bool) : State :=
  match s.frag? f, s.wave? w with
  | some F, some W =>
    let s1 := match m.pred with
      | some p => s.setPred w p F.active (if F.active = W.live then BitVec.allOnes 64 else 0)
      | none => s
    let passed := s1.adjFrag f (fun F => { F.pass m.len with meet := none, fstate := .running })
    if run then passed else passed.readyNow f
  | _, _ => s

/-- The fragments of a wave that wait in a meeting set. -/
def State.waiting (s : State) (w : Nat) (k : MeetKind) : List (Nat × Frag) :=
  (s.fragsOf w).filter (fun e => e.2.fstate == .meeting && (match e.2.meet with | some m => m.kind == k | none => false))

/-- Decide a fuse at RCV or FUSE: the members then waiting fuse, and the fused fragment goes on (R205, R206). `here` is the fragment
that issues now, if one does. -/
def State.decideFuse (s : State) (w : Nat) (k : MeetKind) (here : Option Nat) : State :=
  let fs := s.waiting w k
  match primaryOf fs with
  | none => s
  | some p =>
    match p.2.meet with
    | none => s
    | some m => (s.fuse w fs false).passMeet w p.1 m (here == some p.1)

/-- Every fragment of the wave waits in the same set. -/
def State.allWaiting (s : State) (w : Nat) (k : MeetKind) : Bool := (s.waiting w k).length == (s.fragsOf w).length

/-- The timeout code of RCV and FUSE (R204). -/
def timeoutCode (x : ExtWord) (F : Frag) : Nat := if x.sub.getLsbD 0 then modeFTO F.mode else x.x.toNat

/-- A fragment reaches its meeting point after R202 (R205); in a handler it fuses alone and at once (R354). -/
def State.arrive (s : State) (c : Ctx) (k : MeetKind) (tmo : Nat) (pred : Option Nat) : State :=
  let m : Meet := ⟨k, tmo, 0, pred, c.len, false⟩
  if c.F.save.isSome then (s.adjFrag c.f (fun F => { F with late := [] })).passMeet c.w c.f m true
  else
    let s1 := s.adjFrag c.f (fun F => { F with fstate := .meeting, meet := some m })
    if s1.allWaiting c.w k then s1.decideFuse c.w k (some c.f) else s1

/-- RCV and FUSE (R202, R205): the top own stack entry is served first. -/
def meetBody (x : ExtWord) (k : MeetKind) (pred : Option Nat) (c : Ctx) (s : State) : Res :=
  let tmo := timeoutCode x c.F
  match c.W.stack.find? (fun e => e.owner == c.F.num) with
  | some e =>
    if !e.parked then
      let parked : StackEntry := ⟨c.F.num, true, c.F.active, c.F.pc, 0⟩
      let s1 := s.adjWave c.w (fun W => { W with stack := W.stack.map (fun y => if y = e then parked else y) })
      .keep { (s1.adjFrag c.f (fun F => { F.beginRun e.pc e.await s.nextId (s.runsIn c.W) with active := e.lanes })) with nextId := s.nextId + 1 }
    else if e.pc = c.F.pc then
      let s1 := s.adjWave c.w (fun W => { W with stack := W.stack.erase e })
      .keep ((s1.adjFrag c.f (fun F => { F with active := F.active ||| e.lanes })).arrive c k tmo pred)
    else .keep (s.arrive c k tmo pred)
  | none => .keep (s.arrive c k tmo pred)

def execRcv (w : ExtWord) (s : State) : Host.Outcome State Fault Refusal := issue (.rcv w) (meetBody w (.rcv w.a.num.toNat) none) s
def execFuse (w : ExtWord) (s : State) : Host.Outcome State Fault Refusal :=
  issue (.fuse w) (meetBody w .fuse (if w.d.cls == .pred then some w.d.num.toNat else none)) s

/-! ## Forced fuse (R358 to R361) -/

/-- The segments of `m` lanes that a mask touches, as the mask of all their lanes. -/
def segmentLanes (m : Nat) (lanes : Mask) : Mask :=
  Mask.ofPred (fun l => (List.range m).any (fun k => lanes.has (l / m * m + k)))

/-- One step of the closure of R358. -/
def State.widen (s : State) (W : Wave) (a : Word) (m : Nat) (win : Bool) (set : List (Nat × Frag)) : List (Nat × Frag) :=
  let touched := segmentLanes m (set.foldl (fun k e => k ||| e.2.active) 0)
  (s.frags.filter (fun e => set.any (fun y => y.1 == e.1) ||
    (match set with
     | y :: _ => e.2.wave == y.2.wave && (heldLanes W e.2 &&& touched) != 0 && !(win && e.2.lateAt a)
     | [] => false)))

/-- The needed set of some fragments (R358): every fragment is added within 16 steps. -/
def State.needed (s : State) (W : Wave) (a : Word) (m : Nat) (win : Bool) (set : List (Nat × Frag)) : List (Nat × Frag) :=
  (List.range 16).foldl (fun set _ => s.widen W a m win set) set

/-- The members of a needed set that have arrived. -/
def arrivedAt (k : MeetKind) (fs : List (Nat × Frag)) : List (Nat × Frag) :=
  fs.filter (fun e => e.2.fstate == .meeting && (match e.2.meet with | some m => m.kind == k | none => false))

/-- The arrived members fuse, and the absent ones of a window are marked late (R359 to R361). -/
def State.closeWindow (s : State) (w : Nat) (a : Word) (k : MeetKind) (need : List (Nat × Frag)) : State :=
  let here := arrivedAt k need
  let absent := (need.filter (fun e => !here.any (fun y => y.1 == e.1))).map Prod.fst
  let s1 := { s with frags := List.map (fun e => if absent.contains e.1 then (e.1, { e.2 with late := addLate e.2.late (a, s.ticks) }) else e) s.frags }
  match primaryOf here with
  | none => s1
  | some p => ((s1.fuse w here true).adjFrag p.1 (fun F => { F with meet := none, gathered := true })).readyNow p.1

/-- The instruction executes with the fragment's own lanes alone and at once: in a handler (R354), or as a window of its own behind a late mark,
which leaves the set when the instruction retires (R361). -/
def Ctx.lateWindow (c : Ctx) (x : ExtWord) : Bool := c.F.save.isSome || (x.win && c.F.lateAt c.F.pc)

/-- The fragments whose needed sets an arrival may complete: under WIN the window's members together, under ALL each one that waits, and the
arriving fragment. -/
def State.arrivalGroups (s : State) (c : Ctx) (k : MeetKind) (win : Bool) : List (List (Nat × Frag)) :=
  let here := s.waiting c.w k
  if win then [here] else (here.filter (fun e => e.1 != c.f)).map (fun e => [e]) ++ [here.filter (fun e => e.1 == c.f)]

/-- The needed set of some waiting fragments holds the arriving one, and every member has arrived. -/
def State.gathers (s : State) (c : Ctx) (k : MeetKind) (group : List (Nat × Frag)) : Bool :=
  match k with
  | .forced a n win =>
    let need := s.needed c.W a n win group
    need.any (fun e => e.1 == c.f) && (arrivedAt k need).length = need.length
  | _ => false

/-- An instruction that may carry MINW (R35): it executes at once, or after the fragments it needs have met (R358 to R361). -/
def gather (i : Instr) (x : ExtWord) (body : Ctx → State → Res) (c : Ctx) (s : State) : Res :=
  if x.minw = 0 || c.F.gathered || c.lateWindow x then body c s
  else
    let k : MeetKind := .forced c.F.pc (minwLanes x.minw) x.win
    let s1 := s.adjFrag c.f (fun F => { F with fstate := .meeting, meet := some ⟨k, modeFTO F.mode, 0, none, c.len, false⟩ })
    match (s1.arrivalGroups c k x.win).find? (s1.gathers c k) with
    | none => .keep s1
    | some group =>
      let need := s1.needed c.W c.F.pc (minwLanes x.minw) x.win group
      let s2 := s1.closeWindow c.w c.F.pc k need
      match primaryOf need with
      | none => .keep s2
      | some p =>
        let s3 := if p.1 = c.f then s2.adjFrag p.1 (fun F => { F with fstate := .running, age := c.F.age }) else s2
        match s3.ctxOf p.1 i with
        | none => .keep s3
        | some c3 => .keep (c3.finish s3 (body c3 s3))

/-- ELECT (R207). -/
def electBody (x : ExtWord) (c : Ctx) (s : State) : Res :=
  let part := c.part x
  let low := (part.lanes).headD 0
  .done (s.setPred c.w x.d.num.toNat part (Mask.one low))
def execElect (w : ExtWord) (s : State) : Host.Outcome State Fault Refusal := issue (.elect w) (gather (.elect w) w (electBody w)) s

/-! ## Ending (R208) -/

/-- The lanes of a shader wave that leave by EXIT hand their payloads back to their rays (R298). -/
def State.rayExit (s : State) (w : Nat) (lanes : Mask) : State :=
  let leave (j : RayJob) : RayJob :=
    match j.stage, s.wave? w with
    | .shading k v l, some W =>
      if v == w && lanes.has l && W.live.has l then
        { j with stage := .exited k w s.nextId, payload := (List.range j.payload.length).map (W.reg l) }
      else j
    | _, _ => j
  { s with gfx := { s.gfx with rays := s.gfx.rays.map (fun e => (e.1, leave e.2)) } }

/-- EXIT: the participating lanes leave for good; the others go on after the seam, which retires too but awaits nothing (R39, R41). -/
def exitBody (x : ExtWord) (c : Ctx) (s : State) : Res :=
  let s1 := s.adjFrag c.f (fun F => { F with rwc := F.rwc + 1 })
  let s2 := ((s1.rayExit c.w (c.part x)).dropLanes c.w (c.part x)).runDone c.W
  match s2.frag? c.f with
  | none => .keep (s2.checkEnds c.t)
  | some F =>
    if F.active = 0 then .keep ((s2.emptied c.f).checkEnds c.t)
    else .keep { (s2.adjFrag c.f (fun F => { F.beginRun c.nextPc 0 F.age (s2.runsIn c.W) with rwc := F.rwc + 1 })) with nextId := s2.nextId + 1 }
def execExit (w : ExtWord) (s : State) : Host.Outcome State Fault Refusal := issue (.exit w) (exitBody w) s

/-! ## Starting a wave's fragment (R164, R347) -/

/-- The team index of a wave of a role (R347). -/
def waveIndex (h : Header) (role roleIdx : Nat) : Nat := (h.roles.take role).foldl (fun n r => n + r.count) 0 + roleIdx

/-- Start a wave's fragment 0 in a free entry of the fragment table. -/
def State.startFragOf (s : State) (w : Nat) (W : Wave) (h : Header) (scal : List Word) : State :=
  match s.freeEntry W.core W.quadrant with
  | none => s
  | some e =>
    let s1 := s.reuseEntry W.core W.quadrant e
    let F := startFrag w e h.entry W.width scal h s.nextId (s.runsIn W)
    { s1 with frags := Tbl.put s1.frags s.nextId F, nextId := s.nextId + 1, free := s.free + 1 }

end Sys2Proof.Machine
end

