-- ==== Sys2Proof/Machine/FloatOps.lean ====
section
/-! DEFINITION. Machine/FloatOps.lean: floating-point arithmetic, comparison, functions and conversions (R212 to R229). -/

namespace Sys2Proof.Machine

/-! ## Elements -/

/-- The format of FMT, or of another tag; binary64 where the tag is no floating format. -/
def fmtAt (t : Nat) : Fmt := (fmtOf t).getD fmtF64

/-- A register of results with the flags of all its elements. -/
def packFl (w : Nat) (r : Nat → Nat × FFlags) : Word × FFlags :=
  (packWith w (fun e => (r e).1), (List.range (64 / w)).foldl (fun fl e => fl ||| (r e).2) 0)

/-- The operands of element `e` in a format, flushed under FTZ (R175, R215). -/
def valsAt (f : Fmt) (ftz : Bool) (vs : List Word) (e : Nat) : List Val := vs.map (fun v => f.read ftz (elem f.w v e))

def nthVal (vs : List Val) (k : Nat) : Val := vs.getD k (.num false 0 0)

/-- An element-by-element operation in one format, from the operands' values to bits and flags. -/
def fpWord (f : Fmt) (ftz : Bool) (op : List Val → Nat × FFlags) (vs : List Word) : Word × FFlags :=
  packFl f.w (fun e => op (valsAt f ftz vs e))

/-- An instruction of the common form of R212 over `n` sources in FMT. -/
def fpBody (x : ExtWord) (n : Nat) (op : Fmt → Bool → List Val → Nat × FFlags) (c : Ctx) (s : State) : Res :=
  let f := fmtAt x.tag
  let ftz := modeFTZ c.F.mode
  c.compute x (srcsIn x n x.tag) (fun _ vs => fpWord f ftz (op f ftz) vs) (fmtTag x) s

/-! ## Arithmetic (R215, R216) -/

/-- Round the exact result, with the flags of signaling operands; SAT clamps to [0, 1] after the flags. -/
def roundOp (x : ExtWord) (f : Fmt) (ftz : Bool) (vs : List Val) (r : Exact × FFlags) : Nat × FFlags :=
  let q := f.finish ftz x.rnd.toNat r.1
  (if x.sat then f.clamp01 q.1 else q.1, q.2 ||| r.2 ||| sigFlag vs)

/-- The negation that a subtraction makes; a NaN keeps its sign (R174). -/
def minus (v : Val) : Val := if v.isNan then v else v.neg

def faddOp (x : ExtWord) (f : Fmt) (ftz : Bool) (vs : List Val) : Nat × FFlags :=
  roundOp x f ftz vs (addVal x.rnd.toNat (nthVal vs 0) (nthVal vs 1), 0)
def fsubOp (x : ExtWord) (f : Fmt) (ftz : Bool) (vs : List Val) : Nat × FFlags :=
  roundOp x f ftz vs (addVal x.rnd.toNat (nthVal vs 0) (minus (nthVal vs 1)), 0)
def fmulOp (x : ExtWord) (f : Fmt) (ftz : Bool) (vs : List Val) : Nat × FFlags :=
  roundOp x f ftz vs (mulVal (nthVal vs 0) (nthVal vs 1), 0)
def ffmaOp (x : ExtWord) (f : Fmt) (ftz : Bool) (vs : List Val) : Nat × FFlags :=
  roundOp x f ftz vs (fmaVal x.rnd.toNat (nthVal vs 0) (nthVal vs 1) (nthVal vs 2))

def execFadd (w : ExtWord) (s : State) : Host.Outcome State Fault Refusal := issue (.fadd w) (fpBody w 2 (faddOp w)) s
def execFsub (w : ExtWord) (s : State) : Host.Outcome State Fault Refusal := issue (.fsub w) (fpBody w 2 (fsubOp w)) s
def execFmul (w : ExtWord) (s : State) : Host.Outcome State Fault Refusal := issue (.fmul w) (fpBody w 2 (fmulOp w)) s
def execFfma (w : ExtWord) (s : State) : Host.Outcome State Fault Refusal := issue (.ffma w) (fpBody w 3 (ffmaOp w)) s

/-- FMIN or FMAX on two values: the operand chosen, in the format's bits; only a signaling NaN raises a flag. -/
def minMaxOp (isMax num : Bool) (f : Fmt) (vs : List Val) : Nat × FFlags :=
  ((f.convert false 0 false 0 (minMaxVal isMax num (nthVal vs 0) (nthVal vs 1))).1, sigFlag vs)

def execFmin (w : ExtWord) (s : State) : Host.Outcome State Fault Refusal :=
  issue (.fmin w) (fpBody w 2 (fun f _ vs => minMaxOp false (w.mod.getLsbD 0) f vs)) s
def execFmax (w : ExtWord) (s : State) : Host.Outcome State Fault Refusal :=
  issue (.fmax w) (fpBody w 2 (fun f _ vs => minMaxOp true (w.mod.getLsbD 0) f vs)) s

/-! ## Dot products (R217) -/

/-- The exact sum of finite terms; an exactly zero sum is +0. -/
def sumNums (ts : List Val) : Val :=
  let e := ts.foldl (fun k v => match v with | .num _ _ e => min k e | _ => k) 0
  let z := ts.foldl (fun n v => match v with | .num s m d => n + signed s (m * 2 ^ (d - e).toNat) | _ => n) (0 : Int)
  .num (z < 0) z.natAbs e

/-- The sum of products and of other terms, exact, with its special cases: the first NaN operand in the given order, the canonical NaN
of an invalid term, an infinity, or the exact sum. -/
def dotVal (operands : List Val) (terms : List Exact) : Exact :=
  match operands.find? Val.isNan with
  | some v => .val v
  | none =>
    let vs := terms.filterMap (fun t => match t with | .val v => some v | _ => none)
    if terms.any (fun t => t == .invalid) || (vs.contains (.inf true) && vs.contains (.inf false)) then .invalid
    else if vs.contains (.inf true) then .val (.inf true)
    else if vs.contains (.inf false) then .val (.inf false)
    else .val (sumNums vs)

/-- INV of a group that holds an invalid term or infinities of both signs, where a NaN operand gives the result. -/
def dotFlags (operands : List Val) (terms : List Exact) : FFlags :=
  if operands.any Val.isNan && (terms.contains .invalid || (terms.contains (.val (.inf true)) && terms.contains (.val (.inf false)))) then fINV else 0

/-- One result element of a dot product of `k` terms. -/
def dotElem (x : ExtWord) (ftz : Bool) (fa fb : Fmt) (k : Nat) (vs : List Word) (j : Nat) : Nat × FFlags :=
  let as := (List.range k).map (fun i => fa.read ftz (elem fa.w (nth vs 0) (k * j + i)))
  let bs := (List.range k).map (fun i => fb.read ftz (elem fb.w (nth vs 1) (k * j + i)))
  let cv := fmtF32.read ftz (elem 32 (nth vs 2) j)
  let terms := (List.range k).map (fun i => mulVal (nthVal as i) (nthVal bs i)) ++ [.val cv]
  let operands := as ++ bs ++ [cv]
  roundOp x fmtF32 ftz operands (dotVal operands terms, dotFlags operands terms)

def dotBody (x : ExtWord) (ta tb k : Nat) (c : Ctx) (s : State) : Res :=
  c.compute x [src 1 x.a ta, src 2 x.b tb, src 3 x.c 6]
    (fun _ vs => packFl 32 (dotElem x (modeFTZ c.F.mode) (fmtAt ta) (fmtAt tb) k vs)) (fun _ => 6) s

def execFdot2 (w : ExtWord) (s : State) : Host.Outcome State Fault Refusal := issue (.fdot2 w) (dotBody w w.tag w.tag 2) s
def execFdot4 (w : ExtWord) (s : State) : Host.Outcome State Fault Refusal :=
  issue (.fdot4 w) (dotBody w w.tag (if w.mod.getLsbD 0 then 19 - w.tag else w.tag) 4) s

/-! ## Comparison and classification (R218, R219) -/

/-- The eight conditions of R218. -/
def fcond (k : Nat) (a b : Val) : Bool × FFlags :=
  let un := a.isNan || b.isNan
  let quiet := sigFlag [a, b]
  let loud : FFlags := if un then fINV else 0
  match k with
  | 0 => (!un && a.eqv b, quiet)
  | 1 => (un || !a.eqv b, quiet)
  | 2 => (!un && a.le b && !b.le a, loud)
  | 3 => (!un && a.le b, loud)
  | 4 => (!un && b.le a && !a.le b, loud)
  | 5 => (!un && b.le a, loud)
  | 6 => (!un, quiet)
  | _ => (un, quiet)

/-- Flags of a test over all elements. -/
def flagsOver (w : Nat) (r : Nat → Bool × FFlags) : FFlags := (List.range (64 / w)).foldl (fun fl e => fl ||| (r e).2) 0

def fsetBody (x : ExtWord) (c : Ctx) (s : State) : Res :=
  let f := fmtAt x.tag
  let ftz := modeFTZ c.F.mode
  let r (vs : List Word) (e : Nat) : Bool × FFlags := fcond (x.sub &&& 7).toNat (nthVal (valsAt f ftz vs e) 0) (nthVal (valsAt f ftz vs e) 1)
  if x.d.cls == .pred then
    c.computePred x (srcsIn x 2 x.tag) (fun vs => (overElems f.w (x.mod.getLsbD 1) (fun e => (r vs e).1), flagsOver f.w (r vs))) s
  else
    c.compute x (srcsIn x 2 x.tag) (fun _ vs => packFl f.w (fun e => (if (r vs e).1 then 2 ^ f.w - 1 else 0, (r vs e).2)))
      (fun _ => BitVec.ofNat 4 (intTagOf x.tag)) s
def execFset (w : ExtWord) (s : State) : Host.Outcome State Fault Refusal := issue (.fset w) (fsetBody w) s

/-- The class bit of an element (R219). -/
def classBit (f : Fmt) (bits : Nat) : Nat :=
  match f.decode bits with
  | .nan _ sig _ => if sig then 0 else 1
  | .inf s => if s then 2 else 9
  | .num s m _ =>
    if m = 0 then (if s then 5 else 6)
    else if m < 2 ^ f.mb then (if s then 4 else 7)
    else (if s then 3 else 8)

/-- FCLASS raises no flag, not even of a source that is converted as it is read. -/
def fclassBody (x : ExtWord) (c : Ctx) (s : State) : Res :=
  let f := fmtAt x.tag
  if x.d.cls == .pred then
    let mask := c.bits x x.b 1 0
    if 2 ^ 10 ≤ mask.toNat then .trap (illegal c (Instr.fclass x).word0 posB)
    else
      c.predInt x [src 1 x.a x.tag] (fun vs => overElems f.w (x.mod.getLsbD 1) (fun e => mask.getLsbD (classBit f (elem f.w (nth vs 0) e)))) s
  else
    c.compInt x [src 1 x.a x.tag] (fun vs => packWith f.w (fun e => 2 ^ classBit f (elem f.w (nth vs 0) e)))
      (fun _ => BitVec.ofNat 4 (intTagOf x.tag)) s
def execFclass (w : ExtWord) (s : State) : Host.Outcome State Fault Refusal := issue (.fclass w) (fclassBody w) s

/-! ## Integral values and exponents (R220, R221) -/

/-- FRND never raises INX. -/
def frndOp (x : ExtWord) (f : Fmt) (_ftz : Bool) (vs : List Val) : Nat × FFlags :=
  ((f.convert false 0 false 0 (integral x.rnd.toNat (nthVal vs 0))).1, sigFlag vs)
def execFrnd (w : ExtWord) (s : State) : Host.Outcome State Fault Refusal := issue (.frnd w) (fpBody w 1 (frndOp w)) s

/-- A scaling exponent as far as it can matter: beyond 5,000 in size every result over- or underflows alike. -/
def nearExp (n : Int) : Int := max (-5000) (min 5000 n)

def fxpiBody (x : ExtWord) (c : Ctx) (s : State) : Res :=
  let f := fmtAt x.tag
  let ftz := modeFTZ c.F.mode
  c.compute x [src 1 x.a x.tag, src 2 x.b (intTagOf x.tag)]
    (fun _ vs => packFl f.w (fun e =>
      let a := f.read ftz (elem f.w (nth vs 0) e)
      roundOp x f ftz [a] (.val (a.scale (nearExp (elemInt f.w true (nth vs 1) e))), 0)))
    (fmtTag x) s
def execFxpi (w : ExtWord) (s : State) : Host.Outcome State Fault Refusal := issue (.fxpi w) (fxpiBody w) s

/-- FGETX: the exponent as an integer, or the significand. -/
def fgetxOp (mant : Bool) (f : Fmt) (_ftz : Bool) (vs : List Val) : Nat × FFlags :=
  let a := nthVal vs 0
  if mant then
    match a with
    | .num s m _ => f.convert false 0 false 0 (if m = 0 then a else .num s m (-(Nat.log2 m : Int)))
    | _ => f.convert false 0 false 0 a
  else
    match a with
    | .nan _ _ _ => (2 ^ (f.w - 1), fINV)
    | .inf _ => (2 ^ (f.w - 1) - 1, fINV)
    | .num _ m e => if m = 0 then (2 ^ (f.w - 1), fDZ) else (wrap f.w (floorLog2 m e), 0)
def fgetxBody (x : ExtWord) (c : Ctx) (s : State) : Res :=
  let f := fmtAt x.tag
  let ftz := modeFTZ c.F.mode
  c.compute x [src 1 x.a x.tag] (fun _ vs => fpWord f ftz (fgetxOp (x.mod.getLsbD 0) f ftz) vs)
    (fun _ => if x.mod.getLsbD 0 then x.fmt else BitVec.ofNat 4 (intTagOf x.tag)) s
def execFgetx (w : ExtWord) (s : State) : Host.Outcome State Fault Refusal := issue (.fgetx w) (fgetxBody w) s

/-! ## Functions (R222, R223) -/

def funcBody (x : ExtWord) (op : Nat) (c : Ctx) (s : State) : Res :=
  let f := fmtAt x.tag
  c.compute x [src 1 x.a x.tag]
    (fun _ vs => packFl f.w (fun e => f.func x.tag (modeFTZ c.F.mode) op x.rnd.toNat (elem f.w (nth vs 0) e))) (fmtTag x) s

def execFexf (w : ExtWord) (s : State) : Host.Outcome State Fault Refusal := issue (.fexf w) (funcBody w 0x49) s
def execFlog2 (w : ExtWord) (s : State) : Host.Outcome State Fault Refusal := issue (.flog2 w) (funcBody w 0x4C) s
def execFrcp (w : ExtWord) (s : State) : Host.Outcome State Fault Refusal := issue (.frcp w) (funcBody w 0x4D) s
def execFrsq (w : ExtWord) (s : State) : Host.Outcome State Fault Refusal := issue (.frsq w) (funcBody w 0x4E) s
def execFsqrt (w : ExtWord) (s : State) : Host.Outcome State Fault Refusal := issue (.fsqrt w) (funcBody w 0x4F) s
def execFsin (w : ExtWord) (s : State) : Host.Outcome State Fault Refusal := issue (.fsin w) (funcBody w 0x50) s
def execFcos (w : ExtWord) (s : State) : Host.Outcome State Fault Refusal := issue (.fcos w) (funcBody w 0x51) s
def execFtanh (w : ExtWord) (s : State) : Host.Outcome State Fault Refusal := issue (.ftanh w) (funcBody w 0x52) s

/-! ## Conversions (R224 to R226) -/

/-- The value of the stochastic generator for a team lane and an element (R181). -/
def srValue (seed : BitVec 32) (lane e : Nat) : Nat :=
  let k : BitVec 32 := BitVec.ofNat 32 (lane % 4096 * 16 + e % 16)
  let h0 := seed ^^^ (k * 0x9E3779B9)
  let h1 := (h0 ^^^ (h0 >>> 16)) * 0x85EBCA6B
  let h2 := (h1 ^^^ (h1 >>> 13)) * 0xC2B2AE35
  (h2 ^^^ (h2 >>> 16)).toNat

/-- Which source element a destination element receives (R224). -/
def cvtSource (nd ns part e : Nat) : Option Nat :=
  if ns ≤ nd then (if part * ns ≤ e && e < part * ns + ns then some (e - part * ns) else none) else some (part * nd + e)

/-- A converted register: elements that receive nothing keep their bits, or become zero under .MZ. -/
def cvtWord (x : ExtWord) (conv : Nat → Nat → Nat × FFlags) (old a : Word) : Word × FFlags :=
  let dt := x.tag
  let st := x.sub.toNat
  packFl (tagWidth dt) (fun e =>
    match cvtSource (tagCount dt) (tagCount st) x.x.toNat e with
    | some k => conv e (elem (tagWidth st) a k)
    | none => (if x.mod.getLsbD 1 then 0 else elem (tagWidth dt) old e, 0))

/-- A conversion instruction; `conv` is given the lane, the destination element and the source bits. -/
def cvtBody (x : ExtWord) (conv : Ctx → Nat → Nat → Nat → Nat × FFlags) (c : Ctx) (s : State) : Res :=
  c.compute x [src 1 x.a x.sub.toNat, rawSrc 0 x.d 0] (fun l vs => cvtWord x (conv c l) (nth vs 1) (nth vs 0)) (fmtTag x) s

/-- Float to float. -/
def convFF (x : ExtWord) (c : Ctx) (l e bits : Nat) : Nat × FFlags :=
  let ftz := modeFTZ c.F.mode
  let f := fmtAt x.tag
  match (fmtAt x.sub.toNat).read ftz bits with
  | .nan s sig pay =>
    if x.sub.toNat = x.tag then (bits % 2 ^ f.w ||| 2 ^ (f.mb - 1), if sig then fINV else 0) else f.convert ftz x.rnd.toNat x.sat 0 (.nan s sig pay)
  | v => f.convert ftz x.rnd.toNat x.sat (srValue (modeSeed c.F.mode) (tliBase c.T c.W + l) e) v

/-- Least and greatest integers of a width (R188). -/
def intLo (w : Nat) (sg : Bool) : Int := if sg then -(2 ^ (w - 1)) else 0
def intHi (w : Nat) (sg : Bool) : Int := if sg then 2 ^ (w - 1) - 1 else 2 ^ w - 1

/-- Float to integer. -/
def convFI (x : ExtWord) (c : Ctx) (_l _e bits : Nat) : Nat × FFlags :=
  let w := tagWidth x.tag
  let sg := x.mod.getLsbD 0
  match (fmtAt x.sub.toNat).read (modeFTZ c.F.mode) bits with
  | .nan _ _ _ => (0, fINV)
  | .inf s => (wrap w (if s then intLo w sg else intHi w sg), fINV)
  | .num s m e =>
    let v := (Val.num s m e).toInt x.rnd.toNat
    if v < intLo w sg then (wrap w (intLo w sg), fINV) else if intHi w sg < v then (wrap w (intHi w sg), fINV) else (wrap w v, 0)

/-- Integer to float. -/
def convIF (x : ExtWord) (c : Ctx) (_l _e bits : Nat) : Nat × FFlags :=
  let w := tagWidth x.sub.toNat
  (fmtAt x.tag).convert (modeFTZ c.F.mode) x.rnd.toNat x.sat 0 (Val.ofInt (if x.mod.getLsbD 0 then toSigned w bits else bits))

/-- After a narrowing CVT.SR, the seed advances by one (R181). -/
def cvtSrBody (x : ExtWord) (c : Ctx) (s : State) : Res :=
  match cvtBody x (convFF x) c s with
  | .done s1 => .done (if x.rnd == 5 then s1.adjFrag c.f (fun F => { F with mode := modeNextSeed F.mode }) else s1)
  | r => r

def execCvt (w : ExtWord) (s : State) : Host.Outcome State Fault Refusal := issue (.cvt w) (cvtSrBody w) s
def execCvti (w : ExtWord) (s : State) : Host.Outcome State Fault Refusal := issue (.cvti w) (cvtBody w (convFI w)) s
def execCvtf (w : ExtWord) (s : State) : Host.Outcome State Fault Refusal := issue (.cvtf w) (cvtBody w (convIF w)) s

/-- An instruction that writes several vector registers of a lane: `f` gives each register's number, value and tag, and the flags. -/
def Ctx.computeRegs (c : Ctx) (x : ExtWord) (srcs : List Src) (f : List Word → List (Nat × VReg) × FFlags) (s : State) : Res :=
  let lanes := (c.part x).lanes
  match c.tagTrap lanes srcs with
  | some t => .trap t
  | none =>
    let r (l : Nat) : List (Nat × VReg) × FFlags := let vs := c.values x srcs l; let q := f vs.1; (q.1, vs.2 ||| q.2)
    match c.fpTrap lanes (fun l => (r l).2) with
    | some t => .trap t
    | none => .done (c.setFlags lanes (fun l => (r l).2)
        (s.adjWave c.w (fun W => lanes.foldl (fun W l => (r l).1.foldl (fun W q => W.setReg l q.1 q.2) W) W)))

/-- One element of PACK and UNPK: floats convert, integers clamp under SAT or keep their low bits, and extend by their sign. -/
def packElem (x : ExtWord) (ftz : Bool) (bits : Nat) : Nat × FFlags :=
  let dt := x.tag
  let st := x.sub.toNat
  if 5 ≤ st then (fmtAt dt).convert ftz x.rnd.toNat x.sat 0 ((fmtAt st).read ftz bits)
  else
    let v : Int := if x.mod.getLsbD 0 then toSigned (tagWidth st) bits else bits
    (wrap (tagWidth dt) (if x.sat then clampInt (tagWidth dt) (x.mod.getLsbD 0) v else v), 0)

def packBody (x : ExtWord) (c : Ctx) (s : State) : Res :=
  let ws := tagWidth x.sub.toNat
  let ns := tagCount x.sub.toNat
  c.compute x (srcsIn x 2 x.sub.toNat)
    (fun _ vs => packFl (tagWidth x.tag) (fun e => packElem x (modeFTZ c.F.mode) (elem ws (nth vs (e / ns)) (e % ns)))) (fmtTag x) s
def execPack (w : ExtWord) (s : State) : Host.Outcome State Fault Refusal := issue (.pack w) (packBody w) s

def unpkBody (x : ExtWord) (c : Ctx) (s : State) : Res :=
  let ws := tagWidth x.sub.toNat
  let nd := tagCount x.tag
  c.computeRegs x (srcsIn x 1 x.sub.toNat)
    (fun vs =>
      let r (k : Nat) : Word × FFlags := packFl (tagWidth x.tag) (fun e => packElem x (modeFTZ c.F.mode) (elem ws (nth vs 0) (k * nd + e)))
      ([(x.d.num.toNat, ⟨(r 0).1, x.fmt⟩), (x.d.num.toNat + 1, ⟨(r 1).1, x.fmt⟩)], (r 0).2 ||| (r 1).2)) s
def execUnpk (w : ExtWord) (s : State) : Host.Outcome State Fault Refusal := issue (.unpk w) (unpkBody w) s

/-! ## MX blocks (R227, R228) -/

/-- A context whose MODE has FTZ clear, for instructions that ignore it. -/
def Ctx.noFtz (c : Ctx) : Ctx := { c with F := { c.F with mode := c.F.mode &&& ~~~(2 : Word) } }

/-- The exponent of a format's largest finite value. -/
def fmtEmax (f : Fmt) : Int :=
  match f.decode f.maxBits with
  | .num _ m e => floorLog2 m e
  | _ => 0

/-- A register with sub-element `j` of 8 bits replaced. -/
def setByte (v : Word) (j b : Nat) : Word := packWith 8 (fun i => if i = j then b else elem 8 v i)

/-- The scale byte of a block of values (R227). -/
def mxScale (f : Fmt) (xs : List Val) : Nat :=
  let top := xs.foldl (fun (k : Option Int) v => match v with
    | .num _ m e => if m = 0 then k else some (match k with | some t => max t (floorLog2 m e) | none => floorLog2 m e)
    | _ => k) none
  match top with
  | none => 0
  | some t => (max (-127) (min 127 (t - fmtEmax f)) + 127).toNat

/-- MXQ on one lane's values: the scale, the elements, the flags. -/
def mxQuantise (x : ExtWord) (f : Fmt) (xs : List Val) : Nat × (Nat → Nat) × FFlags :=
  if xs.any (fun v => match v with | .num _ _ _ => false | _ => true) then (0xFF, fun _ => 0, sigFlag xs)
  else
    let sc := mxScale f xs
    let q (i : Nat) : Nat × FFlags := f.convert false x.rnd.toNat x.sat 0 ((nthVal xs i).scale (127 - (sc : Int)))
    (sc, fun i => (q i).1, (List.range 32).foldl (fun fl i => fl ||| (q i).2) 0)

/-- Consecutive registers from one operand on, in a format. -/
def srcRow (pos : Nat) (o : Operand) (n t : Nat) : List Src := (List.range n).map (fun k => src pos { o with num := o.num + BitVec.ofNat 8 k } t)

def mxqBody (x : ExtWord) (c : Ctx) (s : State) : Res :=
  let f := fmtAt x.tag
  let g := fmtAt x.sub.toNat
  let j := (x.x &&& 7).toNat
  let per := tagCount x.tag
  c.noFtz.computeRegs x (srcRow 1 x.a 8 x.sub.toNat ++ [rawSrc 3 x.c 0])
    (fun vs =>
      let xs := (List.range 32).map (fun i => g.decode (elem 16 (nth vs (i / 4)) (i % 4)))
      let q := mxQuantise x f xs
      ((List.range (32 / per)).map (fun k => (x.d.num.toNat + k, (⟨packWith (tagWidth x.tag) (fun e => q.2.1 (k * per + e)), x.fmt⟩ : VReg)))
        ++ [(x.c.num.toNat, ⟨setByte (nth vs 8) j q.1, 14⟩)], q.2.2)) s
def execMxq (w : ExtWord) (s : State) : Host.Outcome State Fault Refusal := issue (.mxq w) (mxqBody w) s

def mxdBody (x : ExtWord) (c : Ctx) (s : State) : Res :=
  let f := fmtAt x.tag
  let g := fmtAt x.sub.toNat
  let per := tagCount x.sub.toNat
  let n := 32 / per
  c.noFtz.computeRegs x (srcRow 1 x.a n x.sub.toNat ++ [src 3 x.c 14])
    (fun vs =>
      let sc := scaleExp (elem 8 (nth vs n) (x.x &&& 7).toNat)
      let r (i : Nat) : Nat × FFlags :=
        match sc with
        | none => (f.canonicalNan, 0)
        | some k => f.convert false x.rnd.toNat false 0 ((g.decode (elem g.w (nth vs (i / per)) (i % per))).scale k)
      ((List.range 8).map (fun k => (x.d.num.toNat + k, (⟨packWith 16 (fun e => (r (4 * k + e)).1), x.fmt⟩ : VReg))),
        (List.range 32).foldl (fun fl i => fl ||| (r i).2) 0)) s
def execMxd (w : ExtWord) (s : State) : Host.Outcome State Fault Refusal := issue (.mxd w) (mxdBody w) s

/-! ## Tags (R229) -/

def tagsetBody (x : ExtWord) (c : Ctx) (s : State) : Res :=
  let a (l : Nat) : VReg := c.W.reg l x.a.num.toNat
  if x.mod.getLsbD 0 then
    let t (l : Nat) : Tag := (c.bits x x.b 0 l).extractLsb' 0 4
    let bad := (c.part x).lanes.filter (fun l => t l == 15)
    if bad.isEmpty then .done (c.write x.d (c.part x) (fun l => (a l).val) t s)
    else .trap ⟨0x04, BitVec.ofNat 64 (2 * 2 ^ 56 + 15 * 2 ^ 8 + x.d.num.toNat), Mask.ofList bad, none, false, []⟩
  else if x.sub.getLsbD 0 then .done (c.write x.d (c.part x) (fun l => (a l).tag.zeroExtend 64) (fun _ => 1) s)
  else .done (c.write x.d (c.part x) (fun l => (a l).val) (fun _ => x.x) s)
def execTagset (w : ExtWord) (s : State) : Host.Outcome State Fault Refusal := issue (.tagset w) (tagsetBody w) s

end Sys2Proof.Machine
end

