-- ==== Sys2Proof/Machine/CrossLane.lean ====
section
/-! DEFINITION. Machine/CrossLane.lean: the cross-lane instructions (R230 to R236), each after its forced fuse. -/

namespace Sys2Proof.Machine

/-! ## Sources in other lanes (R230, R231) -/

/-- The first lane of a lane's segment. -/
def segBase (n l : Nat) : Nat := l / n * n

/-- A lane that may be read as a source: in the lane set and live. -/
def Ctx.present (c : Ctx) (l : Nat) : Bool := (c.F.active &&& c.W.live).has l

/-- Tag Mismatch of sources read in other lanes: the participating lanes that read one, and the source read by the lowest of them. -/
def Ctx.laneTagTrap (c : Ctx) (lanes : List Nat) (o : Src) (reads : Nat → List Nat) : Option Trap :=
  let bad := lanes.filter (fun l => (reads l).any (c.clashes o))
  match bad with
  | [] => none
  | l :: _ =>
    let k := ((reads l).find? (c.clashes o)).getD 0
    some ⟨0x04, BitVec.ofNat 64 (2 ^ 56 + o.pos * 2 ^ 16 + o.expect * 2 ^ 12 + c.tagIn o.o k * 2 ^ 8 + o.o.num.toNat), Mask.ofList bad, none, false, []⟩

/-- One element of a source in a lane, read in a format (0 for the whole register), with the flags of its conversion (R178). -/
def Ctx.elemOf (c : Ctx) (o : Operand) (t lane e : Nat) : Nat × FFlags :=
  let v := (c.W.reg lane o.num.toNat).val
  let found := c.tagIn o lane
  if t != 0 && readTag (modeTC c.F.mode) t found == .convert then
    (fmtAt t).convert false 0 false 0 ((fmtAt found).decode (elem (tagWidth t) v e))
  else (elem (tagWidth t) v e, 0)

/-- The optional predicate result of MOD (R231). -/
def Ctx.writeP (c : Ctx) (x : ExtWord) (lanes : Mask) (val : Nat → Bool) (s : State) : State :=
  if x.mod.getLsbD 5 then c.writePred (x.mod &&& 31).toNat lanes val s else s

/-! ## Permutations (R232, R233) -/

/-- A permutation: `pick l e` is the lane and element that element `e` of lane `l` receives, or none where its source is absent. -/
def permBody (x : ExtWord) (pick : Ctx → Nat → Nat → Option (Nat × Nat)) (c : Ctx) (s : State) : Res :=
  let part := c.part x
  let lanes := part.lanes
  let t := x.tag
  let n := tagCount t
  let reads (l : Nat) : List Nat := (List.range n).filterMap (fun e => (pick c l e).map Prod.fst)
  match c.laneTagTrap lanes (src 1 x.a t) reads with
  | some t => .trap t
  | none =>
    let r (l e : Nat) : Nat × FFlags := match pick c l e with | some p => c.elemOf x.a t p.1 p.2 | none => (0, 0)
    let q (l : Nat) : Word × FFlags := packFl (tagWidth t) (r l)
    match c.fpTrap lanes (fun l => (q l).2) with
    | some t => .trap t
    | none =>
      let tag (l : Nat) : Tag := if t = 0 then (match pick c l 0 with | some p => (c.W.reg p.1 x.a.num.toNat).tag | none => 0) else x.fmt
      .done (c.setFlags lanes (fun l => (q l).2)
        (c.writeP x part (fun l => (List.range n).any (fun e => (pick c l e).isNone)) (c.write x.d part (fun l => (q l).1) tag s)))

/-- The source at a linear element index of a segment, if it is there and present. -/
def Ctx.segPick (c : Ctx) (n m l i : Nat) : Option (Nat × Nat) :=
  if i < m * n && c.present (segBase m l + i / n) then some (segBase m l + i / n, i % n) else none

def shflPick (x : ExtWord) (c : Ctx) (l _e : Nat) : Option (Nat × Nat) := c.segPick 1 (segWidth c.W x) l (c.bits x x.b 1 l).toNat
def execShfl (w : ExtWord) (s : State) : Host.Outcome State Fault Refusal := issue (.shfl w) (gather (.shfl w) w (permBody w (shflPick w))) s

/-- SHFLX's indices stand in consecutive registers, 16 bits each. -/
def shflxPick (x : ExtWord) (c : Ctx) (l e : Nat) : Option (Nat × Nat) :=
  let o : Operand := if x.b.cls == .imm then x.b else { x.b with num := x.b.num + BitVec.ofNat 8 (e / 4) }
  c.segPick (tagCount x.tag) (segWidth c.W x) l (elem 16 (c.bits x o 1 l) (e % 4))
def execShflx (w : ExtWord) (s : State) : Host.Outcome State Fault Refusal := issue (.shflx w) (gather (.shflx w) w (permBody w (shflxPick w))) s

/-- SHUP and SHDN: a position outside the segment keeps the lane's own value. -/
def shiftPick (x : ExtWord) (up : Bool) (c : Ctx) (l e : Nat) : Option (Nat × Nat) :=
  let n := tagCount x.tag
  let m := segWidth c.W x
  let d := (c.bits x x.b 1 l).toNat
  let k := (l - segBase m l) * n + e
  if up then (if k < d then some (l, e) else c.segPick n m l (k - d))
  else (if m * n ≤ k + d then some (l, e) else c.segPick n m l (k + d))
def execShup (w : ExtWord) (s : State) : Host.Outcome State Fault Refusal := issue (.shup w) (gather (.shup w) w (permBody w (shiftPick w true))) s
def execShdn (w : ExtWord) (s : State) : Host.Outcome State Fault Refusal := issue (.shdn w) (gather (.shdn w) w (permBody w (shiftPick w false))) s

/-- The participating lanes of a lane's segment. -/
def Ctx.segPart (c : Ctx) (x : ExtWord) (l : Nat) : List Nat :=
  let m := segWidth c.W x
  (c.part x).lanes.filter (fun k => segBase m k == segBase m l)

/-- BCST's source for a lane. -/
def bcstPick (x : ExtWord) (c : Ctx) (l : Nat) : Option (Nat × Nat) :=
  if x.sub.getLsbD 0 then (c.segPart x l).head?.map (fun k => (k, 0))
  else c.segPick (tagCount x.tag) (segWidth c.W x) l (c.bits x x.b 1 l).toNat

/-- BCST: one element in every element of D; a scalar D receives the bits once. -/
def bcstBody (x : ExtWord) (c : Ctx) (s : State) : Res :=
  let lowest := (c.part x).lanes.headD 0
  if x.d.cls == .scal then
    match permBody { x with d := ⟨.rsvd, 0⟩ } (fun c l _ => bcstPick x c l) c s with
    | .done s1 =>
      let v := match bcstPick x c lowest with | some p => (c.elemOf x.a x.tag p.1 p.2).1 | none => 0
      .done (s1.adjFrag c.f (fun F => F.setScalar x.d.num.toNat (packWith (tagWidth x.tag) (fun _ => v))))
    | r => r
  else permBody x (fun c l _ => bcstPick x c l) c s
def execBcst (w : ExtWord) (s : State) : Host.Outcome State Fault Refusal := issue (.bcst w) (gather (.bcst w) w (bcstBody w)) s

/-! ## Votes and matches (R234, R235) -/

def voteBody (x : ExtWord) (c : Ctx) (s : State) : Res :=
  let part := c.part x
  let v := c.predIn x.a (x.mod.getLsbD 0)
  let yes (l : Nat) : List Nat := (c.segPart x l).filter v.has
  if x.sub == 3 then
    .done (c.write x.d part (fun l => Mask.ofList (if x.d.cls == .scal then part.lanes.filter v.has else yes l)) (fun _ => 1) s)
  else
    let r (l : Nat) : Bool :=
      match x.sub.toNat with
      | 0 => (yes l).length == (c.segPart x l).length
      | 1 => !(yes l).isEmpty
      | _ => (yes l).isEmpty || (yes l).length == (c.segPart x l).length
    .done (c.writePred x.d.num.toNat part r s)
def execVote (w : ExtWord) (s : State) : Host.Outcome State Fault Refusal := issue (.vote w) (gather (.vote w) w (voteBody w)) s

def matchBody (x : ExtWord) (c : Ctx) (s : State) : Res :=
  let part := c.part x
  let v (l : Nat) : Nat := elem (tagWidth x.tag) (c.W.reg l x.a.num.toNat).val 0
  let r (l : Nat) : List Nat :=
    let same := (c.segPart x l).filter (fun k => v k == v l)
    if x.sub.getLsbD 0 then (if same.length = (c.segPart x l).length then same else []) else same
  .done (c.writeP x part (fun l => (r l).length == (c.segPart x l).length)
    (c.write x.d part (fun l => Mask.ofList (r l)) (fun _ => 1) s))
def execMatchv (w : ExtWord) (s : State) : Host.Outcome State Fault Refusal := issue (.matchv w) (gather (.matchv w) w (matchBody w)) s

/-! ## Reductions and scans (R236) -/

/-- Op(x, y) on two elements. -/
def redOp (x : ExtWord) (ftz : Bool) (a b : Nat) : Nat × FFlags :=
  let op := (x.sub &&& 7).toNat
  let w := tagWidth x.tag
  if 5 ≤ x.tag then
    let f := fmtAt x.tag
    let vs := [f.read ftz a, f.read ftz b]
    match op with
    | 0 => faddOp { x with sat := false } f ftz vs
    | 1 => minMaxOp false (x.mod.getLsbD 0) f vs
    | _ => minMaxOp true (x.mod.getLsbD 0) f vs
  else
    let le := if x.mod.getLsbD 0 then decide (toSigned w a ≤ toSigned w b) else decide (a ≤ b)
    match op with
    | 0 => ((a + b) % 2 ^ w, 0)
    | 1 => (if le then a else b, 0)
    | 2 => (if le then b else a, 0)
    | 3 => (a &&& b, 0)
    | 4 => (a ||| b, 0)
    | _ => (a ^^^ b, 0)

/-- Comb(x, y): an EMPTY side gives the other. -/
def comb (x : ExtWord) (ftz : Bool) (a b : Option Nat) : Option Nat × FFlags :=
  match a, b with
  | none, r => (r, 0)
  | r, none => (r, 0)
  | some a, some b => let r := redOp x ftz a b; (some r.1, r.2)

/-- Identity(op) of an element. -/
def redIdentity (x : ExtWord) : Nat :=
  let w := tagWidth x.tag
  let f := fmtAt x.tag
  match (x.sub &&& 7).toNat with
  | 0 => if 5 ≤ x.tag then f.withSign true 0 else 0
  | 1 => if 5 ≤ x.tag then f.infBits else if x.mod.getLsbD 0 then 2 ^ (w - 1) - 1 else 2 ^ w - 1
  | 2 => if 5 ≤ x.tag then f.withSign true f.infBits else if x.mod.getLsbD 0 then 2 ^ (w - 1) else 0
  | 3 => 2 ^ w - 1
  | _ => 0

/-- One level of the tree: neighbours combined in pairs. -/
def redLevel (x : ExtWord) (ftz : Bool) : List (Option Nat) → List (Option Nat) × FFlags
  | a :: b :: rest =>
    let r := comb x ftz a b
    let q := redLevel x ftz rest
    (r.1 :: q.1, r.2 ||| q.2)
  | l => (l, 0)

/-- The tree over up to 64 positions. -/
def redTree (x : ExtWord) (ftz : Bool) (ts : List (Option Nat)) : Option Nat × FFlags :=
  let r := (List.range 6).foldl (fun (q : List (Option Nat) × FFlags) _ => let n := redLevel x ftz q.1; (n.1, q.2 ||| n.2)) (ts, 0)
  (r.1.headD none, r.2)

/-- The contributions of a segment that begins at `base`, for one element. -/
def Ctx.contributions (c : Ctx) (x : ExtWord) (base e : Nat) : List (Option Nat) :=
  (List.range (segWidth c.W x)).map (fun k => if (c.part x).has (base + k) then some (c.elemOf x.a x.tag (base + k) e).1 else none)

/-- The flags of converting the contributions on read. -/
def Ctx.readFlags (c : Ctx) (x : ExtWord) (l : Nat) : FFlags :=
  (List.range (tagCount x.tag)).foldl (fun fl e => fl ||| (c.elemOf x.a x.tag l e).2) 0

def redwBody (x : ExtWord) (c : Ctx) (s : State) : Res :=
  let part := c.part x
  let ftz := modeFTZ c.F.mode
  let m := segWidth c.W x
  match c.laneTagTrap part.lanes (src 1 x.a x.tag) (fun l => [l]) with
  | some t => .trap t
  | none =>
    let r (base : Nat) : Word × FFlags := packFl (tagWidth x.tag) (fun e =>
      let t := redTree x ftz (c.contributions x base e)
      (t.1.getD (redIdentity x), t.2))
    let fl (l : Nat) : FFlags := (r (segBase m l)).2 ||| c.readFlags x l
    match c.fpTrap part.lanes fl with
    | some t => .trap t
    | none => .done (c.setFlags part.lanes fl (c.write x.d part (fun l => (r (segBase m l)).1) (fmtTag x) s))
def execRedw (w : ExtWord) (s : State) : Host.Outcome State Fault Refusal := issue (.redw w) (gather (.redw w) w (redwBody w)) s

/-- The scan of one element over the lanes of a segment up to lane `l`: what lane `l` receives, and the flags of its own step. -/
def Ctx.scanAt (c : Ctx) (x : ExtWord) (l e : Nat) : Nat × FFlags :=
  let ftz := modeFTZ c.F.mode
  let before := (c.segPart x l).filter (fun k => k < l)
  let acc := before.foldl (fun a k => (comb x ftz a (some (c.elemOf x.a x.tag k e).1)).1) none
  let r := comb x ftz acc (some (c.elemOf x.a x.tag l e).1)
  ((if x.sub.getLsbD 3 then acc else r.1).getD (redIdentity x), r.2)

def scanwBody (x : ExtWord) (c : Ctx) (s : State) : Res :=
  let part := c.part x
  match c.laneTagTrap part.lanes (src 1 x.a x.tag) (fun l => [l]) with
  | some t => .trap t
  | none =>
    let r (l : Nat) : Word × FFlags := packFl (tagWidth x.tag) (c.scanAt x l)
    let fl (l : Nat) : FFlags := (r l).2 ||| c.readFlags x l
    match c.fpTrap part.lanes fl with
    | some t => .trap t
    | none => .done (c.setFlags part.lanes fl (c.write x.d part (fun l => (r l).1) (fmtTag x) s))
def execScanw (w : ExtWord) (s : State) : Host.Outcome State Fault Refusal := issue (.scanw w) (gather (.scanw w) w (scanwBody w)) s

end Sys2Proof.Machine
end

