-- ==== Sys2Proof/Machine/System.lean ====
section
/-! DEFINITION. Machine/System.lean: special registers (R169 to R171) and register blocks (R165 to R168). -/

namespace Sys2Proof.Machine

/-! ## Special registers -/

/-- The cores of a team in order, and a core's place among them (R105). -/
def coreIndex (T : Team) (core : Nat) : Nat := (T.cores.findIdx? (fun k => k == core)).getD 0

/-- The live fragment numbers of a wave as a mask (R169, SIBS). -/
def State.siblings (s : State) (w : Nat) : Nat := (s.fragsOf w).foldl (fun n e => n ||| 2 ^ e.2.num) 0

/-- The value of a special register in a lane (R169). -/
def Ctx.special (c : Ctx) (s : State) (n l : Nat) : Word :=
  let W := c.W
  let T := c.T
  let coord (p e : Nat) : Word := BitVec.ofNat 64 (p % 2 ^ 32 + e % 2 ^ 32 * 2 ^ 32)
  match n with
  | 0x00 => BitVec.ofNat 64 l
  | 0x01 => BitVec.ofNat 64 (l / 4)
  | 0x02 => BitVec.ofNat 64 (W.idx % 2 ^ 16 + W.roleIdx % 2 ^ 10 * 2 ^ 16 + W.quadrant % 4 * 2 ^ 28 + W.col0 % 16 * 2 ^ 32
              + Nat.log2 (W.width / 4) % 8 * 2 ^ 36)
  | 0x03 => BitVec.ofNat 64 (c.F.num % 16 + c.F.entry % 128 * 16)
  | 0x04 => match c.F.parent with | some p => BitVec.ofNat 64 (p % 16) | none => 16
  | 0x05 => BitVec.ofNat 64 (s.siblings c.w)
  | 0x06 => BitVec.ofNat 64 (T.id % 2 ^ 16)
  | 0x07 => BitVec.ofNat 64 (T.task.lanes % 2 ^ 13 + (T.cores.length - 1) % 4 * 2 ^ 13)
  | 0x08 => BitVec.ofNat 64 (W.role % 4)
  | 0x10 => coord T.x T.ex
  | 0x11 => coord T.y T.ey
  | 0x12 => coord T.z T.ez
  | 0x18 => c.F.active
  | 0x19 => W.live
  | 0x20 => BitVec.ofNat 64 (W.core % 4 + W.core % 160 / 4 * 4 + coreIndex T W.core % 4 * 2 ^ 8)
  | 0x21 => BitVec.ofNat 64 (dieOf W.core)
  | 0x22 => BitVec.ofNat 64 (s.links.self % 2 ^ 10)
  | 0x28 => c.F.gang
  | 0x29 => c.F.mode
  | 0x2A => s.clk W.core
  | 0x2B => s.gtime
  | 0x2C => c.F.rwc
  | 0x30 => c.F.tcause
  | 0x31 => c.F.tpc
  | 0x32 => c.F.tval
  | 0x33 => c.F.tmask
  | _ => 0

/-- MFS (R171): each participating lane's value, or the value once. -/
def mfsBody (x : ExtWord) (c : Ctx) (s : State) : Res :=
  .done (c.write x.d (c.part x) (c.special s x.a.num.toNat) (fun _ => 1) s)
def execMfs (w : ExtWord) (s : State) : Host.Outcome State Fault Refusal := issue (.mfs w) (mfsBody w) s

/-- Reserved bits of MODE, and PCL, as a write must leave them (R170). -/
def modeWritable (v : Word) : Bool := v.extractLsb' 18 14 == 0 && v.extractLsb' 7 2 != 0

/-- A write of a special register (R169). -/
def Frag.setSpecial (F : Frag) (n : Nat) (v : Word) : Frag :=
  match n with
  | 0x28 => { F with gang := v }
  | 0x29 => { F with mode := v }
  | 0x30 => { F with tcause := v &&& 0xFF }
  | 0x31 => { F with tpc := v }
  | 0x32 => { F with tval := v }
  | 0x33 => { F with tmask := v }
  | _ => F

def mtsBody (x : ExtWord) (c : Ctx) (s : State) : Res :=
  let v := c.count x x.a
  if x.d.num == 0x29 && !modeWritable v then .trap (illegal c (Instr.mts x).word0 posA)
  else .done (s.adjFrag c.f (fun F => F.setSpecial x.d.num.toNat v))
def execMts (w : ExtWord) (s : State) : Host.Outcome State Fault Refusal := issue (.mts w) (mtsBody w) s

/-! ## Register blocks -/

/-- Blocks that the live waves of a role hold: H(r) of R165. -/
def State.heldBlocks (s : State) (t role : Nat) : Nat :=
  ((s.wavesOf t).filter (fun e => e.2.role == role && e.2.live != 0)).foldl (fun n e => n + popcount 8 e.2.held.toNat) 0

/-- Q(r) of R165. -/
def Team.quota (T : Team) (role : Nat) : Nat := T.quotas.getD role 0

/-- The blocks that a mask names: bit n - 1 stands for block n (R167). -/
def blockMask (v : Word) : BitVec 8 := v.extractLsb' 0 7 ++ (0 : BitVec 1)

/-- The registers of some blocks become zero, tagged RAW. -/
def Wave.clearBlocks (W : Wave) (m : BitVec 8) : Wave :=
  { W with vregs := List.filter (fun e => !m.getLsbD (e.1 % 256 / 32)) W.vregs }

/-- A mask or count of class 1 outside its range (R167, R168). -/
def blockRange (c : Ctx) (o : Operand) (bits : Nat) (v : Word) : Option Trap :=
  if o.cls == .scal && 2 ^ bits ≤ v.toNat then some (trapWhole c 0x0C (tvalSub 0x03 o.num.toNat)) else none

/-- An RACQ is granted when its role has the quota and no older one of the role waits (R167). -/
def State.racqReady (s : State) (f : Nat) (W : Wave) (T : Team) (mask : BitVec 8) : Bool :=
  let need := popcount 8 (mask &&& ~~~W.held).toNat
  let older := (T.racq.takeWhile (fun g => g != f)).filter (fun g => match s.frag? g with
    | some G => (match s.wave? G.wave with | some V => V.role == W.role | none => false)
    | none => false)
  need == 0 || (need + s.heldBlocks W.team W.role ≤ T.quota W.role && older.isEmpty)

/-- Register Block of RACQ's and RREL's mask ranks before the liners' causes (R49, R409). -/
def blockMaskEarly (x : ExtWord) (c : Ctx) (_ : State) : Option Res := (blockRange c x.a 7 (c.count x x.a)).map Res.trap

/-- A fragment takes its place in the order of the waiting RACQs of its team. -/
def State.joinRacq (s : State) (t f : Nat) : State := s.adjTeam t (fun T => { T with racq := if T.racq.contains f then T.racq else T.racq ++ [f] })

/-- RACQ: it waits in its role's order, or its wave holds the blocks, all zero. -/
def racqBody (x : ExtWord) (c : Ctx) (s : State) : Res :=
  let mask := blockMask (c.count x x.a)
  let need := mask &&& ~~~c.W.held
  if s.racqReady c.f c.W c.T mask then
    .done ((s.adjTeam c.t (fun T => { T with racq := T.racq.erase c.f })).adjWave c.w
      (fun W => { (W.clearBlocks need) with held := W.held ||| need }))
  else .keep ((s.joinRacq c.t c.f).unselect c.f)
def execRacq (w : ExtWord) (s : State) : Host.Outcome State Fault Refusal := issueChecked (.racq w) (blockMaskEarly w) (racqBody w) s

/-- An outstanding instruction of the wave is still to write a register of the blocks that RREL gives up. -/
def State.rrelBusy (s : State) (w : Nat) (drop : BitVec 8) : Bool :=
  let hits (n k : Nat) : Bool := (List.range k).any (fun i => drop.getLsbD ((n + i) / 32))
  s.pend.any (fun e => e.2.wave == w && (match e.2.dst with
    | .vec n k => hits n k
    | .both n k _ => hits n k
    | _ => false))

/-- RREL: it waits in place for outstanding writes of the blocks, and releases them. -/
def rrelBody (x : ExtWord) (c : Ctx) (s : State) : Res :=
  let drop := blockMask (c.count x x.a) &&& c.W.held
  if s.rrelBusy c.w drop then .stall
  else .done (s.adjWave c.w (fun W => { (W.clearBlocks drop) with held := W.held &&& ~~~drop }))
def execRrel (w : ExtWord) (s : State) : Host.Outcome State Fault Refusal := issueChecked (.rrel w) (blockMaskEarly w) (rrelBody w) s

/-- Register Block of RGIVE: of a count above 16 bits and a role that the team does not have the count is reported, which R168 leaves open (log
entry 93). -/
def rgiveEarly (x : ExtWord) (c : Ctx) (_ : State) : Option Res :=
  match blockRange c x.a 16 (c.count x x.a) with
  | some t => some (.trap t)
  | none => if c.T.task.roles.length ≤ x.x.toNat then some (.trap (trapWhole c 0x0C (tvalSub 0x02 x.x.toNat))) else none

/-- RGIVE: free quota moves to another role, and D receives the count. -/
def rgiveBody (x : ExtWord) (c : Ctx) (s : State) : Res :=
  let n := c.count x x.a
  let role := x.x.toNat
  let r := c.W.role
  let g := if role = r then 0 else min n.toNat (c.T.quota r - s.heldBlocks c.t r)
  let s1 := s.adjTeam c.t (fun T => { T with quotas := T.quotas.zipIdx.map (fun q =>
    if q.2 = r && role != r then q.1 - g else if q.2 = role && role != r then q.1 + g else q.1) })
  .done (if x.d.cls == .scal then s1.adjFrag c.f (fun F => F.setScalar x.d.num.toNat (BitVec.ofNat 64 g)) else s1)
def execRgive (w : ExtWord) (s : State) : Host.Outcome State Fault Refusal := issueChecked (.rgive w) (rgiveEarly w) (rgiveBody w) s

end Sys2Proof.Machine
end

