-- ==== Sys2Proof/Machine/Profile.lean ====
section
/-! DEFINITION. Machine/Profile.lean: profile records (R428, R431) and the stops that an access meets (R419, R420). -/

namespace Sys2Proof.Machine

/-! ## Records (R428) -/

/-- A record's header word. -/
def recordHeader (type len core : Nat) (clk : Word) : Word :=
  BitVec.ofNat 64 (type * 2 ^ 56 + len % 256 * 2 ^ 48 + core % 256 * 2 ^ 40 + clk.toNat % 2 ^ 32)

/-- Write the words of a record at the ring's head, wrapping at its size. -/
def State.ringWrite (s : State) (r : ProfRing) (words : List Word) : State :=
  let bytes := words.flatMap (fun v => natBytes 8 v.toNat)
  s.storeHome (bytes.zipIdx.map (fun e => (r.base + (r.head + e.2) % r.size, e.1))) []

/-- Append a record of a core (none for the die itself) to its die's ring, after a LOSS record where some were dropped; a full ring drops
it and counts it (R428, R433). -/
def State.profile (s : State) (die : Nat) (core : Option Nat) (type : Nat) (words : List Word) : State :=
  match Tbl.find s.prof.rings die with
  | none => s
  | some r =>
    let clk := match core with | some k => s.clk k | none => 0
    let num := match core with | some k => k % 160 | none => 0xFF
    let loss : List Word := if r.lost = 0 then [] else [recordHeader 6 2 0xFF 0, BitVec.ofNat 64 r.lost]
    let all := loss ++ recordHeader type (words.length + 1) num clk :: words
    if r.size < r.head - r.tail + 8 * all.length then
      { s with prof := { s.prof with rings := Tbl.put s.prof.rings die { r with lost := r.lost + 1 } } }.count ctrPROFLOSS (10000 + die) 1
    else
      let s1 := s.ringWrite r all
      { s1 with prof := { s1.prof with rings := Tbl.put s1.prof.rings die { r with head := r.head + 8 * all.length, lost := 0 } } }

/-! ## Memory samples (R430) -/

/-- A sector request of a profiled grid leaves a core's L1: one in 2^k is sampled. Its times are open; a local request passes no die link. -/
def State.sampleSector (s : State) (core grid : Nat) (pc : Word) (kind sec : Nat) (poison rdc : Bool) : State :=
  if !s.prof.grids.contains grid then s
  else
    let n := Tbl.get 0 s.prof.asked core + 1
    let s1 := { s with prof := { s.prof with asked := Tbl.set 0 s.prof.asked core n } }
    if n % 2 ^ s.prof.memK != 0 then s1
    else
      let home := homeOf (32 * sec)
      let t := (Config.freeWord s.free).toNat
      let u := (Config.freeWord (s.free + 1)).toNat
      let info := (if poison then 2 ^ 60 else 0) + (if rdc then 2 ^ 59 else 0) + home * 2 ^ 56 + kind * 2 ^ 52 + 32 * sec
      { s1 with free := s.free + 2 }.profile (dieOf core) (some core) 2
        [pc, BitVec.ofNat 64 info, BitVec.ofNat 64 (if home = dieOf core then t % 2 ^ 48 else t),
         BitVec.ofNat 64 (u % 2 ^ 16 * 2 ^ 32 + u / 2 ^ 16 % 2 ^ 16)]

/-! ## Memory traces (R431) -/

/-- A run being built: its first offset, its stride, its last offset, its lanes. -/
structure LaneRun where
  first  : Int
  stride : Int
  last   : Int
  count  : Nat
deriving DecidableEq, Repr

def LaneRun.word (r : LaneRun) : Word :=
  BitVec.ofNat 64 ((r.first % 2 ^ 32).toNat * 2 ^ 32 + (r.stride % 2 ^ 24).toNat * 2 ^ 8 + r.count % 256)

def fitsSigned (bits : Nat) (n : Int) : Bool := -(2 ^ (bits - 1)) ≤ n && n < 2 ^ (bits - 1)

/-- The run words of some lane addresses. -/
def runWords (base : Word) (as : List Word) : List Word :=
  let flush (r : Option LaneRun) : List Word := match r with | some q => [q.word] | none => []
  let r := as.foldl (fun (st : List Word × Option LaneRun) a =>
    let o := (a - base).toInt
    if !fitsSigned 32 o then (st.1 ++ flush st.2 ++ [0, a], none)
    else
      match st.2 with
      | none => (st.1, some ⟨o, 0, o, 1⟩)
      | some q =>
        if q.count = 1 && fitsSigned 24 (o - q.last) then (st.1, some ⟨q.first, o - q.last, o, 2⟩)
        else if o - q.last = q.stride && q.count < 64 then (st.1, some { q with last := o, count := q.count + 1 })
        else (st.1 ++ [q.word], some ⟨o, 0, o, 1⟩)) (([] : List Word), none)
  r.1 ++ flush r.2

/-- The trace record of a memory instruction, where its grid is traced. -/
def State.traceAccess (s : State) (c : Ctx) (width : Nat) (part : Mask) (lanes : List (Nat × Word)) : State :=
  match lanes with
  | [] => s
  | (_, base) :: _ =>
    if s.prof.traced.contains c.T.grid then
      let runs := runWords base (lanes.map Prod.snd)
      let info := BitVec.ofNat 64 (runs.length * 2 ^ 52 + c.T.id % 2 ^ 16 * 2 ^ 36 + c.W.idx % 2 ^ 16 * 2 ^ 20 + c.F.num % 16 * 2 ^ 16
        + width % 8 * 2 ^ 8 + c.op % 256)
      s.profile (dieOf c.W.core) (some c.W.core) 3 ([c.F.pc, part, base, info] ++ runs)
    else s

/-! ## Watchpoints (R420) -/

/-- An access overlaps a watched byte of its kind. -/
def Watch.hits (x : Watch) (write : Bool) (va : Word) (n : Nat) : Bool :=
  (x.kind == 2 || x.kind == (if write then 1 else 0)) && decide (va.toNat < x.start.toNat + x.size) && decide (x.start.toNat < va.toNat + n)

/-- The fragment stops after its instruction if a lane's access met a watchpoint of its team. -/
def State.watch (s : State) (t f : Nat) (write : Bool) (n : Nat) (vas : List Word) : State :=
  match Tbl.find s.debug t with
  | none => s
  | some d => if d.watches.any (fun x => vas.any (fun va => x.hits write va n)) then s.halt f 0x13 else s

end Sys2Proof.Machine
end

