-- ==== Sys2Proof/Machine/Access.lean ====
section
/-! DEFINITION. Machine/Access.lean: how memory instructions reach memory: addresses (R120), faults (R89 to R91, R106, R126, R389), the
order of the accesses of a wave (R115 to R117, R130, R316, R335), the store queue (R110, R111). -/

namespace Sys2Proof.Machine

/-! ## Addresses (R120) -/

/-- The address of a lane: base, scaled index and, where the instruction has one, displacement. -/
def Ctx.addr (c : Ctx) (x : ExtWord) (disp : Bool) (l : Nat) : Word :=
  let base := if x.a.cls == .scal then c.F.scalar x.a.num.toNat else 0
  let index := match x.b.cls with
    | .vec => (c.W.reg l x.b.num.toNat).val
    | .scal => c.F.scalar x.b.num.toNat
    | _ => 0
  base + index * BitVec.ofNat 64 (2 ^ (x.x &&& 3).toNat) + (if disp then c.bits x x.c 1 l else 0)

/-- The lanes that access: the participating ones, or one for a scalar D. -/
def Ctx.accessLanes (c : Ctx) (x : ExtWord) : List Nat := if x.d.isScalar then [0] else (c.part x).lanes

/-! ## Faults of the lanes of one instruction -/

/-- The code of an access kind in a park message (R444). -/
def kindCode (k : Acc) : Nat := match k with | .read => 0 | .write => 1 | .atomic => 2 | .fetch => 3

/-- What a memory instruction ends in when some of its lanes fault: the team parks where the host services one of them (R89, R389); else
the faulting lanes leave as the trapping fragment (R91), or the whole fragment traps for a scalar form (R126). Every walk that has read a
poisoned entry is recorded, whichever lane made it (R92). -/
def Ctx.faultRes (c : Ctx) (s : State) (kind : Nat) (bad : List (Nat × LaneFault)) (whole : Bool) : Res :=
  let host := bad.filter (fun b => b.2.x.host)
  let walks := ((bad.filterMap (fun b => b.2.x.walk.map (fun k => (vaPage b.2.va, k)))).eraseDups).map Prod.snd
  let trapOf (bs : List (Nat × LaneFault)) (e : LaneFault) : Trap :=
    let same := (bs.filter (fun b => b.2.x.cause == e.x.cause && b.2.x.sub == e.x.sub)).map Prod.fst
    ⟨e.x.cause, e.tval, if whole then c.F.active else Mask.ofList same, if whole then none else some (Mask.ofList (bs.map Prod.fst)), false,
     walks⟩
  match host, bad with
  | (_, e) :: _, _ =>
    let s1 := s.logWalks c.T c.W c.F c.F.pc (Mask.ofList (bad.map Prod.fst)) walks
    .keep (s1.park c.t ((host.map (fun b => (⟨vaPage b.2.va, kind⟩ : ParkPage))).eraseDups) [(c.f, { trapOf host e with lanes := none, walk := [] })])
  | [], (_, e) :: _ => .trap (trapOf bad e)
  | [], [] => .stall

/-- A lane whose access has passed its checks: the lane, its address, its pieces. -/
abbrev Reached := List (Nat × Word × List Piece)

/-- The addresses of some accesses that miss and cannot be walked at once (R86). -/
def Ctx.walkWaits (c : Ctx) (s : State) (vas : List Word) (n : Nat) : List Word :=
  (vas.flatMap (fun va => (splitPieces va n).map Prod.fst)).filter (s.walkBusy (.core c.W.core) c.T.asid)

/-- Every lane's access to virtual memory, or what the faults of some lanes end in. While a translation has to wait for a walker the
instruction waits in place (R86). -/
def Ctx.reach (c : Ctx) (s : State) (lanes : List Nat) (addr : Nat → Word) (n : Nat) (kind : Acc) (limit : Limit) (whole : Bool) :
    Except Res Reached :=
  match c.walkWaits s (lanes.map addr) n with
  | va :: _ => .error (.keep (s.awaitWalk c.W.core c.T.asid c.T.table va))
  | [] =>
    let rs := lanes.map (fun l => (l, addr l, s.access (.core c.W.core) c.T.asid c.T.table (addr l) n kind limit))
    let bad := rs.filterMap (fun r => match r.2.2 with | .error e => some (r.1, e) | .ok _ => none)
    if bad.isEmpty then .ok (rs.filterMap (fun r => match r.2.2 with | .ok ps => some (r.1, r.2.1, ps) | .error _ => none))
    else .error (c.faultRes s (kindCode kind) bad whole)

/-- The checks of a scratchpad access (R106), after the alignment of an atomic. -/
def scratchFault (T : Team) (a : Word) (n : Nat) (aligned : Bool) : Option XFault :=
  if aligned && a.toNat % n != 0 then some (xfault 0x05 0x01)
  else if 2 ^ 21 ≤ a.toNat then some (xfault 0x0D 0x01)
  else if T.cores.length ≤ a.toNat / 2 ^ 19 then some (xfault 0x0D 0x02)
  else if T.task.scratch < a.toNat % 2 ^ 19 + n then some (xfault 0x0D 0x03)
  else none

/-- Every lane's access to the team's scratchpad. -/
def Ctx.reachScratch (c : Ctx) (s : State) (lanes : List Nat) (addr : Nat → Word) (n : Nat) (aligned whole : Bool) : Except Res Reached :=
  let bad := lanes.filterMap (fun l => (scratchFault c.T (addr l) n aligned).map (fun x => (l, (⟨x, addr l⟩ : LaneFault))))
  if bad.isEmpty then .ok (lanes.map (fun l => (l, addr l, [⟨.scratch, (addr l).toNat, n, 0⟩])))
  else .error (c.faultRes s 0 bad whole)

/-- The accesses of a load, store or atomic in its space. -/
def Ctx.reachIn (c : Ctx) (s : State) (scratch : Bool) (lanes : List Nat) (addr : Nat → Word) (n : Nat) (kind : Acc) (whole : Bool) :
    Except Res Reached :=
  if scratch then c.reachScratch s lanes addr n (kind == .atomic) whole else c.reach s lanes addr n kind .none whole

/-- The translations that the accesses leave in the caches. -/
def State.fillReached (s : State) (c : Ctx) (n : Nat) (r : Reached) : State :=
  r.foldl (fun s a => s.fillAccess (.core c.W.core) c.T.asid c.T.table a.2.1 n) s

/-! ## Bytes of accesses -/

/-- One number for each byte of every region. -/
def byteKey (r : Region) (a : Nat) : Nat :=
  match r with
  | .loc => a
  | .scratch => a
  | .host => 2 ^ 51 + a
  | .peer k => (k + 1) * 2 ^ 52 + a

/-- The bytes of a piece. -/
def Piece.keys (p : Piece) : List Nat := (List.range p.len).map (fun i => byteKey p.region (p.addr + i))

def LaneAcc.keys (a : LaneAcc) : List Nat := a.pieces.flatMap Piece.keys

/-- Two accesses share a byte. -/
def LaneAcc.meets (a b : LaneAcc) : Bool :=
  a.pieces.any (fun p => b.pieces.any (fun q => p.region == q.region && p.addr < q.addr + q.len && q.addr < p.addr + p.len))

def accsMeet (a b : List LaneAcc) : Bool := a.any (fun x => b.any (fun y => x.meets y))

/-- The bytes that a store entry holds, in lane order: of two lanes that write one byte the later counts (R122). -/
def StoreEntry.bytes (e : StoreEntry) : List (Nat × Byte) := e.accs.flatMap (fun a => a.keys.zip a.data)

def StoreEntry.byte (e : StoreEntry) (k : Nat) : Option Byte := (e.bytes.reverse.find? (fun c => c.1 == k)).map Prod.snd

def StoreEntry.touches (e : StoreEntry) (k : Nat) : Bool := e.accs.any (fun a => a.keys.contains k)

/-! ## Order among a wave's accesses -/

/-- The first instruction stands before the second in a program order of their wave (R331): it issued earlier, from a fragment whose
lanes the other's shares. -/
def inOrder (ord₁ ord₂ : Nat) (own₁ own₂ : Mask) : Bool := ord₁ < ord₂ && (own₁ &&& own₂) != 0

/-- An acquire, while it is outstanding (R116, R130, R321), or a RCGEN (R278). -/
def Pend.isAcquire (p : Pend) : Bool :=
  match p.kind with
  | .load _ _ _ _ _ _ order _ _ _ _ => order == 1
  | .atom order _ _ _ _ _ _ => order == 1 || order == 3
  | .fence kind _ => kind ≤ 1
  | .release _ (.radiance op _ _ _) => op == 4
  | .sync => true
  | _ => false

/-- A load, a query, a push of samples or the read of an atomic that is outstanding. -/
def Pend.isRead (p : Pend) : Bool :=
  match p.kind with
  | .load _ _ _ _ _ _ _ _ _ _ _ => true
  | .atom _ _ _ _ _ _ _ => true
  | .query _ _ _ => true
  | .sample => true
  | _ => false

def Pend.accs (p : Pend) : List LaneAcc :=
  match p.kind with
  | .load _ _ _ _ _ _ _ _ accs _ _ => accs
  | .atom _ _ _ _ accs _ _ => accs
  | _ => []

def Pend.inScratch (p : Pend) : Bool :=
  match p.kind with
  | .load scratch _ _ _ _ _ _ _ _ _ _ => scratch
  | .atom _ _ _ scratch _ _ _ => scratch
  | _ => false

/-- An earlier acquire of the fragment is outstanding: nothing later of it is performed (R116). -/
def State.acquiring (s : State) (w ord : Nat) (own : Mask) : Bool :=
  s.pend.any (fun e => e.2.wave == w && e.2.isAcquire && inOrder e.2.ord ord e.2.own own)

/-- An earlier fence that holds later stores is outstanding (R130). -/
def State.fencing (s : State) (w ord : Nat) (own : Mask) : Bool :=
  s.pend.any (fun e => e.2.wave == w && inOrder e.2.ord ord e.2.own own && (match e.2.kind with | .fence k _ => k == 0 || k == 2 | _ => false))

/-- Every earlier load of the fragment has its value. -/
def State.readsDone (s : State) (w ord : Nat) (own : Mask) : Bool :=
  !s.pend.any (fun e => e.2.wave == w && e.2.isRead && inOrder e.2.ord ord e.2.own own)

/-- A write that has left the queue is not performed at a scope yet (R115). -/
def WriteRec.short (r : WriteRec) (scope : Nat) : Bool :=
  match r.region with
  | .loc => if scope ≤ 1 then false else if scope ≤ 3 then !r.accepted else !r.accepted || !r.invals.isEmpty || !r.acks.isEmpty
  | .scratch => false
  | _ => scope == 5 && !r.accepted

/-- An entry of the matrix order that stores to memory: ACCST counts as a store until its bytes are globally visible (R258). -/
def MatrixEntry.isStore (e : MatrixEntry) : Bool := match e.instr with | .accst _ => true | _ => false

/-- The stores of a wave that have not left it: those in its queue, and those that wait for room there. -/
def Wave.stores (W : Wave) : List StoreEntry := W.storeq ++ W.admits

/-- Every earlier store of the wave is performed at a scope (R115, R117). `sys` adds the acknowledgements of peers and hosts (R130). -/
def State.storesDone (s : State) (w : Nat) (W : Wave) (ord scope : Nat) (sys : Bool) : Bool :=
  !W.stores.any (fun e => e.ord < ord) &&
  !s.mx.entries.any (fun e => e.2.wave == w && e.2.isStore && e.2.pends.any (fun p => p < ord)) &&
  !s.path.writes.any (fun e => (match e.2.source with | .wave v o => v == w && o < ord | _ => false) &&
    (e.2.short scope || (sys && e.2.short 5)))

/-! ## The store queue (R110, R111) -/

/-- The targets of a store: its lanes' addresses and byte masks. -/
def StoreEntry.targets (e : StoreEntry) : List (Word × List Piece) := e.accs.map (fun a => (a.va, a.pieces))

/-- A new store merges into the youngest entry (R111). -/
def StoreEntry.mergesInto (e old : StoreEntry) : Bool :=
  e.op == .st && old.op == .st && e.scratch == old.scratch && !e.release && e.epoch == old.epoch &&
  e.targets.all old.targets.contains && old.targets.all e.targets.contains &&
  e.accs.all (fun a => a.data.length ≤ 16) && old.accs.all (fun a => a.data.length ≤ 16)

/-- Bytes of an entry that loads of the wave issued since are to read from it, kept for them before the entry's values change. -/
def captureFor (w : Nat) (old : StoreEntry) (p : Pend) : Pend :=
  match p.kind with
  | .load scratch const na size sext tag order scope accs known bad =>
    if p.wave == w && scratch == old.scratch && old.ord < p.ord then
      let keys := (accs.flatMap LaneAcc.keys).filter (fun k => (Tbl.find known k).isNone)
      let known1 := keys.foldl (fun t k => match old.byte k with | some b => Tbl.put t k b | none => t) known
      { p with kind := .load scratch const na size sext tag order scope accs known1 bad }
    else p
  | _ => p

/-- Admit an entry to a wave's store queue: merged into the youngest, or at the end where there is room. -/
def State.storeIn (s : State) (w : Nat) (W : Wave) (e : StoreEntry) : Option State :=
  match W.storeq.getLast? with
  | some old =>
    if e.mergesInto old then
      let merged : StoreEntry := { old with pends := old.pends ++ e.pends, own := old.own ||| e.own, accs := e.accs, poison := old.poison || e.poison }
      let s1 := { s with pend := s.pend.map (fun (p : Nat × Pend) => (p.1, captureFor w old p.2)) }
      some (s1.adjWave w (fun W => { W with storeq := W.storeq.dropLast ++ [merged] }))
    else if W.storeq.length < 16 then some (s.adjWave w (fun W => { W with storeq := W.storeq ++ [e] }))
    else none
  | none => some (s.adjWave w (fun W => { W with storeq := W.storeq ++ [e] }))

/-- The stores of far fragments enter the queue in their order as room allows, and their fragments wait no longer (R113). -/
def State.admitWaiting (s : State) (w : Nat) : State :=
  let pass (s : State) (e : StoreEntry) : State :=
    match s.wave? w with
    | none => s
    | some W =>
      if W.admits.head? != some e then s
      else
        match s.storeIn w W e with
        | none => s
        | some s1 =>
          let s2 := s1.adjWave w (fun W => { W with admits := W.admits.drop 1 })
          { s2 with frags := List.map (fun (f : Nat × Frag) =>
              if f.2.wave == w && f.2.hold == e.pends.head? && f.2.hold.isSome then (f.1, { f.2 with hold := none }) else f) s2.frags }
  match s.wave? w with
  | none => s
  | some W => W.admits.foldl pass s

/-! ## Failures of remote stores (R325) -/

/-- The wave has stores to peers or hosts that have not ended. -/
def State.remoteStores (s : State) (w : Nat) (W : Wave) : Bool :=
  let away (r : Region) : Bool := r != .loc && r != .scratch
  W.stores.any (fun e => e.accs.any (fun a => a.pieces.any (fun p => away p.region))) ||
  s.path.writes.any (fun e => (match e.2.source with | .wave v _ => v == w | _ => false) && away e.2.region)

/-- An instruction that waits for target acknowledgements reports the wave's first failed store before it takes effect. -/
def Ctx.failedStore (c : Ctx) (s : State) : Option Res :=
  match c.W.failed with
  | x :: _ =>
    some (.keep ((s.adjWave c.w (fun W => { W with failed := W.failed.drop 1 })).trapFrag c.f
      (trapWhole c 0x16 (tvalSub (if x.indeterminate then 1 else 2) x.va.toNat)) c.len))
  | [] => none

/-- A release at SYSTEM scope also waits in place for the remote stores that have not ended; none where it may go on. -/
def Ctx.remoteCheck (c : Ctx) (s : State) : Option Res :=
  match c.failedStore s with
  | some r => some r
  | none => if s.remoteStores c.w c.W then some .stall else none

/-! ## What a load sends beyond its L1 (R109) -/

/-- The sector of a piece, numbered over every region. -/
def Piece.sector (p : Piece) : Nat := byteKey p.region p.addr / 32

/-- The constant cache serves a piece of an LDC: one of type UC allocates nowhere (R84, R124). -/
def Piece.byConst (p : Piece) (const : Bool) : Bool := const && p.region == .loc && p.mt != 2

/-- A load's piece finds its sector in the L1 or the constant cache (R103, R124). `bypass` holds for an acquire beyond CORE scope (R115). -/
def State.holdsSector (s : State) (core : Nat) (const bypass : Bool) (p : Piece) : Bool :=
  if const then p.byConst true && (Tbl.find (Tbl.get [] s.path.const (clusterOf core)) (p.addr / 32)).isSome
  else p.region == .loc && p.mt == 0 && !bypass && (s.l1Find core (p.addr / 32)).isSome

/-- Every byte of a piece stands in the wave's store queue, which a load reads it from (R110); an LDC reads no store (R124). -/
def Wave.forwards (W : Wave) (const : Bool) (p : Piece) : Bool := !const && p.keys.all (fun k => W.storeq.any (fun e => e.touches k))

/-- The sector reads that some accesses send beyond the core's L1: each sector once, in lane order. -/
def State.sentReads (s : State) (W : Wave) (const bypass : Bool) (r : Reached) : List Nat :=
  (((r.flatMap (fun a => a.2.2)).filter (fun p => p.region != .scratch && !s.holdsSector W.core const bypass p && !W.forwards const p)).map
    Piece.sector).eraseDups

/-! ## Quads near and far (R112) -/

/-- A piece is near for a store: the core TLB holds its translation. -/
def State.nearPage (s : State) (c : Ctx) (va : Word) : Bool :=
  (tlbFind (Tbl.get [] s.path.tlbCore c.W.core) c.T.asid (vaPage va)).isSome

/-- What a load asks of its quads: LDC or not, an acquire beyond CORE scope. -/
structure LoadKind where
  const  : Bool
  bypass : Bool
deriving DecidableEq, Repr

/-- A lane's access is near: its translations are in the core TLB and, for a load, its WB and LDC sectors are in the L1 or the constant cache
and every sector that it asks for has a request entry; `granted` are those that have. -/
def State.nearLane (s : State) (c : Ctx) (n : Nat) (load : Option LoadKind) (sent granted : List Nat) (a : Nat × Word × List Piece) : Bool :=
  (splitPieces a.2.1 n).all (fun p => s.nearPage c p.1) &&
  (match load with
   | none => true
   | some k => a.2.2.all (fun p => ((p.mt != 0 && !k.const) || s.holdsSector c.W.core k.const false p) &&
       (granted.contains p.sector || !sent.contains p.sector)))

/-- The lanes of the far quads among the fragment's active lanes, where the fragment is to split (R112): a quad with no participating lane is
near. -/
def State.farLanes (s : State) (c : Ctx) (x : ExtWord) (n : Nat) (load : Option LoadKind) (r : Reached) : Mask :=
  let sent := match load with | some k => s.sentReads c.W k.const k.bypass r | none => []
  let far := (r.filter (fun a => !s.nearLane c n load sent (sent.take (s.freeEntries c.W.core)) a)).map (fun a => a.1 / 4)
  if far.isEmpty || c.F.active.lanes.all (fun l => far.contains (l / 4)) || x.la == 15 || !s.room c.w c.W then 0
  else Mask.ofPred (fun l => far.contains (l / 4)) &&& c.F.active

/-- The far lanes leave as a fragment that stands after the instruction and waits for its part of it (R113); the lookahead windows go with
it (R34). -/
def State.splitFar (s : State) (c : Ctx) (i : Instr) (far : Mask) (hold : Option Nat) : Option (Nat × State) :=
  match s.splitOff c.f far with
  | none => none
  | some (n, s1) =>
    some (n, s1.adjFrag n (fun F => { F with pc := F.pc + BitVec.ofNat 64 c.len, runCount := F.runCount + 1, fstate := .blocked, hold := hold
                                             ahead := s.windows c i }))

end Sys2Proof.Machine
end

