-- ==== Sys2Proof/Machine/LoadStore.lean ====
section
/-! DEFINITION. Machine/LoadStore.lean: LD, LDS, LDC, ST, STS, PREF, CCTL and FENCE at issue (R112, R113, R118 to R130). -/

namespace Sys2Proof.Machine

/-! ## Loads (R121) -/

/-- The order and scope of a load or store (R118). -/
def accessOrder (x : ExtWord) : Nat := ((x.mod >>> 3) &&& 3).toNat
def accessScope (x : ExtWord) : Nat := (x.mod &&& 7).toNat

/-- Count an ordering instruction of the wave: stores do not merge past it (R111). -/
def State.nextEpoch (s : State) (w : Nat) (ordering : Bool) : State :=
  if ordering then s.adjWave w (fun W => { W with epoch := W.epoch + 1 }) else s

def plainAcc (a : Nat × Word × List Piece) : LaneAcc := ⟨a.1, a.2.1, a.2.2, [], 0, 0⟩

/-- An access that leaves the device. -/
def reachedAway (r : Reached) : Bool := r.any (fun a => a.2.2.any (fun p => match p.region with | .peer _ => true | .host => true | _ => false))

/-- The outstanding record of (a part of) a load; `reads` are what it sends beyond the L1. -/
def loadPend (x : ExtWord) (scratch const : Bool) (c : Ctx) (ord : Nat) (r : Reached) (reads : List Nat) : Pend :=
  let n := 2 ^ (x.sub &&& 7).toNat
  let regs := if n = 16 then 2 else 1
  { wave := c.w, lanes := if x.d.isScalar then heldLanes c.W c.F else Mask.ofList (r.map Prod.fst), own := heldLanes c.W c.F, ord := ord
    tok := x.tok.toNat, dst := if x.d.isScalar then .scal x.d.num.toNat regs else .vec x.d.num.toNat regs, pc := c.F.pc, rwc := c.F.rwc, cls := c.cls, op := c.op
    kind := .load scratch const (x.x >>> 2 == 1) n (x.sub.getLsbD 3) x.fmt (if const then 0 else accessOrder x) (if const then 0 else accessScope x)
      (r.map plainAcc) [] [], reads := reads }

/-- What a load asks of its quads. -/
def loadKind (x : ExtWord) (const : Bool) : LoadKind := ⟨const, !const && accessOrder x == 1 && 2 ≤ accessScope x⟩

/-- The outstanding record of the part of a load that stays with its fragment, which waits where its data come from beyond the device
(R325). -/
def State.startLoad (s : State) (c : Ctx) (f : Nat) (p : Pend) (r : Reached) (n : Nat) : State :=
  let q := s.addPend p
  let s1 := if reachedAway r then q.2.adjFrag f (fun F => { F with fstate := .blocked, hold := some q.1 }) else q.2
  s1.watch c.t f false n (r.map (fun a => a.2.1))

/-- A load issues: its lanes' addresses are checked, quads that miss may leave (R112), and its accesses are outstanding. A fragment whose
load leaves the device goes on once its outcome is known (R325). -/
def loadBody (i : Instr) (x : ExtWord) (scratch const : Bool) (c : Ctx) (s : State) : Res :=
  let n := 2 ^ (x.sub &&& 7).toNat
  let whole := x.d.isScalar
  let lanes := c.accessLanes x
  if lanes.isEmpty then .done s
  else
    match c.reachIn s scratch lanes (c.addr x true) n .read whole with
    | .error r => r
    | .ok r =>
      let k := loadKind x const
      let far := if scratch || whole then 0 else s.farLanes c x n (some k) r
      let near := r.filter (fun a => !far.has a.1)
      let away := r.filter (fun a => far.has a.1)
      let sent (q : Reached) : List Nat := if scratch then [] else s.sentReads c.W const k.bypass q
      let s1 := (if scratch then s else s.fillReached c n r).nextEpoch c.w (!const && accessOrder x != 0)
      let s2 := s1.traceAccess c (x.sub &&& 7).toNat (c.part x) (r.map (fun a => (a.1, a.2.1)))
      let ord := s2.nextId
      let s3 := if near.isEmpty then s2 else s2.startLoad c c.f (loadPend x scratch const c ord near (sent near)) near n
      if far = 0 then .done s3
      else
        let q := s3.addPend (loadPend x scratch const c ord away ((sent away).filter (fun k => !(sent near).contains k)))
        match q.2.splitFar c i far (some q.1) with
        | none => .done q.2
        | some (f, s4) => .done (s4.watch c.t f false n (away.map (fun a => a.2.1)))

def execLd (w : ExtWord) (s : State) : Host.Outcome State Fault Refusal := issue (.ld w) (loadBody (.ld w) w false false) s
def execLds (w : ExtWord) (s : State) : Host.Outcome State Fault Refusal := issue (.lds w) (loadBody (.lds w) w true false) s
def execLdc (w : ExtWord) (s : State) : Host.Outcome State Fault Refusal := issue (.ldc w) (loadBody (.ldc w) w false true) s

/-! ## Stores (R122) -/

/-- The bytes that a lane stores: D, or D and D + 1. -/
def Ctx.storeBytes (c : Ctx) (x : ExtWord) (n l : Nat) : List Byte :=
  let lo := c.bits x x.d 0 l
  let hi := c.bits x { x.d with num := x.d.num + 1 } 0 l
  (natBytes 8 lo.toNat ++ natBytes 8 hi.toNat).take n

/-- One part of a store: its outstanding record, and its entry. -/
def State.newStore (s : State) (c : Ctx) (tok : Nat) (lanes : Mask) (scratch release : Bool) (scope : Nat) (accs : List LaneAcc) :
    Option (State × Wave × StoreEntry) :=
  match s.wave? c.w with
  | none => none
  | some W =>
    let own := heldLanes c.W c.F
    let p := s.addPend { wave := c.w, lanes := lanes, own := own, ord := s.nextId, tok := tok, dst := .none, pc := c.F.pc, rwc := c.F.rwc, cls := c.cls, op := c.op,
                         kind := .store scope release, reads := [] }
    some (p.2, W, { pends := [p.1], pc := c.F.pc, ord := p.1, own := own, op := .st, scratch := scratch, scope := scope, release := release
                    epoch := W.epoch, accs := accs })

/-- Admit one part of a store. -/
def State.admitStore (s : State) (c : Ctx) (tok : Nat) (lanes : Mask) (scratch release : Bool) (scope : Nat) (accs : List LaneAcc) :
    Option State :=
  (s.newStore c tok lanes scratch release scope accs).bind (fun q => q.1.storeIn c.w q.2.1 q.2.2)

/-- The far part of a store: admitted, or waiting for room with its fragment (R113, R122). -/
def State.admitFar (s : State) (c : Ctx) (i : Instr) (tok : Nat) (far : Mask) (release : Bool) (scope : Nat) (accs : List LaneAcc) (n : Nat) :
    State :=
  match s.newStore c tok (Mask.ofList (accs.map LaneAcc.lane)) false release scope accs with
  | none => s
  | some (s1, W, e) =>
    let r := match s1.storeIn c.w W e with
      | some s2 => (s2, none)
      | none => (s1.adjWave c.w (fun W => { W with admits := W.admits ++ [e] }), e.pends.head?)
    match r.1.splitFar c i far r.2 with
    | none => r.1
    | some (f, s3) => s3.watch c.t f true n (accs.map LaneAcc.va)

/-- ST and STS: the entry is admitted for every lane that passed; far quads of an ST may leave with an entry of their own (R112, R113,
R122). A release at SYSTEM scope reports a failed remote store first (R325). -/
def storeBody (i : Instr) (x : ExtWord) (scratch : Bool) (c : Ctx) (s : State) : Res :=
  let n := 2 ^ (x.sub &&& 7).toNat
  let whole := x.d.isScalar
  let lanes := c.accessLanes x
  if lanes.isEmpty then .done s
  else
    match c.reachIn s scratch lanes (c.addr x true) n .write whole with
    | .error r => r
    | .ok r =>
      let release := accessOrder x == 2
      match (if release && accessScope x == 5 then c.remoteCheck s else none) with
      | some q => q
      | none =>
        let acc (a : Nat × Word × List Piece) : LaneAcc := ⟨a.1, a.2.1, a.2.2, c.storeBytes x n a.1, 0, 0⟩
        let far := if scratch || whole then 0 else s.farLanes c x n none r
        let near := r.filter (fun a => !far.has a.1)
        let away := r.filter (fun a => far.has a.1)
        let mask := if whole then heldLanes c.W c.F else Mask.ofList (near.map Prod.fst)
        let s1 := (if scratch then s else s.fillReached c n r).nextEpoch c.w release
        match (if near.isEmpty then some s1 else s1.admitStore c x.tok.toNat mask scratch release (accessScope x) (near.map acc)) with
        | none => .stall
        | some s2 =>
          let s3 := (s2.traceAccess c (x.sub &&& 7).toNat (c.part x) (r.map (fun a => (a.1, a.2.1)))).watch c.t c.f true n
            (near.map (fun a => a.2.1))
          .done (if far = 0 then s3 else s3.admitFar c i x.tok.toNat far release (accessScope x) (away.map acc) n)

def execSt (w : ExtWord) (s : State) : Host.Outcome State Fault Refusal := issue (.st w) (storeBody (.st w) w false) s
def execSts (w : ExtWord) (s : State) : Host.Outcome State Fault Refusal := issue (.sts w) (storeBody (.sts w) w true) s

/-! ## PREF (R128) -/

/-- What a lane of PREF ends in: it is dropped, its line or translation is present, or some sectors have to wait. -/
inductive PrefEnd where
  | dropped
  | present (s : State)
  | waits (s : State) (secs : List Nat)

/-- The memory type under which PREF reads at its level: .L2 allocates nothing in the L1. -/
def prefType (level mt : Nat) : Nat := if level = 1 then 1 else mt

/-- A lane of PREF whose translation is at hand: the fetch of its line into the named level. -/
def State.prefLane (s : State) (T : Team) (W : Wave) (pc : Word) (level : Nat) (va : Word) : PrefEnd :=
  match s.access (.core W.core) T.asid T.table va 1 .read .none with
  | .ok [p] =>
    if p.mt = 2 then .dropped
    else
      let s1 := s.fillAccess (.core W.core) T.asid T.table va 1
      let mt := prefType level p.mt
      let beyond := (lineSecs (p.addr / 128)).filter (fun k => mt != 0 || (s.l1Find W.core k).isNone)
      if level = 2 then .present s1
      else if s.freeEntries W.core < beyond.length then .dropped
      else
        let r := beyond.foldl (fun (q : State × List Nat) sec => match q.1.readSector W.core sec mt false 0 false with
          | some (v, s2) => (s2.sampleSector W.core T.grid pc 4 sec v.poison (homeOf p.addr != dieOf W.core), q.2)
          | none => (q.1, q.2 ++ [sec])) (s1, [])
        if r.2.isEmpty then .present r.1 else .waits r.1 r.2
  | _ => .dropped

/-- The end of one lane of an outstanding PREF: a lane that is dropped is counted, and one that waits keeps its place. -/
def State.prefEnd (s : State) (id core lane : Nat) (va : Word) (e : PrefEnd) : State :=
  match e with
  | .dropped => (s.count ctrPREFDROP core 1).completeLanes id (Mask.one lane)
  | .present s1 => s1.completeLanes id (Mask.one lane)
  | .waits s1 secs => { s1 with pend := Tbl.adjust s1.pend id (fun p => match p.kind with
      | .pref level vas => { p with kind := .pref level (Tbl.put vas lane va), reads := p.reads ++ secs.filter (fun k => !p.reads.contains k) }
      | _ => p) }

/-- One lane of an outstanding PREF, whose translation is at hand. -/
def State.prefStep (s : State) (id level lane : Nat) (va : Word) : State :=
  match Tbl.find s.pend id with
  | none => s
  | some p =>
    match s.wave? p.wave with
    | none => s
    | some W =>
      match s.team? W.team with
      | none => s
      | some T => s.prefEnd id W.core lane va (s.prefLane T W p.pc level va)

/-- PREF: no lane faults; a lane that is dropped is counted, and one whose page misses waits for a walker, its fragment in place while the
die has no room for another miss (R86). -/
def prefBody (x : ExtWord) (c : Ctx) (s : State) : Res :=
  let level := (x.x >>> 2).toNat
  let part := c.part x
  let addr (l : Nat) : Word := c.addr x true l
  let missing := part.lanes.filter (fun l => s.tlbMiss (.core c.W.core) c.T.asid (addr l))
  let die := dieOf c.W.core
  let pages := ((missing.map (fun l => (c.T.asid, vaPage (addr l)))).eraseDups).filter (fun k => !(s.dieWalks die).contains k)
  if part = 0 then .done s
  else if s.walkRoom die < pages.length then .stall
  else
    let r := s.addPend { wave := c.w, lanes := part, own := heldLanes c.W c.F, ord := s.nextId, tok := x.tok.toNat, dst := .none
                         pc := c.F.pc, rwc := c.F.rwc, cls := c.cls, op := c.op, kind := .pref level [] }
    let new := missing.map (fun l => (⟨die, c.W.core, c.T.asid, c.T.table, addr l, some r.1, l, level⟩ : WalkRequest))
    let s1 := { r.2 with path := { r.2.path with walkq := r.2.path.walkq ++ new } }
    .done ((part.lanes.filter (fun l => !missing.contains l)).foldl (fun (s : State) l => s.prefStep r.1 level l (addr l)) s1)

/-- The sectors that lanes of a PREF wait for are tried again. -/
def State.prefReturn (s : State) (id : Nat) : State :=
  match Tbl.find s.pend id with
  | none => s
  | some p =>
    match p.kind with
    | .pref level vas =>
      let s1 := { s with pend := Tbl.put s.pend id { p with kind := .pref level [], reads := [] } }
      vas.foldl (fun s v => s.prefStep id level v.1 v.2) s1
    | _ => s

/-- The fragment of a wave that holds a lane, with its wave and team. -/
def State.ownerOf (s : State) (w lane : Nat) : Option (Team × Wave × Frag) :=
  match s.wave? w with
  | none => none
  | some W =>
    match s.team? W.team, (s.fragsOf w).find? (fun e => (heldLanes W e.2).has lane) with
    | some T, some e => some (T, W, e.2)
    | _, _ => none

/-- A walk for PREFs alone has read a poisoned entry: one record, of the first that asked (R92). An access that waits in place walks again itself. -/
def State.logPrefWalk (s : State) (qs : List WalkRequest) (x : XFault) : State :=
  match x.walk, qs with
  | some k, q :: _ =>
    (match (q.pend.bind (Tbl.find s.pend)).bind (fun p => (s.ownerOf p.wave q.lane).map (fun o => (p, o))) with
     | some (p, o) => s.logWalks o.1 o.2.1 { o.2.2 with rwc := p.rwc } p.pc (Mask.ofList (qs.map WalkRequest.lane)) [k]
     | none => s)
  | _, _ => s

/-- TABLE_WALK: a walker takes the die's oldest waiting miss; every miss of the same address space and page takes its result (R80 to R86). -/
def State.walkNext (s : State) (die : Nat) : State :=
  match s.path.walkq.find? (fun r => r.die == die) with
  | none => s
  | some r =>
    let qs := s.path.walkq.filter (fun q => q.die == die && q.same r.asid r.va)
    let s1 := { s with path := { s.path with walkq := s.path.walkq.filter (fun q => !(q.die == die && q.same r.asid r.va)) } }
    let prefs := qs.filter (fun q => q.pend.isSome)
    let s2 := match s1.translate (.core r.core) r.asid r.root r.va with
      | .ok _ => qs.foldl (fun s q => s.fillTlb (.core q.core) q.asid q.root q.va) s1
      | .error x => if prefs.length = qs.length then s1.logPrefWalk prefs x else s1
    prefs.foldl (fun (s : State) q => s.prefStep (q.pend.getD 0) q.level q.lane q.va) s2

def execTableWalk (die : Nat) (s : State) : Host.Outcome State Fault Refusal := .next (s.walkNext die)

def execPref (w : ExtWord) (s : State) : Host.Outcome State Fault Refusal := issue (.pref w) (prefBody w) s

/-! ## CCTL (R129) -/

def State.constDrop (s : State) (cluster : Nat) (p : Nat → Bool) : State :=
  let t := List.filter (fun e => !p e.1) (Tbl.get [] s.path.const cluster)
  { s with path := { s.path with const := Tbl.set [] s.path.const cluster t } }

/-- Drop the copies that an invalidation names: of one line, or all. -/
def State.invalidate (s : State) (core op : Nat) (line : Option Nat) : State :=
  let hit (sec : Nat) : Bool := match line with | some l => sec / 4 == l | none => true
  match op with
  | 0 => s.l1Drop core hit
  | 1 =>
    (match line with
     | some l => if homeOf (128 * l) == dieOf core then s else s.rdcDrop (dieOf core) l
     | none => s.setRdc (dieOf core) [])
  | _ => s.constDrop (clusterOf core) hit

/-- The line of local memory that an address names, where it translates. -/
def State.lineOf (s : State) (c : Ctx) (va : Word) : Option Nat :=
  match s.translate (.core c.W.core) c.T.asid c.T.table va with
  | .error _ => none
  | .ok r => let pa := s.alias (leafPa r va); if paTop pa = 0 then some (paLow pa / 128) else none

/-- CCTL.ZL: a relaxed store of 128 zero bytes to each lane's line. -/
def zeroLineBody (x : ExtWord) (c : Ctx) (s : State) : Res :=
  let lanes := (c.part x).lanes
  if lanes.isEmpty then .done s
  else
    let addr (l : Nat) : Word := c.addr x true l &&& ~~~(127 : Word)
    match c.reach s lanes addr 128 .write .none false with
    | .error r => r
    | .ok r =>
      let acc (a : Nat × Word × List Piece) : LaneAcc := ⟨a.1, a.2.1, a.2.2, List.replicate 128 0, 0, 0⟩
      match (s.fillReached c 128 r).admitStore c x.tok.toNat (c.part x) false false 0 (r.map acc) with
      | none => .stall
      | some s1 => .done s1

def cctlBody (x : ExtWord) (c : Ctx) (s : State) : Res :=
  let op := (x.sub &&& 7).toNat
  if op = 3 then zeroLineBody x c s
  else if x.sub.getLsbD 3 then .done (if c.part x = 0 then s else s.invalidate c.W.core op none)
  else .done ((c.part x).lanes.foldl (fun s l =>
    match s.lineOf c (c.addr x true l) with
    | some line => s.invalidate c.W.core op (some line)
    | none => s) s)
def execCctl (w : ExtWord) (s : State) : Host.Outcome State Fault Refusal := issue (.cctl w) (cctlBody w) s

/-! ## FENCE (R130) -/

/-- FENCE: outstanding until the condition on its earlier accesses holds; at SYSTEM scope and for .XQ it reports a failed remote store
first. It does not stall the instructions behind it. -/
def fenceBody (x : ExtWord) (c : Ctx) (s : State) : Res :=
  let kind := (x.sub &&& 3).toNat
  let scope := (x.mod &&& 7).toNat
  match (if scope == 5 || kind == 3 then c.failedStore s else none) with
  | some r => r
  | none =>
    let held := heldLanes c.W c.F
    .done ((s.nextEpoch c.w true).addPend { wave := c.w, lanes := held, own := held, ord := s.nextId, tok := x.tok.toNat, dst := .none, pc := c.F.pc, rwc := c.F.rwc, cls := c.cls
                                            op := c.op, kind := .fence kind scope }).2
def execFence (w : ExtWord) (s : State) : Host.Outcome State Fault Refusal := issue (.fence w) (fenceBody w) s

end Sys2Proof.Machine
end

