-- ==== Sys2Proof/Machine/Atomics.lean ====
section
/-! DEFINITION. Machine/Atomics.lean: atomics and reductions (R315 to R323), at issue and where they are performed. -/

namespace Sys2Proof.Machine

/-! ## One step (R319) -/

/-- Op(m, s, c) on operands of a format. -/
def atomOp (op fmt : Nat) (sg ftz : Bool) (m a c : Nat) : Nat :=
  let w := tagWidth fmt
  match op with
  | 6 => a
  | 7 => if m = c then a else m
  | _ =>
    if 5 ≤ fmt then
      let f := fmtAt fmt
      let vs := [f.read ftz m, f.read ftz a]
      match op with
      | 0 => (f.finish ftz 0 (addVal 0 (nthVal vs 0) (nthVal vs 1))).1
      | 1 => (minMaxOp false false f vs).1
      | _ => (minMaxOp true false f vs).1
    else
      let le := if sg then decide (toSigned w m ≤ toSigned w a) else decide (m ≤ a)
      match op with
      | 0 => (m + a) % 2 ^ w
      | 1 => if le then m else a
      | 2 => if le then a else m
      | 3 => m &&& a
      | 4 => m ||| a
      | _ => m ^^^ a

/-! ## At issue (R318, R320 to R322) -/

/-- Bytes of an atomic's operand. -/
def atomBytes (x : ExtWord) : Nat := tagWidth x.tag / 8
def atomOrder (x : ExtWord) : Nat := ((x.mod >>> 4) &&& 3).toNat
def atomScope (x : ExtWord) : Nat := ((x.mod >>> 1) &&& 7).toNat

/-- The data, and the compare value of .CAS in D. -/
def atomSrcs (x : ExtWord) : List Src := if x.sub == 7 then [src 3 x.c x.tag, src 0 x.d x.tag] else [src 3 x.c x.tag]

/-- The sources of which a mismatch is reported first: A, B, C, then D (R179). -/
def atomBody (x : ExtWord) (scratch ret : Bool) (c : Ctx) (s : State) : Res :=
  let n := atomBytes x
  let whole := x.d.isScalar
  let lanes := c.accessLanes x
  if lanes.isEmpty then .done s
  else
    match c.tagTrap lanes (atomSrcs x) with
    | some t => .trap t
    | none =>
      let vs (l : Nat) := c.values x (atomSrcs x) l
      match c.fpTrap lanes (fun l => (vs l).2) with
      | some t => .trap t
      | none =>
        match c.reachIn s scratch lanes (c.addr x false) n .atomic whole with
        | .error r => r
        | .ok r =>
          let order := atomOrder x
          let release := 2 ≤ order
          match (if release && atomScope x == 5 then c.remoteCheck s else none) with
          | some q => q
          | none =>
            let w := tagWidth x.tag
            let acc (a : Nat × Word × List Piece) : LaneAcc :=
              ⟨a.1, a.2.1, a.2.2, [], BitVec.ofNat 64 (elem w (nth (vs a.1).1 0) 0), BitVec.ofNat 64 (elem w (nth (vs a.1).1 1) 0)⟩
            let own := heldLanes c.W c.F
            let accs := r.map acc
            let s1 := (if scratch then s else s.fillReached c n r).nextEpoch c.w (order != 0)
            let p := s1.addPend
              { wave := c.w, lanes := if whole then own else c.part x, own := own, ord := s1.nextId, tok := x.tok.toNat
                dst := if !ret then .none else if whole then .scal x.d.num.toNat 1 else .vec x.d.num.toNat 1, pc := c.F.pc, rwc := c.F.rwc, cls := c.cls, op := c.op
                kind := if ret then .atom order (atomScope x) x.fmt scratch accs [] 0 else .store (atomScope x) release }
            match p.2.wave? c.w with
            | none => .stall
            | some W =>
              let e : StoreEntry :=
                { pends := [p.1], pc := c.F.pc, ord := p.1, own := own
                  op := .rmw x.sub.toNat x.tag (x.mod.getLsbD 0) (modeFTZ c.F.mode) ret (scratch || ret || x.x.getLsbD 2) n
                  scratch := scratch, scope := atomScope x, release := release, epoch := W.epoch, accs := accs }
              match p.2.storeIn c.w W e with
              | none => .stall
              | some s2 =>
                let s3 := (s2.traceAccess c (x.sub &&& 7).toNat (c.part x) (r.map (fun a => (a.1, a.2.1)))).watch c.t c.f true n
                  (r.map (fun a => a.2.1))
                let s4 := c.setFlags lanes (fun l => (vs l).2) s3
                .done (if ret && reachedAway r then s4.adjFrag c.f (fun F => { F with fstate := .blocked, hold := some p.1 }) else s4)

def execAtom (w : ExtWord) (s : State) : Host.Outcome State Fault Refusal := issue (.atom w) (atomBody w false true) s
def execAtoms (w : ExtWord) (s : State) : Host.Outcome State Fault Refusal := issue (.atoms w) (atomBody w true true) s
def execRed (w : ExtWord) (s : State) : Host.Outcome State Fault Refusal := issue (.red w) (atomBody w false false) s
def execReds (w : ExtWord) (s : State) : Host.Outcome State Fault Refusal := issue (.reds w) (atomBody w true false) s

/-! ## Where the steps are performed (R316, R317) -/

/-- What the steps of one request leave: the memory and its poisoned sectors, each lane's old value, the lanes that met poison, and how
many steps were discarded. -/
structure Stepped where
  mem     : Tbl Byte
  poison  : List Nat
  old     : Tbl Word
  bad     : Mask
  dropped : Nat
deriving DecidableEq, Repr

/-- The first byte of an aligned operand. -/
def LaneAcc.place (a : LaneAcc) : Nat := (a.pieces.map Piece.addr).headD 0

/-- One lane's step: not applied in a poisoned sector. -/
def Stepped.step (q : Stepped) (op fmt : Nat) (sg ftz : Bool) (n : Nat) (a : LaneAcc) : Stepped :=
  if q.poison.contains (a.place / 32) then { q with bad := q.bad ||| Mask.one a.lane, dropped := q.dropped + 1 }
  else
    let m := readNat q.mem a.place n
    { q with mem := writeNat q.mem a.place n (atomOp op fmt sg ftz m a.operand.toNat a.compare.toNat)
             old := Tbl.put q.old a.lane (BitVec.ofNat 64 m) }

/-- Two requests to one address may merge on their way into one that carries Op(s1, s2) (R323): which two is open. -/
def mergeOnce (op fmt : Nat) (sg ftz : Bool) (free : Nat) (l : List LaneAcc) : List LaneAcc :=
  let i := Config.freeNat free % l.length
  let j := Config.freeNat (free + 1) % l.length
  match l[i]?, l[j]? with
  | some a, some b =>
    if i != j && a.place == b.place then
      (l.set i { a with operand := BitVec.ofNat 64 (atomOp op fmt sg ftz a.operand.toNat b.operand.toNat 0) }).eraseIdx j
    else l
  | _, _ => l

/-- Up to as many mergers as there are requests: every grouping of them is possible. -/
def mergeSteps (op fmt : Nat) (sg ftz : Bool) (free : Nat) (steps : List LaneAcc) : List LaneAcc :=
  (List.range steps.length).foldl (fun l k => mergeOnce op fmt sg ftz (free + 2 * k) l) steps

/-- Requests that arrive in an open order. -/
def shuffle (free : Nat) (steps : List LaneAcc) : List LaneAcc :=
  steps.zipIdx.foldl (fun l e => l.insertIdx (Config.freeNat (free + e.2) % (l.length + 1)) e.1) []

/-- All the steps of a request on some memory: in lane order where the instruction says so, else in any; those of a release do not merge. -/
def runSteps (op : StoreOp) (release : Bool) (free : Nat) (steps : List LaneAcc) (mem : Tbl Byte) (poison : List Nat) : Stepped :=
  match op with
  | .st => ⟨mem, poison, [], 0, 0⟩
  | .rmw o f sg ftz _ ordered n =>
    (if ordered then steps else shuffle (free + 2 * steps.length) (if release then steps else mergeSteps o f sg ftz free steps)).foldl
      (fun q a => q.step o f sg ftz n a) ⟨mem, poison, [], 0, 0⟩

/-- The open values that the steps of a request use. -/
def stepsFree (steps : List LaneAcc) : Nat := 3 * steps.length + 1

/-- The request returns old values. -/
def StoreOp.returns (op : StoreOp) : Bool := match op with | .rmw _ _ _ _ ret _ _ => ret | .st => false

/-- The old values of an atomic's lanes reach its record; discarded steps of a reduction are counted at their home (R317). -/
def State.stepped (s : State) (op : StoreOp) (pend : Nat) (place : Nat) (q : Stepped) : State :=
  if op.returns then
    match (Tbl.find s.pend pend).map Pend.kind with
    | some (.atom order scope tag scratch accs old bad) =>
      let old1 := q.old.foldl (fun t e => Tbl.put t e.1 e.2) old
      { s with pend := Tbl.adjust s.pend pend (fun p => { p with kind := .atom order scope tag scratch accs old1 (bad ||| q.bad) }) }
    | _ => s
  else if q.dropped = 0 then s
  else s.count ctrREDPSN place q.dropped

end Sys2Proof.Machine
end

