-- ==== Sys2Proof/Machine/MemEvents.lean ====
section
/-! DEFINITION. Machine/MemEvents.lean: what the memory system does on its own: loads return (R121), queues drain (R110), homes accept
writes and invalidate (R99, R100), atomics are performed and answered (R315, R320), remote requests end (R324, R325). -/

namespace Sys2Proof.Machine

/-! ## Requests to peers and host windows (R324, R325) -/

/-- The peer of a region, for an error record. -/
def peerOf (r : Region) : Nat := match r with | .peer k => k | _ => 0

/-- Send a request, with whether its data carry poison (R405); whether the target's link layer accepts this attempt is open. -/
def State.sendRemote (s : State) (pend write : Option Nat) (lane : Nat) (va : Word) (region : Region) (addr : Nat) (op : PeerOp)
    (poison : Bool := false) : State :=
  let r : RemoteReq := { pend := pend, write := write, lane := lane, va := va, region := region, addr := addr, op := op, poison := poison, tries := 1
                         since := s.ticks, delivered := Config.freeBool s.free, result := none }
  { s with path := { s.path with remote := Tbl.put s.path.remote s.nextId r }, nextId := s.nextId + 1, free := s.free + 1 }

/-- How a unit's request names its sender: its LOC unit and die stand where a lane's number would. -/
def unitLane (loc die : Nat) : Nat := 256 + 16 * die + loc

/-- The unit, core and die that a request comes from, for a record that names no fragment. -/
def State.senderOf (s : State) (r : RemoteReq) : Nat × Nat × Nat :=
  if 256 ≤ r.lane then (r.lane % 16, 0xFF, (r.lane - 256) / 16 % 8)
  else
    match r.write.bind (Tbl.find s.path.writes), r.pend.bind (Tbl.find s.eng.chunks), r.pend.bind (fun k => (s.frag? (k - 2 ^ 62)).bind (fun F => s.wave? F.wave)) with
    | some q, _, _ =>
      (match q.source with
       | .command _ => (3, 0xFF, q.die)
       | .optimiser _ => (4, 0xFF, q.die)
       | _ => (0, q.core % 160, q.die))
    | none, some h, _ => (3, 0xFF, h.engine / 320)
    | none, none, some W => (0, W.core % 160, dieOf W.core)
    | none, none, none => (5, 0xFF, 0)

/-- A request has ended: its result, and one record where it has none (R324). -/
def State.endRemote (s : State) (id : Nat) (e : RemoteEnd) : State :=
  match Tbl.find s.path.remote id with
  | none => s
  | some r =>
    if r.result.isSome then s
    else
      let s1 := { s with path := { s.path with remote := Tbl.put s.path.remote id { r with result := some e } } }
      let code := match e with | .ok _ _ => 0 | .unreachable => 0x0A | .indeterminate => 0x0B
      if code = 0 then s1
      else
        match (r.pend.bind (fun k => Tbl.find s.pend k)).bind (fun p => (s.ownerOf p.wave r.lane).map (fun o => (p, o))) with
        | some (p, o) => s1.logFrag o.1 o.2.1 { o.2.2 with rwc := p.rwc } (some r.lane) (kindWord 0x16 1 p.cls code) (peerOf r.region) p.pc (Mask.one r.lane) r.va addrVirt
        | none =>
          let from_ := s.senderOf r
          s1.logUnit from_.1 from_.2.1 from_.2.2 (kindWord 0x16 1 0 code) (peerOf r.region) r.va addrVirt

/-- How a request ends that no response will answer (R324). -/
def RemoteReq.lostEnd (r : RemoteReq) : RemoteEnd := if r.delivered then .indeterminate else .unreachable

def State.dropRemote (s : State) (p : RemoteReq → Bool) : State :=
  { s with path := { s.path with remote := List.filter (fun e => !p e.2) s.path.remote } }

/-- The fragment that waits for the outcome of an outstanding instruction. -/
def State.holder (s : State) (w id : Nat) : Option (Nat × Frag) := (s.fragsOf w).find? (fun e => e.2.hold == some id)

/-- Remote Indeterminate of some lanes of an outstanding load or atomic (R325): they leave as the trapping fragment, a load's back at the
load, an atomic's after it. -/
def State.remoteTrap (s : State) (id : Nat) (p : Pend) (lanes : Mask) (va : Word) (sub : Nat) (after : Bool) : State :=
  match s.holder p.wave id with
  | none => s.completeLanes id lanes
  | some (f, F) =>
    let back (F : Frag) : Frag :=
      if after then { F with hold := none } else { F with hold := none, pc := p.pc, runCount := F.runCount - 1, rwc := F.rwc - 1 }
    let t : Trap := ⟨0x16, tvalSub sub va.toNat, lanes &&& F.active, none, after, []⟩
    match (if F.active &&& ~~~lanes = 0 then none else s.splitOff f lanes) with
    | some (n, s1) => ((s1.adjFrag n (fun N => back { N with rwc := F.rwc })).takeTrap n t p.pc).completeLanes id lanes
    | none =>
      let s1 := (s.adjFrag f back).takeTrap f t p.pc
      if after then s1.completeLanes id lanes else s1.completeAll id

/-! ## Loads (R121) -/

/-- What reading a piece ends in: its bytes, whether its sector is poisoned, and the state with the fills; none while it waits. -/
abbrev PieceRead := Option (List Byte × Bool × State)

/-- The byte of a piece that the load knows already or takes from the youngest entry of its wave's queue that holds it (R110); an atomic's
entry makes it wait (R315). -/
def queueByte (q : List StoreEntry) (scratch : Bool) (ord : Nat) (known : Tbl Byte) (k : Nat) : Option (Option Byte) :=
  match Tbl.find known k with
  | some b => some (some b)
  | none =>
    match q.reverse.find? (fun e => e.scratch == scratch && e.ord < ord && e.touches k) with
    | none => some none
    | some e => if e.op == .st then some (e.byte k) else none

/-- The entry that a load takes a byte from has an uncorrectable error (R403). -/
def queueHurt (q : List StoreEntry) (scratch : Bool) (ord : Nat) (known : Tbl Byte) (k : Nat) : Bool :=
  (Tbl.find known k).isNone && (match q.reverse.find? (fun e => e.scratch == scratch && e.ord < ord && e.touches k) with
    | some e => e.poison
    | none => false)

/-- The answer to a load's request for a piece. -/
def State.loadAnswer (s : State) (id lane : Nat) (p : Piece) : Option RemoteReq :=
  s.path.remote.findSome? (fun (e : Nat × RemoteReq) =>
    if e.2.pend == some id && e.2.lane == lane && e.2.region == p.region && e.2.addr == p.addr then some e.2 else none)

/-- The sector of a piece from beyond the queue. -/
def State.beyond (s : State) (T : Team) (core id lane : Nat) (const na acq : Bool) (scope : Nat) (p : Piece) : Option (Sector × State) :=
  match p.region with
  | .scratch => some (⟨readBytes T.scratch (p.addr / 32 * 32) 32, T.spoison.contains (p.addr / 32)⟩, s)
  | .loc => if p.byConst const then s.readConst core (p.addr / 32) else s.readSector core (p.addr / 32) p.mt acq scope na
  | _ =>
    match (s.loadAnswer id lane p).bind RemoteReq.result with
    | some (RemoteEnd.ok data poison) => some (⟨List.replicate (p.addr % 32) 0 ++ data, poison⟩, s)
    | _ => none

/-- A sector request of a load that leaves the L1 may be sampled (R430). -/
def State.askedFor (s : State) (T : Team) (W : Wave) (pd : Pend) (const acq : Bool) (scope : Nat) (p : Piece) (r : Sector × State) : State :=
  let sec := p.addr / 32
  if p.region != .loc || s.holdsSector W.core const (acq && 2 ≤ scope) p then r.2
  else r.2.sampleSector W.core T.grid pd.pc (if const then 3 else 0) sec r.1.poison (homeOf p.addr != dieOf W.core && p.mt != 2)

/-- The stores that a load of the wave reads from: an LDC reads none (R124). -/
def Wave.readFrom (W : Wave) (const : Bool) : List StoreEntry := if const then [] else W.storeq

/-- Read one piece, whose sector has a request entry where it needs one (R109). -/
def State.readPiece (s : State) (T : Team) (W : Wave) (id : Nat) (pd : Pend) (lane : Nat) (known : Tbl Byte) (bad : List Nat) (p : Piece) :
    PieceRead :=
  match pd.kind with
  | .load scratch const na _ _ _ order scope _ _ _ =>
    match p.keys.mapM (fun k => queueByte (W.readFrom const) scratch pd.ord known k) with
    | none => none
    | some bs =>
      let hurt := p.keys.any (queueHurt (W.readFrom const) scratch pd.ord known)
      if bs.all Option.isSome then some (bs.map (fun b => b.getD 0), hurt || bad.contains (byteKey p.region p.addr / 32), s)
      else if pd.reads.contains p.sector && !(s.entered W.core id pd).contains p.sector then none
      else
        (s.beyond T W.core id lane const na (order == 1) scope p).map (fun r =>
          (bs.zipIdx.map (fun e => e.1.getD (r.1.data.getD (p.addr % 32 + e.2) 0)), hurt || r.1.poison, s.askedFor T W pd const (order == 1) scope p r))
  | _ => none

/-- What a load has read so far in this step: the state with the fills, the bytes and poisoned sectors known, and each finished lane with
its bytes and poison. A scratchpad access may touch more than one sector. -/
structure LoadRun where
  s     : State
  known : Tbl Byte
  bad   : List Nat
  lanes : List (LaneAcc × List Byte × Bool)

/-- A scratchpad piece cut at sector boundaries. -/
def Piece.bySector (p : Piece) : List Piece :=
  if p.addr % 32 + p.len ≤ 32 then [p]
  else
    let k := 32 - p.addr % 32
    [{ p with len := k }, { p with addr := p.addr + k, len := p.len - k }]

/-- One lane of a load, if all of its pieces can be read now. That the pair of pieces of a crossing access is read in one step, and so is never torn, is
the model's choice (R93; log entry 95). -/
def LoadRun.lane (q : LoadRun) (T : Team) (W : Wave) (id : Nat) (pd : Pend) (a : LaneAcc) : LoadRun :=
  let r := (a.pieces.flatMap Piece.bySector).foldl (fun (r : Option (State × Tbl Byte × List Nat × List Byte × Bool)) p =>
    match r with
    | none => none
    | some (s, known, bad, bytes, dead) =>
      match s.readPiece T W id pd a.lane known bad p with
      | none => none
      | some (bs, poison, s1) =>
        some (s1, (p.keys.zip bs).foldl (fun t c => Tbl.put t c.1 c.2) known,
          if poison then NSet.insert bad (byteKey p.region p.addr / 32) else bad, bytes ++ bs, dead || poison)) (some (q.s, q.known, q.bad, [], false))
  match r with
  | none => q
  | some (s, known, bad, bytes, dead) => ⟨s, known, bad, q.lanes ++ [(a, bytes, dead)]⟩

/-- The registers of a loaded value: its 64 bits, and a second register for 16 bytes. -/
def loadWords (n : Nat) (sext : Bool) (bs : List Byte) : List Word :=
  let v := bytesNat bs
  if n = 16 then [BitVec.ofNat 64 v, BitVec.ofNat 64 (v / 2 ^ 64)]
  else [BitVec.ofNat 64 (if sext then wrap 64 (toSigned (8 * n) v) else v)]

/-- Give a finished lane its result: the registers of the lane, or of every fragment that holds a lane of the issuing one; poison kills the
lane or loses the fragment (R121). -/
def State.deliver (s : State) (p : Pend) (lane : Nat) (va : Word) (dead : Bool) (tag : Tag) (vs : List Word) : State :=
  match p.dst with
  | .vec n _ =>
    if dead then s.killLanes p.wave (Mask.one lane) p.origin p.op va
    else vs.zipIdx.foldl (fun s v => s.setReg p.wave lane (n + v.2) ⟨v.1, tag⟩) s
  | .scal n _ =>
    if dead then
      match s.wave? p.wave with
      | none => s
      | some W => ((s.fragsOf p.wave).filter (fun e => (heldLanes W e.2 &&& p.own) != 0)).foldl (fun s e => s.loseFragment e.1 p.op va (some p.origin)) s
    else vs.zipIdx.foldl (fun s v => s.setScalars p.wave p.own (n + v.2) v.1) s
  | _ => s

/-- A result that goes to scalar registers. -/
def Dest.isScal (d : Dest) : Bool := match d with | .scal _ _ => true | _ => false

/-- An earlier load of the fragment to the same bytes is outstanding (R316), or an earlier acquire (R116). -/
def State.loadWaits (s : State) (p : Pend) : Bool :=
  s.acquiring p.wave p.ord p.own ||
  s.pend.any (fun e => e.2.wave == p.wave && e.2.isRead && inOrder e.2.ord p.ord e.2.own p.own && e.2.inScratch == p.inScratch &&
    accsMeet e.2.accs p.accs)

/-- The pieces of an access that leave the device. -/
def awayPieces (accs : List LaneAcc) : List (LaneAcc × Piece) :=
  accs.flatMap (fun a => (a.pieces.filter (fun p => match p.region with | .peer _ => true | .host => true | _ => false)).map (fun p => (a, p)))

/-- The lanes whose data return in this step: which ones is open (R121). -/
def State.returning (s : State) (p : Pend) : Mask :=
  match p.dst with
  | .scal _ _ => BitVec.allOnes 64
  | _ => let m := Config.freeWord s.free &&& p.lanes; if m = 0 then p.lanes else m

/-- Bytes read by one part of a load are what its other part reads too (R121). -/
def shareKnown (p : Pend) (known : Tbl Byte) (bad : List Nat) (q : Pend) : Pend :=
  match q.kind with
  | .load scratch const na n sext tag order scope accs _ _ =>
    if q.wave == p.wave && q.ord == p.ord then { q with kind := .load scratch const na n sext tag order scope accs known bad } else q
  | _ => q

/-- A write of a core to a sector of a peer or host window has not ended (R316, R334). -/
def State.awayWrite (s : State) (core : Nat) (p : Piece) : Bool :=
  s.path.writes.any (fun e => e.2.region == p.region && e.2.core == core && e.2.touches (p.addr / 32) &&
    (match e.2.source with | .wave _ _ => true | _ => false))

/-- Ask beyond the device for one piece of a load, unless the wave's earlier stores give it: they are kept for it, and those on their way
and atomics in the queue are waited for (R110, R315, R316). -/
def State.askAway (s : State) (id : Nat) (a : LaneAcc) (p : Piece) : State :=
  match Tbl.find s.pend id with
  | none => s
  | some pd =>
    match s.wave? pd.wave, pd.kind with
    | some W, .load scratch const na n sext tag order scope accs known bad =>
      (match p.keys.mapM (fun k => (queueByte (W.readFrom const) scratch pd.ord known k).map (fun b => (k, b))) with
       | none => s
       | some bs =>
         let known1 := bs.foldl (fun (t : Tbl Byte) b => match b.2 with | some v => Tbl.put t b.1 v | none => t) known
         let s1 := { s with pend := Tbl.put s.pend id { pd with kind := .load scratch const na n sext tag order scope accs known1 bad } }
         if bs.all (fun b => b.2.isSome) then s1
         else if s.awayWrite W.core p || (pd.reads.contains p.sector && !(s.entered W.core id pd).contains p.sector) then s
         else s1.sendRemote (some id) none a.lane a.va p.region p.addr (.read p.len))
    | _, _ => s

/-- Every byte of a piece is known to the load. -/
def Pend.knows (p : Pend) (q : Piece) : Bool :=
  match p.kind with
  | .load _ _ _ _ _ _ _ _ _ known _ => q.keys.all (fun k => (Tbl.find known k).isSome)
  | _ => false

/-- A load whose lanes are partly done keeps the request entries of the sectors that the others still read (R109). -/
def Pend.trimReads (p : Pend) : Pend :=
  let left := (p.accs.filter (fun a => p.dst.isScal || p.lanes.has a.lane)).flatMap (fun a => a.pieces.map Piece.sector)
  { p with reads := p.reads.filter left.contains }

/-- Data of an outstanding load return for some lanes, once nothing of it is still asked for beyond the device. -/
def State.loadLanes (s : State) (id : Nat) (p : Pend) (T : Team) (W : Wave) : State :=
  match p.kind with
  | .load _ _ _ n sext tag order scope accs known bad =>
    let pick := s.returning p
    let chosen := accs.filter (fun a => pick.has a.lane && (p.dst.isScal || p.lanes.has a.lane))
    let q : LoadRun := chosen.foldl (fun (q : LoadRun) a => q.lane T W id p a) (⟨{ s with free := s.free + 1 }, known, bad, []⟩ : LoadRun)
    let s1 := { q.s with pend := List.map (fun (e : Nat × Pend) => (e.1, shareKnown p q.known q.bad e.2)) q.s.pend }
    let s2 := q.lanes.foldl (fun (s : State) (r : LaneAcc × List Byte × Bool) => s.deliver p r.1.lane r.1.va r.2.2 tag (loadWords n sext r.2.1)) s1
    let s3 := match p.dst with
      | .scal _ _ => if q.lanes.isEmpty then s2 else s2.completeAll id
      | _ => s2.completeLanes id (Mask.ofList (q.lanes.map (fun (r : LaneAcc × List Byte × Bool) => r.1.lane)))
    let s4 := { s3 with pend := Tbl.adjust s3.pend id Pend.trimReads }
    let s5 := if (Tbl.find s4.pend id).isNone then s4.dropRemote (fun r => r.pend == some id) else s4
    if order == 1 && (Tbl.find s5.pend id).isNone then s5.acquire W.core scope else s5
  | _ => s

/-- The lanes of a load whose requests have failed leave at the load (R325). -/
def State.loadFailed (s : State) (id : Nat) (p : Pend) (failed : List (Nat × RemoteReq)) : State :=
  let whole := p.dst.isScal
  let lanes := Mask.ofList (failed.map (fun e => e.2.lane))
  let va := ((failed.find? (fun e => e.2.lane == lanes.lanes.headD 0)).map (fun e => e.2.va)).getD 0
  (s.dropRemote (fun r => r.pend == some id && (whole || lanes.has r.lane))).remoteTrap id p (if whole then BitVec.allOnes 64 else lanes) va 2 false

/-- LOAD_DATA_RETURN: data of an outstanding load return for some lanes, or the sectors that a PREF waits for. -/
def State.loadReturn (s : State) (id : Nat) : State :=
  match Tbl.find s.pend id with
  | none => s
  | some p =>
    match p.kind, s.wave? p.wave with
    | .pref _ _, _ => s.prefReturn id
    | .load _ _ _ _ _ _ _ _ accs _ _, some W =>
      match s.team? W.team with
      | none => s
      | some T =>
        if s.loadWaits p then s
        else
          let away := awayPieces (accs.filter (fun a => p.dst.isScal || p.lanes.has a.lane))
          let unasked (s : State) : List (LaneAcc × Piece) := away.filter (fun a => (s.loadAnswer id a.1.lane a.2).isNone &&
            !(match Tbl.find s.pend id with | some q => q.knows a.2 | none => true))
          let s1 := (unasked s).foldl (fun s a => s.askAway id a.1 a.2) s
          let mine := s1.path.remote.filter (fun e => e.2.pend == some id)
          if !(unasked s1).isEmpty || mine.any (fun e => e.2.result.isNone) then s1
          else
            match Tbl.find s1.pend id, mine.filter (fun e => match e.2.result with | some (.ok _ _) => false | _ => true) with
            | some p1, [] => s1.loadLanes id p1 T W
            | some p1, failed => s1.loadFailed id p1 failed
            | none, _ => s1
    | _, _ => s

def execLoadDataReturn (id : Nat) (s : State) : Host.Outcome State Fault Refusal := .next (s.loadReturn id)

/-! ## The store queue (R110, R103, R99) -/

/-- The head of a wave's queue may leave: no earlier acquire or fence holds it, no earlier load of its bytes is outstanding, and a
release's earlier accesses are performed at its scope (R116, R117, R130, R316). -/
def State.drainReady (s : State) (w : Nat) (W : Wave) (e : StoreEntry) : Bool :=
  !s.acquiring w e.ord e.own && !s.fencing w e.ord e.own &&
  !s.pend.any (fun p => p.2.wave == w && p.2.isRead && inOrder p.2.ord e.ord p.2.own e.own && p.2.inScratch == e.scratch && accsMeet p.2.accs e.accs) &&
  (!e.release || (s.readsDone w e.ord e.own && s.storesDone w W e.ord e.scope false))

/-- Put a write on its way. -/
def State.putWrite (s : State) (r : WriteRec) : Nat × State :=
  (s.nextId, { s with path := { s.path with writes := Tbl.put s.path.writes s.nextId r }, nextId := s.nextId + 1 })

/-- The local part of an entry leaves: one write for each line. -/
def State.sendLines (s : State) (w : Nat) (W : Wave) (e : StoreEntry) : State :=
  let pieces := e.accs.flatMap (fun a => (a.pieces.filter (fun p => p.region == .loc)))
  let lines := (pieces.map (fun p => p.addr / 128)).eraseDups
  let secs := (pieces.flatMap (fun p => sectorsOf p.addr p.len)).eraseDups
  let grid := match s.team? W.team with | some T => T.grid | none => 0
  let cells := e.bytes
  let s1 := secs.foldl (fun (s : State) k => s.sampleSector W.core grid e.pc (if e.op == .st then 1 else 2) k false false) s
  lines.foldl (fun s line =>
    (s.putWrite { source := .wave w e.ord, die := dieOf W.core, core := W.core, region := .loc, line := line
                  cells := if e.op == .st then cells.filter (fun c => c.1 / 128 == line) else []
                  bad := if e.poison then secs.filter (fun k => k / 4 == line) else []
                  op := e.op, steps := if e.op == .st then [] else e.accs.filter (fun a => a.pieces.any (fun p => p.region == .loc && p.addr / 128 == line))
                  release := e.release, scope := e.scope, accepted := false, invals := [], acks := []
                  uc := pieces.any (fun p => p.addr / 128 == line && p.mt == 2) }).2) s1

/-- The bytes that an entry stores to a sector beyond the device, in lane order. -/
def StoreEntry.awayCells (e : StoreEntry) (r : Region) (sec : Nat) : List (Nat × Byte) :=
  e.accs.flatMap (fun a => (a.pieces.foldl (fun (st : List (Nat × Byte) × List Byte) p =>
    (st.1 ++ (if p.region == r then (cellsAt p.addr (st.2.take p.len)).filter (fun c => c.1 / 32 == sec) else []), st.2.drop p.len))
    ([], a.data)).1)

/-- The part of an entry that leaves the device: one write for each sector of a store (R122), one for each lane's step of an atomic. -/
def State.putAway (s : State) (w : Nat) (W : Wave) (e : StoreEntry) : State :=
  let away := awayPieces e.accs
  let base (r : Region) (addr : Nat) (cells : List (Nat × Byte)) (steps : List LaneAcc) : WriteRec :=
    { source := .wave w e.ord, die := dieOf W.core, core := W.core, region := r, line := addr / 128, cells := cells, bad := if e.poison then [addr / 32] else [], op := e.op, steps := steps
      release := e.release, scope := e.scope, accepted := false, invals := [], acks := [], uc := true }
  match e.op with
  | .st => ((away.flatMap (fun a => (sectorsOf a.2.addr a.2.len).map (fun k => (a.2.region, k)))).eraseDups).foldl (fun s k =>
      (s.putWrite (base k.1 (32 * k.2) (e.awayCells k.1 k.2) ((away.filter (fun a => a.2.region == k.1 && (sectorsOf a.2.addr a.2.len).contains k.2)).map
        Prod.fst))).2) s
  | .rmw _ _ _ _ _ _ _ => away.foldl (fun s a => (s.putWrite (base a.2.region a.2.addr [] [a.1])).2) s

/-- The sectors that a write names. -/
def WriteRec.sectors (r : WriteRec) : List Nat :=
  if r.cells.isEmpty then (r.steps.map (fun a => a.place / 32)).eraseDups else (r.cells.map (fun c => c.1 / 32)).eraseDups

/-- What a wave's write beyond the device asks of its target. -/
def WriteRec.ask (r : WriteRec) (base : Nat) : PeerOp :=
  match r.op, r.steps with
  | .rmw o f sg ftz ret _ n, a :: _ => .atomic (BitVec.ofNat 4 o) (BitVec.ofNat 4 f) sg ftz ret a.operand a.compare n
  | _, _ => .write (r.cells.map (fun c => (c.1 - base, c.2)))

/-- The waves' writes beyond the device whose turn it is are sent: those of a core to one sector one after the other (R316, R333). -/
def State.sendFront (s : State) : State :=
  s.path.writes.foldl (fun s e =>
    match e.2.source with
    | .wave w ord =>
      if e.2.region == .loc || s.path.remote.any (fun q => q.2.write == some e.1) ||
          s.path.writes.any (fun q => q.1 < e.1 && q.2.region == e.2.region && q.2.core == e.2.core && q.2.sectors.any e.2.sectors.contains &&
            (match q.2.source with | .wave _ _ => true | _ => false)) then s
      else
        let a := e.2.steps.headD ⟨0, 0, [], [], 0, 0⟩
        let addr := if e.2.op == .st then 32 * e.2.sectors.headD 0 else a.place
        let pend := if e.2.op.returns then (s.pend.find? (fun p => p.2.wave == w && p.1 == ord)).map Prod.fst else none
        s.sendRemote pend (some e.1) a.lane a.va e.2.region addr (e.2.ask addr) (!e.2.bad.isEmpty)
    | _ => s) s

/-- The L1 and the die's own RDC, when an entry leaves (R99, R103, R315). -/
def State.leaveCaches (s : State) (W : Wave) (e : StoreEntry) : State :=
  let pieces := e.accs.flatMap (fun a => a.pieces.filter (fun p => p.region == .loc))
  let secs := (pieces.flatMap (fun p => sectorsOf p.addr p.len)).dedup
  let s1 := if e.op == .st && !e.poison then s.l1Update W.core e.bytes else s.l1Drop W.core secs.contains
  s1.rdcDropSectors (dieOf W.core) (secs.filter (fun k => homeOf (32 * k) != dieOf W.core))

/-- The head entry of a queue leaves it: it is performed at CORE scope. -/
def State.drainHead (s : State) (w : Nat) (W : Wave) (e : StoreEntry) : State :=
  let s1 := s.adjWave w (fun W => { W with storeq := W.storeq.drop 1 })
  let s2 :=
    if e.scratch then
      match s1.team? W.team with
      | none => s1
      | some T =>
        if e.op == .st then
          s1.adjTeam W.team (fun T => { T with scratch := writeCells T.scratch e.bytes
                                               spoison := poisonAfter T.spoison e.bytes (if e.poison then (e.bytes.map (fun b => b.1 / 32)).eraseDups else []) })
        else
          let q := runSteps e.op e.release s1.free e.accs T.scratch T.spoison
          (s1.adjTeam W.team (fun T => { T with scratch := q.mem })).stepped e.op ((e.pends.headD 0)) (10000 + dieOf W.core) q
    else (((s1.leaveCaches W e).sendLines w W e).putAway w W e).sendFront
  let done := e.pends.filter (fun id => match (Tbl.find s2.pend id).map Pend.kind with | some (.store _ false) => true | _ => false)
  (done.foldl (fun s id => s.completeAll id) s2).admitWaiting w

/-- STORE_QUEUE_DRAIN: the oldest entry of a wave's queue leaves, if it may. -/
def State.drainWave (s : State) (w : Nat) : State :=
  match s.wave? w with
  | none => s
  | some W =>
    match W.storeq with
    | [] => s
    | e :: _ => if s.drainReady w W e then s.drainHead w W e else s

def execStoreQueueDrain (wave : Nat) (s : State) : Host.Outcome State Fault Refusal := .next (s.drainWave wave)

/-! ## At the home (R96, R97, R99, R326, R340) -/

/-- Two writes come from one sender: the waves of a core, or one unit's work. -/
def WriteRec.sameSender (a b : WriteRec) : Bool :=
  match a.source, b.source with
  | .wave _ _, .wave _ _ => a.core == b.core
  | x, y => x == y

/-- A write that has not reached its home keeps a later one of its die to the line behind it: at another die's home every one, at the die's own
those of the same sender (R97, R316). -/
def WriteRec.keeps (e r : WriteRec) : Bool :=
  e.region == r.region && e.line == r.line && e.die == r.die && !e.accepted && (homeOf (128 * r.line) != r.die || e.sameSender r)

/-- Nothing earlier stands before a write on its way to its home. -/
def State.frontWrite (s : State) (id : Nat) (r : WriteRec) : Bool := !s.path.writes.any (fun e => e.1 < id && e.2.keeps r)

/-- The home directory after a write of a die: every other sharer is sent an invalidation and stays listed until it arrives (R99), and the
written sectors are dirty. A write of type UC allocates nothing (R84, R95). -/
def State.homeWrites (s : State) (id : Nat) (r : WriteRec) (secs : List Nat) : State :=
  let l := s.l2Line r.line
  let others := l.sharers.filter (fun d => d != r.die)
  let kept := if r.uc then secs.filter l.valid.contains else secs
  let r1 := { r with accepted := true, invals := others }
  let ws := if others.isEmpty then Tbl.drop s.path.writes id else Tbl.put s.path.writes id r1
  ({ s with path := { s.path with writes := ws } }.setL2 r.line
    { l with valid := kept.foldl NSet.insert l.valid, dirty := kept.foldl NSet.insert l.dirty }).recheck secs

/-- HOME_WRITE_ACCEPT: the home L2 performs a write. -/
def State.acceptWrite (s : State) (id : Nat) : State :=
  match Tbl.find s.path.writes id with
  | none => s
  | some r =>
    if r.accepted || r.region != .loc || r.op != .st || !s.frontWrite id r then s
    else (s.storeHome r.cells r.bad).homeWrites id r ((r.cells.map (fun c => c.1 / 32)).eraseDups)

def execHomeWriteAccept (id : Nat) (s : State) : Host.Outcome State Fault Refusal := .next (s.acceptWrite id)

/-- RDC_INVALIDATION: a die drops its copy of the line; its acknowledgement is on its way. -/
def execRdcInvalidation (id die : Nat) (s : State) : Host.Outcome State Fault Refusal :=
  match Tbl.find s.path.writes id with
  | none => .next s
  | some r =>
    if r.invals.contains die then
      .next (({ s with path := { s.path with writes := Tbl.put s.path.writes id { r with invals := NSet.remove r.invals die, acks := NSet.insert r.acks die } } }.rdcDrop
        die r.line).dropSharer r.line die)
    else .next s

/-- INVALIDATION_ACK: the acknowledgements on their way return; with the last the write is performed at DEVICE scope, and the
waits that the home held read again. -/
def execInvalidationAck (id : Nat) (s : State) : Host.Outcome State Fault Refusal :=
  match Tbl.find s.path.writes id with
  | none => .next s
  | some r =>
    if !r.accepted then .next s
    else if r.invals.isEmpty then .next ({ s with path := { s.path with writes := Tbl.drop s.path.writes id } }.recheck (lineSecs r.line))
    else .next { s with path := { s.path with writes := Tbl.put s.path.writes id { r with acks := [] } } }

/-- L2_EVICTION: a line leaves its home L2 (R96, R100). -/
def execL2Eviction (line : Nat) (s : State) : Host.Outcome State Fault Refusal := .next (s.l2Evict line)

/-- DETACH_NOTICE: a die's copy becomes Detached. -/
def execDetachNotice (die line : Nat) (s : State) : Host.Outcome State Fault Refusal :=
  if s.path.detach.contains (die, line) then
    let s1 := { s with path := { s.path with detach := s.path.detach.erase (die, line) } }
    match s1.rdcLine die line with
    | none => .next s1
    | some l => .next (s1.setRdc die (Tbl.put (Tbl.get [] s1.path.rdc die) line { l with detached := some s1.ticks }))
  else .next s

/-- DETACHED_LINE_DROP: a Detached copy goes. -/
def execDetachedLineDrop (die line : Nat) (s : State) : Host.Outcome State Fault Refusal :=
  match s.rdcLine die line with
  | some l => .next (if l.detached.isSome then s.rdcDrop die line else s)
  | none => .next s

/-- The drop of Detached lines that the home has stopped tracking for 100 µs (R100). -/
def State.expireDetached (s : State) : State :=
  let old (l : RdcLine) : Bool := match l.detached with | some t => 100000 * 17 ≤ s.time - timeAt t | none => false
  if s.path.rdc.any (fun d => d.2.any (fun e => old e.2)) then
    { s with path := { s.path with rdc := List.map (fun (d : Nat × Tbl RdcLine) => (d.1, List.filter (fun e => !old e.2) d.2)) s.path.rdc } }
  else s

/-! ## Atomics (R315, R320, R321) -/

/-- A reduction that may merge with another on its way (R323). -/
def WriteRec.merges (r : WriteRec) : Bool :=
  match r.op with
  | .rmw _ _ _ _ ret ordered _ => !ret && !ordered && !r.release && !r.accepted && r.region == .loc
  | .st => false

/-- The reductions that merge into one as it is performed, with their steps: others to its line of the same operation that nothing earlier of
their die stands before; which of their steps do is open (R323). -/
def State.mergedSteps (s : State) (id : Nat) (r : WriteRec) : List (Nat × LaneAcc) :=
  if !r.merges then []
  else
    let others := s.path.writes.filter (fun e => e.1 != id && e.2.merges && e.2.op == r.op && e.2.line == r.line &&
      !s.path.writes.any (fun q => q.1 < e.1 && q.1 != id && q.2.keeps e.2))
    let steps := others.flatMap (fun e => e.2.steps.map (fun a => (e.1, a)))
    (steps.zipIdx.filter (fun e => r.steps.any (fun a => a.place == e.1.2.place) && Config.freeBool (s.free + e.2))).map Prod.fst

/-- A pixel of a pass lies in a poisoned sector: its step is not applied, and the pass's status says so (R308). -/
def State.pixelPoison (s : State) (source : WriteSource) : State :=
  match source with
  | .op k => { s with gfx := { s.gfx with passes := List.map (fun (e : Nat × Pass) =>
      (e.1, if e.2.pend == k && e.2.status = 0 then { e.2 with status := 5 } else e.2)) s.gfx.passes } }
  | _ => s

/-- ATOMIC_PERFORM: the steps of a request at its home. -/
def State.atomicPerform (s : State) (id : Nat) : State :=
  match Tbl.find s.path.writes id with
  | none => s
  | some r =>
    if r.accepted || r.region != .loc || r.op == .st || !s.frontWrite id r || s.homeHolds r.line then s
    else
      let more := s.mergedSteps id r
      let steps := r.steps ++ more.map Prod.snd
      let secs := (steps.map (fun (a : LaneAcc) => a.place / 32)).eraseDups
      let s1 := s.findErrors secs
      let q := runSteps r.op r.release (s1.free + 64) steps s1.mem s1.poison
      let place := 10000 + homeOf (128 * r.line)
      let pend := match r.source with | .wave _ ord => ord | _ => 0
      let left (e : Nat × WriteRec) : Nat × WriteRec :=
        (e.1, { e.2 with steps := e.2.steps.filter (fun a => !more.contains (e.1, a)) })
      let s2 := { s1 with mem := q.mem, poison := r.bad.foldl NSet.insert q.poison, free := s1.free + 64 + stepsFree steps + more.length
                          path := { s1.path with writes := if more.isEmpty then s1.path.writes else List.map left s1.path.writes } }
      let s3 := if q.dropped = 0 then s2 else s2.pixelPoison r.source
      (s3.stepped r.op pend place q).homeWrites id r ((r.bad ++ secs).eraseDups)

def execAtomicPerform (id : Nat) (s : State) : Host.Outcome State Fault Refusal := .next (s.atomicPerform id)

/-- A request of an atomic to a peer has ended: the request and its write go, and those that waited for their turn are sent. -/
def State.awayDone (s : State) (id : Nat) (r : RemoteReq) : State :=
  { s with path := { s.path with remote := Tbl.drop s.path.remote id, writes := Tbl.drop s.path.writes (r.write.getD 0) } }.sendFront

/-- The old values that requests to peers have brought back. -/
def State.remoteOld (s : State) (id : Nat) : State :=
  s.path.remote.foldl (fun s e =>
    if e.2.pend == some id && e.2.write.isSome then
      match e.2.result with
      | some (.ok data poison) =>
        let s1 := s.awayDone e.1 e.2
        { s1 with pend := Tbl.adjust s1.pend id (fun p => match p.kind with
            | .atom order scope tag scratch accs old bad =>
              { p with kind := .atom order scope tag scratch accs (Tbl.put old e.2.lane (BitVec.ofNat 64 (bytesNat data)))
                                 (if poison then bad ||| Mask.one e.2.lane else bad) }
            | _ => p) }
      | _ => s
    else s) s

/-- The requests of an atomic that have failed: a failed one lets the next of its sector go. -/
def State.remoteFailed (s : State) (id : Nat) : List (Nat × RemoteReq) :=
  s.path.remote.filter (fun e => e.2.pend == some id && e.2.write.isSome && (match e.2.result with
    | some .unreachable => true | some .indeterminate => true | _ => false))

/-- Requests of an atomic whose outcome is not known. -/
def State.remoteOpen (s : State) (id ord : Nat) : Bool :=
  s.path.remote.any (fun e => e.2.pend == some id && e.2.write.isSome && e.2.result.isNone) ||
  s.path.writes.any (fun e => e.2.region != .loc && e.2.op.returns && (match e.2.source with | .wave _ o => o == ord | _ => false) &&
    !s.path.remote.any (fun q => q.2.write == some e.1))

/-- The lanes of an atomic whose requests failed leave together, after the instruction, once the outcome of every lane is known (R325). -/
def State.atomFailed (s : State) (id : Nat) : State :=
  let bad := s.remoteFailed id
  let s1 := { s with path := { s.path with writes := List.filter (fun e => !bad.any (fun b => b.2.write == some e.1)) s.path.writes } }.sendFront
  match Tbl.find s1.pend id, bad with
  | some p, _ :: _ =>
    if s1.remoteOpen id p.ord then s1
    else
      let lanes := Mask.ofList (bad.map (fun e => e.2.lane))
      let low := bad.find? (fun e => e.2.lane == lanes.lanes.headD 0)
      let sub := match low.bind (fun e => e.2.result) with | some .indeterminate => 1 | _ => 2
      (s1.dropRemote (fun r => r.pend == some id && bad.any (fun b => b.2.lane == r.lane))).remoteTrap id p
        (if p.dst.isScal then BitVec.allOnes 64 else lanes) ((low.map (fun e => e.2.va)).getD 0) sub true
  | _, _ => s1

/-- ATOMIC_RESPONSE: old values reach D lane by lane; poison kills the lane or loses the fragment (R317, R320). -/
def State.atomicResponse (s : State) (id : Nat) : State :=
  let s := (s.remoteOld id).atomFailed id
  match Tbl.find s.pend id with
  | none => s
  | some p =>
    match p.kind, s.wave? p.wave with
    | .atom order scope tag _ accs old bad, some W =>
      let back := accs.filter (fun a => ((Tbl.find old a.lane).isSome || bad.has a.lane))
      let due := back.filter (fun a => if p.dst.isScal then p.lanes != 0 else p.lanes.has a.lane)
      let s1 := due.foldl (fun s a => s.deliver p a.lane a.va (bad.has a.lane) tag [Tbl.get 0 old a.lane]) s
      let s2 := match p.dst with
        | .scal _ _ => if back.isEmpty then s1 else s1.completeAll id
        | _ => s1.completeLanes id (Mask.ofList (back.map LaneAcc.lane))
      if (order == 1 || order == 3) && (Tbl.find s2.pend id).isNone then s2.acquire W.core scope else s2
    | _, _ => s

def execAtomicResponse (id : Nat) (s : State) : Host.Outcome State Fault Refusal := .next (s.atomicResponse id)

/-! ## Remote responses and retries (R324, R325) -/

/-- A command meets a fault at an offset (R147, R148): the lowest one counts. -/
def Command.fail (k : Command) (off cause sub : Nat) : Command :=
  match k.fault with
  | some (o, _, _) => if off < o then { k with fault := some (off, cause, sub), poison := true } else k
  | none => { k with fault := some (off, cause, sub), poison := true }

def State.adjCmd (s : State) (id : Nat) (g : Command → Command) : State := { s with eng := { s.eng with cmds := Tbl.adjust s.eng.cmds id g } }

/-- A write of a chunk has failed. -/
def State.failChunk (s : State) (write : Nat) : State :=
  { s with eng := { s.eng with chunks := List.map (fun (h : Nat × Chunk) =>
      if h.2.writes.contains write then (h.1, { h.2 with failed := true }) else h) s.eng.chunks } }

/-- What follows from the end of a request that served a write: the write is performed, or its failure is recorded against its wave or its
command (R325). The requests of a unit's work stay for the unit to read. -/
def State.remoteStored (s : State) (id : Nat) : State :=
  match Tbl.find s.path.remote id with
  | none => s
  | some r =>
    match r.pend, r.write, r.result with
    | none, some k, some e =>
      let s1 := s.awayDone id r
      (match e, (Tbl.find s.path.writes k).map WriteRec.source with
       | _, some (.op _) => s
       | .ok _ _, _ => s1
       | e, some (.wave w _) => s1.adjWave w (fun W => { W with failed := W.failed ++ [⟨W.live, r.va, e == .indeterminate⟩] })
       | e, some (.command id) => (s1.failChunk k).adjCmd id (fun k => k.fail r.lane 0x16 (if e == .indeterminate then 1 else 2))
       | _, _ => s1)
    | _, _, _ => s

/-- A response answers the request that carries its transaction id. -/
def State.respond (s : State) (r : RemoteResponse) : State :=
  match s.path.remote.find? (fun e => BitVec.ofNat 32 e.1 == r.id && e.2.result.isNone) with
  | none => s
  | some q => (s.endRemote q.1 (if r.ok then .ok r.data r.poison else q.2.lostEnd)).remoteStored q.1

def execUalinkResponse (r : RemoteResponse) (s : State) : Host.Outcome State Fault Refusal := .next (s.respond r)
def execHostWindowResponse (r : RemoteResponse) (s : State) : Host.Outcome State Fault Refusal := .next (s.respond r)

/-- An attempt has waited 2 ms: the same request again, up to 3 times; then it ends without a response. -/
def State.retry (s : State) (id : Nat) : State :=
  match Tbl.find s.path.remote id with
  | none => s
  | some r =>
    if r.result.isSome || s.time - timeAt r.since < 2000000 * 17 then s
    else if r.tries ≤ 3 then
      { s with
        path := { s.path with remote := Tbl.put s.path.remote id { r with tries := r.tries + 1, since := s.ticks, delivered := r.delivered || Config.freeBool s.free } }
        free := s.free + 1 }
    else (s.endRemote id r.lostEnd).remoteStored id

def execUalinkRetryTimeout (id : Nat) (s : State) : Host.Outcome State Fault Refusal := .next (s.retry id)
def execHostWindowRetryTimeout (id : Nat) (s : State) : Host.Outcome State Fault Refusal := .next (s.retry id)

/-- A response kept for a peer goes after 10 ms. -/
def execPeerResponseCacheExpiry (peer id : Nat) (s : State) : Host.Outcome State Fault Refusal :=
  .next { s with path := { s.path with
    cached := s.path.cached.filter (fun r => !(r.peer == peer && r.id == BitVec.ofNat 32 id && 10000000 * 17 ≤ s.time - timeAt r.since)) } }

end Sys2Proof.Machine
end

