-- ==== Sys2Proof/Machine/Barriers.lean ====
section
/-! DEFINITION. Machine/Barriers.lean: barrier objects (R154 to R159), WAIT (R160, R161), waits on addresses and WAKE (R326 to R329). -/

namespace Sys2Proof.Machine

/-- A scratchpad range of a team out of its bounds (R106, R137). -/
def rangeFault (c : Ctx) (T : Team) (a : Word) (n : Nat) : Option Trap :=
  (scratchFault T a n false).map (fun x => trapWhole c x.cause (tvalSub x.sub a.toNat))

/-- The address of a barrier object: aligned, then in bounds (R157). -/
def barrierFault (c : Ctx) (a : Word) : Option Trap :=
  if a.toNat % 16 != 0 then some (queueFault c 3 a.toNat) else rangeFault c c.T a 16

/-- The core of a team whose partition holds a scratchpad address (R105). -/
def Team.partition (T : Team) (a : Nat) : Nat := T.cores.getD (a / 2 ^ 19) 0

/-! ## BINIT and BQRY (R157) -/

/-- A signed value in B: a register, an immediate or nothing. -/
def Ctx.amount (c : Ctx) (x : ExtWord) : Int := if x.b.cls == .vec then 0 else (c.count x x.b).toInt

/-- The value that a fault about B names (R133). -/
def numOrField (o : Operand) : Nat := if o.cls == .scal then o.num.toNat else 0xFF

/-- BINIT: the object is written and registered with its mask, or unregistered. Of several faults that apply the order is the model's choice: the
address, EXPECT, the mask, the registry (R157 gives none; log entry 93). -/
def binitBody (x : ExtWord) (c : Ctx) (s : State) : Res :=
  let a := c.F.scalar x.a.num.toNat
  match barrierFault c a with
  | some t => .trap t
  | none =>
    let k := a.toNat
    if x.sub.getLsbD 1 then
      if (c.T.bar? k).isNone then .trap (queueFault c 6 k)
      else .done (s.adjTeam c.t (fun T => { T with barriers := T.barriers.filter (fun b => b.addr != k) }))
    else
      let e := c.amount x
      let here := c.T.barriers.filter (fun b => b.addr / 2 ^ 19 == k / 2 ^ 19)
      if e < 0 || 8191 < e then .trap (queueFault c 2 (numOrField x.b))
      else if 2 ^ c.T.task.roles.length ≤ x.x.toNat then .trap (queueFault c 2 0xFF)
      else if (c.T.bar? k).isNone && 32 ≤ here.length then .trap (queueFault c 5 k)
      else
        let b : Barrier := ⟨k, if x.x = 0 then 15 else x.x, []⟩
        .done (s.adjTeam c.t (fun T => { (T.barWrite k (barPack 0 e.toNat 0 0 0)) with
          barriers := T.barriers.filter (fun y => y.addr != k) ++ [b] }))
def execBinit (w : ExtWord) (s : State) : Host.Outcome State Fault Refusal := issue (.binit w) (binitBody w) s

/-- BQRY: the object's low 64 bits, or its bytes; .CLRP clears POISON in the same step, and the completion test follows that update (R156). -/
def bqryBody (x : ExtWord) (c : Ctx) (s : State) : Res :=
  let a := c.F.scalar x.a.num.toNat
  match barrierFault c a with
  | some t => .trap t
  | none =>
    if (c.T.bar? a.toNat).isNone then .trap (queueFault c 6 a.toNat)
    else
      let o := c.T.barRead a.toNat
      let v := if x.sub.getLsbD 1 then BitVec.ofNat 64 (wrap 64 (toSigned 48 (barBytes o))) else BitVec.ofNat 64 o
      let s1 := if x.sub.getLsbD 2 then s.adjTeam c.t (fun T => (T.barWrite a.toNat (barPack (barPhase o) (barExpect o) (barArrived o) 0 (barBytes o))).barTest a.toNat)
                else s
      .done (s1.adjFrag c.f (fun F => F.setScalar x.d.num.toNat v))
def execBqry (w : ExtWord) (s : State) : Host.Outcome State Fault Refusal := issue (.bqry w) (bqryBody w) s

/-! ## BARV and BEXP (R158) -/

/-- n of BARV and BEXP, with its range: the fault for one outside it, and its place after the others, are the model's choice (R158 names none; log
entry 93). -/
def amountFault (c : Ctx) (x : ExtWord) : Option Trap :=
  let n := c.amount x
  if n < -(2 ^ 47) || 2 ^ 47 ≤ n then some (queueFault c 2 (numOrField x.b)) else none

/-- The checks that BARV and BEXP share. -/
def arriveFault (c : Ctx) (x : ExtWord) : Option Trap :=
  let a := c.F.scalar x.a.num.toNat
  match barrierFault c a with
  | some t => some t
  | none => if (c.T.bar? a.toNat).isNone then some (queueFault c 6 a.toNat) else amountFault c x

/-- The earlier accesses of a release have been performed at its scope (R117). -/
def State.releaseReady (s : State) (w ord : Nat) (own : Mask) (scope : Nat) : Bool :=
  match s.wave? w with
  | none => true
  | some W => s.readsDone w ord own && s.storesDone w W ord scope false

/-- The Arrive update of a BARV (R156): its lanes that are live still. -/
def State.doBarv (s : State) (w ord : Nat) (a : Nat) (lanes : List Nat) (n : Int) : State :=
  match s.wave? w with
  | none => s
  | some W =>
    match s.team? W.team with
    | none => s
    | some T =>
      let live := lanes.filter (fun l => T.gate ≤ ord && W.live.has (l - tliBase T W))
      match T.bar? a with
      | none => s.count ctrBARLOST (T.partition a) 1
      | some _ =>
        let r := T.barArrive a live n
        let s1 := s.adjTeam W.team (fun _ => r.1)
        if r.2 = 0 then s1 else s1.count ctrBARDUP (T.partition a) r.2

/-- A release that an instruction performs before its own effect: at once where nothing earlier is outstanding, else behind it. -/
def Ctx.release (c : Ctx) (s : State) (tok scope : Nat) (lanes : Mask) (dst : Dest) (act : After) (now : Nat → Mask → State → State) : Res :=
  match (if scope == 5 then c.remoteCheck s else none) with
  | some r => r
  | none =>
    let own := heldLanes c.W c.F
    if s.releaseReady c.w s.nextId own scope then .done ((now s.nextId own s).nextEpoch c.w true)
    else .done ((s.nextEpoch c.w true).addPend { wave := c.w, lanes := lanes, own := own, ord := s.nextId, tok := tok, dst := dst, pc := c.F.pc, rwc := c.F.rwc, cls := c.cls
                                                 op := c.op, kind := .release scope act }).2

/-- BARV: a release, then one Arrive; with no participating lane nothing happens (R27). -/
def barvBody (x : ExtWord) (c : Ctx) (s : State) : Res :=
  let part := c.part x
  if part = 0 then .done s
  else
    match arriveFault c x with
    | some t => .trap t
    | none =>
      let a := (c.F.scalar x.a.num.toNat).toNat
      let tlis := part.lanes.map (fun l => tliBase c.T c.W + l)
      c.release s x.tok.toNat (x.mod &&& 7).toNat part .none (.barv a tlis (c.amount x)) (fun ord _ s => s.doBarv c.w ord a tlis (c.amount x))
def execBarv (w : ExtWord) (s : State) : Host.Outcome State Fault Refusal := issue (.barv w) (barvBody w) s

/-- BEXP: one Expect, without order. -/
def bexpBody (x : ExtWord) (c : Ctx) (s : State) : Res :=
  match arriveFault c x with
  | some t => .trap t
  | none => .done (s.adjTeam c.t (fun T => T.barAdd (c.F.scalar x.a.num.toNat).toNat (c.amount x) false))
def execBexp (w : ExtWord) (s : State) : Host.Outcome State Fault Refusal := issue (.bexp w) (bexpBody w) s

/-! ## WAIT.B and WAIT.K (R159 to R161) -/

/-- WAIT.B goes on: its object's phase differs from the parity, or it is not registered, which traps. -/
def waitBReady (x : ExtWord) (c : Ctx) : Bool :=
  let a := (c.F.scalar x.a.num.toNat).toNat
  (barrierFault c (c.F.scalar x.a.num.toNat)).isSome || (c.T.bar? a).isNone || barPhase (c.T.barRead a) != (c.count x x.b).toNat % 2

def waitBBody (x : ExtWord) (c : Ctx) (s : State) : Res :=
  let a := c.F.scalar x.a.num.toNat
  match barrierFault c a with
  | some t => .trap t
  | none =>
    if (c.T.bar? a.toNat).isNone then .trap (queueFault c 6 a.toNat)
    else if !waitBReady x c then .unselect
    else
      let bad := barPoison (c.T.barRead a.toNat) = 1
      let s1 := if x.d.cls == .pred then s.setPred c.w x.d.num.toNat c.F.active (if bad then BitVec.allOnes 64 else 0) else s
      .done ((s1.nextEpoch c.w true).acquire c.W.core (x.mod &&& 7).toNat)
def execWaitB (w : ExtWord) (s : State) : Host.Outcome State Fault Refusal := issue (.waitB w) (waitBBody w) s

/-- The tokens that WAIT.K lists. -/
def waitMask (x : ExtWord) : BitVec 16 := (x.lit.getD 0).extractLsb' 0 16

/-- What awaiting some tokens adds (R151): the cache actions of R116 at DEVICE scope, for the tokens of instructions that have them; stores do not
merge past such an acquire (R111). -/
def State.awaited (s : State) (f core : Nat) (ks : BitVec 16) : State :=
  match s.frag? f with
  | none => s
  | some F => if F.marks &&& ks = 0 then s else ((s.acquire core 4).nextEpoch F.wave true).adjFrag f (fun F => { F with marks := F.marks &&& ~~~ks })

/-- A token's await is to apply cache actions. -/
def Frag.mark (F : Frag) (tok : Nat) : Frag := { F with marks := F.marks ||| BitVec.ofNat 16 (2 ^ tok) }

def waitKBody (x : ExtWord) (c : Ctx) (s : State) : Res :=
  if s.tokensDone c.W c.F (waitMask x) then .done (s.awaited c.f c.W.core (waitMask x)) else .unselect
def execWaitK (w : ExtWord) (s : State) : Host.Outcome State Fault Refusal := issue (.waitK w) (waitKBody w) s

/-! ## WAIT.A (R326, R327) -/

/-- The fragment's wait, if it has one. -/
def State.waiter (s : State) (f : Nat) : Option (Nat × Waiter) := s.path.waits.find? (fun e => e.2.frag == f)

/-- The wait table of a die has an entry left. -/
def State.tableRoom (s : State) (die : Nat) : Bool := (s.path.waits.filter (fun e => e.2.listed && e.2.die == die)).length < 8192

/-- A write of the fragment's own wave to the location has not reached its home (R110, R334), or the home holds reads of it (R340). -/
def State.homeBusy (s : State) (W : Wave) (pa n : Nat) : Bool :=
  s.writeOnWay W.core (pa / 32) || s.homeHolds (pa / 128) || W.stores.any (fun e => !e.scratch && (List.range n).any (fun i => e.touches (pa + i)))

/-- The first read of WAIT.A at the home slice: it completes, or it registers in the same step. -/
def State.startWait (s : State) (c : Ctx) (va : Word) (pa : Nat) (wide : Bool) (v : Word) (scope : Nat) : Res :=
  let n := if wide then 8 else 4
  let s := s.findIn pa n
  let want := if wide then v.toNat else v.toNat % 2 ^ 32
  if s.homeBusy c.W pa n || s.acquiring c.w s.nextId (heldLanes c.W c.F) then .unselect
  else if s.memPoisoned pa n then .keep (s.loseFragment c.f c.op 0 (some c.origin))
  else if s.memNat pa n != want then .done ((s.nextEpoch c.w true).acquire c.W.core scope)
  else
    let w : Waiter := { frag := c.f, va := va, die := homeOf pa, pa := pa, wide := wide, value := BitVec.ofNat 64 want, scope := scope, since := s.ticks
                        listed := s.tableRoom (homeOf pa), done := false, cls := c.cls }
    .keep ({ s with path := { s.path with waits := Tbl.put s.path.waits s.nextId w }, nextId := s.nextId + 1 }.unselect c.f)

/-- WAIT.A: registered waits go on once they are completed. -/
def waitABody (x : ExtWord) (c : Ctx) (s : State) : Res :=
  let scope := (x.mod &&& 7).toNat
  match s.waiter c.f with
  | some (id, w) =>
    if w.done then
      .done (({ s with path := { s.path with waits := Tbl.drop s.path.waits id } }.nextEpoch c.w true).acquire c.W.core scope)
    else .unselect
  | none =>
    let wide := !x.sub.getLsbD 2
    let n := if wide then 8 else 4
    let va := c.F.scalar x.a.num.toNat
    if va.toNat % n != 0 then .trap (trapWhole c 0x05 (tvalSub 0x01 va.toNat))
    else
      match c.reach s [0] (fun _ => va) n .read .wait true with
      | .error r => r
      | .ok r => (s.fillReached c n r).startWait c va ((r.flatMap (fun a => a.2.2.map Piece.addr)).headD 0) wide (c.count x x.b) scope
def execWaitA (w : ExtWord) (s : State) : Host.Outcome State Fault Refusal := issue (.waitA w) (waitABody w) s

/-- WAIT_TABLE_POLL: a wait that found its table full reads its location again after 1,024 clocks, and registers where there is room by then. -/
def State.pollWait (s : State) (id : Nat) : State :=
  match Tbl.find s.path.waits id with
  | none => s
  | some w =>
    if w.listed || w.done || s.clocksSince w.since < 1024 || s.homeHolds (w.pa / 128) then s
    else
      let s := s.findIn w.pa 4
      if s.memPoisoned w.pa 4 then { s with path := { s.path with waits := Tbl.drop s.path.waits id } }.loseWaiter w
      else if s.memNat w.pa (if w.wide then 8 else 4) != w.value.toNat then
        { s with path := { s.path with waits := Tbl.put s.path.waits id { w with done := true } } }
      else if s.tableRoom w.die then
        { s with path := { s.path with waits := Tbl.put (Tbl.drop s.path.waits id) s.nextId { w with listed := true, since := s.ticks } }, nextId := s.nextId + 1 }
      else { s with path := { s.path with waits := Tbl.put s.path.waits id { w with since := s.ticks } } }

def execWaitTablePoll (id : Nat) (s : State) : Host.Outcome State Fault Refusal := .next (s.pollWait id)

/-! ## WAKE (R328) -/

/-- The entries of an address's key that a WAKE completes, oldest first. -/
def State.woken (s : State) (pa n : Nat) : List Nat :=
  let l := (s.path.waits.filter (fun e => e.2.listed && !e.2.done && e.2.pa / 8 == pa / 8)).map Prod.fst
  if n = 0 then l else l.take n

/-- The wake at the home slice; S[D] receives the number woken. -/
def State.doWake (s : State) (w : Nat) (own : Mask) (pa n : Nat) (dst : Dest) : State :=
  let ids := s.woken pa n
  let ws := List.map (fun (e : Nat × Waiter) => if ids.contains e.1 then (e.1, { e.2 with done := true, listed := false }) else e) s.path.waits
  let s1 := { s with path := { s.path with waits := ws } }
  match dst with
  | .scal d _ => s1.setScalars w own d (BitVec.ofNat 64 ids.length)
  | _ => s1

def wakeBody (x : ExtWord) (c : Ctx) (s : State) : Res :=
  let va := c.F.scalar x.a.num.toNat
  if va.toNat % 4 != 0 then .trap (trapWhole c 0x05 (tvalSub 0x01 va.toNat))
  else
    match c.reach s [0] (fun _ => va) 4 .read .wait true with
    | .error r => r
    | .ok r =>
      let pa := (r.flatMap (fun a => a.2.2.map Piece.addr)).headD 0
      let n := (c.count x x.b).toNat
      let dst : Dest := if x.d.cls == .scal then .scal x.d.num.toNat 1 else .none
      c.release (s.fillReached c 4 r) x.tok.toNat (x.mod &&& 7).toNat (heldLanes c.W c.F) dst (.wake pa n)
        (fun _ own s => s.doWake c.w own pa n dst)
def execWake (w : ExtWord) (s : State) : Host.Outcome State Fault Refusal := issue (.wake w) (wakeBody w) s

end Sys2Proof.Machine
end

