-- ==== Sys2Proof/Machine/Copy.lean ====
section
/-! DEFINITION. Machine/Copy.lean: pushes into the command queues (R131 to R143, R150) and the copy engines (R144 to R153). -/

namespace Sys2Proof.Machine

/-! ## Operand-memory addresses (R135, R239, R240) -/

/-- The address of R135 taken apart: core, slot, sidecar, offset. -/
structure SlotAddr where
  core : Nat
  slot : Nat
  side : Bool
  off  : Nat
deriving DecidableEq, Repr

def slotAddr (a : Nat) : SlotAddr := ⟨a / 2 ^ 19 % 4, a / 2 ^ 13 % 64, a / 2 ^ 21 % 2 == 1, a % 8192⟩

/-- Its reserved bits are zero. -/
def slotAddrOk (a : Nat) : Bool := a < 2 ^ 22 && !((slotAddr a).side && 512 ≤ (slotAddr a).off)

/-- Its place among the operand-memory bytes of its core: 8,704 bytes for each slot. -/
def SlotAddr.byte (q : SlotAddr) : Nat := q.slot * 8704 + (if q.side then 8192 else 0) + q.off

def noOperandMem : OperandMem := ⟨[], [], [], [], []⟩

def Team.omAt (T : Team) (core : Nat) : OperandMem := T.om.getD core noOperandMem
def Team.adjOm (T : Team) (core : Nat) (g : OperandMem → OperandMem) : Team :=
  { T with om := T.om.zipIdx.map (fun e => if e.2 = core then g e.1 else e.1) }

def Team.holdsSlot (T : Team) (core slot : Nat) : Bool := (T.omAt core).held.contains slot

/-- One write of operand memory (R240). -/
def OperandMem.write (o : OperandMem) (cells : List (Nat × Byte)) (bad : List Nat) : OperandMem :=
  { o with bytes := writeCells o.bytes cells, poison := poisonAfter o.poison cells bad }

/-- NF of a sector (R240): of a data sector or of a sidecar's. -/
def OperandMem.nf (o : OperandMem) (sec : Nat) : Bool :=
  let side := 8192 ≤ 32 * sec % 8704
  (readBytes o.bytes (32 * sec) 32).any (fun b => if side then b == 0xFF else b.extractLsb' 2 5 == 31)

/-! ## Tile descriptors (R140) -/

structure Tile where
  base    : Word
  strides : List Int
  ext     : List Nat
  esize   : Nat
  rank    : Nat
  limit   : List Nat
  rest    : Nat
deriving DecidableEq, Repr

def parseTile (bs : List Byte) : Tile :=
  { base := BitVec.ofNat 64 (field bs 0 8)
    strides := (List.range 4).map (fun d => toSigned 64 (field bs (8 + 8 * d) 8))
    ext := (List.range 5).map (fun d => field bs (0x28 + 2 * d) 2)
    esize := field bs 0x32 1, rank := field bs 0x33 1
    limit := (List.range 5).map (fun d => field bs (0x34 + 2 * d) 2), rest := field bs 0x3E 2 }

def Tile.bytes (t : Tile) : Nat := 2 ^ t.esize * t.ext.foldl (· * ·) 1

/-- The fields of a descriptor in their ranges. -/
def Tile.ok (t : Tile) : Bool :=
  t.esize ≤ 3 && 1 ≤ t.rank && t.rank ≤ 5 && t.rest == 0 && t.ext.all (1 ≤ ·) && (t.ext.drop t.rank).all (· == 1) && t.bytes ≤ 2 ^ 32 &&
  t.strides.all (fun v => v % 2 ^ t.esize == 0)

/-- The coordinates of an element by its number, dimension 0 fastest. -/
def Tile.coords (t : Tile) (n : Nat) : List Nat := (t.ext.foldl (fun (st : Nat × List Nat) e => (st.1 / e, st.2 ++ [st.1 % e])) (n, [])).2

/-- Where an element lies in memory, and whether it is in bounds. -/
def Tile.at (t : Tile) (n : Nat) : Word × Bool :=
  let is := t.coords n
  let off := ((is.drop 1).zip t.strides).foldl (fun z p => z + (p.1 : Int) * p.2) ((is.headD 0 * 2 ^ t.esize : Nat) : Int)
  (t.base + BitVec.ofInt 64 off, (is.zip t.limit).all (fun p => p.1 < p.2))

/-! ## The checks of a push (R137) -/

/-- Spaces of a command: 0 global, 1 scratchpad, 2 operand memory (R134). -/
def srcSpace (x : ExtWord) : Nat := (x.x &&& 3).toNat
def dstSpace (x : ExtWord) : Nat := (x.x >>> 2).toNat

/-- The bytes of a CPYR element (R142). -/
def elemBytes (fmt : Nat) : Nat := tagWidth fmt / 8

/-- Fields of s[A+3] of CPYG (R143). -/
def geoRowBytes (g : Word) : Nat := (g.extractLsb' 0 16).toNat
def geoRows (g : Word) : Nat := (g.extractLsb' 16 16).toNat
def geoIndex (g : Word) : Nat := (g.extractLsb' 32 21).toNat

/-- Fields of the signal word (R136). -/
def sigRq (v : Word) : Nat := (v.extractLsb' 43 3).toNat
def sigGvbar (v : Word) : Nat := (v.extractLsb' 22 17).toNat * 16
def sigSrbar (v : Word) : Nat := (v.extractLsb' 5 17).toNat * 16
def sigGven (v : Word) : Bool := v.getLsbD 47
def sigSren (v : Word) : Bool := v.getLsbD 46

/-- What a push has read from its registers. -/
structure Push where
  kind : Nat
  x    : ExtWord
  regs : List Word
  sig  : Word
  tile : List Byte
deriving DecidableEq, Repr

def Push.reg (p : Push) (n : Nat) : Word := p.regs.getD n 0
def Push.src (p : Push) : Nat := srcSpace p.x
def Push.dst (p : Push) : Nat := dstSpace p.x
/-- The local side of CPYT. -/
def Push.local (p : Push) : Nat := if p.src = 0 then p.dst else p.src

/-- N (R138). -/
def Push.bytes (p : Push) : Nat :=
  match p.kind with
  | 0x99 => (parseTile p.tile).bytes
  | 0x9C => geoRows (p.reg 3) * geoRowBytes (p.reg 3)
  | _ => (p.reg 2).toNat

def regsOf (kind : Nat) : Nat := if kind = 0x99 then 2 else if kind = 0x9A || kind = 0x9C then 4 else 3

/-- The team ids that CPYM names in the order of its entries, a repeated one once (R137, R141). -/
def receiverIds (v : Word) : List Nat := (((List.range 4).map (fun k => (v.extractLsb' (16 * k) 16).toNat)).filter (· != 0xFFFF)).eraseDups

/-- A placed team of the issuing grid in the issuing cluster. -/
def State.receiver (s : State) (c : Ctx) (id : Nat) : Option (Nat × Team) :=
  s.teams.find? (fun e => e.2.grid == c.T.grid && e.2.id == id && Tbl.get 0 s.sched.ended e.1 == 0 &&
    e.2.cores.any (fun k => clusterOf k == clusterOf c.W.core))

/-- The teams that receive: CPYM's list, or the issuer. -/
def State.receivers (s : State) (c : Ctx) (p : Push) : List (Nat × Team) :=
  if p.kind = 0x9A then (receiverIds (p.reg 3)).filterMap (s.receiver c) else [(c.t, c.T)]

/-- Step 1: values. -/
def Push.valueFault (c : Ctx) (p : Push) (tileThere : Bool) : Option Trap :=
  let a := p.x.a.num.toNat
  let bad (b : Bool) (r : Nat) : Option Trap := if b then some (queueFault c 2 r) else none
  let slotBad (space : Nat) (v : Word) : Bool := space == 2 && !slotAddrOk v.toNat
  let plain := p.kind = 0x98 || p.kind = 0x9A || p.kind = 0x9B
  [ bad ((p.kind = 0x99 && slotBad p.local (p.reg 0)) || (p.kind != 0x99 && slotBad p.dst (p.reg 0))) a,
    bad (plain && slotBad p.src (p.reg 1)) (a + 1),
    bad (plain && (2 ^ 32 < (p.reg 2).toNat || (p.kind = 0x9B && (p.reg 2).toNat % elemBytes p.x.tag != 0))) (a + 2),
    bad (p.kind = 0x9A && (receiverIds (p.reg 3)).isEmpty) (a + 3),
    bad (p.kind = 0x9C && (geoRowBytes (p.reg 3) = 0 || geoRows (p.reg 3) = 0 || (p.reg 3).extractLsb' 53 11 != 0)) (a + 3),
    bad (p.kind = 0x99 && tileThere && !(parseTile p.tile).ok) 0xFF,
    bad (p.x.b.cls == .scal && ((1 ≤ sigRq p.sig && sigRq p.sig ≤ 3) || p.sig.extractLsb' 39 4 != 0 || p.sig.extractLsb' 0 5 != 0))
      p.x.b.num.toNat ].findSome? id

/-- Step 2: alignment. -/
def Push.alignFault (c : Ctx) (p : Push) (tileThere : Bool) : Option Trap :=
  let bad (b : Bool) (v : Nat) : Option Trap := if b then some (queueFault c 3 v) else none
  let e := elemBytes p.x.tag
  let t := parseTile p.tile
  [ bad (p.kind = 0x9B && (p.reg 0).toNat % e != 0) (p.reg 0).toNat,
    bad (p.kind = 0x9B && (p.reg 1).toNat % e != 0) (p.reg 1).toNat,
    bad (p.kind = 0x99 && (p.reg 1).toNat % 64 != 0) (p.reg 1).toNat,
    bad (p.kind = 0x99 && tileThere && t.base.toNat % 2 ^ t.esize != 0) t.base.toNat,
    bad (p.kind = 0x9C && geoIndex (p.reg 3) % 4 != 0) (geoIndex (p.reg 3)) ].findSome? id

/-- Steps 4 and 5 for one operand: scratchpad bounds, then a held slot and a range inside it. -/
def slotFault (c : Ctx) (T : Team) (v : Word) (n : Nat) : Option Trap :=
  let q := slotAddr v.toNat
  if !T.holdsSlot q.core q.slot then some (trapWhole c 0x0E (tvalSub 1 q.slot))
  else if (if q.side then 512 else 8192) < q.off + n then some (trapWhole c 0x0E (tvalSub 2 v.toNat))
  else none

/-- The local ranges that a command names: where (issuer or receivers), space, address, length. -/
def Push.ranges (p : Push) (c : Ctx) (rs : List (Nat × Team)) : List (Team × Nat × Word × Nat) :=
  let n := p.bytes
  match p.kind with
  | 0x99 => [(c.T, p.local, p.reg 0, n)]
  | 0x9C => [(c.T, p.dst, p.reg 0, n), (c.T, 1, BitVec.ofNat 64 (geoIndex (p.reg 3)), 4 * geoRows (p.reg 3))]
  | _ => rs.map (fun r => (r.2, p.dst, p.reg 0, n)) ++ [(c.T, p.src, p.reg 1, n)]

/-- Every check of a push in order. -/
def State.pushFault (s : State) (c : Ctx) (p : Push) (tileThere : Bool) : Option Trap :=
  let rs := s.receivers c p
  let ranges := p.ranges c rs
  let bars : List (Team × Nat) := (if sigSren p.sig then [(c.T, sigSrbar p.sig)] else []) ++ (if sigGven p.sig then rs.map (fun r => (r.2, sigGvbar p.sig)) else [])
  [ p.valueFault c tileThere,
    p.alignFault c tileThere,
    if p.kind = 0x9A then ((receiverIds (p.reg 3)).find? (fun i => (s.receiver c i).isNone)).map (fun i => queueFault c 4 i) else none,
    if p.kind = 0x99 then rangeFault c c.T (p.reg 1) 64 else none,
    ranges.findSome? (fun r => if r.2.1 = 1 then rangeFault c r.1 r.2.2.1 r.2.2.2 else none),
    ranges.findSome? (fun r => if r.2.1 = 2 then slotFault c r.1 r.2.2.1 r.2.2.2 else none),
    bars.findSome? (fun b => if (b.1.bar? b.2).isNone then some (queueFault c 6 b.2) else none) ].findSome? id

/-! ## Pushes (R131, R132, R134) -/

def queueCap (q : Nat) : Nat := if q = 2 then 8 else 16

/-- The entries that a queue of the wave holds. -/
def State.queued (s : State) (w q gate : Nat) : Nat :=
  (s.eng.cmds.filter (fun e => e.2.wave == w && e.2.queue == q && !e.2.started && gate ≤ e.1)).length

/-- FENCE.XQ holds the wave's pushes (R130). -/
def State.pushHeld (s : State) (w : Nat) : Bool :=
  s.pend.any (fun e => e.2.wave == w && (match e.2.kind with | .fence k _ => k == 3 | _ => false))

/-- A push finds a free entry. -/
def State.canPush (s : State) (c : Ctx) (q : Nat) : Bool := s.queued c.w q c.T.gate < queueCap q && !s.pushHeld c.w

/-- Accept a command. -/
def State.accept (s : State) (c : Ctx) (tok : Nat) (k : Nat → Command) (mark : Bool) : State :=
  let own := heldLanes c.W c.F
  let p := s.addPend { wave := c.w, lanes := own, own := own, ord := s.nextId, tok := tok, dst := .none, pc := c.F.pc, rwc := c.F.rwc, cls := c.cls, op := c.op, kind := .command }
  let s1 := { p.2 with eng := { p.2.eng with cmds := Tbl.put p.2.eng.cmds p.2.nextId (k p.1) }, nextId := p.2.nextId + 1 }
  if mark then s1.adjFrag c.f (fun F => F.mark tok) else s1

/-- A command before it starts. -/
def newCommand (c : Ctx) (q kind pend : Nat) : Command :=
  { pend := pend, team := c.t, wave := c.w, queue := q, cluster := if q = 2 then 320 else clusterOf c.W.core, kind := kind, src := 0, dst := 0
    regs := [], signal := 0, tile := [], fmt := 0, op := 0, ordered := false, ftz := modeFTZ c.F.mode, to_ := [], bytes := 0, started := false
    next := 0, srd := 0, gv := 0, poison := false, fault := none, abort := false, ending := false }

/-- The queue takes the instruction (R131, R134, R138). -/
def takesPush (kind q : Nat) : Bool := q ≤ 1 || (q == 2 && (kind == 0x98 || kind == 0x9B || kind == 0x9D))

/-- CPY, CPYT, CPYM, CPYR and CPYG at issue. -/
def copyBody (kind : Nat) (x : ExtWord) (c : Ctx) (s : State) : Res :=
  let q := x.d.num.toNat
  if !takesPush kind q then .trap (queueFault c 1 q)
  else if !s.canPush c q then .unselect
  else
    let regs := (List.range (regsOf kind)).map (fun i => c.F.scalar (x.a.num.toNat + i))
    let at_ := regs.getD 1 0
    let there := kind == 0x99 && at_.toNat % 64 == 0 && (scratchFault c.T at_ 64 false).isNone
    let tile := if there then readBytes c.T.scratch at_.toNat 64 else []
    let p : Push := ⟨kind, x, regs, if x.b.cls == .scal then c.F.scalar x.b.num.toNat else 0, tile⟩
    match s.pushFault c p there with
    | some t => .trap t
    | none =>
      if there && (sectorsOf at_.toNat 64).any c.T.spoison.contains then .keep (s.loseFragment c.f c.op at_ (some c.origin))
      else
        .done (s.accept c x.tok.toNat (fun pend =>
          { newCommand c q kind pend with
            src := p.src, dst := p.dst, regs := regs, signal := p.sig, tile := tile, fmt := x.tag, op := x.sub.toNat
            ordered := x.mod.getLsbD 0, to_ := (s.receivers c p).map Prod.fst, bytes := p.bytes }) true)

def execCpy (w : ExtWord) (s : State) : Host.Outcome State Fault Refusal := issue (.cpy w) (copyBody 0x98 w) s
def execCpyt (w : ExtWord) (s : State) : Host.Outcome State Fault Refusal := issue (.cpyt w) (copyBody 0x99 w) s
def execCpym (w : ExtWord) (s : State) : Host.Outcome State Fault Refusal := issue (.cpym w) (copyBody 0x9A w) s
def execCpyr (w : ExtWord) (s : State) : Host.Outcome State Fault Refusal := issue (.cpyr w) (copyBody 0x9B w) s
def execCpyg (w : ExtWord) (s : State) : Host.Outcome State Fault Refusal := issue (.cpyg w) (copyBody 0x9C w) s

/-- QFENCE (R150): `op` is 1 for GV. -/
def qfenceBody (x : ExtWord) (c : Ctx) (s : State) : Res :=
  let q := x.d.num.toNat
  if !takesPush 0x9D q then .trap (queueFault c 1 q)
  else if !s.canPush c q then .unselect
  else .done (s.accept c x.tok.toNat (fun pend => { newCommand c q 0x9D pend with op := x.sub.toNat % 2 }) (x.sub.getLsbD 0))
def execQfence (w : ExtWord) (s : State) : Host.Outcome State Fault Refusal := issue (.qfence w) (qfenceBody w) s

/-! ## Units of a transfer -/

/-- Where one end of a unit lies: memory, the scratchpad, operand memory, zeros, zeros that are poisoned, or nowhere. -/
inductive Spot where
  | glob (va : Word)
  | scr (a : Nat)
  | slot (a : Nat)
  | zeros
  | spoiled
  | nowhere
deriving DecidableEq, Repr

/-- Some bytes that a command moves: their offset in N order, how many, and both ends. -/
structure Move2 where
  off : Nat
  len : Nat
  src : Spot
  dst : Spot
deriving DecidableEq, Repr

def spotIn (space : Nat) (v : Word) : Spot := if space = 0 then .glob v else if space = 1 then .scr v.toNat else .slot v.toNat

def Spot.plus (p : Spot) (n : Nat) : Spot :=
  match p with
  | .glob va => .glob (va + BitVec.ofNat 64 n)
  | .scr a => .scr (a + n)
  | .slot a => .slot (a + n)
  | q => q

/-- Bytes up to the end of the sector of an end in memory; a local end is not cut, so that an element stays whole (R140). -/
def Spot.room (p : Spot) : Nat :=
  match p with
  | .glob va => 32 - va.toNat % 32
  | _ => 4096

/-- Cut a unit so that no end in memory crosses a sector. -/
def Move2.cut : Nat → Move2 → List Move2
  | 0, _ => []
  | fuel + 1, m =>
    let k := min m.src.room m.dst.room
    if m.len ≤ k then (if m.len = 0 then [] else [m])
    else { m with len := k } :: Move2.cut fuel ⟨m.off + k, m.len - k, m.src.plus k, m.dst.plus k⟩

/-- The first bytes of the destination up to an aligned word: chunks begin at aligned words (R139, R144). -/
def Command.lead (k : Command) : Nat := if k.kind = 0x99 then 0 else (k.regs.getD 0 0).toNat % 8

/-- The chunks of a command, and the bytes of one. -/
def Command.chunks (k : Command) : Nat := if k.bytes = 0 then 0 else (k.bytes + k.lead + 4095) / 4096
def Command.from (k : Command) (i : Nat) : Nat := 4096 * i - k.lead
def Command.upto (k : Command) (i : Nat) : Nat := min (4096 * (i + 1) - k.lead) k.bytes

/-- What a command moves from offset `lo` to `hi` (R139 to R143). -/
def Command.moves (k : Command) (T : Team) (lo hi : Nat) : List Move2 :=
  let r (n : Nat) : Word := k.regs.getD n 0
  let raw : List Move2 :=
    match k.kind with
    | 0x99 =>
      let t := parseTile k.tile
      let e := 2 ^ t.esize
      let loc := spotIn (if k.src = 0 then k.dst else k.src) (r 0)
      (List.range ((hi - lo) / e)).map (fun i =>
        let o := lo + i * e
        let g := t.at (o / e)
        if k.src = 0 then ⟨o, e, if g.2 then .glob g.1 else .zeros, loc.plus o⟩ else ⟨o, e, loc.plus o, if g.2 then .glob g.1 else .nowhere⟩)
    | 0x9C =>
      let rb := geoRowBytes (r 3)
      (List.range (hi / rb + 1 - lo / rb)).map (fun i =>
        let row := lo / rb + i
        let a := max lo (row * rb)
        let b := min hi ((row + 1) * rb)
        let idx := geoIndex (r 3) + 4 * row
        let x := readNat T.scratch idx 4
        let src : Spot := if (sectorsOf idx 4).any T.spoison.contains then .spoiled else if x = 0xFFFFFFFF then .zeros
                          else .glob (r 1 + BitVec.ofNat 64 x * r 2 + BitVec.ofNat 64 (a - row * rb))
        ⟨a, b - a, src, (spotIn k.dst (r 0)).plus a⟩)
    | _ => [⟨lo, hi - lo, (spotIn k.src (r 1)).plus lo, (spotIn k.dst (r 0)).plus lo⟩]
  raw.flatMap (fun m => m.cut (m.len + 1))

/-! ## Accesses of engines (R145, R149) -/

/-- Who translates for a command. -/
def Command.agent (k : Command) (T : Team) : Agent := if k.cluster = 320 then .die (dieOf (T.cores.headD 0)) else .cluster k.cluster
def Command.die (k : Command) (T : Team) : Nat := if k.cluster = 320 then dieOf (T.cores.headD 0) else k.cluster / 40
def Command.limit (k : Command) : Limit := if k.cluster = 320 then .q2 else .none

/-- The body of a HOSTFAULT event (R444). -/
def HostWait.body (w : HostWait) : List Byte :=
  natBytes 2 w.asid ++ natBytes 1 w.kind ++ natBytes 1 w.die ++ natBytes 1 w.unit ++ natBytes 3 0 ++ natBytes 8 (w.page * 2 ^ 16)

/-- Some access waits for the page (R149). -/
def State.awaitsPage (s : State) (asid page : Nat) : Bool := s.eng.waits.any (fun w => w.asid == asid && w.page == page)

/-- An engine's access waits for a page: one event for each page (R149). -/
def State.hostWait (s : State) (w : HostWait) : State :=
  if s.awaitsPage w.asid w.page then s else { s with eng := { s.eng with waits := s.eng.waits ++ [w] } }.raise 7 w.body

/-- What the accesses of an engine's work find before it is done: all may go on, some wait for the host, or one faults. -/
inductive Access where
  | ok (ps : List Piece)
  | wait (w : HostWait)
  | fault (x : XFault)
deriving DecidableEq, Repr

/-- One access of an engine: within a sector. One that needs a page which is waited for waits with the others until the answer (R149). -/
def State.engineAccess (s : State) (who : Agent) (asid root unit : Nat) (va : Word) (n : Nat) (kind : Acc) (limit : Limit) : Access :=
  let w : HostWait := ⟨asid, kindCode kind, who.die?, unit, vaPage va⟩
  if s.awaitsPage asid w.page && s.tlbMiss who asid va then .wait w
  else
    match s.access who asid root va n kind limit with
    | .ok ps => .ok ps
    | .error e => if e.x.host then .wait w else .fault e.x

/-- A sector of local memory as an engine of a die reads it: at the home, after the writes of its die to the line (R97), and not while the
home holds reads (R340). -/
def State.engineSector (s : State) (die sec : Nat) : Option Sector :=
  if s.homeHolds (sec / 4) || s.path.writes.any (fun e => e.2.region == .loc && e.2.line == sec / 4 && !e.2.accepted && e.2.die == die &&
      homeOf (32 * sec) != die) then none
  else some (s.homeSector sec)

/-- The reads of an engine at the homes of some pieces: the L2 holds the sectors, and errors at rest are found (R73, R95). -/
def State.engineReads (s : State) (ps : List Piece) : State :=
  (ps.filter (fun p => p.region == .loc)).foldl (fun s p => s.homeRead (p.addr / 32) (p.mt == 2)) s

/-! ## Chunks (R144, R146) -/

def State.adjChunk (s : State) (id : Nat) (g : Chunk → Chunk) : State := { s with eng := { s.eng with chunks := Tbl.adjust s.eng.chunks id g } }
def State.dropChunk (s : State) (id : Nat) : State := { s with eng := { s.eng with chunks := Tbl.drop s.eng.chunks id } }

/-- A team has ended, as CONTEXT-LOST where `lost` asks for it. -/
def State.endedAs (s : State) (t : Nat) (lost : Bool) : Bool := if lost then Tbl.get 0 s.sched.ended t == 6 else Tbl.get 0 s.sched.ended t != 0

/-- The command is to end ABORT (R148). -/
def State.aborted (s : State) (k : Command) : Bool :=
  (k.team :: k.to_).any (fun t => s.endedAs t true) || (k.kind = 0x9A && k.to_.any (fun t => s.endedAs t false)) ||
  ((k.dst = 2 || k.src = 2) && (k.team :: k.to_).any (fun t => s.endedAs t false))

/-- Subtract bytes from a barrier of a team (R146, R156). -/
def State.signal (s : State) (t a n : Nat) (bad quiet : Bool) : State :=
  match s.team? t with
  | none => s
  | some T =>
    if quiet && s.endedAs t false then s
    else
      match T.bar? a with
      | none => s.count ctrBARLOST (T.partition a) 1
      | some _ => s.adjTeam t (fun T => T.barAdd a (-(n : Int)) bad)

/-- Count bytes at source-read-done. -/
def State.countSrd (s : State) (id n : Nat) : State :=
  let s1 := s.adjCmd id (fun k => { k with srd := k.srd + n })
  match Tbl.find s1.eng.cmds id with
  | none => s1
  | some k => if sigSren k.signal then s1.signal k.team (sigSrbar k.signal) n k.poison k.abort else s1

/-- Count bytes at globally-visible, in every receiver; `moved` of them were. -/
def State.countGv (s : State) (id n moved : Nat) : State :=
  let s1 := s.adjCmd id (fun k => { k with gv := k.gv + moved })
  match Tbl.find s1.eng.cmds id with
  | none => s1
  | some k => if sigGven k.signal then k.to_.foldl (fun s t => s.signal t (sigGvbar k.signal) n k.poison k.abort) s1 else s1

/-- The record (R147). -/
def Command.record (k : Command) : Word × Word :=
  let foff := match k.fault with | some (o, _, _) => o | none => 0
  let cause := match k.fault with | some (_, c, _) => c | none => 0
  let sub := match k.fault with | some (_, _, u) => u | none => 0
  let status := if k.fault.isSome then 2 else if k.abort then 3 else if k.poison then 1 else 0
  let level := if 2 ≤ status then (if k.srd = k.bytes then 1 else 0) else 2
  (BitVec.ofNat 64 (foff % 2 ^ 32 * 2 ^ 32 + k.kind * 2 ^ 24 + level * 2 ^ 20 + status * 2 ^ 16 + (k.signal.extractLsb' 48 16).toNat),
   BitVec.ofNat 64 (sub % 256 * 2 ^ 56 + cause % 256 * 2 ^ 48 + k.gv * k.to_.length % 2 ^ 48))

/-- The copy of a graph node stands for a wave of this number and the node's address (R371). -/
def nodeWave : Nat := 2 ^ 40

/-- The command is over: its token completes (R146), or its node (R371). -/
def State.dropCommand (s : State) (id : Nat) : State :=
  match Tbl.find s.eng.cmds id with
  | none => s
  | some k =>
    let s1 := { s with eng := { s.eng with cmds := Tbl.drop s.eng.cmds id } }.completeAll k.pend
    if k.wave < nodeWave then s1
    else
      let node := k.wave - nodeWave
      let status := if k.fault.isSome || k.abort then 7 else if k.poison then 8 else 2
      { s1 with teams := Tbl.drop s1.teams k.team }.addTask (homeOf node) (.complete node status none)

/-- The last act of a command: its record, where its queue has room and its wave has not ended (R146, R153). -/
def State.postRecord (s : State) (id : Nat) : State :=
  match Tbl.find s.eng.cmds id with
  | none => s
  | some k =>
    let rq := sigRq k.signal
    if rq = 0 then s.dropCommand id
    else
      match s.wave? k.wave, s.team? k.team with
      | some W, some T =>
        if W.live = 0 || k.pend < T.gate then s.dropCommand id
        else if 30 < (W.queues.records rq).length then s
        else
          let r := k.record
          let add (W : Wave) : Wave := { W with queues := W.queues.setRecords rq (W.queues.records rq ++ [r.1, r.2]) }
          (s.adjWave k.wave add).dropCommand id
      | _, _ => s.dropCommand id

/-- A command of which nothing is in flight and nothing is left to begin ends: what each level has not received is subtracted, at SRD
before GV, and the barriers get POISON where it stopped (R146, R148). -/
def State.endCommand (s : State) (id : Nat) : State :=
  match Tbl.find s.eng.cmds id with
  | none => s
  | some k =>
    if k.ending then s.postRecord id
    else
      let stopped := k.fault.isSome || k.abort
      let busy := s.eng.chunks.any (fun e => e.2.cmd == id)
      if !k.started || busy || (!stopped && k.next < k.chunks) then s
      else
        let s1 := s.adjCmd id (fun k => { k with ending := true, poison := k.poison || stopped })
        let s2 := if stopped || k.bytes = 0 then
            ((s1.countSrd id (k.bytes - k.srd)).countGv id (k.bytes - k.gv) 0).adjCmd id (fun q => { q with srd := k.srd })
          else s1
        s2.postRecord id

/-- A chunk ends without its bytes: the command stops. -/
def State.stopChunk (s : State) (id : Nat) (h : Chunk) (g : Command → Command) : State := ((s.adjCmd h.cmd g).dropChunk id).endCommand h.cmd

/-! ### Reading -/

/-- The source ends in memory of a chunk's moves. -/
def globals (ms : List Move2) (dst : Bool) : List (Nat × Word × Nat) :=
  ms.filterMap (fun m => match (if dst then m.dst else m.src) with | .glob va => some (m.off, va, m.len) | _ => none)

/-- The accesses of a list of ends: the first fault by offset, else the pages to wait for, else the pieces. -/
def State.engineAll (s : State) (k : Command) (T : Team) (es : List (Nat × Word × Nat)) (kind : Acc) :
    List (Nat × XFault) × List HostWait × List (Nat × Word × Piece) :=
  es.foldl (fun r e =>
    match s.engineAccess (k.agent T) T.asid T.table 0 e.2.1 e.2.2 kind k.limit with
    | .ok ps => (r.1, r.2.1, r.2.2 ++ ps.map (fun p => (e.1, e.2.1, p)))
    | .wait w => (r.1, r.2.1 ++ [w], r.2.2)
    | .fault x => (r.1 ++ [(e.1, x)], r.2.1, r.2.2)) ([], [], [])

/-- Whether a piece lies beyond the device. -/
def Piece.away (p : Piece) : Bool := match p.region with | .peer _ => true | .host => true | _ => false

/-- A byte that was read, with the poison of its sector: an open value where there is some (R148). -/
def taintedByte (free at_ : Nat) (b : Byte) (bad : Bool) : Byte × Taint := if bad then (Config.freeByte free at_, .unknown) else (b, .clean)

/-- The bytes of one source, each with its poison; none while it waits. -/
def State.readSpot (s : State) (T : Team) (die id : Nat) (ps : List (Nat × Word × Piece)) (m : Move2) : Option (List (Byte × Taint)) :=
  match m.src with
  | .scr a => some ((List.range m.len).map (fun i =>
      taintedByte s.free (m.off + i) (Tbl.get 0 T.scratch (a + i)) (T.spoison.contains ((a + i) / 32))))
  | .slot a =>
    let q := slotAddr a
    some ((List.range m.len).map (fun i =>
      taintedByte s.free (m.off + i) (Tbl.get 0 (T.omAt q.core).bytes (q.byte + i)) ((T.omAt q.core).poison.contains ((q.byte + i) / 32))))
  | .zeros => some (List.replicate m.len (0, .clean))
  | .spoiled => some (List.replicate m.len (0, .zero))
  | .nowhere => some (List.replicate m.len (0, .clean))
  | .glob _ =>
    match ps.find? (fun e => e.1 == m.off) with
    | none => none
    | some (_, _, p) =>
      if p.away then
        match s.path.remote.findSome? (fun (e : Nat × RemoteReq) =>
          if e.2.pend == some id && e.2.region == p.region && e.2.addr == p.addr then e.2.result else none) with
        | some (.ok data poison) => some (data.zipIdx.map (fun b => taintedByte s.free (m.off + b.2) b.1 poison))
        | _ => none
      else (s.engineSector die (p.addr / 32)).map (fun v =>
        (((v.data.drop (p.addr % 32)).take m.len).zipIdx).map (fun b => taintedByte s.free (m.off + b.2) b.1 v.poison))

/-- The engine reads a chunk's source: source-read-done for its bytes. -/
def State.readChunk (s : State) (id : Nat) (h : Chunk) (k : Command) (T : Team) : State :=
  let lo := k.from h.index
  let hi := k.upto h.index
  let ms := k.moves T lo hi
  let r := s.engineAll k T (globals ms false) .read
  let off0 (x : Nat × XFault) : Command → Command := fun k => k.fail x.1 x.2.cause x.2.sub
  match r.1, r.2.1 with
  | x :: _, _ => (s.logWalk 3 0xFF (k.die T) ⟨x.2, 0⟩).stopChunk id h (off0 x)
  | [], w :: ws => (w :: ws).foldl (fun s w => s.hostWait w) s
  | [], [] =>
    let away := r.2.2.filter (fun e => e.2.2.away)
    let mine := s.path.remote.filter (fun e => e.2.pend == some id)
    if !away.isEmpty && mine.isEmpty then
      away.foldl (fun s e => s.sendRemote (some id) none e.1 e.2.1 e.2.2.region e.2.2.addr (.read e.2.2.len)) s
    else if mine.any (fun e => e.2.result.isNone) then s
    else
      match mine.find? (fun e => match e.2.result with | some (.ok _ _) => false | _ => true) with
      | some e => (s.dropRemote (fun r => r.pend == some id)).stopChunk id h
          (fun k => k.fail e.2.lane 0x16 (if e.2.result == some .indeterminate then 1 else 2))
      | none =>
        match ms.mapM (s.readSpot T (k.die T) id r.2.2) with
        | none => s
        | some bs =>
          let data := if k.struck then bs.flatten.zipIdx.map (fun b => taintedByte s.free (lo + b.2) b.1.1 true) else bs.flatten
          let bad := data.any (fun b => b.2 != .clean)
          let s0 := { s with free := s.free + 1 }.engineReads (r.2.2.map (fun (e : Nat × Word × Piece) => e.2.2))
          let s1 := (globals ms false).foldl (fun s e => s.fillTlb (k.agent T) T.asid T.table e.2.1) s0
          let s2 := (s1.dropRemote (fun r => r.pend == some id)).adjChunk id (fun h => { h with read := true, data := data })
          (s2.adjCmd h.cmd (fun k => { k with poison := k.poison || bad })).countSrd h.cmd (hi - lo)

/-! ### Writing -/

/-- The bytes of one unit out of a chunk's data. -/
def unitData (lo : Nat) (data : List (Byte × Taint)) (m : Move2) : List (Byte × Taint) := (data.drop (m.off - lo)).take m.len

/-- The sectors that receive a byte with poison. -/
def taintedSectors (cells : List (Nat × Byte × Taint)) : List Nat := ((cells.filter (fun b => b.2.2 != .clean)).map (fun b => b.1 / 32)).eraseDups

/-- The bytes that some cells store: those of a sector that receives an unspecified byte are all unspecified (R148). -/
def storedCells (free : Nat) (cells : List (Nat × Byte × Taint)) : List (Nat × Byte) :=
  let unknown := ((cells.filter (fun b => b.2.2 == .unknown)).map (fun b => b.1 / 32)).eraseDups
  cells.map (fun b => (b.1, if unknown.contains (b.1 / 32) then Config.freeByte free b.1 else b.2.1))

/-- Writes into a receiver's scratchpad or slots. -/
def Team.takeUnits (T : Team) (free lo : Nat) (data : List (Byte × Taint)) (ms : List Move2) : Team :=
  let cells (base : Nat) (m : Move2) : List (Nat × Byte × Taint) := (unitData lo data m).zipIdx.map (fun e => (base + e.2, e.1))
  ms.foldl (fun T m =>
    match m.dst with
    | .scr a => { T with scratch := writeCells T.scratch (storedCells free (cells a m))
                         spoison := poisonAfter T.spoison (storedCells free (cells a m)) (taintedSectors (cells a m)) }
    | .slot a =>
      let q := slotAddr a
      T.adjOm q.core (fun o => o.write (storedCells free (cells q.byte m)) (taintedSectors (cells q.byte m)))
    | _ => T) T

/-- The elements of a reduction in one piece, as steps, each with its poison (R142, R148). -/
def reduceSteps (k : Command) (lo : Nat) (data : List (Byte × Taint)) (e : Nat × Word × Piece) : List (LaneAcc × Bool) :=
  let n := elemBytes k.fmt
  (List.range (e.2.2.len / n)).map (fun i =>
    let bs := (data.drop (e.1 - lo + i * n)).take n
    (⟨i % 64, e.2.1 + BitVec.ofNat 64 (i * n), [{ e.2.2 with addr := e.2.2.addr + i * n, len := n }], [],
      BitVec.ofNat 64 (bytesNat (bs.map Prod.fst)), 0⟩, bs.any (fun b => b.2 != .clean)))

/-- What a command's element operation is (R142). -/
def Command.rmw (k : Command) : StoreOp := .rmw (k.op % 8) k.fmt (k.op < 8) k.ftz false k.ordered (elemBytes k.fmt)

/-- The writes of a chunk to local memory, a line at a time. A poisoned element of a reduction is not applied: it poisons its sector (R148). -/
def State.sendCopied (s : State) (id lo : Nat) (k : Command) (T : Team) (data : List (Byte × Taint)) (ps : List (Nat × Word × Piece)) : State × List Nat :=
  let free := s.free
  let lines := (ps.map (fun e => e.2.2.addr / 128)).eraseDups
  lines.foldl (fun (st : State × List Nat) line =>
    let mine := ps.filter (fun e => e.2.2.addr / 128 == line)
    let all := mine.flatMap (fun e => (((data.drop (e.1 - lo)).take e.2.2.len).zipIdx).map (fun b => (e.2.2.addr + b.2, b.1)))
    let steps := ((mine.flatMap (reduceSteps k lo data)).filter (fun a => !a.2)).map Prod.fst
    let secs := (mine.map (fun e => e.2.2.addr / 32)).eraseDups
    let die := k.die T
    let s1 := st.1.rdcDropSectors die (secs.filter (fun z => homeOf (32 * z) != die))
    let r := s1.putWrite { source := .command id, die := die, core := 160 * die, region := .loc, line := line
                           cells := if k.kind = 0x9B then [] else storedCells free all, bad := taintedSectors all
                           op := if k.kind = 0x9B then k.rmw else .st, steps := if k.kind = 0x9B then steps else []
                           release := false, scope := 4, accepted := false, invals := [], acks := [], uc := mine.any (fun e => e.2.2.mt == 2) }
    (r.2, st.2 ++ [r.1])) ({ s with free := s.free + 1 }, [])

/-- The writes of a chunk beyond the device, with the poison that they carry (R405). -/
def State.sendCopiedAway (s : State) (id lo : Nat) (k : Command) (T : Team) (data : List (Byte × Taint)) (ps : List (Nat × Word × Piece)) : State × List Nat :=
  let free := s.free
  ps.foldl (fun (st : State × List Nat) e =>
    let one (st : State × List Nat) (off : Nat) (va : Word) (addr : Nat) (op : PeerOp) (bad : Bool) : State × List Nat :=
      let r := st.1.putWrite { source := .command id, die := k.die T, core := 160 * k.die T, region := e.2.2.region, line := addr / 128
                               cells := [], bad := [], op := .st, steps := [], release := false, scope := 5, accepted := false, invals := [], acks := [] }
      (r.2.sendRemote none (some r.1) off va e.2.2.region addr op bad, st.2 ++ [r.1])
    if k.kind = 0x9B then
      (reduceSteps k lo data e).foldl (fun st a => one st e.1 a.1.va a.1.place
        (.atomic (BitVec.ofNat 4 (k.op % 8)) (BitVec.ofNat 4 k.fmt) (k.op < 8) k.ftz false a.1.operand 0 (elemBytes k.fmt)) a.2) st
    else
      let all := (((data.drop (e.1 - lo)).take e.2.2.len).zipIdx).map (fun b => (e.2.2.addr + b.2, b.1))
      one st e.1 e.2.1 e.2.2.addr (.write ((storedCells free all).map (fun c => (c.1 - e.2.2.addr, c.2)))) (!(taintedSectors all).isEmpty))
    ({ s with free := s.free + 1 }, [])

/-- An earlier .ORD command of the same queue is unfinished: elements of this one wait (R142). -/
def State.ordWaits (s : State) (id : Nat) (k : Command) : Bool :=
  k.ordered && s.eng.cmds.any (fun e => e.1 < id && e.2.wave == k.wave && e.2.queue == k.queue && e.2.ordered && !e.2.ending)

/-- The engine writes a chunk's destination. -/
def State.writeChunk (s : State) (id : Nat) (h : Chunk) (k : Command) (T : Team) : State :=
  let lo := k.from h.index
  let ms := k.moves T lo (k.upto h.index)
  let r := s.engineAll k T (globals ms true) (if k.kind = 0x9B then .atomic else .write)
  if s.ordWaits h.cmd k then s
  else
    match r.1, r.2.1 with
    | x :: _, _ =>
      let keep := Config.freeBool s.free
      let s0 := { s with free := s.free + 1 }
      let s0 := s0.logWalk 3 0xFF (k.die T) ⟨x.2, 0⟩
      let s1 := if keep then (s0.sendCopied h.cmd lo k T h.data (r.2.2.filter (fun e => !e.2.2.away))).1 else s0
      s1.stopChunk id h (fun k => k.fail x.1 x.2.cause x.2.sub)
    | [], w :: ws => (w :: ws).foldl (fun s w => s.hostWait w) s
    | [], [] =>
      let s0 := (globals ms true).foldl (fun s e => s.fillTlb (k.agent T) T.asid T.table e.2.1) s
      let s1 := k.to_.foldl (fun s t => s.adjTeam t (fun T => T.takeUnits s.free lo h.data ms)) s0
      let a := ({ s1 with free := s1.free + 1 }).sendCopied h.cmd lo k T h.data (r.2.2.filter (fun e => !e.2.2.away))
      let b := a.1.sendCopiedAway h.cmd lo k T h.data (r.2.2.filter (fun e => e.2.2.away))
      b.1.adjChunk id (fun h => { h with sent := true, writes := a.2 ++ b.2, data := [] })

/-- A chunk whose writes have all been performed is globally visible; the bytes of one whose writes failed do not count. -/
def State.closeChunk (s : State) (id : Nat) (h : Chunk) (k : Command) : State :=
  if h.writes.any (fun w => (Tbl.find s.path.writes w).isSome) then s
  else
    let n := k.upto h.index - k.from h.index
    let s1 := s.dropChunk id
    (if h.failed then s1 else s1.countGv h.cmd n n).endCommand h.cmd

/-- COPY_CHUNK_DONE: a chunk goes on to its next level, where it can; one that has started finishes even where its command ends ABORT (R148). -/
def State.chunkDone (s : State) (id : Nat) : State :=
  match Tbl.find s.eng.chunks id with
  | none => s
  | some h =>
    match Tbl.find s.eng.cmds h.cmd with
    | none => s.dropChunk id
    | some k =>
      let s := if s.aborted k then s.adjCmd h.cmd (fun k => { k with abort := true, poison := true }) else s
      match s.team? k.team with
      | none => (s.dropChunk id).endCommand h.cmd
      | some T => if !h.read then s.readChunk id h k T else if !h.sent then s.writeChunk id h k T else s.closeChunk id h k

def execCopyChunkDone (id : Nat) (s : State) : Host.Outcome State Fault Refusal := .next (s.chunkDone id)

/-! ### Starting (R144, R150) -/

/-- A QFENCE has what it waits for: every command accepted before it has reached its level. -/
def State.fencePassed (s : State) (id : Nat) (k : Command) : Bool :=
  !s.eng.cmds.any (fun e => e.1 < id && e.2.wave == k.wave && e.2.queue == k.queue &&
    (e.2.kind = 0x9D || k.op = 1 || !(e.2.started && (e.2.srd = e.2.bytes || e.2.ending))))

/-- The first entry of its queue. -/
def State.headOf (s : State) (id : Nat) (k : Command) : Bool :=
  !s.eng.cmds.any (fun e => e.1 < id && e.2.wave == k.wave && e.2.queue == k.queue && !e.2.started)

/-- The push came after an acquire of its fragment that is outstanding (R116). -/
def State.commandHeld (s : State) (k : Command) : Bool :=
  match Tbl.find s.pend k.pend with
  | some p => s.acquiring p.wave p.ord p.own
  | none => false

/-- Commands of a cluster that may start now. -/
def State.startable (s : State) (cl : Nat) : List (Nat × Command) :=
  s.eng.cmds.filter (fun e => e.2.cluster == cl && !e.2.started && e.2.kind != 0x9D && s.headOf e.1 e.2 && !s.commandHeld e.2)

/-- Whose turn it is: the first wave after the one served last, in order (R144). -/
def State.nextCommand (s : State) (cl : Nat) : Option (Nat × Command) :=
  let cs := s.startable cl
  let last := Tbl.get 0 s.eng.turn cl
  let waves := cs.map (fun e => e.2.wave)
  let w := match (waves.filter (fun w => last < w)).min? with | some w => some w | none => waves.min?
  w.bind (fun w => cs.find? (fun e => e.2.wave == w))

/-- A started command of the cluster with a chunk left to begin. -/
def State.openCommand (s : State) (cl : Nat) : Option (Nat × Command) :=
  s.eng.cmds.find? (fun e => e.2.cluster == cl && e.2.started && e.2.next < e.2.chunks && e.2.fault.isNone && !e.2.abort)

/-- An engine takes the next chunk of a command. -/
def State.takeChunk (s : State) (engine id : Nat) (k : Command) : State :=
  let h : Chunk := { cmd := id, index := k.next, engine := engine, read := false, data := [], sent := false, writes := [] }
  let s1 := s.adjCmd id (fun k => { k with next := k.next + 1 })
  { s1 with eng := { s1.eng with chunks := Tbl.put s1.eng.chunks s1.nextId h }, nextId := s1.nextId + 1 }

/-- The copy engines of a cluster are enabled: those of a disabled cluster are not (R11). 320 stands for the engines of q2. -/
def State.enginesEnabled (s : State) (cl : Nat) : Bool := 320 ≤ cl || (Tbl.get 0 s.sched.enabled (cl / 40)).getLsbD (cl % 40)

/-- COPY_CHUNK_START: an idle engine takes an unstarted chunk, or starts the next command. -/
def State.chunkStart (s : State) (cluster engine : Nat) : State :=
  let cl := min cluster 320
  let e := cluster * 8 + engine
  if s.eng.chunks.any (fun h => h.2.engine == e) || (cl < 320 && 8 ≤ engine) || !s.enginesEnabled cl then s
  else
    match s.openCommand cl with
    | some (id, k) =>
      if s.aborted k then (s.adjCmd id (fun k => { k with abort := true, poison := true })).endCommand id else s.takeChunk e id k
    | none =>
      match s.nextCommand cl with
      | none => s
      | some (id, k) =>
        let s1 := { s with eng := { s.eng with turn := Tbl.set 0 s.eng.turn cl k.wave } }.adjCmd id (fun k => { k with started := true, abort := s.aborted k })
        if s.aborted k || k.chunks = 0 then s1.endCommand id else s1.takeChunk e id k

def execCopyChunkStart (cluster engine : Nat) (s : State) : Host.Outcome State Fault Refusal := .next (s.chunkStart cluster engine)

end Sys2Proof.Machine
end

