-- ==== Sys2Proof/Machine/Matrix.lean ====
section
/-! DEFINITION. Machine/Matrix.lean: operand memory, accumulators and the matrix engine (R237 to R264). -/

namespace Sys2Proof.Machine

/-! ## Operands (R242, R260) -/

/-- Operand Slot (R260). -/
def operandSlot (c : Ctx) (sub v : Nat) : Trap := trapWhole c 0x0E (tvalSub sub v)

/-- A slot operand: a number in range that the team holds on the issuing core. -/
def slotOperand (c : Ctx) (x : ExtWord) (o : Operand) : Except Trap Nat :=
  let v := (c.count x o).toNat
  if 63 < v then .error (operandSlot c 3 v)
  else if !c.T.holdsSlot (coreIndex c.T c.W.core) v then .error (operandSlot c 1 v)
  else .ok v

/-- A region operand under the team's REGIONS. -/
def regionOperand (c : Ctx) (x : ExtWord) (o : Operand) : Except Trap Nat :=
  let v := (c.count x o).toNat
  if c.T.task.regions ≤ v then .error (operandSlot c 4 v) else .ok v

/-- The context that serves a region (R238). -/
def contextOf (region : Nat) : Nat := region % 2

/-! ## Regions (R238) -/

def noAcc : AccMem := ⟨[], []⟩
def Team.accAt (T : Team) (core : Nat) : AccMem := T.acc.getD core noAcc
def Team.adjAcc (T : Team) (core : Nat) (g : AccMem → AccMem) : Team :=
  { T with acc := T.acc.zipIdx.map (fun e => if e.2 = core then g e.1 else e.1) }

def AccMem.word (m : AccMem) (r i j : Nat) : BitVec 32 := Tbl.get 0 m.words (r * 4096 + 64 * i + j)
def AccMem.setWord (m : AccMem) (r i j : Nat) (v : BitVec 32) : AccMem := { m with words := Tbl.set 0 m.words (r * 4096 + 64 * i + j) v }
def AccMem.bad (m : AccMem) (r i : Nat) : Bool := m.poison.contains (r * 64 + i)
def AccMem.setBad (m : AccMem) (r i : Nat) (b : Bool) : AccMem :=
  { m with poison := if b then NSet.insert m.poison (r * 64 + i) else NSet.remove m.poison (r * 64 + i) }

/-- Write the words of a row. -/
def AccMem.setRow (m : AccMem) (r i : Nat) (f : Nat → BitVec 32) : AccMem := (List.range 64).foldl (fun m j => m.setWord r i j (f j)) m

/-- First column and number of columns that quarter selects (R243). -/
def quarterCols (q : Nat) : Nat × Nat := if q = 0 then (0, 64) else (16 * (q - 1), 16)

/-! ## The matrix order (R248, R249) -/

/-- The extended word of an entry's instruction. -/
def MatrixEntry.word (e : MatrixEntry) : ExtWord := (extWord e.instr).getD ⟨0, 0, ⟨.vec, 0⟩, ⟨.vec, 0⟩, ⟨.vec, 0⟩, ⟨.vec, 0⟩, 0, 0, false, 0, 0, false, 0, 0, 0, false, 0, none⟩

/-- One number for each sector of a slot, and for each region row. -/
def slotSectors (slot : Nat) : List Nat := (List.range 256).map (fun k => slot * 272 + k)
def sideSectors (slot : Nat) : List Nat := (List.range 16).map (fun k => slot * 272 + 256 + k)
def rowKey (region row : Nat) : Nat := 100000 + region * 64 + row

/-- The sectors of a slot that some rows touch from doubleword `start` on, or their sidecar sectors. -/
def rowSectors (slot : Nat) (rows : Mask) (side : Bool) (start count : Nat) : List Nat :=
  (rows.lanes.flatMap (fun i =>
    if side then [slot * 272 + 256 + i / 4] else (List.range count).map (fun r => slot * 272 + 4 * i + (start + r) / 4))).eraseDups

/-- Slots' and rows' storage that an entry reads. -/
def MatrixEntry.reads (e : MatrixEntry) : List Nat :=
  let x := e.word
  let rows := e.rows.lanes.map (rowKey e.region)
  match e.instr with
  | .omread _ => rowSectors (e.slots.headD 0) e.rows (x.mod.getLsbD 0) x.x.toNat (x.sub.toNat + 1)
  | .mma _ => rowSectors (e.slots.getD 0 0) e.rows false 0 16 ++ slotSectors (e.slots.getD 1 0) ++ (if x.mod.getLsbD 2 then [] else (List.range 64).map (rowKey e.region))
  | .mmas _ =>
    rowSectors (e.slots.getD 0 0) e.rows false 0 16 ++ rowSectors (e.slots.getD 0 0) e.rows true 0 1 ++ slotSectors (e.slots.getD 1 0) ++
      sideSectors (e.slots.getD 1 0) ++ (if x.mod.getLsbD 2 then [] else (List.range 64).map (rowKey e.region))
  | .accrd _ => rows
  | .accst _ => rows
  | .accsc _ => rows
  | .accred _ => rows
  | _ => []

/-- What an entry writes. -/
def MatrixEntry.writesTo (e : MatrixEntry) : List Nat :=
  let x := e.word
  let rows := e.rows.lanes.map (rowKey e.region)
  match e.instr with
  | .omfill _ => rowSectors (e.slots.headD 0) e.rows (x.mod.getLsbD 0) x.x.toNat (x.sub.toNat + 1)
  | .mma _ => if e.first then (List.range 64).map (rowKey e.region) else rows
  | .mmas _ => if e.first then (List.range 64).map (rowKey e.region) else rows
  | .accz _ => rows
  | .accwr _ => rows
  | .accsc _ => rows
  | _ => []

def meet (a b : List Nat) : Bool := a.any b.contains

/-- Two entries touch common storage that one of them writes. -/
def MatrixEntry.conflicts (e f : MatrixEntry) : Bool :=
  meet e.writesTo f.reads || meet e.writesTo f.writesTo || meet e.reads f.writesTo

/-- Entries of a team's core that are not finished. -/
def State.openEntries (s : State) (t core : Nat) : List (Nat × MatrixEntry) :=
  s.mx.entries.filter (fun e => e.2.team == t && e.2.core == core && !e.2.written)

/-- An unfinished entry writes what the new one would read or write. -/
def State.orderWaits (s : State) (e : MatrixEntry) : Bool := (s.openEntries e.team e.core).any (fun f => f.2.conflicts e)

/-- A context's queue on a core has room for the teams whose context stands there (R237, R249, R263). -/
def State.contextRoom (s : State) (core ctx : Nat) : Bool :=
  2 ≤ ctx || (s.mx.entries.filter (fun e => e.2.core == core && e.2.ctx == ctx && !e.2.started && s.onCores e.2.team)).length < 8

/-- Matrix Poison of what an entry would read (R261): the first poisoned sector, then the first poisoned row. -/
def State.entryPoison (_s : State) (c : Ctx) (T : Team) (e : MatrixEntry) : Option Trap :=
  let k := coreIndex T e.core
  let ks := e.reads
  match ks.find? (fun n => n < 100000 && (T.omAt k).poison.contains n) with
  | some n =>
    let side := 256 ≤ n % 272
    let off := if side then n % 272 * 32 - 8192 else n % 272 * 32
    some (trapWhole c 0x0F (tvalSub 1 ((if side then 2 ^ 21 else 0) + k * 2 ^ 19 + n / 272 * 2 ^ 13 + off)))
  | none =>
    (e.rows.lanes.find? (fun i => ks.contains (rowKey e.region i) && (T.accAt k).bad e.region i)).map
      (fun i => trapWhole c 0x0F (tvalSub 2 (e.region * 256 + i)))

/-- Accept an entry: it takes its place in the matrix order, and its instruction is outstanding. -/
def State.enter (s : State) (e : MatrixEntry) : State :=
  { s with mx := { s.mx with entries := Tbl.put s.mx.entries s.nextId e }, nextId := s.nextId + 1 }

/-- The outstanding record of a matrix instruction. -/
def matrixPend (c : Ctx) (x : ExtWord) (lanes : Mask) (dst : Dest) (ord : Nat) : Pend :=
  { wave := c.w, lanes := lanes, own := heldLanes c.W c.F, ord := ord, tok := x.tok.toNat, dst := dst, pc := c.F.pc, rwc := c.F.rwc, cls := c.cls, op := c.op, kind := .command }

/-- Under the duplicated and triplicated classes the fragment issues nothing younger until the results are written (R262). -/
def State.holdFor (s : State) (c : Ctx) (i : Instr) (id : Nat) : State :=
  if 2 ≤ classOf c.F.mode (pclOf i) then s.adjFrag c.f (fun F => { F with fstate := .blocked, hold := some id }) else s

/-- An entry of one wave's own (R246), before its captured values are added. Its first or only window treats off rows; a late one, and one in
a handler, does not (R264, R354). -/
def soloEntry (c : Ctx) (i : Instr) (x : ExtWord) (ctx : Nat) (slots : List Nat) (region : Nat) : MatrixEntry :=
  { team := c.t, core := c.W.core, ctx := ctx, wave := c.w, instr := i, rows := c.part x, first := !c.lateWindow x, pends := []
    slots := slots, region := region, data := [], accs := [], started := ctx == 2, written := false, writes := [] }

/-- Queue an entry of one wave, where its context has room. -/
def Ctx.queue (c : Ctx) (i : Instr) (x : ExtWord) (e : MatrixEntry) (lanes : Mask) (dst : Dest) (s : State) : Res :=
  if !s.contextRoom c.W.core e.ctx then .unselect
  else
    let p := s.addPend (matrixPend c x lanes dst s.nextId)
    .done ((p.2.enter { e with pends := [p.1] }).holdFor c i p.1)

/-! ## Slots at issue (R255, R256) -/

/-- Slots of a core of the team that OMCLAIM may take: reserved, not held, and returned (R255, R153). -/
def State.slotBusy (s : State) (t core slot : Nat) : Bool :=
  s.eng.cmds.any (fun e => (e.2.team == t || e.2.to_.contains t) &&
    ((e.2.dst == 2 && (slotAddr (e.2.regs.getD 0 0).toNat).slot == slot && (slotAddr (e.2.regs.getD 0 0).toNat).core == core) ||
     (e.2.kind == 0x99 && e.2.src == 2 && (slotAddr (e.2.regs.getD 0 0).toNat).slot == slot && (slotAddr (e.2.regs.getD 0 0).toNat).core == core) ||
     (e.2.kind != 0x99 && e.2.src == 2 && (slotAddr (e.2.regs.getD 1 0).toNat).slot == slot && (slotAddr (e.2.regs.getD 1 0).toNat).core == core)))

def State.slotInOrder (s : State) (t core slot before : Nat) : Bool :=
  (s.mx.entries.any (fun e => e.1 < before && e.2.team == t && e.2.core == core && !e.2.written && e.2.slots.contains slot))

def State.freeSlots (s : State) (t : Nat) (T : Team) (core : Nat) : List Nat :=
  let k := coreIndex T core
  let o := T.omAt k
  (o.reserved.filter (fun n => !o.held.contains n && !s.slotBusy t k n && !s.slotInOrder t core n s.nextId)).mergeSort (· ≤ ·)

/-- The 8 bytes that name slots: those given, then 0xFF. -/
def slotList (l : List Nat) : Word := BitVec.ofNat 64 (bytesNat ((List.range 8).map (fun i => BitVec.ofNat 8 (l.getD i 0xFF))))

/-- No older OMCLAIM of the team on the core waits. -/
def claimFirst (o : OperandMem) (f : Nat) : Bool := (o.waiters.takeWhile (· != f)).isEmpty

/-- A fragment takes its place in the order of the waiting OMCLAIMs of its team on a core. -/
def State.joinOmclaim (s : State) (t k f : Nat) : State :=
  s.adjTeam t (fun T => T.adjOm k (fun o => { o with waiters := if o.waiters.contains f then o.waiters else o.waiters ++ [f] }))

def omclaimBody (x : ExtWord) (c : Ctx) (s : State) : Res :=
  let n := (c.count x x.a).toNat
  if n = 0 || 8 < n || c.T.task.slots < n then .trap (operandSlot c 5 n)
  else
    let k := coreIndex c.T c.W.core
    let free := s.freeSlots c.t c.T c.W.core
    let o := c.T.omAt k
    if n ≤ free.length && claimFirst o c.f then
      let l := free.take n
      let s1 := s.adjTeam c.t (fun T => T.adjOm k (fun o => { o with held := l.foldl NSet.insert o.held, waiters := o.waiters.erase c.f }))
      .done (s1.adjFrag c.f (fun F => F.setScalar x.d.num.toNat (slotList l)))
    else
      .keep ((s.joinOmclaim c.t k c.f).unselect c.f)
def execOmclaim (w : ExtWord) (s : State) : Host.Outcome State Fault Refusal := issue (.omclaim w) (gather (.omclaim w) w (omclaimBody w)) s

/-- The slots that OMREL names: one, or the bytes of a register other than 0xFF. -/
def omrelSlots (c : Ctx) (x : ExtWord) : List Nat :=
  if x.a.cls == .scal then ((natBytes 8 (c.F.scalar x.a.num.toNat).toNat).map BitVec.toNat).filter (· != 0xFF) else [(c.count x x.a).toNat]

def omrelBody (x : ExtWord) (c : Ctx) (s : State) : Res :=
  let k := coreIndex c.T c.W.core
  let l := omrelSlots c x
  match l.findSome? (fun v => if 63 < v then some (operandSlot c 3 v) else if !c.T.holdsSlot k v then some (operandSlot c 1 v) else none) with
  | some t => .trap t
  | none =>
    let held := heldLanes c.W c.F
    let s1 := s.adjTeam c.t (fun T => T.adjOm k (fun o => { o with held := o.held.filter (fun n => !l.contains n) }))
    .done (s1.addPend { matrixPend c x held .none s1.nextId with kind := .omrel c.W.core l }).2
def execOmrel (w : ExtWord) (s : State) : Host.Outcome State Fault Refusal := issue (.omrel w) (gather (.omrel w) w (omrelBody w)) s

/-- The registers that a row-wise instruction reads, captured by lane and register. -/
def captured (c : Ctx) (x : ExtWord) (srcs : List Src) (rows : Mask) : Tbl Word :=
  rows.lanes.foldl (fun t l => ((c.values x srcs l).1.zipIdx).foldl (fun t v => Tbl.put t (64 * l + v.2) v.1) t) []

/-- Read vector sources under R178: the trap, or the state with the flags of conversions. -/
def Ctx.rowSources (c : Ctx) (x : ExtWord) (srcs : List Src) (rows : Mask) (s : State) : Except Trap State :=
  match c.tagTrap rows.lanes srcs with
  | some t => .error { t with lanes := none }
  | none =>
    let fl (l : Nat) : FFlags := (c.values x srcs l).2
    match c.fpTrap rows.lanes fl with
    | some t => .error t
    | none => .ok (c.setFlags rows.lanes fl s)

/-- A row-wise instruction that no lane takes part in has no effect, and its token completes at issue (R27). -/
def Ctx.rowWise (c : Ctx) (x : ExtWord) (s : State) (r : Unit → Res) : Res := if c.part x = 0 then .done s else r ()

def omfillBody (x : ExtWord) (c : Ctx) (s : State) : Res :=
  c.rowWise x s fun _ =>
  match slotOperand c x x.b with
  | .error t => .trap t
  | .ok k =>
    let rows := c.part x
    let srcs := srcRow 1 x.a (x.sub.toNat + 1) x.tag
    match c.rowSources x srcs rows s with
    | .error t => .trap t
    | .ok s1 => c.queue (.omfill x) x { soloEntry c (.omfill x) x 2 [k] 0 with data := captured c x srcs rows } (heldLanes c.W c.F) .none s1
def execOmfill (w : ExtWord) (s : State) : Host.Outcome State Fault Refusal := issue (.omfill w) (gather (.omfill w) w (omfillBody w)) s

/-- Queue an entry that must not read poison: it waits for earlier entries that touch what it reads, then the test is made (R261). -/
def Ctx.queueClean (c : Ctx) (i : Instr) (x : ExtWord) (e : MatrixEntry) (lanes : Mask) (dst : Dest) (s : State) : Res :=
  if s.orderWaits e then .unselect
  else
    match s.entryPoison c c.T e with
    | some t => .trap t
    | none => c.queue i x e lanes dst s

def omreadBody (x : ExtWord) (c : Ctx) (s : State) : Res :=
  c.rowWise x s fun _ =>
  match slotOperand c x x.b with
  | .error t => .trap t
  | .ok k => c.queueClean (.omread x) x (soloEntry c (.omread x) x 2 [k] 0) (c.part x) (.vec x.d.num.toNat (x.sub.toNat + 1)) s
def execOmread (w : ExtWord) (s : State) : Host.Outcome State Fault Refusal := issue (.omread w) (gather (.omread w) w (omreadBody w)) s

/-! ## Accumulators at issue (R257 to R259) -/

/-- A region instruction of one wave that reads no register. -/
def regionBody (i : Instr) (x : ExtWord) (clean : Bool) (lanes : Ctx → Mask) (dst : Dest) (c : Ctx) (s : State) : Res :=
  c.rowWise x s fun _ =>
  match regionOperand c x x.c with
  | .error t => .trap t
  | .ok r =>
    let e := soloEntry c i x (contextOf r) [] r
    if clean then c.queueClean i x e (lanes c) dst s else c.queue i x e (lanes c) dst s

def execAccz (w : ExtWord) (s : State) : Host.Outcome State Fault Refusal :=
  issue (.accz w) (gather (.accz w) w (regionBody (.accz w) w false (fun c => heldLanes c.W c.F) .none)) s
def execAccrd (w : ExtWord) (s : State) : Host.Outcome State Fault Refusal :=
  issue (.accrd w) (gather (.accrd w) w (regionBody (.accrd w) w true (fun c => c.part w) (.vec w.d.num.toNat (accRegs w.tag w.x.toNat)))) s
def execAccred (w : ExtWord) (s : State) : Host.Outcome State Fault Refusal :=
  issue (.accred w) (gather (.accred w) w (regionBody (.accred w) w true (fun c => c.part w) (.vec w.d.num.toNat 1))) s

/-- ACCWR and ACCSC read their registers as they enter the matrix order. -/
def regionSrcBody (i : Instr) (x : ExtWord) (srcs : List Src) (c : Ctx) (s : State) : Res :=
  c.rowWise x s fun _ =>
  match regionOperand c x x.c with
  | .error t => .trap t
  | .ok r =>
    let rows := c.part x
    match c.rowSources x srcs rows s with
    | .error t => .trap t
    | .ok s1 => c.queue i x { soloEntry c i x (contextOf r) [] r with data := captured c x srcs rows } (heldLanes c.W c.F) .none s1

def execAccwr (w : ExtWord) (s : State) : Host.Outcome State Fault Refusal :=
  issue (.accwr w) (gather (.accwr w) w (regionSrcBody (.accwr w) w (srcRow 1 w.a (accRegs w.tag w.x.toNat) w.tag))) s
def execAccsc (w : ExtWord) (s : State) : Host.Outcome State Fault Refusal :=
  issue (.accsc w) (gather (.accsc w) w (regionSrcBody (.accsc w) w [src 1 w.a 6])) s

/-- Bytes of a row that ACCST stores (R258). -/
def accstBytes (x : ExtWord) : Nat := (quarterCols (x.sub &&& 7).toNat).2 * (tagWidth x.tag / 8)

/-- The checks of a row's address: alignment, then every aligned 16-byte unit. -/
def State.accstRow (s : State) (c : Ctx) (x : ExtWord) (l : Nat) : Except LaneFault LaneAcc :=
  let va := c.addr x true l
  let n := accstBytes x
  if va.toNat % 16 != 0 then .error ⟨xfault 0x05 0x03, va⟩
  else if x.sub.getLsbD 3 then
    match scratchFault c.T va n false with
    | some e => .error ⟨e, va⟩
    | none => .ok ⟨l, va, [⟨.scratch, va.toNat, n, 0⟩], [], 0, 0⟩
  else
    match (List.range (n / 16)).mapM (fun k => s.access (.core c.W.core) c.T.asid c.T.table (va + BitVec.ofNat 64 (16 * k)) 16 .write .none) with
    | .error e => .error e
    | .ok ps => .ok ⟨l, va, ps.flatten, [], 0, 0⟩

/-- A row's units that miss and cannot be walked at once (R86). -/
def State.accstWalks (s : State) (c : Ctx) (x : ExtWord) : List Word :=
  if x.sub.getLsbD 3 then []
  else c.walkWaits s ((c.part x).lanes.flatMap (fun l => (List.range (accstBytes x / 16)).map (fun k => c.addr x true l + BitVec.ofNat 64 (16 * k)))) 16

def accstBody (x : ExtWord) (c : Ctx) (s : State) : Res :=
  c.rowWise x s fun _ =>
  match regionOperand c x x.d, s.accstWalks c x with
  | .error t, _ => .trap t
  | .ok _, va :: _ => .keep (s.awaitWalk c.W.core c.T.asid c.T.table va)
  | .ok r, [] =>
    let rows := (c.part x).lanes
    let rs := rows.map (fun l => (l, s.accstRow c x l))
    let bad := rs.filterMap (fun q => match q.2 with | .error e => some (q.1, e) | .ok _ => none)
    if !bad.isEmpty then
      match c.faultRes s 1 bad false with
      | .trap t => .trap { t with lanes := none }
      | q => q
    else
      let accs := rs.filterMap (fun q => match q.2 with | .ok a => some a | .error _ => none)
      let s1 := if x.sub.getLsbD 3 then s else accs.foldl (fun s a => s.fillAccess (.core c.W.core) c.T.asid c.T.table a.va 16) s
      match c.queueClean (.accst x) x { soloEntry c (.accst x) x (contextOf r) [] r with accs := accs } (heldLanes c.W c.F) .none s1 with
      | .done s2 => .done (((s2.adjFrag c.f (fun F => F.mark x.tok.toNat)).traceAccess c 4 (c.part x) (accs.map (fun a => (a.lane, a.va)))).watch c.t c.f
          true (accstBytes x) (accs.map LaneAcc.va))
      | q => q
def execAccst (w : ExtWord) (s : State) : Host.Outcome State Fault Refusal := issue (.accst w) (gather (.accst w) w (accstBody w)) s

/-! ## The clasp (R246, R247) -/

/-- The waves that a GANG register names, by their index in the team; the issuing wave alone where it names none. -/
def gangOf (gang : Word) (self : Nat) : List Nat :=
  let l := ((List.range 4).map (fun k => (gang.extractLsb' (16 * k) 16).toNat)).filter (· != 0xFFFF)
  if l.isEmpty then [self] else l.eraseDups

/-- The wave of a team with an index, while it lives. -/
def State.waveAt (s : State) (t idx : Nat) : Option (Nat × Wave) := (s.wavesOf t).find? (fun e => e.2.idx == idx && e.2.live != 0)

/-- Gang Mismatch (R247). -/
def gangMismatch (sub wave : Nat) (lanes : Mask) : Trap := ⟨0x0B, tvalSub sub (wave % 2 ^ 16), lanes, none, false, []⟩

/-- The first entry of a gang that names no live wave of the team on the core; 0x01 as well where the issuing wave is missing. -/
def State.gangFault (s : State) (c : Ctx) : Option Nat :=
  let g := gangOf c.F.gang c.W.idx
  if !g.contains c.W.idx then some (g.headD 0)
  else g.find? (fun i => match s.waveAt c.t i with | some (_, W) => W.core != c.W.core | none => true)

/-- The class-1 values of an instruction. -/
def gangVals (c : Ctx) (x : ExtWord) : List Word := ([x.a, x.b, x.c].filter (fun o => o.cls == .scal)).map (fun o => c.F.scalar o.num.toNat)

/-- Every member of a rendezvous takes a trap, and the rendezvous goes. -/
def State.breakClasp (s : State) (id : Nat) (k : Clasp) (extra : List (Nat × Nat)) (t : Frag → Trap) : State :=
  let s1 := { s with mx := { s.mx with clasps := Tbl.drop s.mx.clasps id } }
  (k.arrived ++ extra).foldl (fun s m => match s.frag? m.2 with
    | some F => s.takeTrap m.2 (t F) F.pc
    | none => s) s1

/-- What a rendezvous whose members are all there finds: the entry to accept, nothing to do, a trap of every member,
or a wait. -/
inductive Closing where
  | enter (e : MatrixEntry)
  | pass
  | trap (t : Trap)
  | wait
deriving DecidableEq, Repr

/-- The slots and the region of an MMA or MMAS, as the row wave sees them. -/
def mmaOperands (c : Ctx) (x : ExtWord) : Except Trap (Nat × Nat × Nat) :=
  match slotOperand c x x.a, slotOperand c x x.b, regionOperand c x x.c with
  | .ok a, .ok b, .ok r => .ok (a, b, r)
  | .error t, _, _ => .error t
  | _, .error t, _ => .error t
  | _, _, .error t => .error t

/-- An earlier unfinished entry may still change the poison that the new one would read: it clears some that stands there, or it is a product
whose slots are poisoned, or may become so by a command into the team's operand memory (R261). -/
def State.poisonOpen (s : State) (c : Ctx) (e : MatrixEntry) : Bool :=
  (s.openEntries e.team e.core).any (fun f => f.2.conflicts e &&
    ((s.entryPoison c c.T e).isSome || (match f.2.instr with
      | .mma _ => f.2.reads.any (fun n => n < 100000 && (c.T.omAt (coreIndex c.T e.core)).poison.contains n) || s.eng.cmds.any (fun k => k.2.dst == 2 && k.2.to_.contains c.t)
      | .mmas _ => f.2.reads.any (fun n => n < 100000 && (c.T.omAt (coreIndex c.T e.core)).poison.contains n) || s.eng.cmds.any (fun k => k.2.dst == 2 && k.2.to_.contains c.t)
      | _ => false)))

/-- The order of the checks at closing (R260, R261, R249). No lane of the row wave that takes part makes no entry (R27). -/
def State.closing (s : State) (c : Ctx) (k : Clasp) (x : ExtWord) : Closing :=
  if c.part x = 0 then .pass
  else
    match mmaOperands c x with
    | .error t => .trap t
    | .ok (a, b, r) =>
      let e := { soloEntry c k.instr x (contextOf r) [a, b] r with first := k.first }
      if s.poisonOpen c e then .wait
      else
        match s.entryPoison c c.T e with
        | some t => .trap t
        | none => if s.contextRoom c.W.core e.ctx then .enter e else .wait

/-- A member passes its instruction: its token counts the operation, if there is one. -/
def State.passMember (s : State) (i : Instr) (x : ExtWord) (m : Nat × Nat) (len : Nat) (counts : Bool) : List Nat × State :=
  match s.ctxOf m.2 i with
  | none => ([], s)
  | some c =>
    let go (s : State) : State :=
      let s1 := s.adjFrag m.2 (fun F => { F.pass len with meet := none })
      if s.cur = some m.2 then s1.adjFrag m.2 (fun F => { F with fstate := .running }) else s1.readyNow m.2
    if counts then
      let p := s.addPend (matrixPend c x (heldLanes c.W c.F) .none s.nextId)
      ([p.1], (go p.2).holdFor c i p.1)
    else ([], go s)

/-- The members of a rendezvous go on, and it closes; the outstanding instructions that count the operation. -/
def State.passClasp (s : State) (id : Nat) (k : Clasp) (x : ExtWord) (len : Nat) (counts : Bool) : List Nat × State :=
  let r := k.arrived.foldl (fun (st : List Nat × State) m => let q := st.2.passMember k.instr x m len counts; (st.1 ++ q.1, q.2)) ([], s)
  (r.1, { r.2 with mx := { r.2.mx with clasps := Tbl.drop r.2.mx.clasps id } })

/-- The wave index of a wave. -/
def State.indexOf (s : State) (w : Nat) : Nat := match s.wave? w with | some W => W.idx | none => 0

/-- A member of the gang with a wave index waits at the rendezvous (R246, R354). -/
def State.claspHas (s : State) (k : Clasp) (idx : Nat) : Bool :=
  k.arrived.any (fun m => s.indexOf m.1 == idx && (match s.frag? m.2 with | some F => F.fstate == .meeting | none => false))

/-- A rendezvous whose members are all there closes, unless it has to wait. The liners compare or vote the gang's one operation (R262). -/
def State.closeFull (s : State) (id : Nat) (k : Clasp) (gang : List Nat) : State :=
  match k.arrived.find? (fun m => s.indexOf m.1 == gang.foldl min 0xFFFF), extWord k.instr with
  | some row, some x =>
    (match s.ctxOf row.2 k.instr with
     | none => s
     | some c =>
       match s.closing c k x with
       | .wait => s
       | .pass => (s.passClasp id k x c.len false).2
       | .trap t => s.breakClasp id k [] (fun F => { t with mask := F.active })
       | .enter e =>
         match c.struckAt k.cls c.F.active s with
         | .error t => (struck c k.instr t s).breakClasp id k [] (fun F => { t with mask := if t.mask &&& F.active = 0 then F.active else t.mask &&& F.active })
         | .ok s1 =>
           let r := s1.passClasp id k x c.len true
           r.2.enter { e with pends := r.1 })
  | _, _ => s

/-- The clasp closes when every member has arrived, unless the closing has to wait; a member that ended before it arrived breaks it. Nothing
happens while the team is not on its cores (R263, R354). -/
def State.closeClasp (s : State) (id : Nat) : State :=
  match Tbl.find s.mx.clasps id with
  | none => s
  | some k =>
    if !s.resides k.team k.core then s
    else
      let gang := gangOf k.gang (match k.arrived with | m :: _ => s.indexOf m.1 | [] => 0)
      match gang.find? (fun i => !s.claspHas k i && (s.waveAt k.team i).isNone) with
      | some i => s.breakClasp id k [] (fun F => gangMismatch 3 i F.active)
      | none => if k.opened && gang.all (s.claspHas k) then s.closeFull id k gang else s

/-- Rendezvous of a core that are open, of the teams whose context stands there (R246, R263). -/
def State.openClasps (s : State) (core : Nat) : Nat :=
  (s.mx.clasps.filter (fun e => e.2.core == core && e.2.opened && s.onCores e.2.team)).length

/-- MMA and MMAS at issue: the fragment arrives at the clasp (R246). A wave of its own whose lanes all take no part has nothing to wait for
(R27). -/
def mmaBody (i : Instr) (x : ExtWord) (c : Ctx) (s : State) : Res :=
  if c.part x = 0 && gangOf c.F.gang c.W.idx == [c.W.idx] then .done s
  else
  let vals := gangVals c x
  let cls := classOf c.F.mode (pclOf i)
  let at_ := s.adjFrag c.f (fun F => { F with fstate := .meeting, meet := some ⟨.clasp, 0, 0, none, c.len, false⟩ })
  let joins (k : Clasp) : Bool :=
    k.core == c.W.core && k.team == c.t && k.arrived.all (fun m => m.1 != c.w) &&
    (match k.arrived with | (w, _) :: _ => (match s.wave? w with | some W => (gangOf k.gang W.idx).contains c.W.idx | none => false) | [] => false)
  match s.mx.clasps.find? (fun e => joins e.2) with
  | some (id, k) =>
    if k.instr = i && k.cls = cls && k.vals = vals && k.gang = c.F.gang then
      .keep (({ at_ with mx := { at_.mx with clasps := Tbl.put at_.mx.clasps id { k with arrived := k.arrived ++ [(c.w, c.f)] } } }).closeClasp id)
    else .keep (s.breakClasp id k [(c.w, c.f)] (fun F => gangMismatch 2 c.W.idx F.active))
  | none =>
    match s.gangFault c with
    | some n => .trap (gangMismatch 1 n c.F.active)
    | none =>
      if x.win && 1 < (gangOf c.F.gang c.W.idx).length then .trap (gangMismatch 4 c.W.idx c.F.active)
      else
        let k : Clasp := { core := c.W.core, team := c.t, gang := c.F.gang, instr := i, cls := cls, vals := vals, arrived := [(c.w, c.f)]
                           opened := s.openClasps c.W.core < 16, first := !c.lateWindow x }
        .keep (({ at_ with mx := { at_.mx with clasps := Tbl.put at_.mx.clasps at_.nextId k }, nextId := at_.nextId + 1 }).closeClasp at_.nextId)

def execMma (w : ExtWord) (s : State) : Host.Outcome State Fault Refusal := issue (.mma w) (gather (.mma w) w (mmaBody (.mma w) w)) s
def execMmas (w : ExtWord) (s : State) : Host.Outcome State Fault Refusal := issue (.mmas w) (gather (.mmas w) w (mmaBody (.mmas w) w)) s

/-- Freed rendezvous go to first arrivals in the order in which they arrived; every open one closes if it can. -/
def State.serveClasps (s : State) : State :=
  let s1 := s.mx.clasps.foldl (fun s e => match Tbl.find s.mx.clasps e.1 with
    | some k => if !k.opened && s.resides k.team k.core && s.openClasps k.core < 16 then { s with mx := { s.mx with clasps := Tbl.put s.mx.clasps e.1 { k with opened := true } } } else s
    | none => s) s
  s1.mx.clasps.foldl (fun s e => s.closeClasp e.1) s1

/-! ## Arithmetic (R239, R250, R251) -/

def nan32 : BitVec 32 := 0x7FC00000

/-- The exact value of bits in a matrix format. -/
def matrixVal (fmt bits : Nat) : Val := (fmtAt fmt).decode (bits % 2 ^ (fmtAt fmt).bits)

/-- Element (r, k) of a slot (R239). -/
def slotElem (o : OperandMem) (slot fmt r k : Nat) : Nat :=
  let byte (a : Nat) : Nat := (Tbl.get (0 : Byte) o.bytes (slot * 8704 + a)).toNat
  if fmt = 7 || fmt = 8 then byte (128 * r + 2 * k) + 256 * byte (128 * r + 2 * k + 1)
  else if fmt = 11 then byte (128 * r + k / 2) / 16 ^ (k % 2) % 16
  else byte (128 * r + k)

/-- The scale byte of a row's block. -/
def sideByte (o : OperandMem) (slot r b : Nat) : Nat := (Tbl.get (0 : Byte) o.bytes (slot * 8704 + 8192 + 8 * r + b)).toNat

/-- The value of an element, scaled where the instruction scales. -/
def operandVal (o : OperandMem) (slot fmt : Nat) (scaled : Bool) (r k : Nat) : Val :=
  let v := matrixVal fmt (slotElem o slot fmt r k)
  if !scaled then v
  else
    match scaleExp (sideByte o slot r (k / 32)) with
    | none => .nan false false 0
    | some e => v.scale e

/-- GroupSum (R251): one exact sum, rounded once. -/
def groupSum (c : BitVec 32) (ps : List Exact) : BitVec 32 :=
  let cv := fmtF32.decode c.toNat
  let terms := .val cv :: ps
  if terms.any (fun t => match t with | .val v => v.isNan | _ => true) then nan32
  else
    let vs := terms.filterMap (fun t => match t with | .val v => some v | _ => none)
    match vs.contains (.inf true), vs.contains (.inf false) with
    | true, true => nan32
    | true, false => BitVec.ofNat 32 (fmtF32.withSign true fmtF32.infBits)
    | false, true => BitVec.ofNat 32 fmtF32.infBits
    | false, false =>
      let z := sumNums vs
      if z.isZero then 0 else BitVec.ofNat 32 (fmtF32.convert false 0 false 0 z).1

/-- K of a format, and the group's size (R250). -/
def matrixK (fmt : Nat) : Nat := if fmt = 7 || fmt = 8 then 64 else if fmt = 11 then 256 else 128
def groupSize (scaled : Bool) : Nat := if scaled then 32 else 16

/-- One element of the product: the integer form, or the groups in order. -/
def mmaElem (o : OperandMem) (x : ExtWord) (scaled : Bool) (a b : Nat) (on : Bool) (c : BitVec 32) (i j : Nat) : BitVec 32 :=
  let fa := x.tag
  let fb := if x.sub = 0 then fa else x.sub.toNat
  let n := matrixK fa
  if fa = 4 then
    if on then
      let v (slot r k : Nat) (sg : Bool) : Int := let u := slotElem o slot 4 r k; if sg then toSigned 8 u else u
      c + BitVec.ofInt 32 ((List.range n).foldl (fun z k => z + v a i k (x.mod.getLsbD 0) * v b j k (x.mod.getLsbD 1)) (0 : Int))
    else c
  else
    let g := groupSize scaled
    (List.range (n / g)).foldl (fun c k =>
      groupSum c (if on then (List.range g).map (fun m => mulVal (operandVal o a fa scaled i (k * g + m)) (operandVal o b fb scaled j (k * g + m)))
                  else [])) c

/-- The sectors of operand memory from which a row's products come. -/
def mmaSectors (scaled : Bool) (a b i : Nat) : List Nat :=
  (List.range 4).map (fun k => a * 272 + 4 * i + k) ++ slotSectors b ++ (if scaled then (a * 272 + 256 + i / 4) :: sideSectors b else [])

/-- MMA and MMAS on a region (R251). Off rows are touched by a first window only (R264); rows whose operands were poisoned late carry POISON
and unspecified values (R261). -/
def mmaRegion (o : OperandMem) (e : MatrixEntry) (scaled : Bool) (free : Nat) (m : AccMem) : AccMem :=
  let x := e.word
  let za := x.mod.getLsbD 2
  let a := e.slots.getD 0 0
  let b := e.slots.getD 1 0
  (List.range 64).foldl (fun m i =>
    let on := e.rows.has i
    if !on && !e.first then m
    else
      let spoiled := on && (mmaSectors scaled a b i).any o.poison.contains
      let old := m
      let m1 := m.setRow e.region i (fun j =>
        if spoiled then (Config.freeWord (free + 64 * i + j)).extractLsb' 0 32
        else mmaElem o x scaled a b on (if za then 0 else old.word e.region i j) i j)
      if spoiled then m1.setBad e.region i true else if on && za then m1.setBad e.region i false else m1) m

/-! ## Row-wise operations (R256 to R259) -/

/-- Widen a binary16 or bfloat16 exactly; a NaN keeps its sign and its top bits, quieted (R257). -/
def widen32 (fmt bits : Nat) : BitVec 32 :=
  let f := fmtAt fmt
  match f.decode bits with
  | .nan s _ p => BitVec.ofNat 32 (fmtF32.withSign s (fmtF32.infBits + (p / 2 ^ 29 ||| 2 ^ 22)))
  | v => BitVec.ofNat 32 (fmtF32.convert false 0 false 0 v).1

/-- An element of ACCRD, with its flags. -/
def accElem (x : ExtWord) (v : BitVec 32) : Nat × FFlags :=
  if x.tag = 2 || x.tag = 6 then (v.toNat, 0) else (fmtAt x.tag).convert false x.rnd.toNat x.sat 0 (fmtF32.decode v.toNat)

/-- The registers of a row that ACCRD writes. -/
def accrdRow (m : AccMem) (x : ExtWord) (r i : Nat) : List Word × FFlags :=
  let q := quarterCols x.x.toNat
  let n := tagCount x.tag
  let el (k e : Nat) : Nat × FFlags := accElem x (m.word r i (q.1 + n * k + e))
  ((List.range (q.2 / n)).map (fun k => packWith (tagWidth x.tag) (fun e => (el k e).1)),
   (List.range (q.2 / n)).foldl (fun fl k => (List.range n).foldl (fun fl e => fl ||| (el k e).2) fl) 0)

/-- The bytes of a row that ACCST stores. -/
def accstRowBytes (m : AccMem) (x : ExtWord) (r i : Nat) : List Byte × FFlags :=
  let q := quarterCols (x.sub &&& 7).toNat
  let es := (List.range q.2).map (fun k => accElem x (m.word r i (q.1 + k)))
  (es.flatMap (fun e => natBytes (tagWidth x.tag / 8) e.1), es.foldl (fun fl e => fl ||| e.2) 0)

/-- ACCSC's product: rounded once, a zero of either sign as +0. -/
def accScale (v f : BitVec 32) : BitVec 32 :=
  match mulVal (fmtF32.decode v.toNat) (fmtF32.decode f.toNat) with
  | .val z => if z.isNan then nan32 else if z.isZero then 0 else
      let r := BitVec.ofNat 32 (fmtF32.convert false 0 false 0 z).1
      r
  | _ => nan32

/-- ACCRED over some words. -/
def accReduce (x : ExtWord) (vs : List (BitVec 32)) : BitVec 32 :=
  let op := (x.sub &&& 3).toNat
  if x.tag = 2 then
    if op = 0 then vs.foldl (· + ·) 0
    else
      let z := vs.map BitVec.toInt
      BitVec.ofInt 32 (z.foldl (fun a b => if op = 1 then max a b else min a b) (z.headD 0))
  else if op = 0 then groupSum 0 (vs.map (fun v => .val (fmtF32.decode v.toNat)))
  else
    let fs := vs.map (fun v => fmtF32.decode v.toNat)
    if fs.any Val.isNan then nan32
    else BitVec.ofNat 32 (fmtF32.convert false 0 false 0 (fs.foldl (minMaxVal (op == 1) false) (fs.headD (.num false 0 0)))).1

/-- Every fragment of the wave that holds a lane of the issuing one gains flags. -/
def State.orFlags (s : State) (w : Nat) (lanes : Mask) (fl : FFlags) : State :=
  match s.wave? w with
  | none => s
  | some W => { s with frags := List.map (fun e => if e.2.wave == w && (heldLanes W e.2 &&& lanes) != 0
                                                   then (e.1, { e.2 with mode := modeOrFlags e.2.mode fl }) else e) s.frags }

/-- A column of ACCSC's factor: element e of the captured register. -/
def factorOf (e : MatrixEntry) (i : Nat) : BitVec 32 := BitVec.ofNat 32 (elem 32 (Tbl.get 0 e.data (64 * i)) (if e.word.x.getLsbD 0 then 1 else 0))

/-- What an entry does to its team: slots and regions. -/
def MatrixEntry.onTeam (e : MatrixEntry) (free : Nat) (T : Team) : Team :=
  let x := e.word
  let k := coreIndex T e.core
  let rows := e.rows.lanes
  let slot := e.slots.headD 0
  match e.instr with
  | .omfill _ =>
    let cells := rows.flatMap (fun i => (List.range (x.sub.toNat + 1)).flatMap (fun r =>
      let o := if x.mod.getLsbD 0 then 8192 + 8 * i else 128 * i + 8 * (x.x.toNat + r)
      cellsAt (slot * 8704 + o) (natBytes 8 (Tbl.get 0 e.data (64 * i + r)).toNat)))
    T.adjOm k (fun o => o.write cells [])
  | .mma _ => T.adjAcc k (mmaRegion (T.omAt k) e false free)
  | .mmas _ => T.adjAcc k (mmaRegion (T.omAt k) e true free)
  | .accz _ => T.adjAcc k (fun m => rows.foldl (fun m i => (m.setRow e.region i (fun _ => 0)).setBad e.region i false) m)
  | .accwr _ =>
    let q := quarterCols x.x.toNat
    let n := tagCount x.tag
    let el (i c : Nat) : BitVec 32 :=
      let b := elem (tagWidth x.tag) (Tbl.get 0 e.data (64 * i + c / n)) (c % n)
      if x.tag = 2 || x.tag = 6 then BitVec.ofNat 32 b else widen32 x.tag b
    T.adjAcc k (fun m => rows.foldl (fun m i =>
      let m1 := (List.range q.2).foldl (fun m c => m.setWord e.region i (q.1 + c) (el i c)) m
      if x.x = 0 then m1.setBad e.region i false else m1) m)
  | .accsc _ => T.adjAcc k (fun m => rows.foldl (fun m i => let old := m; m.setRow e.region i (fun j => accScale (old.word e.region i j) (factorOf e i))) m)
  | _ => T

/-- The registers that an entry writes: lane, register, value with its tag; and the flags. -/
def MatrixEntry.results (e : MatrixEntry) (T : Team) (W : Wave) : List (Nat × Nat × VReg) × FFlags :=
  let x := e.word
  let k := coreIndex T e.core
  let m := T.accAt k
  let d := x.d.num.toNat
  e.rows.lanes.foldl (fun r i =>
    match e.instr with
    | .omread _ =>
      let slot := e.slots.headD 0
      let v (n : Nat) : Word :=
        BitVec.ofNat 64 (readNat (T.omAt k).bytes (slot * 8704 + (if x.mod.getLsbD 0 then 8192 + 8 * i else 128 * i + 8 * (x.x.toNat + n))) 8)
      (r.1 ++ (List.range (x.sub.toNat + 1)).map (fun n => (i, d + n, (⟨v n, x.fmt⟩ : VReg))), r.2)
    | .accrd _ =>
      let q := accrdRow m x e.region i
      (r.1 ++ q.1.zipIdx.map (fun v => (i, d + v.2, (⟨v.1, x.fmt⟩ : VReg))), r.2 ||| q.2)
    | .accred _ =>
      let q := quarterCols (x.x &&& 7).toNat
      let v := accReduce x ((List.range q.2).map (fun c => m.word e.region i (q.1 + c)))
      let old := (W.reg i d).val
      let el := if x.x.getLsbD 3 then 1 else 0
      (r.1 ++ [(i, d, ⟨packWith 32 (fun n => if n = el then v.toNat else elem 32 old n), x.fmt⟩)], r.2)
    | _ => r) ([], 0)

/-! ## The writes of ACCST (R258) -/

/-- The bytes of ACCST in one piece of a row. -/
def accstCells (bytes : List Byte) (ps : List Piece) : List (Piece × List Byte) :=
  (ps.foldl (fun (st : Nat × List (Piece × List Byte)) p => (st.1 + p.len, st.2 ++ [(p, (bytes.drop st.1).take p.len)])) (0, [])).2

/-- Send the rows of ACCST: into the scratchpad at once, on the way to memory otherwise. -/
def State.sendRows (s : State) (e : MatrixEntry) (T : Team) : State × List Nat :=
  let m := T.accAt (coreIndex T e.core)
  let parts := e.accs.flatMap (fun a => (accstCells (accstRowBytes m e.word e.region a.lane).1 a.pieces).map (fun p => (a, p)))
  if e.word.sub.getLsbD 3 then
    (s.adjTeam e.team (fun T => parts.foldl (fun T p =>
      let cells := cellsAt p.2.1.addr p.2.2
      { T with scratch := writeCells T.scratch cells, spoison := poisonAfter T.spoison cells [] }) T), [])
  else
    let loc := parts.filter (fun p => !p.2.1.away)
    let away := parts.filter (fun p => p.2.1.away)
    let lines := (loc.map (fun p => p.2.1.addr / 128)).eraseDups
    let die := dieOf e.core
    let mk (region : Region) (line : Nat) (cells : List (Nat × Byte)) (uc : Bool) : WriteRec :=
      { source := .op (e.pends.headD 0), die := die, core := e.core, region := region, line := line, cells := cells, bad := [], op := .st, steps := []
        release := false, scope := 4, accepted := false, invals := [], acks := [], uc := uc }
    let r1 := lines.foldl (fun (st : State × List Nat) line =>
      let mine := loc.filter (fun p => p.2.1.addr / 128 == line)
      let secs := (mine.map (fun p => p.2.1.addr / 32)).eraseDups
      let s1 := st.1.rdcDropSectors die (secs.filter (fun z => homeOf (32 * z) != die))
      let r := s1.putWrite (mk .loc line (mine.flatMap (fun p => cellsAt p.2.1.addr p.2.2)) (mine.any (fun p => p.2.1.mt == 2)))
      (r.2, st.2 ++ [r.1])) (s, [])
    away.foldl (fun (st : State × List Nat) p =>
      let r := st.1.putWrite (mk p.2.1.region (p.2.1.addr / 128) [] true)
      (r.2.sendRemote none (some r.1) p.1.lane p.1.va p.2.1.region p.2.1.addr (.write (cellsAt 0 p.2.2)), st.2 ++ [r.1])) r1

/-! ## Starting and completing (R248, R249) -/

/-- Entries of a context that are queued, oldest first. -/
def State.queuedEntries (s : State) (core ctx : Nat) : List (Nat × MatrixEntry) :=
  s.mx.entries.filter (fun e => e.2.core == core && e.2.ctx == ctx && !e.2.started)

/-- The oldest queued entry of a context may start: nothing of the context is on the array. -/
def State.startableEntry (s : State) (core ctx : Nat) : Option (Nat × MatrixEntry) :=
  if s.mx.entries.any (fun e => e.2.core == core && e.2.ctx == ctx && e.2.started && !e.2.written) then none else (s.queuedEntries core ctx).head?

/-- MATRIX_OP_START: a context starts its oldest queued operation, in a clock that the throttle leaves it (R450); where both contexts could,
the array alternates. -/
def State.matrixStart (s : State) (core ctx : Nat) : State :=
  if 2 ≤ ctx || !s.startClock core then s
  else
    match s.startableEntry core ctx with
    | none => s
    | some (id, e) =>
      if (s.startableEntry core (1 - ctx)).isSome && Tbl.get 2 s.mx.last core = ctx then s
      else { s with mx := { s.mx with entries := Tbl.put s.mx.entries id { e with started := true }, last := Tbl.set 2 s.mx.last core ctx } }

def execMatrixOpStart (core context : Nat) (s : State) : Host.Outcome State Fault Refusal := .next (s.matrixStart core context)

/-- The first started entry of a context with which no earlier unfinished entry conflicts. -/
def State.completable (s : State) (core ctx : Nat) : Option (Nat × MatrixEntry) :=
  s.mx.entries.find? (fun e => e.2.core == core && e.2.ctx == ctx && e.2.started && !e.2.written &&
    !(s.openEntries e.2.team core).any (fun f => f.1 < e.1 && f.2.conflicts e.2))

/-- The instructions of an entry are complete, and it leaves the list. -/
def State.finishEntry (s : State) (id : Nat) (e : MatrixEntry) : State :=
  e.pends.foldl (fun s p => s.completeAll p) { s with mx := { s.mx with entries := Tbl.drop s.mx.entries id } }

/-- MATRIX_OP_COMPLETE: an entry has its effect on slots, regions, registers or memory. -/
def State.matrixComplete (s : State) (core ctx : Nat) : State :=
  match s.completable core ctx with
  | none => s
  | some (id, e) =>
    match s.team? e.team, s.wave? e.wave with
    | some T, some W =>
      let live := match e.pends.head? with | some p => ((Tbl.find s.pend p).map Pend.lanes).getD 0 | none => 0
      let rs := e.results T W
      let s1 := { s with free := s.free + 4096 }.adjTeam e.team (e.onTeam s.free)
      let s2 := (rs.1.filter (fun r => live.has r.1)).foldl (fun s r => s.setReg e.wave r.1 r.2.1 r.2.2) s1
      let own := match e.pends.head? with | some p => ((Tbl.find s.pend p).map Pend.own).getD 0 | none => 0
      let s3 := if rs.2 = 0 then s2 else s2.orFlags e.wave own rs.2
      if e.isStore then
        let fl := (e.rows.lanes.foldl (fun fl i => fl ||| (accstRowBytes (T.accAt (coreIndex T e.core)) e.word e.region i).2) (0 : FFlags))
        let r := (if fl = 0 then s3 else s3.orFlags e.wave own fl).sendRows e T
        if r.2.isEmpty then r.1.finishEntry id e
        else { r.1 with mx := { r.1.mx with entries := Tbl.put r.1.mx.entries id { e with written := true, writes := r.2 } } }
      else s3.finishEntry id e
    | _, _ => s.finishEntry id e

def execMatrixOpComplete (core context : Nat) (s : State) : Host.Outcome State Fault Refusal := .next (s.matrixComplete core context)

/-- The requests beyond the device that have ended take their writes with them; a failure is recorded against the wave, as that of a store
(R258, R325). -/
def State.rowsAnswered (s : State) (e : MatrixEntry) : State :=
  s.path.remote.foldl (fun s q =>
    match q.2.write, q.2.result with
    | some w, some r =>
      if !e.writes.contains w then s
      else
        let s1 := s.awayDone q.1 q.2
        (match r with
         | .ok _ _ => s1
         | r => s1.adjWave e.wave (fun W => { W with failed := W.failed ++ [⟨W.live, q.2.va, r == .indeterminate⟩] }))
    | _, _ => s) s

/-- Entries of ACCST whose bytes have all reached globally-visible are complete (R258). -/
def State.settleRows (s : State) : State :=
  s.mx.entries.foldl (fun s e =>
    if !e.2.written then s
    else
      let s1 := s.rowsAnswered e.2
      if e.2.writes.any (fun w => (Tbl.find s1.path.writes w).isSome) then s1 else s1.finishEntry e.1 e.2) s

end Sys2Proof.Machine
end

