-- ==== Sys2Proof/Machine/Units.lean ====
section
/-! DEFINITION. Machine/Units.lean: how a die's units (optimiser, ray unit, refit engine, rasteriser, graph walker) read and write memory
(R145, R149). -/

namespace Sys2Proof.Machine

/-- What a unit's access ends in: done, waiting, or a fault with its address. -/
inductive UnitAcc (α : Type) where
  | ok (s : State) (v : α)
  | wait (s : State)
  | fault (s : State) (x : XFault) (va : Word)

/-- A range cut where an address is a multiple of `g`. -/
def rangeRuns (g : Nat) : Nat → Word → Nat → List (Word × Nat)
  | 0, _, _ => []
  | fuel + 1, va, n =>
    let k := g - va.toNat % g
    if n = 0 then [] else if n ≤ k then [(va, n)] else (va, k) :: rangeRuns g fuel (va + BitVec.ofNat 64 k) (n - k)

/-- A range cut at sectors, as the loads of a core reach it (R93), and at lines, as the units do. -/
def cutRange (va : Word) (n : Nat) : List (Word × Nat) := rangeRuns 32 (n / 32 + 2) va n
def cutLines (va : Word) (n : Nat) : List (Word × Nat) := rangeRuns 128 (n / 128 + 2) va n

/-- A unit: who translates for it, its code in a HOSTFAULT event (R444), and the address space it works in. -/
structure UnitCtx where
  who   : Agent
  unit  : Nat
  asid  : Nat
  table : Nat
deriving DecidableEq, Repr

/-- The unit's code in the LOC of an error record (R411). -/
def UnitCtx.loc (u : UnitCtx) : Nat := match u.unit with | 0 => 3 | 4 => 4 | 5 => 9 | _ => 5

/-- Translate and check every part of a range (R145, R149); a walk that read a poisoned entry is recorded (R92). -/
def State.unitReach (s : State) (u : UnitCtx) (kind : Acc) (limit : Limit) (ps : List (Word × Nat)) : UnitAcc (List Piece) :=
  let rs := ps.map (fun p => (p.1, s.engineAccess u.who u.asid u.table u.unit p.1 p.2 kind limit))
  match rs.findSome? (fun r => match r.2 with | .fault x => some (x, r.1) | _ => none) with
  | some (x, va) => .fault (s.logWalk u.loc 0xFF u.who.die? ⟨x, va⟩) x va
  | none =>
    let ws := rs.filterMap (fun r => match r.2 with | .wait w => some w | _ => none)
    if ws.isEmpty then
      .ok (ps.foldl (fun s p => s.fillTlb u.who u.asid u.table p.1) s) (rs.flatMap (fun r => match r.2 with | .ok q => q | _ => []))
    else .wait (ws.foldl (fun s w => s.hostWait w) s)

/-- The result of a request that a unit has sent for a piece. -/
def State.unitAnswer (s : State) (id : Nat) (p : Piece) : Option RemoteReq :=
  s.path.remote.findSome? (fun (e : Nat × RemoteReq) =>
    if e.2.pend == some id && e.2.region == p.region && e.2.addr == p.addr && (match e.2.op with | .read n => n == p.len | _ => true) then some e.2
    else none)

/-- A write of a unit of the die to the line has not reached its home: the units' reads of the line follow it (R97). -/
def State.unitWriting (s : State) (die line : Nat) : Bool :=
  s.path.writes.any (fun e => e.2.region == .loc && e.2.line == line && !e.2.accepted && e.2.die == die && (match e.2.source with
    | .op _ => true | .optimiser _ => true | _ => false))

/-- The sub-code of a fault that a request's end stands for (R325). -/
def RemoteEnd.sub (e : RemoteEnd) : Nat := match e with | .indeterminate => 1 | _ => 2

/-- Read bytes for a unit: local sectors at their homes, the rest by requests that `id` names, one for each line. -/
def State.unitRead (s : State) (u : UnitCtx) (id : Nat) (va : Word) (n : Nat) : UnitAcc (List Byte × Bool) :=
  match s.unitReach u .read .none (cutLines va n) with
  | .fault s1 x a => .fault s1 x a
  | .wait s1 => .wait s1
  | .ok s1 ps =>
    let die := u.who.die?
    let away := (ps.zip (cutLines va n)).filter (fun p => p.1.away)
    let unsent := away.filter (fun p => (s1.unitAnswer id p.1).isNone)
    if !unsent.isEmpty then
      .wait (unsent.foldl (fun s p => s.sendRemote (some id) none (unitLane u.loc die) p.2.1 p.1.region p.1.addr (.read p.1.len)) s1)
    else
      let ends := away.map (fun p => (p.2.1, (s1.unitAnswer id p.1).bind RemoteReq.result))
      if ends.any (fun e => e.2.isNone) then .wait s1
      else
        match ends.find? (fun e => match e.2 with | some (.ok _ _) => false | _ => true) with
        | some e => .fault s1 (xfault 0x16 ((e.2.map RemoteEnd.sub).getD 2)) e.1
        | none =>
          let one (p : Piece) : Option (List Byte × Bool) :=
            if p.away then
              match (s1.unitAnswer id p).bind RemoteReq.result with
              | some (.ok data bad) => some (data, bad)
              | _ => none
            else if s1.unitWriting die (p.addr / 128) then none
            else ((sectorsOf p.addr p.len).mapM (s1.engineSector die)).map (fun vs =>
              (((vs.flatMap Sector.data).drop (p.addr % 32)).take p.len, vs.any Sector.poison))
          let rs := ps.map one
          if rs.any Option.isNone then .wait s1
          else
            let vs := rs.map (fun r => r.getD ([], false))
            .ok (s1.engineReads ps) (vs.flatMap Prod.fst, vs.any Prod.snd)

/-- The requests of a unit's finished work go. -/
def State.unitDone (s : State) (id : Nat) : State := s.dropRemote (fun r => r.pend == some id)

/-- A unit's write to local memory: one for each line, which its home performs at once unless earlier writes of the die to the line are still on
their way (R97); the other sharers are sent invalidations (R99). -/
def State.unitWrite (s : State) (source : WriteSource) (die : Nat) (cells : List (Nat × Byte)) (bad : List Nat) (uc : Bool := false) : State :=
  let lines := (cells.map (fun c => c.1 / 128)).eraseDups
  lines.foldl (fun s line =>
    let mine := cells.filter (fun c => c.1 / 128 == line)
    let secs := (mine.map (fun c => c.1 / 32)).eraseDups
    let r : WriteRec := { source := source, die := die, core := 160 * die, region := .loc, line := line, cells := mine
                          bad := bad.filter (fun b => b / 4 == line), op := .st, steps := [], release := false, scope := 4, accepted := false
                          invals := [], acks := [], uc := uc }
    let p := (s.rdcDropSectors die (secs.filter (fun z => homeOf (32 * z) != die))).putWrite r
    p.2.acceptWrite p.1) s

/-- A unit's write beyond the device. -/
def State.unitSend (s : State) (u : UnitCtx) (source : WriteSource) (va : Word) (p : Piece) (op : PeerOp) : State :=
  let die := u.who.die?
  let r := s.putWrite { source := source, die := die, core := 160 * die, region := p.region, line := p.addr / 128, cells := [], bad := []
                        op := .st, steps := [], release := false, scope := 5, accepted := false, invals := [], acks := [], uc := true }
  r.2.sendRemote none (some r.1) (unitLane u.loc die) va p.region p.addr op

/-- One atomic step of a unit, which a local home performs at once unless earlier writes of the die to the line are still on their way (R97). -/
def State.unitAtomic (s : State) (u : UnitCtx) (source : WriteSource) (va : Word) (p : Piece) (o f : Nat) (operand : Word) : State :=
  let die := u.who.die?
  if p.away then s.unitSend u source va p (.atomic (BitVec.ofNat 4 o) (BitVec.ofNat 4 f) false false false operand 0 p.len)
  else
    let r := (s.rdcDropSectors die (if homeOf p.addr != die then [p.addr / 32] else [])).putWrite
      { source := source, die := die, core := 160 * die, region := .loc, line := p.addr / 128, cells := [], bad := []
        op := .rmw o f false false false true p.len, steps := [⟨0, va, [p], [], operand, 0⟩], release := false, scope := 4, accepted := false
        invals := [], acks := [], uc := p.mt == 2 }
    r.2.atomicPerform r.1

/-- The parts of some writes: each piece's address in virtual memory, its bytes, and where it lies. -/
abbrev UnitParts := List (Piece × Word × List Byte)

/-- The parts beyond the device, one group for each line. -/
def UnitParts.awayLines (l : UnitParts) : List UnitParts :=
  let away := l.filter (fun e => e.1.away)
  ((away.map (fun e => (e.1.region, e.1.addr / 128))).eraseDups).map (fun k => away.filter (fun e => (e.1.region, e.1.addr / 128) == k))

/-- Write some ranges for a unit, all of them once every one can be reached: each local line at its home at once, each line beyond the device by
one request (R145). -/
def State.unitStoreAll (s : State) (u : UnitCtx) (source : WriteSource) (ws : List (Word × List Byte)) : UnitAcc Unit :=
  let cuts := ws.flatMap (fun w => (cutLines w.1 w.2.length).map (fun c => (c, (w.2.drop (c.1 - w.1).toNat).take c.2)))
  match s.unitReach u .write .none (cuts.map Prod.fst) with
  | .fault s1 x a => .fault s1 x a
  | .wait s1 => .wait s1
  | .ok s1 ps =>
    let parts : UnitParts := (ps.zip cuts).map (fun e => (e.1, e.2.1.1, e.2.2))
    let near (uc : Bool) : List (Nat × Byte) :=
      (parts.filter (fun e => !e.1.away && (e.1.mt == 2) == uc)).flatMap (fun e => cellsAt e.1.addr e.2.2)
    let s2 := (s1.unitWrite source u.who.die? (near false) []).unitWrite source u.who.die? (near true) [] true
    .ok (parts.awayLines.foldl (fun s es => match es with
      | [] => s
      | e :: _ => s.unitSend u source e.2.1 e.1 (.write (es.flatMap (fun q => cellsAt (q.1.addr - e.1.addr) q.2.2)))) s2) ()

def State.unitStore (s : State) (u : UnitCtx) (source : WriteSource) (va : Word) (bytes : List Byte) : UnitAcc Unit :=
  s.unitStoreAll u source [(va, bytes)]

/-- The requests of a unit's writes that have ended, each with how; they and their writes go. -/
def State.unitEnds (s : State) (mine : WriteSource → Bool) : List (Nat × RemoteReq) :=
  s.path.remote.filter (fun e => e.2.result.isSome && (match e.2.write.bind (Tbl.find s.path.writes) with | some w => mine w.source | none => false))

def State.unitEnded (s : State) (ends : List (Nat × RemoteReq)) : State := ends.foldl (fun s e => s.awayDone e.1 e.2) s

/-- A unit's requests of a source that have ended are done with: whether one has failed. -/
def State.settleUnit (s : State) (source : WriteSource) : State × Bool :=
  let ends := s.unitEnds (· == source)
  (s.unitEnded ends, ends.any (fun e => match e.2.result with | some (.ok _ _) => false | _ => true))

/-- A write of a source beyond the device has not ended. -/
def State.unitAway (s : State) (source : WriteSource) : Bool := s.path.writes.any (fun e => e.2.source == source && e.2.region != .loc)

/-- Write zeros over whole sectors from `a` on: every listed byte goes, and the poison with it. -/
def State.clearRange (s : State) (source : WriteSource) (die a n : Nat) : State :=
  let inside (lo hi k : Nat) : Bool := lo ≤ k && k < hi
  let s1 := { s with mem := List.filter (fun (c : Host.Cell) => !inside a (a + n) c.1) s.mem
                     poison := s.poison.filter (fun k => !inside (a / 32) ((a + n) / 32) k) }
  let lines := (s.path.l2.filter (fun l => inside (a / 128) ((a + n) / 128) l.1)).map Prod.fst
  let s2 := lines.foldl (fun s line =>
    let r : WriteRec := { source := source, die := die, core := 160 * die, region := .loc, line := line, cells := [], bad := [], op := .st
                          steps := [], release := false, scope := 4, accepted := false, invals := [], acks := [] }
    let p := s.putWrite r
    p.2.homeWrites p.1 r ((List.range 4).map (fun i => 4 * line + i))) s1
  s2.recheck (((s.path.waits.map (fun w => w.2.pa / 32)).filter (inside (a / 32) ((a + n) / 32))).dedup)

end Sys2Proof.Machine
end

