-- ==== Sys2Proof/Machine/RadianceNet.lean ====
section
/-! DEFINITION. Machine/RadianceNet.lean: the radiance cache's encodings, network and training arithmetic (R267 to R271, R276). -/

namespace Sys2Proof.Machine

/-! ## Binary32 and binary16 arithmetic, rounded once (R269) -/

def dec32 (b : Nat) : Val := fmtF32.decode b
def dec16 (b : Nat) : Val := fmtF16.decode b

/-- Rd of an exact answer. -/
def rd32 (x : Exact) : Nat := (fmtF32.finish false 0 x).1
def add32 (a b : Nat) : Nat := rd32 (addVal 0 (dec32 a) (dec32 b))
def sub32 (a b : Nat) : Nat := rd32 (addVal 0 (dec32 a) (dec32 b).neg)
def mul32 (a b : Nat) : Nat := rd32 (mulVal (dec32 a) (dec32 b))
def neg32 (a : Nat) : Nat := a ^^^ 2 ^ 31
def abs32 (a : Nat) : Nat := a % 2 ^ 31
def one32 : Nat := 0x3F800000
def natF32 (n : Nat) : Nat := (fmtF32.convert false 0 false 0 (Val.ofInt n)).1
def isNan32 (a : Nat) : Bool := (dec32 a).isNan
def finite32 (a : Nat) : Bool := match dec32 a with | .num _ _ _ => true | _ => false

/-- The binary32 RNE value of a decimal n / 10^8 (R270). -/
def decimal32 (n : Nat) : Nat := (fmtF32.convertS false 0 false 0 (.num false (n * 2 ^ 200 / 10 ^ 8) (-200)) true).1

/-- A quotient, correctly rounded. -/
def divVal (a b : Val) : Nat :=
  match a, b with
  | .nan s g p, _ => (fmtF32.ofNan s g p).1
  | _, .nan s g p => (fmtF32.ofNan s g p).1
  | .inf _, .inf _ => fmtF32.canonicalNan
  | .inf s, .num t _ _ => fmtF32.withSign (s != t) fmtF32.infBits
  | .num s _ _, .inf t => fmtF32.withSign (s != t) 0
  | .num s m e, .num t n d =>
    if n = 0 then (if m = 0 then fmtF32.canonicalNan else fmtF32.withSign (s != t) fmtF32.infBits)
    else (fmtF32.convertS false 0 false 0 (.num (s != t) (m * 2 ^ 128 / n) (e - d - 128)) (m * 2 ^ 128 % n != 0)).1

def div32 (a b : Nat) : Nat := divVal (dec32 a) (dec32 b)

/-- A square root, correctly rounded. -/
def sqrt32 (a : Nat) : Nat :=
  match dec32 a with
  | .nan s g p => (fmtF32.ofNan s g p).1
  | .inf s => if s then fmtF32.canonicalNan else fmtF32.infBits
  | .num s m e =>
    if m = 0 then a
    else if s then fmtF32.canonicalNan
    else let q := sqrtNum m e; (fmtF32.convertS false 0 false 0 (.num false q.1 q.2.1) q.2.2).1

/-- 1/Sqrt of a positive number, correctly rounded as one operation. -/
def rsqrt32 (a : Nat) : Nat :=
  match dec32 a with
  | .num _ m e =>
    if m = 0 then fmtF32.infBits
    else
      let n : Nat := if e % 2 = 0 then 512 else 513
      let r := isqrt (2 ^ n / m)
      (fmtF32.convertS false 0 false 0 (.num false r (-((n + e) / 2))) (r * r * m != 2 ^ n)).1
  | _ => fmtF32.canonicalNan

/-- R16 of a binary32 number. -/
def round16 (a : Nat) : Nat := if isNan32 a then 0x7E00 else (fmtF16.convert false 0 false 0 (dec32 a)).1

/-- An exact sum rounded once to binary16, with the NaN and infinity rules of GroupSum (R251, R269). -/
def sum16 (ps : List Exact) : Nat :=
  if ps.any (fun t => match t with | .val v => v.isNan | _ => true) then 0x7E00
  else
    let vs := ps.filterMap (fun t => match t with | .val v => some v | _ => none)
    match vs.contains (.inf true), vs.contains (.inf false) with
    | true, true => 0x7E00
    | true, false => 0xFC00
    | false, true => 0x7C00
    | false, false =>
      let z := sumNums vs
      if z.isZero then 0 else (fmtF16.convert false 0 false 0 z).1

/-! ## Sizes (R268) -/

def RcConfig.nin (g : RcConfig) : Nat := (2 * g.levels + 16 + g.naux + 15) / 16 * 16

/-- The parameter at which a layer's weights begin, its inputs and its outputs. -/
def RcConfig.layerBase (g : RcConfig) (k : Nat) : Nat :=
  g.levels * 2 ^ (g.log2t + 1) + (if k = 0 then 0 else g.width * g.nin + (k - 1) * g.width * g.width)
def RcConfig.layerIn (g : RcConfig) (k : Nat) : Nat := if k = 0 then g.nin else g.width
def RcConfig.layerOut (g : RcConfig) (k : Nat) : Nat := if k = g.hidden then g.nout else g.width

/-- P, and the bytes of one image. -/
def RcConfig.params (g : RcConfig) : Nat := g.layerBase g.hidden + g.nout * g.width
def RcConfig.imageBytes (g : RcConfig) : Nat := (2 * g.params + 65535) / 65536 * 65536

/-- A configuration record with its fields in range, or none (R267). -/
def parseRecord (bs : List Byte) : Option RcConfig :=
  let f32 (o : Nat) : Nat := field bs o 4
  let positive (b : Nat) : Bool := finite32 b && b / 2 ^ 31 == 0 && b != 0
  let zeros (o n : Nat) : Bool := ((bs.drop o).take n).all (· == 0)
  let l := field bs 4 1
  let res := (List.range 16).map (fun i => field bs (0x28 + 2 * i) 2)
  let ok := f32 0 == 0x31464352 && 1 ≤ l && l ≤ 16 && 14 ≤ field bs 5 1 && field bs 5 1 ≤ 20 && (field bs 6 1 == 32 || field bs 6 1 == 64) &&
    1 ≤ field bs 7 1 && field bs 7 1 ≤ 4 && (field bs 8 1 == 3 || field bs 8 1 == 4) && field bs 9 1 ≤ 4 && field bs 10 2 < 4 && positive (f32 0x0C) &&
    (List.range 3).all (fun i => finite32 (f32 (0x10 + 4 * i)) && positive (f32 (0x1C + 4 * i))) &&
    (res.take l).all (1 ≤ ·) && (res.drop l).all (· == 0) && field bs 0x48 1 ≤ 7 && zeros 0x49 7 && field bs 0x50 8 % 65536 == 0 && zeros 0x58 168
  if ok then
    some { levels := l, log2t := field bs 5 1, width := field bs 6 1, hidden := field bs 7 1, nout := field bs 8 1, naux := field bs 9 1
           expout := (field bs 10 2).testBit 0, ordered := (field bs 10 2).testBit 1, lr := BitVec.ofNat 32 (f32 0x0C)
           bbmin := (List.range 3).map (fun i => BitVec.ofNat 32 (f32 (0x10 + 4 * i)))
           bbinv := (List.range 3).map (fun i => BitVec.ofNat 32 (f32 (0x1C + 4 * i))), res := res, home := field bs 0x48 1
           param := BitVec.ofNat 64 (field bs 0x50 8) }
  else none

/-! ## Position encoding (R269) -/

/-- u of one axis. -/
def unitAxis (pos lo inv : BitVec 32) : Nat :=
  let u := mul32 (sub32 pos.toNat lo.toNat) inv.toNat
  if isNan32 u || (dec32 u).le (.num false 0 0) then 0 else if (dec32 u).le (dec32 one32) then u else one32

def RcConfig.axes (g : RcConfig) (x : RcInput) : List Nat :=
  (List.range 3).map (fun d => unitAxis (x.pos.getD d 0) (g.bbmin.getD d 0) (g.bbinv.getD d 0))

/-- Index of R269. -/
def hashIndex (t n a b c : Nat) : Nat :=
  if (n + 1) ^ 3 ≤ 2 ^ t then a + (n + 1) * (b + (n + 1) * c)
  else (a ^^^ (b * 0x9E3779B1 % 2 ^ 32) ^^^ (c * 0x85EBCA77 % 2 ^ 32)) % 2 ^ 32 % 2 ^ t

/-- The corners of a level with a nonzero weight: the parameter number of feature 0 of the entry, and the weight. -/
def RcConfig.corners (g : RcConfig) (us : List Nat) (l : Nat) : List (Nat × Nat) :=
  let n := g.res.getD l 1
  let ax := us.map (fun u =>
    let x := mul32 u (natF32 n)
    let i0 := ((dec32 x).toInt 3).toNat
    let i := if i0 = n then n - 1 else i0
    (i, rd32 (addVal 0 (dec32 x) (Val.ofInt (-(i : Int))))))
  let at_ (d : Nat) : Nat × Nat := ax.getD d (0, 0)
  (List.range 8).filterMap (fun c =>
    let w (d : Nat) : Nat := if c.testBit d then (at_ d).2 else sub32 one32 (at_ d).2
    let wc := mul32 (mul32 (w 0) (w 1)) (w 2)
    let v (d : Nat) : Nat := (at_ d).1 + (if c.testBit d then 1 else 0)
    if (dec32 wc).isZero then none else some (l * 2 ^ (g.log2t + 1) + 2 * hashIndex g.log2t n (v 0) (v 1) (v 2), wc))

/-- A feature of a level, given the parameters as binary16. -/
def featureOf (img : Nat → Nat) (cs : List (Nat × Nat)) (k : Nat) : Nat :=
  sum16 (cs.map (fun c => mulVal (dec32 c.2) (dec16 (img (c.1 + k)))))

/-! ## Direction encoding (R270) -/

/-- A direction input: binary16, non-finite as 0, clamped to [-1, 1], as binary32. -/
def clampDir (b : BitVec 16) : Nat :=
  match dec16 b.toNat with
  | .num s m e =>
    let v := rd32 (.val (.num s m e))
    if (dec32 one32).le (dec32 (abs32 v)) then (if s then neg32 one32 else one32) else v
  | _ => 0

/-- The octahedral map: the unit direction. -/
def direction (a b : Nat) : Nat × Nat × Nat :=
  let z := sub32 (sub32 one32 (abs32 a)) (abs32 b)
  let sgn (v : Nat) : Nat := if v / 2 ^ 31 = 1 && v % 2 ^ 31 != 0 then neg32 one32 else one32
  let low := z / 2 ^ 31 = 1 && z % 2 ^ 31 != 0
  let x := if low then mul32 (sub32 one32 (abs32 b)) (sgn a) else a
  let y := if low then mul32 (sub32 one32 (abs32 a)) (sgn b) else b
  let s := rsqrt32 (add32 (add32 (mul32 x x) (mul32 y y)) (mul32 z z))
  (mul32 x s, mul32 y s, mul32 z s)

/-- The sixteen spherical harmonics, each as binary16. -/
def harmonics (x y z : Nat) : List Nat :=
  let c (n : Nat) : Nat := decimal32 n
  let f (n : Nat) : Nat := natF32 n
  let xx := sub32 (mul32 x x) (mul32 y y)
  let z5 := sub32 one32 (mul32 (mul32 (f 5) z) z)
  let ys : List Nat :=
    [ c 28209479, mul32 (neg32 (c 48860251)) y, mul32 (c 48860251) z, mul32 (neg32 (c 48860251)) x, mul32 (mul32 (c 109254843) x) y,
      mul32 (mul32 (neg32 (c 109254843)) y) z, sub32 (mul32 (mul32 (c 94617470) z) z) (c 31539157), mul32 (mul32 (neg32 (c 109254843)) x) z,
      mul32 (c 54627422) xx, mul32 (mul32 (c 59004359) y) (sub32 (mul32 y y) (mul32 (mul32 (f 3) x) x)), mul32 (mul32 (mul32 (c 289061144) x) y) z,
      mul32 (mul32 (c 45704580) y) z5, mul32 (mul32 (c 37317633) z) (sub32 (mul32 (mul32 (f 5) z) z) (f 3)), mul32 (mul32 (c 45704580) x) z5,
      mul32 (mul32 (c 144530572) z) xx, mul32 (mul32 (c 59004359) x) (sub32 (mul32 (mul32 (f 3) y) y) (mul32 x x)) ]
  ys.map round16

/-- F: the network's input. -/
def RcConfig.features (g : RcConfig) (img : Nat → Nat) (x : RcInput) : List Nat :=
  let us := g.axes x
  let d := direction (clampDir (x.aux.getD 0 0)) (clampDir (x.aux.getD 1 0))
  let head := (List.range g.levels).flatMap (fun l => let cs := g.corners us l; [featureOf img cs 0, featureOf img cs 1]) ++ harmonics d.1 d.2.1 d.2.2 ++
    (List.range g.naux).map (fun j => (x.aux.getD (2 + j) 0).toNat)
  head ++ List.replicate (g.nin - head.length) 0

/-! ## Network (R271) -/

/-- The accumulators of one layer. -/
def RcConfig.layer (g : RcConfig) (img : Nat → Nat) (k : Nat) (a : List Nat) : List Nat :=
  let n := g.layerIn k
  (List.range (g.layerOut k)).map (fun o =>
    (List.range (n / 16)).foldl (fun acc q => (groupSum (BitVec.ofNat 32 acc) ((List.range 16).map (fun j =>
      mulVal (dec16 (img (g.layerBase k + o * n + 16 * q + j))) (dec16 (a.getD (16 * q + j) 0))))).toNat) 0)

def relu32 (b : Nat) : Nat := if isNan32 b then fmtF32.canonicalNan else if b / 2 ^ 31 = 1 || b % 2 ^ 31 = 0 then 0 else b

/-- Exp: within 1 ulp of e^x, a fixed function of its operand (R223; log entry 7). -/
def exp32 (b : Nat) : Nat :=
  match dec32 b with
  | .nan _ _ _ => fmtF32.canonicalNan
  | .inf s => if s then 0 else fmtF32.infBits
  | .num s m e =>
    let x := toFix m e
    if fixOne * 200 ≤ x then (if s then 0 else fmtF32.infBits)
    else
      let down := fixExpNeg x
      let y : Nat := if s then down else fixOne * fixOne / down
      let raw := Config.funcValue 0x1B0 6 false b % 2 ^ 32
      if raw < 2 ^ 31 && fmtF32.withinUlp 1 (dec32 raw) false y (-(fixP : Int)) then raw
      else (fmtF32.convert false 0 false 0 (.num false y (-(fixP : Int)))).1

/-- The forward pass: each layer's inputs, and the outputs. -/
def RcConfig.forward (g : RcConfig) (img : Nat → Nat) (x : RcInput) : List (List Nat) × List Nat :=
  let r := (List.range g.hidden).foldl (fun (st : List (List Nat) × List Nat) k =>
    (st.1 ++ [st.2], (g.layer img k st.2).map (fun v => round16 (relu32 v)))) ([], g.features img x)
  let y := g.layer img g.hidden r.2
  (r.1 ++ [r.2], if g.expout then y.map exp32 else y)

/-! ## One sample's part of a training step (R276) -/

/-- What a sample adds: the inputs and output differences of each layer, its shares of hash features by parameter number, its loss. -/
structure Traced where
  acts   : List (List Nat)
  deltas : List (List Nat)
  shares : List (Nat × Nat)
  loss   : Nat

/-- The differences at a layer's input. -/
def RcConfig.back (g : RcConfig) (img : Nat → Nat) (k : Nat) (ain delta : List Nat) : List Nat :=
  let n := g.layerIn k
  let outs := g.layerOut k
  (List.range n).map (fun i =>
    let acc := (List.range ((outs + 15) / 16)).foldl (fun acc q => (groupSum (BitVec.ofNat 32 acc)
      (((List.range 16).filter (fun j => 16 * q + j < outs)).map (fun j =>
        mulVal (dec16 (img (g.layerBase k + (16 * q + j) * n + i))) (dec16 (delta.getD (16 * q + j) 0))))).toNat) 0
    if k != 0 && ain.getD i 0 = 0 then 0 else round16 acc)

def RcConfig.trace (g : RcConfig) (img : Nat → Nat) (x : Sample) : Traced :=
  let fw := g.forward img x.input
  let w := x.weight.toNat
  let err (o : Nat) : Nat := sub32 (fw.2.getD o 0) (x.targets.getD o 0).toNat
  let d := (List.range g.nout).map (fun o =>
    let v := rd32 (mulVal ((dec32 w).scale 1) (dec32 (err o)))
    if g.expout then mul32 v (fw.2.getD o 0) else v)
  let down := (List.range (g.hidden + 1)).foldl (fun (st : List (List Nat) × List Nat) j =>
    let k := g.hidden - j
    (st.2 :: st.1, g.back img k (fw.1.getD k []) st.2)) ([], d.map round16)
  let us := g.axes x.input
  let shares := (List.range g.levels).flatMap (fun l => (g.corners us l).flatMap (fun c =>
    (List.range 2).map (fun k => (c.1 + k, rd32 (mulVal (dec32 c.2) (dec16 (down.2.getD (2 * l + k) 0)))))))
  let sq := (List.range g.nout).foldl (fun z o => add32 z (mul32 (err o) (err o))) 0
  ⟨fw.1, down.1, shares, mul32 w sq⟩

/-- The gradients of a batch, by parameter number: sums over groups of 16 samples for weights, running sums for hash features. -/
def RcConfig.gradients (g : RcConfig) (ts : List Traced) : Tbl Nat :=
  let groups := (List.range ((ts.length + 15) / 16)).map (fun q => (ts.drop (16 * q)).take 16)
  let weight (k o i : Nat) : Nat := groups.foldl (fun acc q => (groupSum (BitVec.ofNat 32 acc)
    (q.map (fun t => mulVal (dec16 ((t.deltas.getD k []).getD o 0)) (dec16 ((t.acts.getD k []).getD i 0))))).toNat) 0
  let hash := ts.foldl (fun m t => t.shares.foldl (fun (m : Tbl Nat) e => Tbl.put m e.1 (add32 ((Tbl.find m e.1).getD 0) e.2)) m) []
  hash ++ (List.range (g.hidden + 1)).flatMap (fun k => (List.range (g.layerOut k)).flatMap (fun o => (List.range (g.layerIn k)).map (fun i =>
    (g.layerBase k + o * g.layerIn k + i, weight k o i))))

def beta1 : Nat := 0x3F666666
def beta2 : Nat := 0x3F7D70A4
def epsilon32 : Nat := 0x35800000

/-- One Adam update of (θ, m, v). -/
def adam (lr p1 p2 batch grad theta m v : Nat) : Nat × Nat × Nat :=
  let g := div32 grad (natF32 batch)
  let m1 := add32 (mul32 beta1 m) (mul32 0x3DCCCCCD g)
  let v1 := add32 (mul32 beta2 v) (mul32 0x3C23D70A (mul32 g g))
  let mh := div32 m1 (sub32 one32 p1)
  let vh := div32 v1 (sub32 one32 p2)
  (sub32 theta (mul32 lr (div32 mh (add32 (sqrt32 vh) epsilon32))), m1, v1)

/-- LOSS after a batch. -/
def nextLoss (loss : Nat) (ts : List Traced) : Nat :=
  let mean := div32 (ts.foldl (fun z t => add32 z t.loss) 0) (natF32 ts.length)
  add32 (mul32 (decimal32 99000000) loss) (mul32 (decimal32 1000000) mean)

end Sys2Proof.Machine
end

