-- ==== Sys2Proof/Machine/Radiance.lean ====
section
/-! DEFINITION. Machine/Radiance.lean: queries, samples, training and generations of the radiance cache (R265 to R284). -/

namespace Sys2Proof.Machine

/-! ## Instances -/

def State.inst? (s : State) (k : Nat) : Option Instance := Tbl.find s.rc.insts k
def State.adjInst (s : State) (k : Nat) (g : Instance → Instance) : State := { s with rc := { s.rc with insts := Tbl.adjust s.rc.insts k g } }

/-- The instance as operations other than LOAD see it: not from the acceptance of its DROP on (R277). -/
def State.openInst (s : State) (k : Nat) : Option Instance := (s.inst? k).bind (fun i => if i.dropping then none else some i)

/-- The image of a generation, and its poisoned sectors (R266). -/
def Instance.image (i : Instance) (gen : Nat) : Tbl (BitVec 16) := if gen % 2 = 0 then i.img0 else i.img1
def Instance.spoiled (i : Instance) (gen : Nat) : List Nat := if gen % 2 = 0 then i.bad0 else i.bad1

/-- Put an image in place; every sector is written in full. -/
def Instance.setImage (i : Instance) (gen : Nat) (t : Tbl (BitVec 16)) : Instance :=
  if gen % 2 = 0 then { i with img0 := t, bad0 := [] } else { i with img1 := t, bad1 := [] }

/-- The generation that a cluster's unit answers with (R278). -/
def Instance.genAt (i : Instance) (cluster : Nat) : Nat := if i.switched.contains cluster then (i.gen + 1).toNat else i.gen.toNat

/-- The parameters of a generation. -/
def Instance.weights (i : Instance) (gen n : Nat) : Nat := (Tbl.get 0 (i.image gen) n).toNat

/-- A query reads a poisoned sector of an image: of an entry that a corner reads, or of the weights where the unit reloads them. -/
def Instance.poisoned (i : Instance) (gen : Nat) (reload : Bool) (x : RcInput) : Bool :=
  let us := i.cfg.axes x
  let secs := (List.range i.cfg.levels).flatMap (fun l => (i.cfg.corners us l).map (fun c => c.1 / 16))
  secs.any (i.spoiled gen).contains || (reload && (i.spoiled gen).any (fun k => i.cfg.layerBase 0 / 16 ≤ k))

/-! ## RCQ and RCT (R272 to R274, R279, R282) -/

/-- The instance number in X. -/
def instOf (x : ExtWord) : Nat := x.x.toNat % 4

/-- The registers that are read only under some records lie in blocks that the wave holds; this too ranks before the liners' causes (R49, R282). -/
def recordBlocks (i : Instr) (c : Ctx) (s : State) : Option Res :=
  ((s.recordUses i).find? (fun r => !c.W.holds r.1)).map (fun r => .trap (trapWhole c 0x0C (tvalSub 0x01 r.1)))

/-- The query registers, and for a sample its targets and weight. -/
def rcSources (x : ExtWord) (naux nout : Nat) (sample : Bool) : List Src :=
  [src 1 x.a 6, src 1 { x.a with num := x.a.num + 1 } 6, src 1 { x.a with num := x.a.num + 2 } 7] ++
  (if 2 < naux then [src 1 { x.a with num := x.a.num + 3 } 7] else []) ++
  (if sample then [src 2 x.b 6] ++ (if nout = 4 then [src 2 { x.b with num := x.b.num + 1 } 6] else []) ++ [src 3 x.c 6] else [])

/-- The inputs in a lane out of the values read. -/
def rcInput (naux : Nat) (vs : List Word) : RcInput :=
  let at_ (i w e : Nat) : Nat := elem w (vs.getD i 0) e
  ⟨[BitVec.ofNat 32 (at_ 0 32 0), BitVec.ofNat 32 (at_ 0 32 1), BitVec.ofNat 32 (at_ 1 32 0)],
   ((List.range 4).map (fun e => BitVec.ofNat 16 (at_ 2 16 e)) ++ (if 2 < naux then (List.range 2).map (fun e => BitVec.ofNat 16 (at_ 3 16 e)) else [])).take
     (2 + naux)⟩

/-- The Access faults of R282. -/
def State.instFault (s : State) (c : Ctx) (k : Nat) (part : Mask) : Option Trap :=
  match s.openInst k with
  | none => some ⟨0x07, tvalSub 0x08 k, part, none, false, []⟩
  | some i => if i.asid != c.T.asid then some ⟨0x07, tvalSub 0x09 k, part, none, false, []⟩ else none

/-- What RCQ and RCT share: the checks in the order of R282, then what is done with the instance and the values of each lane. -/
def rcBody (x : ExtWord) (sample : Bool) (act : Instance → State → Res) (c : Ctx) (s : State) : Res :=
  let part := c.part x
  let k := instOf x
  let naux := ((s.openInst k).map (fun i => i.cfg.naux)).getD 0
  let nout := ((s.openInst k).map (fun i => i.cfg.nout)).getD 3
  if part = 0 then .done s
  else if s.acquiring c.w s.nextId (heldLanes c.W c.F) then .stall
  else
    match c.rowSources x (rcSources x naux nout sample) part s with
    | .error t => .trap t
    | .ok s1 =>
      match s.instFault c k part, s.openInst k with
      | some t, _ => .trap t
      | none, none => .stall
      | none, some i => act i s1

/-- RCQ: the unit takes its generation for every participating lane; it waits for one that the fragment has read before (R279). -/
def rcqBody (x : ExtWord) (c : Ctx) (s : State) : Res :=
  rcBody x false (fun i s =>
    let k := instOf x
    let part := c.part x
    let g := i.genAt (clusterOf c.W.core)
    if g < Tbl.get 0 c.F.gens k then .stall
    else
      let inputs := part.lanes.map (fun l => (l, rcInput i.cfg.naux (c.values x (rcSources x i.cfg.naux i.cfg.nout false) l).1))
      let r := s.addPend { wave := c.w, lanes := part, own := heldLanes c.W c.F, ord := s.nextId, tok := x.tok.toNat, dst := .vec x.d.num.toNat 2
                           pc := c.F.pc, rwc := c.F.rwc, cls := c.cls, op := c.op, kind := .query k g inputs }
      .done ((r.2.adjFrag c.f (fun F => { F with gens := Tbl.set 0 F.gens k g })).adjInst k (fun i => { i with queries := i.queries + inputs.length }))) c s
def execRcq (w : ExtWord) (s : State) : Host.Outcome State Fault Refusal := issueChecked (.rcq w) (recordBlocks (.rcq w)) (rcqBody w) s

/-- RCQ_COMPLETE: one lane's result is written, or the lane dies (R273, R282). -/
def State.queryDone (s : State) (id lane : Nat) : State :=
  match Tbl.find s.pend id with
  | none => s
  | some p =>
    match p.kind, p.dst with
    | .query k g inputs, .vec d _ =>
      if !p.lanes.has lane then s
      else
        match s.inst? k, Tbl.find inputs lane with
        | some i, some x =>
          let s1 := { s with free := s.free + 1 }
          if i.poisoned g (Config.freeBool s.free) x then (s1.killLanes p.wave (Mask.one lane) p.origin p.op 0).completeLanes id (Mask.one lane)
          else
            let y := (i.cfg.forward (i.weights g) x).2
            let pair (e : Nat) : Word := BitVec.ofNat 64 (y.getD e 0 + y.getD (e + 1) 0 * 2 ^ 32)
            ((s1.setReg p.wave lane d ⟨pair 0, 6⟩).setReg p.wave lane (d + 1) ⟨pair 2, 6⟩).completeLanes id (Mask.one lane)
        | _, _ => s
    | _, _ => s
def execRcqComplete (id lane : Nat) (s : State) : Host.Outcome State Fault Refusal := .next (s.queryDone id lane)

/-- A sample is rejected (R274). -/
def Sample.rejected (x : Sample) : Bool :=
  x.input.pos.any (fun p => !finite32 p.toNat) || x.targets.any (fun t => !finite32 t.toNat) || x.input.aux.any (fun a => (dec16 a.toNat).isNan) ||
  !finite32 x.weight.toNat || x.weight.toNat / 2 ^ 31 = 1 || x.weight.toNat % 2 ^ 31 = 0

/-- The address of the node of a team's grid. -/
def State.nodeOf (s : State) (T : Team) : Nat := ((Tbl.find s.sched.grids T.grid).map Grid.node).getD 0

/-- The sample of one lane (R272, R274, R275). With three outputs t2 is in vB+1, which is read only with four: its value is open (log entry 102). -/
def State.sampleOf (s : State) (c : Ctx) (x : ExtWord) (i : Instance) (l : Nat) : Sample :=
  let k := instOf x
  let vs := (c.values x (rcSources x i.cfg.naux i.cfg.nout true) l).1
  let b := if 2 < i.cfg.naux then 4 else 3
  let at_ (r e : Nat) : BitVec 32 := BitVec.ofNat 32 (elem 32 (vs.getD r 0) e)
  { input := rcInput i.cfg.naux vs
    targets := [at_ b 0, at_ b 1] ++ (if i.cfg.nout = 4 then [at_ (b + 1) 0, at_ (b + 1) 1] else [BitVec.ofNat 32 (Config.freeNat (s.free + l))])
    weight := at_ (if i.cfg.nout = 4 then b + 2 else b + 1) 0
    key := [s.nodeOf c.T, c.T.id, c.W.idx % 2 ^ 16, l, Tbl.get 0 c.W.samples (k * 64 + l)] }

/-- RCT: its samples take one entry of q3, or are dropped. -/
def rctBody (x : ExtWord) (c : Ctx) (s : State) : Res :=
  if x.d.num.toNat != 3 then .trap (queueFault c 1 x.d.num.toNat)
  else if c.part x = 0 then .done s
  else if s.pushHeld c.w then .unselect
  else
    rcBody x true (fun i s =>
      let k := instOf x
      let part := c.part x
      let ls := part.lanes
      let counted := s.adjWave c.w (fun W => { W with
        samples := ls.foldl (fun t l => Tbl.set 0 t (k * 64 + l) (Tbl.get 0 t (k * 64 + l) + 1)) W.samples })
      if 8 ≤ (c.W.queues.q3.filter (fun e => c.T.gate ≤ e.pend)).length then
        .done (counted.adjInst k (fun i => { i with dropped := i.dropped + ls.length }))
      else
        let all := ls.map (s.sampleOf c x i)
        let good := all.filter (fun x => !x.rejected)
        let r := ({ counted with free := s.free + 64 }.adjInst k (fun i => { i with rejected := i.rejected + (all.length - good.length) })).addPend
          { wave := c.w, lanes := part, own := heldLanes c.W c.F, ord := s.nextId, tok := x.tok.toNat, dst := .none, pc := c.F.pc, rwc := c.F.rwc, cls := c.cls, op := c.op, kind := .sample }
        .done (r.2.adjWave c.w (fun W => { W with queues := { W.queues with q3 := W.queues.q3 ++ [⟨r.1, k, good⟩] } }))) c s
def execRct (w : ExtWord) (s : State) : Host.Outcome State Fault Refusal := issueChecked (.rct w) (recordBlocks (.rct w)) (rctBody w) s

/-- Keys compared field by field (R275). -/
def keyBelow : List Nat → List Nat → Bool
  | [], _ => false
  | _ :: _, [] => false
  | a :: as, b :: bs => if a = b then keyBelow as bs else a < b

/-- Insert a sample into a list sorted by key. -/
def sampleInsert (l : List Sample) (x : Sample) : List Sample := l.takeWhile (fun y => !keyBelow x.key y.key) ++ x :: l.dropWhile (fun y => !keyBelow x.key y.key)

/-- The sample with the greatest key. -/
def greatest (x : Sample) (l : List Sample) : Sample := l.foldl (fun m y => if keyBelow m.key y.key then y else m) x

/-- A sample arrives at the ring (R274, R275); a poisoned one is dropped (R282). -/
def Instance.arrive (i : Instance) (x : Sample) : Instance :=
  if x.poison then { i with dropped := i.dropped + 1 }
  else if i.ring.length < 65536 then { i with ring := i.ring ++ [x] }
  else if i.cfg.ordered then { i with ring := (i.ring ++ [x]).erase (greatest x i.ring), dropped := i.dropped + 1 }
  else { i with dropped := i.dropped + 1 }

/-- The poisoned samples of the ring and of an epoch are dropped as they are read (R282). -/
def Instance.sound (i : Instance) : Instance :=
  let bad (l : List Sample) : Nat := (l.filter Sample.poison).length
  let good (l : List Sample) : List Sample := l.filter (fun x => !x.poison)
  { i with ring := good i.ring, epoch := good i.epoch, dropped := i.dropped + bad i.ring + bad i.epoch }

/-- RCT_SAMPLE_DRAIN: the oldest entry of a wave's q3 reaches the ring, and its token completes. -/
def State.drainSamples (s : State) (w : Nat) : State :=
  match s.wave? w with
  | none => s
  | some W =>
    match W.queues.q3 with
    | [] => s
    | e :: rest =>
      let s1 := s.adjWave w (fun W => { W with queues := { W.queues with q3 := rest } })
      (s1.adjInst e.inst (fun i => e.samples.foldl Instance.arrive i)).completeAll e.pend
def execRctSampleDrain (wave : Nat) (s : State) : Host.Outcome State Fault Refusal := .next (s.drainSamples wave)

/-! ## Operations on an instance (R277) -/

/-- A RCGEN, RCCFG or RCSTAT arrives at the home optimiser. -/
def State.rcArrive (s : State) (pend : Nat) (p : Pend) (op inst asid table core arg : Nat) : State :=
  let r : RcOp := { op := op, pend := pend, wave := p.wave, inst := inst, asid := asid, table := table, core := core, arg := arg, stage := 0 }
  { s with
    pend := Tbl.adjust s.pend pend (fun p => { p with kind := if op = 4 then .sync else .command })
    rc := { s.rc with ops := Tbl.put s.rc.ops s.nextId r }
    nextId := s.nextId + 1 }

/-- RCGEN and RCCFG are releases at DEVICE scope; RCSTAT is not. Awaiting RCCFG's token applies cache actions (R280). -/
def rcOpBody (x : ExtWord) (op : Nat) (c : Ctx) (s : State) : Res :=
  let own := heldLanes c.W c.F
  if s.acquiring c.w s.nextId own then .stall
  else
    let arg := if op = 0 then (c.F.scalar x.a.num.toNat).toNat else x.sub.toNat
    let now := op = 5 || s.releaseReady c.w s.nextId own 4
    let p : Pend := { wave := c.w, lanes := own, own := own, ord := s.nextId, tok := x.tok.toNat, dst := .scal x.d.num.toNat 1, pc := c.F.pc, rwc := c.F.rwc, cls := c.cls, op := c.op
                      kind := .release 4 (.radiance op (instOf x) c.T.table arg) }
    let r := (if op = 5 then s else s.nextEpoch c.w true).addPend p
    let s1 := if now then r.2.rcArrive r.1 p op (instOf x) c.T.asid c.T.table c.W.core arg else r.2
    .done (if op < 4 then s1.adjFrag c.f (fun F => F.mark x.tok.toNat) else s1)

def execRcgen (w : ExtWord) (s : State) : Host.Outcome State Fault Refusal := issue (.rcgen w) (rcOpBody w 4) s
def execRccfgLoad (w : ExtWord) (s : State) : Host.Outcome State Fault Refusal := issue (.rccfgLoad w) (rcOpBody w 0) s
def execRccfgDrop (w : ExtWord) (s : State) : Host.Outcome State Fault Refusal := issue (.rccfgDrop w) (rcOpBody w 1) s
def execRccfgPause (w : ExtWord) (s : State) : Host.Outcome State Fault Refusal := issue (.rccfgPause w) (rcOpBody w 2) s
def execRccfgRun (w : ExtWord) (s : State) : Host.Outcome State Fault Refusal := issue (.rccfgRun w) (rcOpBody w 3) s
def execRcstat (w : ExtWord) (s : State) : Host.Outcome State Fault Refusal := issue (.rcstat w) (rcOpBody w 5) s

/-- S[D] of an outstanding instruction receives a value, where it still has a destination (R206). -/
def State.answerPend (s : State) (pend v : Nat) : State :=
  match Tbl.find s.pend pend with
  | some p => (match p.dst with | .scal d _ => s.setScalars p.wave p.own d (BitVec.ofNat 64 v) | _ => s)
  | none => s

/-- An operation ends: S[D] is written and its token completes. -/
def State.rcReply (s : State) (id : Nat) (o : RcOp) (v : Nat) : State :=
  (({ s with rc := { s.rc with ops := Tbl.drop s.rc.ops id } }.answerPend o.pend v).completeAll o.pend).unitDone o.pend

/-- A counter of an instance (R281). -/
def Instance.counter (i : Instance) (n : Nat) : Nat :=
  match n with
  | 0 => i.queries
  | 1 => i.samples
  | 2 => i.dropped
  | 3 => i.rejected
  | 4 => i.steps
  | 5 => i.skipped
  | 6 => i.loss.toNat
  | _ => i.gen.toNat + (if i.failed then 2 ^ 32 else 0) + (if i.paused then 2 ^ 33 else 0) + (if i.cfg.ordered then 2 ^ 34 else 0)

/-- The operation that an instance's optimiser is serving: the first in order of arrival that is not a DROP already accepted. -/
def State.headOp (s : State) (k : Nat) : Option (Nat × RcOp) := s.rc.ops.find? (fun e => e.2.inst == k && !(e.2.op == 1 && e.2.stage == 1))

def State.setStage (s : State) (id n : Nat) : State := { s with rc := { s.rc with ops := Tbl.adjust s.rc.ops id (fun o => { o with stage := n }) } }

/-- The query outstanding on an image of an instance, or on any. -/
def State.querying (s : State) (k : Nat) (parity : Option Nat) : Bool :=
  s.pend.any (fun e => match e.2.kind with | .query i g _ => i == k && (match parity with | some b => g % 2 == b | none => true) | _ => false)

/-- The status of R277 for an operation other than LOAD. -/
def State.rcStatus (s : State) (o : RcOp) : Nat :=
  match s.openInst o.inst with
  | none => 4
  | some i => if i.asid != o.asid then 5 else if i.failed then 6 else 0

/-- A DROP completes once no accepted query is left: the samples are discarded and the instance goes (R280). That of a FAILED instance, which it
clears (R282), answers 6 (R277; log entry 76). -/
def State.finishDrop (s : State) (id : Nat) (o : RcOp) : State :=
  if s.querying o.inst none then s
  else
    let mine (e : SampleEntry) : Bool := e.inst == o.inst
    let gone := s.waves.flatMap (fun (e : Nat × Wave) => (e.2.queues.q3.filter mine).map (fun q => q.pend))
    let s1 := { s with
      waves := List.map (fun (e : Nat × Wave) => (e.1, { e.2 with queues := { e.2.queues with q3 := e.2.queues.q3.filter (fun q => !mine q) } })) s.waves
      rc := { s.rc with insts := Tbl.drop s.rc.insts o.inst } }
    (gone.foldl (fun s p => s.completeAll p) s1).rcReply id o (if ((s.inst? o.inst).map Instance.failed).getD false then 6 else 0)

/-- The optimiser's writes for an instance that are not performed at DEVICE scope. -/
def State.optimiserBusy (s : State) (k : Nat) : Bool := s.path.writes.any (fun e => e.2.source == .optimiser k)

/-- Serve the operations of one instance as far as they go without an event of their own. -/
def State.serveInst (s : State) (k : Nat) : State :=
  let s := match s.rc.ops.find? (fun e => e.2.inst == k && e.2.op == 1 && e.2.stage == 1) with
    | some (id, o) => s.finishDrop id o
    | none => s
  match s.headOp k with
  | none => s
  | some (id, o) =>
    let st := s.rcStatus o
    let gen := ((s.openInst k).map (fun i => i.gen.toNat)).getD 0
    if o.op = 0 then s
    else if o.op = 5 then s.rcReply id o (match s.openInst k with | none => 2 ^ 64 - 1 | some i => i.counter o.arg)
    else if o.stage = 0 && st != 0 && !(o.op = 1 && st = 6) then s.rcReply id o (st + if o.op = 4 then gen * 2 ^ 32 else 0)
    else if o.op = 1 then (s.adjInst k (fun i => { i with dropping := true })).setStage id 1
    else if o.op = 2 then
      let s1 := s.adjInst k (fun i => { i with paused := true })
      if s1.optimiserBusy k then s1.setStage id 1 else s1.rcReply id o 0
    else if o.op = 3 then (s.adjInst k (fun i => { i with paused := false })).rcReply id o 0
    else
      match s.inst? k with
      | none => s
      | some i =>
        if o.stage = 0 then
          let s1 := if i.cfg.ordered && !i.paused then s.adjInst k (fun i => { i.sound with epoch := i.sound.ring.foldl sampleInsert [], ring := [] }) else s
          s1.setStage id 1
        else if o.stage = 1 && (i.epoch.isEmpty || i.failed) then (s.adjInst k (fun i => { i with epoch := [] })).setStage id 2
        else s

/-- Serve every instance. -/
def State.serveRadiance (s : State) : State := (List.range 4).foldl State.serveInst s

/-! ## The parameter area (R268, R145) -/

def Instance.unit (i : Instance) : UnitCtx := { who := .die i.cfg.home, unit := 4, asid := i.asid, table := i.table }

/-- The pages of some parameter-area offsets, with their physical places, checked for writing where `w` holds. -/
def State.paramPages (s : State) (u : UnitCtx) (g : RcConfig) (offs : List Nat) (w : Bool) : UnitAcc (Tbl Piece) :=
  let pages := (offs.map (fun o => o / 65536)).dedup
  match s.unitReach u (if w then .write else .read) .none (pages.map (fun p => (g.param + BitVec.ofNat 64 (p * 65536), 4))) with
  | .ok s1 ps => .ok s1 ((pages.zip ps).foldl (fun t e => Tbl.put t e.1 e.2) [])
  | .wait s1 => .wait s1
  | .fault s1 x va => .fault s1 x va

/-- The physical address of an offset of the area. -/
def paramAddr (t : Tbl Piece) (off : Nat) : Nat := ((Tbl.find t (off / 65536)).map (fun p => p.addr + off % 65536)).getD 0

/-- A page of the area that is still WB memory homed on the instance's die (R277). -/
def goodPage (g : RcConfig) (p : Piece) : Bool := p.region == .loc && p.mt == 0 && homeOf p.addr == g.home

/-- The instance becomes FAILED: it stops stepping, and one record is logged (R282). -/
def State.failInst (s : State) (k : Nat) : State :=
  let home := ((s.inst? k).map (fun i => i.cfg.home)).getD 0
  (s.adjInst k (fun i => { i with failed := true, epoch := [] })).logUnit 4 0xFF home (kindWord 0 1 0 0x13) k 0 0

/-! ## OPTIMISER_STEP (R275, R276) -/

/-- The batch that the next step consumes, and whether it comes from a RCGEN's epoch. -/
def State.nextBatch (s : State) (k : Nat) (i : Instance) : Option (List Sample × Bool) :=
  if i.failed || i.dropping then none
  else
    match s.headOp k with
    | some (_, o) =>
      if o.op = 4 && 1 ≤ o.stage then (if o.stage = 1 && !i.epoch.isEmpty then some (i.epoch.take 256, true) else none)
      else if !i.cfg.ordered && !i.paused && 256 ≤ i.ring.length then some (i.ring.take 256, false) else none
    | none => if !i.cfg.ordered && !i.paused && 256 ≤ i.ring.length then some (i.ring.take 256, false) else none

/-- Writes of the optimiser for an instance are on their way to their home: what it does next reads them there. -/
def State.optimiserWriting (s : State) (k : Nat) : Bool := s.path.writes.any (fun e => e.2.source == .optimiser k && !e.2.accepted)

def execOptimiserStep (k : Nat) (s : State) : Host.Outcome State Fault Refusal :=
  let s := s.adjInst k Instance.sound
  match s.inst? k with
  | none => .next s
  | some i =>
    match (if s.optimiserWriting k then none else s.nextBatch k i) with
    | none => .next s
    | some (batch, fromEpoch) =>
      let g := i.cfg
      let P := g.params
      let hash := (batch.flatMap (fun x => (List.range g.levels).flatMap (fun l => (g.corners (g.axes x.input) l).flatMap (fun c => [c.1, c.1 + 1])))).dedup
      let mlp := (List.range (P - g.layerBase 0)).map (fun n => g.layerBase 0 + n)
      let nums := hash ++ mlp
      let offs := nums.flatMap (fun n => [4 * n, 4 * (P + n), 4 * (2 * P + n)])
      match s.paramPages i.unit g offs true with
      | .wait s1 => .next s1
      | .fault s1 _ _ => .next (s1.failInst k)
      | .ok s1 pages =>
        let s1 := offs.foldl (fun s o => s.findRange (paramAddr pages o) 4) s1
        if pages.any (fun p => !goodPage g p.2) || offs.any (fun o => s1.memPoisoned (paramAddr pages o) 4) then .next (s1.failInst k)
        else
          let read (o : Nat) : Nat := s1.memNat (paramAddr pages o) 4
          let work (n : Nat) : Nat := round16 (read (4 * n))
          let ts := batch.map (g.trace work)
          let grads := g.gradients ts
          let take (i : Instance) : Instance :=
            let j := { i with samples := i.samples + batch.length }
            if fromEpoch then { j with epoch := j.epoch.drop batch.length } else { j with ring := j.ring.drop batch.length }
          if grads.any (fun e => !finite32 e.2) then .next (s1.adjInst k (fun i => { take i with skipped := i.skipped + 1 }))
          else
            let p1 := mul32 i.p1.toNat beta1
            let p2 := mul32 i.p2.toNat beta2
            let cells := grads.flatMap (fun e =>
              let r := adam g.lr.toNat p1 p2 batch.length e.2 (read (4 * e.1)) (read (4 * (P + e.1))) (read (4 * (2 * P + e.1)))
              cellsAt (paramAddr pages (4 * e.1)) (natBytes 4 r.1) ++ cellsAt (paramAddr pages (4 * (P + e.1))) (natBytes 4 r.2.1) ++
                cellsAt (paramAddr pages (4 * (2 * P + e.1))) (natBytes 4 r.2.2))
            .next ((s1.unitWrite (.optimiser k) g.home cells []).adjInst k (fun i => { take i with
              steps := i.steps + 1, p1 := BitVec.ofNat 32 p1, p2 := BitVec.ofNat 32 p2, loss := BitVec.ofNat 32 (nextLoss i.loss.toNat ts) }))

/-! ## Images and generations (R268, R278) -/

/-- An image is made from θ: none where a sector is poisoned. -/
def State.makeImage (s : State) (k : Nat) (u : UnitCtx) (g : RcConfig) : UnitAcc (Option (Tbl (BitVec 16))) :=
  if s.optimiserWriting k then .wait s
  else
  let P := g.params
  match s.paramPages u g ((List.range ((4 * P + 65535) / 65536)).map (fun p => p * 65536)) false with
  | .wait s1 => .wait s1
  | .fault s1 x va => .fault s1 x va
  | .ok s1 pages =>
    let s1 := pages.foldl (fun s p => s.findRange p.2.addr (min 65536 (4 * P - 65536 * p.1))) s1
    if pages.any (fun p => !goodPage g p.2) then .fault s1 (xfault 0x07 0x04) g.param
    else if s1.poison.any (fun z => pages.any (fun p => p.2.addr ≤ 32 * z && 32 * z < p.2.addr + min 65536 (4 * P - 65536 * p.1))) then .ok s1 none
    else
      .ok s1 (some ((List.range P).filterMap (fun n =>
        let v := BitVec.ofNat 16 (round16 (s1.memNat (paramAddr pages (4 * n)) 4))
        if v = 0 then none else some (n, v))))

/-- RCGEN_IMAGE_WRITE: θ goes into the image of the next generation, once no query reads it. -/
def execRcgenImageWrite (k : Nat) (s : State) : Host.Outcome State Fault Refusal :=
  match s.headOp k, s.inst? k with
  | some (id, o), some i =>
    if o.op != 4 || o.stage != 2 || s.querying k (some ((i.gen + 1).toNat % 2)) then .next s
    else
      match s.makeImage k i.unit i.cfg with
      | .wait s1 => .next s1
      | .fault s1 _ _ => .next ((s1.failInst k).rcReply id o (6 + i.gen.toNat * 2 ^ 32))
      | .ok s1 none => .next ((s1.failInst k).rcReply id o (6 + i.gen.toNat * 2 ^ 32))
      | .ok s1 (some t) => .next ((s1.adjInst k (fun i => i.setImage (i.gen + 1).toNat t)).setStage id 3)
  | _, _ => .next s

/-- The enabled clusters of the package, by number. -/
def State.enabledClusters (s : State) : List Nat :=
  s.sched.enabled.flatMap (fun e => ((List.range 40).filter (fun n => e.2.getLsbD n)).map (fun n => 40 * e.1 + n))

/-- RCU_GENERATION_SWITCH: one cluster switches; with the last enabled one the generation is published. -/
def execRcuGenerationSwitch (k cluster : Nat) (s : State) : Host.Outcome State Fault Refusal :=
  match s.headOp k, s.inst? k with
  | some (id, o), some i =>
    if o.op != 4 || o.stage != 3 then .next s
    else
      let now := NSet.insert i.switched cluster
      if s.enabledClusters.all now.contains then
        .next ((s.adjInst k (fun i => { i with gen := i.gen + 1, switched := [] })).rcReply id o ((i.gen + 1).toNat * 2 ^ 32))
      else .next (s.adjInst k (fun i => { i with switched := now }))
  | _, _ => .next s

/-! ## RCCFG.LOAD (R280) -/

/-- The bytes that images of instances homed on a die occupy. -/
def State.pinned (s : State) (die : Nat) : Nat := ((s.rc.insts.filter (fun e => e.2.cfg.home == die)).map (fun e => 2 * e.2.cfg.imageBytes)).foldl (· + ·) 0

/-- The checks and the effect of a LOAD whose record has been read. -/
def State.loadInst (s : State) (id : Nat) (o : RcOp) (g : RcConfig) : State :=
  let u : UnitCtx := { who := .die g.home, unit := 4, asid := o.asid, table := o.table }
  let P := g.params
  if (s.inst? o.inst).isSome then s.rcReply id o 4
  else if 2 ^ 28 < s.pinned g.home + 2 * g.imageBytes then s.rcReply id o 2
  else
    match s.paramPages u g ((List.range ((12 * P + 65535) / 65536)).map (fun p => p * 65536)) true with
    | .wait s1 => s1
    | .fault s1 _ _ => s1.rcReply id o 3
    | .ok s1 pages =>
      if pages.any (fun p => s1.path.writes.any (fun w => w.2.region == .loc && !w.2.accepted && w.2.die == g.home && p.2.addr ≤ 128 * w.2.line + 127 &&
          128 * w.2.line < p.2.addr + 65536)) then s1
      else if pages.any (fun p => !goodPage g p.2) then s1.rcReply id o 3
      else
        match s1.makeImage o.inst u g with
        | .wait s2 => s2
        | .fault s2 _ _ => s2.rcReply id o 3
        | .ok s2 none => s2.rcReply id o 6
        | .ok s2 (some t) =>
          let i : Instance := { cfg := g, asid := o.asid, table := o.table, gen := 0, img0 := t, img1 := [], bad0 := [], bad1 := [], steps := 0
                                p1 := BitVec.ofNat 32 one32, p2 := BitVec.ofNat 32 one32, paused := false, failed := false, dropping := false, queries := 0
                                samples := 0, dropped := 0, rejected := 0, skipped := 0, loss := 0, ring := [], epoch := [], switched := [] }
          let s3 := pages.foldl (fun s p =>
            let lo := max (4 * P) (65536 * p.1)
            let hi := min (12 * P) (65536 * (p.1 + 1))
            if lo < hi then s.clearRange (.optimiser o.inst) g.home (p.2.addr + lo % 65536) (hi - lo) else s) s2
          { s3 with
            frags := List.map (fun (e : Nat × Frag) => (e.1, { e.2 with gens := Tbl.set 0 e.2.gens o.inst 0 })) s3.frags
            rc := { s3.rc with insts := Tbl.put s3.rc.insts o.inst i } }.rcReply id o 0

/-- RCCFG_LOAD_DONE: the record is read and checked, and the instance starts. -/
def execRccfgLoadDone (k : Nat) (s : State) : Host.Outcome State Fault Refusal :=
  match s.headOp k with
  | none => .next s
  | some (id, o) =>
    if o.op != 0 then .next s
    else if o.arg % 64 != 0 then .next (s.rcReply id o 1)
    else
      match s.unitRead { who := .die (dieOf o.core), unit := 4, asid := o.asid, table := o.table } o.pend (BitVec.ofNat 64 o.arg) 256 with
      | .fault s1 _ _ => .next (s1.rcReply id o 7)
      | .wait s1 => .next s1
      | .ok s1 (bs, bad) =>
        if bad then .next (s1.rcReply id o 7)
        else
          match parseRecord bs with
          | none => .next (s1.rcReply id o 1)
          | some g => .next (s1.loadInst id o g)

end Sys2Proof.Machine
end

