-- ==== Sys2Proof/Machine/RayMath.lean ====
section
/-! DEFINITION. Machine/RayMath.lean: the exact geometry of rays, boxes and triangles (R285, R289 to R291, R306, R310). -/

namespace Sys2Proof.Machine

/-! ## Exact numbers: integers in units of 2^-149 -/

/-- A finite binary32 number in units of 2^-149. -/
def fix149 (b : BitVec 32) : Int :=
  match dec32 b.toNat with
  | .num s m e => signed s (m * 2 ^ (e + 149).toNat)
  | _ => 0

/-- n / d in units of 2^-149, rounded once to binary32 (d nonzero). -/
def roundQuotIn (mode : Nat) (n d : Int) : BitVec 32 :=
  let s := decide ((n < 0) ≠ (d < 0))
  let q := n.natAbs * 2 ^ 300 / d.natAbs
  if n = 0 then 0
  else BitVec.ofNat 32 (fmtF32.convertS false mode false 0 (.num s q (-449)) (n.natAbs * 2 ^ 300 % d.natAbs != 0)).1

def roundQuot (n d : Int) : BitVec 32 := roundQuotIn 0 n d

def finiteAll (l : List (BitVec 32)) : Bool := l.all (fun b => finite32 b.toNat)

def axis (l : List (BitVec 32)) (i : Nat) : BitVec 32 := l.getD i 0

/-! ## Nodes (R285, R286) -/

/-- The fields of a node. -/
structure BvhNode where
  org      : List (BitVec 32)
  exps     : List Nat
  count    : Nat
  leafbase : Nat
  parent   : Nat
  words    : List Nat
  qbox     : List Nat
  buildsa  : BitVec 32
  nflags   : Nat

def parseNode (bs : List Byte) : BvhNode :=
  { org := (List.range 3).map (fun i => BitVec.ofNat 32 (field bs (4 * i) 4)), exps := (List.range 3).map (fun i => field bs (0x0C + i) 1)
    count := field bs 0x0F 1, leafbase := field bs 0x10 8, parent := field bs 0x18 4, words := (List.range 8).map (fun i => field bs (0x20 + 4 * i) 4)
    qbox := (List.range 48).map (fun i => field bs (0x40 + i) 1), buildsa := BitVec.ofNat 32 (field bs 0x70 4), nflags := field bs 0x74 4 }

def childType (w : Nat) : Nat := w % 4
def childCnt (w : Nat) : Nat := w / 4 % 64
def childIndex (w : Nat) : Nat := w / 256

/-- A child word violates R286. -/
def badChild (blas : Bool) (w : Nat) : Bool :=
  match childType w with
  | 0 => false
  | 1 => childCnt w != 0
  | 2 => if blas then childCnt w == 0 else childCnt w != 1
  | _ => !blas || childCnt w == 0

/-- A malformed node (R286). -/
def badNode (blas : Bool) (bs : List Byte) : Bool :=
  let n := parseNode bs
  n.count == 0 || 8 < n.count || field bs 0x1C 4 != 0 || n.nflags / 2 != 0 || field bs 0x78 8 != 0 || n.exps.contains 0xFF || !finiteAll n.org ||
  (n.words.drop n.count).any (· != 0) || (n.words.take n.count).any (badChild blas)

/-- The exact bounds of a child on an axis, in units of 2^-149. -/
def BvhNode.bound (n : BvhNode) (c ax : Nat) (hi : Bool) : Int :=
  fix149 (axis n.org ax) + (n.qbox.getD (6 * c + 2 * ax + (if hi then 1 else 0)) 0 : Nat) * 2 ^ (n.exps.getD ax 0 + 22)

/-! ## The box test (R289) -/

/-- A lower or upper bound of t as a fraction with a positive denominator. -/
abbrev Ratio := Int × Int

def Ratio.le (a b : Ratio) : Bool := a.1 * b.2 ≤ b.1 * a.2

/-- The exact box meets the exact segment. -/
def boxMeets (org dir : List (BitVec 32)) (tmin tmax : BitVec 32) (lo hi : Nat → Int) : Bool :=
  let unit : Int := 2 ^ 149
  let axes := List.range 3
  let ok := axes.all (fun i => lo i ≤ hi i && (fix149 (axis dir i) != 0 || (lo i ≤ fix149 (axis org i) && fix149 (axis org i) ≤ hi i)))
  let span (i : Nat) : Option (Ratio × Ratio) :=
    let d := fix149 (axis dir i)
    let a := lo i - fix149 (axis org i)
    let b := hi i - fix149 (axis org i)
    if d = 0 then none else if 0 < d then some ((a, d), (b, d)) else some ((-b, -d), (-a, -d))
  let lows : List Ratio := (fix149 tmin, unit) :: axes.filterMap (fun i => (span i).map Prod.fst)
  let highs : List Ratio := (fix149 tmax, unit) :: axes.filterMap (fun i => (span i).map Prod.snd)
  ok && lows.all (fun l => highs.all (fun h => l.le h))

/-! ## Into object space (R290) -/

def toObject (m : List (BitVec 32)) (p : List (BitVec 32)) (point : Bool) : List (BitVec 32) :=
  (List.range 3).map (fun r =>
    let t (k : Nat) : Nat := mul32 (axis m (4 * r + k)).toNat (axis p k).toNat
    let z := add32 (add32 (t 0) (t 1)) (t 2)
    BitVec.ofNat 32 (if point then add32 z (axis m (4 * r + 3)).toNat else z))

def isZeroVec (d : List (BitVec 32)) : Bool := d.all (fun b => b.toNat % 2 ^ 31 = 0)

/-! ## The triangle test (R291) -/

/-- Owns(edge P to Q) on exact coordinates (x, y). -/
def owns (p q : Int × Int) : Bool := 0 < q.2 - p.2 || (q.2 = p.2 && q.1 - p.1 < 0)

/-- A hit of a triangle: t, u, v and its facing. -/
def triHit (org dir : List (BitVec 32)) (vs : List (BitVec 32)) : Option (BitVec 32 × BitVec 32 × BitVec 32 × Bool) :=
  let mag (i : Nat) : Nat := (axis dir i).toNat % 2 ^ 31
  let kz := if mag 1 ≤ mag 0 && mag 2 ≤ mag 0 then 0 else if mag 2 ≤ mag 1 then 1 else 2
  let down := fix149 (axis dir kz) < 0
  let kx := if down then (kz + 2) % 3 else (kz + 1) % 3
  let ky := if down then (kz + 1) % 3 else (kz + 2) % 3
  let d (i : Nat) : Nat := (axis dir i).toNat
  let sx := div32 (d kx) (d kz)
  let sy := div32 (d ky) (d kz)
  let sz := div32 one32 (d kz)
  let q (v i : Nat) : Nat := sub32 (axis vs (3 * v + i)).toNat (axis org i).toNat
  let px (v : Nat) : Nat := sub32 (q v kx) (mul32 sx (q v kz))
  let py (v : Nat) : Nat := sub32 (q v ky) (mul32 sy (q v kz))
  let pz (v : Nat) : Nat := mul32 sz (q v kz)
  let used := [sx, sy, sz] ++ (List.range 3).flatMap (fun v => [q v 0, q v 1, q v 2, px v, py v, pz v])
  if !finiteAll vs || used.any (fun b => !finite32 b) || isZeroVec dir then none
  else
    let p (v : Nat) : Int × Int := (fix149 (BitVec.ofNat 32 (px v)), fix149 (BitVec.ofNat 32 (py v)))
    let z (v : Nat) : Int := fix149 (BitVec.ofNat 32 (pz v))
    let cross (a b : Nat) : Int := (p a).1 * (p b).2 - (p a).2 * (p b).1
    let u := cross 2 1
    let v := cross 0 2
    let w := cross 1 0
    let det := u + v + w
    if det = 0 then none
    else
      let inside (val : Int) (a b : Nat) : Bool :=
        if det < 0 then 0 < -val || (val = 0 && owns (p b) (p a)) else 0 < val || (val = 0 && owns (p a) (p b))
      if !(inside u 1 2 && inside v 2 0 && inside w 0 1) then none
      else
        let fx (b : BitVec 32) : Int := fix149 b
        let e (k i : Nat) : Int := fx (axis vs (3 * k + i)) - fx (axis vs i)
        let nrm (i : Nat) : Int := e 1 ((i + 1) % 3) * e 2 ((i + 2) % 3) - e 1 ((i + 2) % 3) * e 2 ((i + 1) % 3)
        let side := (List.range 3).foldl (fun s i => s + fx (axis dir i) * nrm i) 0
        some (roundQuot (u * z 0 + v * z 1 + w * z 2) det, roundQuot (v * 2 ^ 149) det, roundQuot (w * 2 ^ 149) det, decide (side < 0))

/-! ## Quantised boxes (R289, R306) -/

/-- The exponent of an axis: the smallest e with hi - lo at most 255 x 2^(e - 127). -/
def boxExp (span : Int) : Nat := ((List.range 255).find? (fun e => span ≤ 255 * 2 ^ (e + 22))).getD 254

/-- A box's lower bound as a binary32 number: exact, or the next one below, so that the box still holds it. -/
def originOf (n : Int) : BitVec 32 := roundQuotIn 3 n 1

/-- Floor and ceiling of n / d for positive d, as bytes. -/
def floorByte (n d : Int) : Nat := (n / d).toNat
def ceilByte (n d : Int) : Nat := (-((-n) / d)).toNat

/-- QUAL's area: the surface of a box from its exact bounds (R306). -/
def boxArea (lo hi : Nat → Int) : Nat :=
  let e (i : Nat) : Nat := (roundQuot (hi i - lo i) 1).toNat
  mul32 (natF32 2) (add32 (add32 (mul32 (e 0) (e 1)) (mul32 (e 1) (e 2))) (mul32 (e 2) (e 0)))

end Sys2Proof.Machine
end

