-- ==== Sys2Proof/Machine/Rays.lean ====
section
/-! DEFINITION. Machine/Rays.lean: TRACE, inline queries, hit attributes and the traversal of rays (R285 to R304). -/

namespace Sys2Proof.Machine

/-! ## Jobs -/

def State.ray? (s : State) (id : Nat) : Option RayJob := Tbl.find s.gfx.rays id
def State.setRay (s : State) (id : Nat) (j : RayJob) : State := { s with gfx := { s.gfx with rays := Tbl.put s.gfx.rays id j } }
def State.dropRay (s : State) (id : Nat) : State := { s with gfx := { s.gfx with rays := Tbl.drop s.gfx.rays id } }

/-- A lane's inline query (R302). -/
def State.query? (s : State) (w lane : Nat) : Option (Nat × RayJob) := s.gfx.rays.find? (fun e => e.2.inline && e.2.wave == w && e.2.lane == lane)

/-- The ray whose shader runs in a lane (R298). -/
def State.shaded? (s : State) (w lane : Nat) : Option (Nat × ShaderKind × RayJob) :=
  s.gfx.rays.findSome? (fun e => match e.2.stage with
    | .shading k v l => if v == w && l == lane then some (e.1, k, e.2) else none
    | _ => none)

/-- The unit that a ray's accesses belong to (R85, R149). -/
def RayJob.unit (j : RayJob) : UnitCtx := { who := .core j.core, unit := 1, asid := j.asid, table := j.table }

/-- The ray registers of a lane (R296). -/
def rayOf (vs : List Word) : Ray :=
  let e (i h : Nat) : BitVec 32 := BitVec.ofNat 32 (elem 32 (vs.getD i 0) h)
  ⟨[e 0 0, e 0 1, e 1 0], e 1 1, [e 2 0, e 2 1, e 3 0], e 3 1⟩

/-- The ray may be traversed (R296). -/
def Ray.valid (r : Ray) : Bool :=
  finiteAll (r.org ++ r.dir ++ [r.tmin, r.tmax]) && !isZeroVec r.dir && 0 ≤ fix149 r.tmin && fix149 r.tmin ≤ fix149 r.tmax

def raySources (x : ExtWord) : List Src := (List.range 4).map (fun i => src 1 { x.a with num := x.a.num + BitVec.ofNat 8 i } 6)

/-- The fields of C: the ray mask and the flags (R294). -/
def ctlMask (v : Nat) : Nat := v % 256
def ctlFlag (v b : Nat) : Bool := v.testBit b

/-- A job as it begins. -/
def newRay (c : Ctx) (x : ExtWord) (inline : Bool) (pend lane : Nat) : RayJob :=
  { inline := inline, wave := c.w, lane := lane, pend := pend, ord := pend, own := heldLanes c.W c.F, grid := c.T.grid, asid := c.T.asid
    table := c.T.table, core := c.W.core, desc := c.F.scalar x.b.num.toNat, info := none, ray := rayOf (c.values x (raySources x) lane).1
    ctl := (c.count x x.c).toNat % 2 ^ 15, todo := [], seen := [], hit := none, cand := none, decision := 0, payload := [], ran := false
    failed := false, stage := .fresh }

/-- Put jobs into the table under fresh identities. -/
def State.addRays (s : State) (js : List RayJob) : State :=
  js.foldl (fun s j => { (s.setRay s.nextId j) with nextId := s.nextId + 1 }) s

/-- The predicate pS of TRACE and TEX, where it is named (R294). -/
def predOfMod (x : ExtWord) : Option Nat := if x.mod.getLsbD 5 then some ((x.mod &&& 31).toNat) else none

/-- TRACE: a release at DEVICE scope, then one ray for each participating lane (R296, R300). -/
def traceBody (x : ExtWord) (c : Ctx) (s : State) : Res :=
  let part := c.part x
  let n := x.x.toNat
  if part = 0 then .done s
  else if s.acquiring c.w s.nextId (heldLanes c.W c.F) then .stall
  else
    match c.rowSources x (raySources x) part s with
    | .error t => .trap t
    | .ok s1 =>
      let d := x.d.num.toNat
      let dst : Dest := match predOfMod x with
        | some p => if n = 0 then .pred p else .both d n p
        | none => if n = 0 then .none else .vec d n
      let r := (s1.nextEpoch c.w true).addPend
        { wave := c.w, lanes := part, own := heldLanes c.W c.F, ord := s1.nextId, tok := x.tok.toNat, dst := dst, pc := c.F.pc, rwc := c.F.rwc, cls := c.cls, op := c.op, kind := .command }
      let job (l : Nat) : RayJob := { newRay c x false r.1 l with payload := (List.range n).map (fun i => c.W.reg l (d + i)) }
      .done ((r.2.addRays (part.lanes.map job)).adjFrag c.f (fun F => F.mark x.tok.toNat))
def execTrace (w : ExtWord) (s : State) : Host.Outcome State Fault Refusal := issue (.trace w) (traceBody w) s

/-! ## Inline queries (R302) -/

/-- A query of one of the lanes has an instruction outstanding. -/
def State.queryBusy (s : State) (w : Nat) (lanes : Mask) : Bool :=
  s.gfx.rays.any (fun e => e.2.inline && e.2.wave == w && lanes.has e.2.lane && (Tbl.find s.pend e.2.pend).isSome &&
    (match e.2.stage with | .fresh => true | .walking => true | .ending _ => true | _ => false))

/-- RQINIT: the query of each lane is replaced; the token completes when its descriptor has been read. -/
def rqinitBody (x : ExtWord) (c : Ctx) (s : State) : Res :=
  let part := c.part x
  if part = 0 then .done s
  else if s.acquiring c.w s.nextId (heldLanes c.W c.F) || s.queryBusy c.w part then .stall
  else
    match c.rowSources x (raySources x) part s with
    | .error t => .trap t
    | .ok s1 =>
      let keep := List.filter (fun (e : Nat × RayJob) => !(e.2.inline && e.2.wave == c.w && part.has e.2.lane)) s1.gfx.rays
      let s2 := { s1 with gfx := { s1.gfx with rays := keep } }
      let r := s2.addPend { wave := c.w, lanes := part, own := heldLanes c.W c.F, ord := s2.nextId, tok := x.tok.toNat, dst := .none, pc := c.F.pc, rwc := c.F.rwc, cls := c.cls
                            op := c.op, kind := .command }
      .done (r.2.addRays (part.lanes.map (newRay c x true r.1)))
def execRqinit (w : ExtWord) (s : State) : Host.Outcome State Fault Refusal := issue (.rqinit w) (rqinitBody w) s

/-- RQSTEP: false at once for a lane without an open query; the others go on, and a candidate still undecided is ignored. -/
def rqstepBody (x : ExtWord) (c : Ctx) (s : State) : Res :=
  let part := c.part x
  let open_ (l : Nat) : Bool := match s.query? c.w l with | some (_, j) => j.stage == .idle | none => false
  let going := Mask.ofList (part.lanes.filter open_)
  if part = 0 then .done s
  else if s.acquiring c.w s.nextId (heldLanes c.W c.F) || s.queryBusy c.w part then .stall
  else
    let s1 := s.setPred c.w x.d.num.toNat (part &&& ~~~going) 0
    if going = 0 then .done s1
    else
      let r := s1.addPend { wave := c.w, lanes := going, own := heldLanes c.W c.F, ord := s1.nextId, tok := x.tok.toNat, dst := .pred x.d.num.toNat
                            pc := c.F.pc, rwc := c.F.rwc, cls := c.cls, op := c.op, kind := .command }
      let step (j : RayJob) : RayJob :=
        if j.inline && j.wave == c.w && going.has j.lane then { j with stage := .walking, cand := none, pend := r.1, ord := r.1, own := heldLanes c.W c.F } else j
      .done { r.2 with gfx := { r.2.gfx with rays := r.2.gfx.rays.map (fun e => (e.1, step e.2)) } }
def execRqstep (w : ExtWord) (s : State) : Host.Outcome State Fault Refusal := issue (.rqstep w) (rqstepBody w) s

/-! ## Attributes and decisions (R303, R304) -/

/-- A pair of 32-bit elements. -/
def pairWord (a b : Nat) : Word := BitVec.ofNat 64 (a % 2 ^ 32 + b % 2 ^ 32 * 2 ^ 32)

def Hit.attr (h : Hit) (sel : Nat) : VReg :=
  match sel with
  | 0 => ⟨pairWord h.t.toNat 0, 6⟩
  | 1 => ⟨pairWord h.u.toNat h.v.toNat, 6⟩
  | 2 => ⟨pairWord h.prim h.geom, 2⟩
  | 3 => ⟨pairWord h.iid h.inst, 2⟩
  | _ => ⟨pairWord (if h.front then 1 else 2) h.entry, 2⟩

def Ray.reg (r : Ray) (i : Nat) : VReg :=
  let p (a b : BitVec 32) : VReg := ⟨pairWord a.toNat b.toNat, 6⟩
  match i with
  | 0 => p (axis r.org 0) (axis r.org 1)
  | 1 => p (axis r.org 2) r.tmin
  | 2 => p (axis r.dir 0) (axis r.dir 1)
  | _ => p (axis r.dir 2) r.tmax

/-- What HITGET reads in a lane: zero tagged RAW where the lane has no such hit. A miss lane has its ray and KIND 0, and a failed query KIND 3
(R302, R303); of a shader lane with an inline query the shader's ray counts (log entry 100). -/
def State.hitAttr (s : State) (w lane sel : Nat) (cand : Bool) : VReg :=
  let ctx : Option (RayJob × Option ShaderKind) := match s.shaded? w lane with
    | some (_, k, j) => some (j, some k)
    | none => (s.query? w lane).map (fun e => (e.2, none))
  match ctx with
  | none => VReg.zero
  | some (j, k) =>
    let h := if cand then (if k == some ShaderKind.closest || k == some ShaderKind.miss then none else j.cand) else j.hit
    let miss := !cand && k == some ShaderKind.miss
    if j.failed && sel = 4 && !cand then ⟨pairWord 3 0, 2⟩
    else
      match h with
      | some h => if 5 ≤ sel then j.ray.reg (sel - 5) else h.attr sel
      | none => if miss && 5 ≤ sel then j.ray.reg (sel - 5) else if miss && sel = 4 then ⟨0, 2⟩ else VReg.zero

def hitgetBody (x : ExtWord) (c : Ctx) (s : State) : Res :=
  let part := c.part x
  if s.queryBusy c.w part then .stall
  else .done (part.lanes.foldl (fun t l => t.setReg c.w l x.d.num.toNat (s.hitAttr c.w l x.x.toNat (x.sub.getLsbD 0))) s)
def execHitget (w : ExtWord) (s : State) : Host.Outcome State Fault Refusal := issue (.hitget w) (hitgetBody w) s

/-- One candidate is preferred to the committed hit (R293). -/
def Hit.before (a b : Hit) : Bool :=
  let ta := fix149 a.t
  let tb := fix149 b.t
  ta < tb || (ta = tb && (a.inst < b.inst || (a.inst = b.inst && a.block < b.block)))

/-- An accepted candidate: committed where it is preferred, and the end of traversal where it asks for it (R299). -/
def RayJob.accept (j : RayJob) (h : Hit) (stop : Bool) : RayJob :=
  let better := match j.hit with | none => true | some b => h.before b
  let j1 := if better then { j with hit := some h, ray := { j.ray with tmax := h.t } } else j
  if stop || ctlFlag j.ctl 9 then { j1 with todo := [] } else j1

/-- HITACC (1, or 2 with .END) and HITIGN (3) in one lane: the decision of an any-hit lane, and a pending inline candidate's end (R304). -/
def State.decideHit (s : State) (w lane d : Nat) : State :=
  let s1 := match s.shaded? w lane with
    | some (id, k, j) => if k == ShaderKind.anyHit then s.setRay id { j with decision := d } else s
    | none => s
  match s1.query? w lane with
  | some (id, j) =>
    (match j.cand with
     | some h => s1.setRay id { (if d = 3 then j else j.accept h (d = 2)) with cand := none }
     | none => s1)
  | none => s1

def decideBody (x : ExtWord) (d : Nat) (c : Ctx) (s : State) : Res :=
  let part := c.part x
  if s.queryBusy c.w part then .stall else .done (part.lanes.foldl (fun s l => s.decideHit c.w l d) s)
def execHitacc (w : ExtWord) (s : State) : Host.Outcome State Fault Refusal :=
  issue (.hitacc w) (decideBody w (if w.mod.getLsbD 0 then 2 else 1)) s
def execHitign (w : ExtWord) (s : State) : Host.Outcome State Fault Refusal := issue (.hitign w) (decideBody w 3) s

/-! ## The end of a ray (R296, R298, R300) -/

/-- A ray or query is to end, FAILED or not, once the feedback reductions it has sent are performed (R301). -/
def State.endRay (s : State) (id : Nat) (j : RayJob) (failed : Bool) : State :=
  (s.unitDone id).setRay id { j with stage := .ending failed, todo := [], failed := failed, cand := if failed || j.inline then none else j.cand }

/-- A ray goes on: what it has read for this step is done with. -/
def State.rayNext (s : State) (id : Nat) (j : RayJob) : State := (s.unitDone id).setRay id j

/-- A ray's results reach its lane, and its token completes there (R296). -/
def State.closeRay (s : State) (id : Nat) (j : RayJob) (failed : Bool) : State :=
  let s0 := (s.dropRay id).unitDone id
  match Tbl.find s0.pend j.pend with
  | none => s0
  | some p =>
    if !p.lanes.has j.lane then s0
    else
      let regs := match p.dst with | .vec d n => (List.range n).map (fun i => d + i) | .both d n _ => (List.range n).map (fun i => d + i) | _ => []
      let val (i : Nat) : VReg := if failed then VReg.zero else j.payload.getD i VReg.zero
      let s1 := if failed || j.ran then regs.zipIdx.foldl (fun s r => s.setReg j.wave j.lane r.1 (val r.2)) s0 else s0
      let pr := match p.dst with | .pred q => some q | .both _ _ q => some q | _ => none
      let s2 := match pr with | some q => s1.setPred j.wave q (Mask.one j.lane) (if failed then BitVec.allOnes 64 else 0) | none => s1
      s2.completeLanes j.pend (Mask.one j.lane)

/-- An inline query stops: at a candidate, or at its end (R302). -/
def State.stopQuery (s : State) (id : Nat) (j : RayJob) (stage : RayStage) (found : Bool) : State :=
  let s1 := (s.setRay id { j with stage := stage }).unitDone id
  match Tbl.find s1.pend j.pend with
  | none => s1
  | some p =>
    match p.dst with
    | .pred q => (s1.setPred j.wave q (Mask.one j.lane &&& p.lanes) (if found then BitVec.allOnes 64 else 0)).completeLanes j.pend (Mask.one j.lane)
    | _ => s1.completeLanes j.pend (Mask.one j.lane)

/-- A ray or query has become FAILED; `counted` in TRFAIL where traversal made it so (R298). -/
def State.failRay (s : State) (id : Nat) (j : RayJob) (counted : Bool) : State :=
  (if counted then s.count ctrTRFAIL j.core 1 else s).endRay id j true

/-! ## RAY_NODE_VISIT (R289 to R301) -/

/-- Read for a ray; a fault or poison makes it FAILED. The answers from windows stay until its step is done, since a step may read more than
once. -/
def State.rayRead (s : State) (id : Nat) (j : RayJob) (va n : Nat) (k : State → List Byte → State) : State :=
  match s.unitRead j.unit id (BitVec.ofNat 64 va) n with
  | .fault s1 _ _ => s1.failRay id j true
  | .wait s1 => s1
  | .ok s1 (bs, bad) => if bad then s1.failRay id j true else k s1 bs

/-- The descriptor (R295). -/
def parseTrace (bs : List Byte) : TraceDesc :=
  { root := field bs 0 8, inst := field bs 8 8, table := field bs 0x10 8, ntab := field bs 0x18 4, miss := field bs 0x20 8
    pagebase := field bs 0x28 8, resmap := field bs 0x30 8, fbmap := field bs 0x38 8 }

/-- The descriptor is read, and the ray begins at the root or, where it cannot be traversed, at its end. -/
def State.startRay (s : State) (id : Nat) (j : RayJob) : State :=
  if j.desc.toNat % 64 != 0 then s.failRay id j true
  else
    s.rayRead id j j.desc.toNat 64 (fun s bs =>
      if field bs 0x1C 4 != 0 then s.failRay id j true
      else
        let j1 := { j with info := some (parseTrace bs), todo := if j.ray.valid then [.node none 0] else [] }
        if j.inline then s.stopQuery id j1 .idle false else s.rayNext id { j1 with stage := .walking })

/-- The shader-table entry of an index: its closest-hit or any-hit address; none where the ray is FAILED instead. -/
def State.shaderEntry (s : State) (id : Nat) (j : RayJob) (t : TraceDesc) (idx off : Nat) (k : State → Nat → State) : State :=
  if t.table = 0 then k s 0
  else if t.ntab ≤ idx then s.failRay id j false
  else s.rayRead id j ((t.table + 16 * idx + off) % 2 ^ 64) 8 (fun s bs => k s (bytesNat bs))

/-- Traversal is over (R296 step 5, R302). -/
def State.endWalk (s : State) (id : Nat) (j : RayJob) (t : TraceDesc) : State :=
  if j.inline then s.endRay id j false
  else
    match j.hit with
    | some h =>
      if ctlFlag j.ctl 10 then s.endRay id j false
      else s.shaderEntry id j t h.entry 0 (fun s a => if a = 0 then s.endRay id j false else s.rayNext id { j with stage := .wants .closest a })
    | none => if t.miss = 0 then s.endRay id j false else s.setRay id { j with stage := .wants .miss t.miss }

/-- One 32-bit OR reduction on its way to its home (R301). -/
def State.sendOr (s : State) (die core : Nat) (source : WriteSource) (va : Word) (p : Piece) (bit : Nat) : State :=
  let a : LaneAcc := ⟨0, va, [p], [], BitVec.ofNat 64 (2 ^ bit), 0⟩
  let r := s.putWrite { source := source, die := die, core := core, region := p.region, line := p.addr / 128, cells := [], bad := []
                        op := .rmw 4 2 false false false false 4, steps := [a], release := false, scope := 4, accepted := false, invals := [], acks := [], uc := p.mt == 2 }
  if p.region == .loc then r.2.rdcDropSectors die (if homeOf p.addr != die then [p.addr / 32] else [])
  else r.2.sendRemote none (some r.1) (unitLane 5 die) va p.region p.addr (.atomic 4 2 false false false (BitVec.ofNat 64 (2 ^ bit)) 0 4)

/-- The word of a feedback map that holds a page's or a tile's bit, and the bit in it. -/
def feedbackWord (map n : Nat) : Word := BitVec.ofNat 64 ((map + n / 8) / 4 * 4)
def feedbackBit (map n : Nat) : Nat := (map + n / 8) % 4 * 8 + n % 8

/-- The bit of a page in a feedback map is set by a relaxed OR (R301). -/
def State.feedback (s : State) (u : UnitCtx) (core : Nat) (source : WriteSource) (map page : Nat) : UnitAcc Unit :=
  let va := feedbackWord map page
  match s.engineAccess u.who u.asid u.table u.unit va 4 .atomic .none with
  | .fault x => .fault (s.logWalk u.loc 0xFF u.who.die? ⟨x, va⟩) x va
  | .wait w => .wait (s.hostWait w)
  | .ok ps => .ok ((s.fillTlb u.who u.asid u.table va).sendOr u.who.die? core source va (ps.headD ⟨.loc, 0, 4, 0⟩) (feedbackBit map page)) ()

/-- A child of a node that the ray meets, or that the unit descends into all the same. -/
def metChildren (j : RayJob) (inst : Option RayInst) (n : BvhNode) (free : Nat) : List Nat :=
  let org := match inst with | some i => i.org | none => j.ray.org
  let dir := match inst with | some i => i.dir | none => j.ray.dir
  (List.range n.count).filter (fun c => childType (n.words.getD c 0) != 0 &&
    (boxMeets org dir j.ray.tmin j.ray.tmax (fun a => n.bound c a false) (fun a => n.bound c a true) || Config.freeBool (free + c)))

/-- The blocks of a leaf. -/
def leafBlocks (i : RayInst) (n : BvhNode) (w : Nat) : List Visit :=
  (List.range (childCnt w)).map (fun k => .block i ((n.leafbase + 64 * (childIndex w + k)) % 2 ^ 64))

/-- The page of a paged leaf (R301). -/
def leafPage (t : TraceDesc) (n : BvhNode) (w : Nat) : Nat := (n.leafbase + 64 * childIndex w + 2 ^ 64 - t.pagebase) % 2 ^ 64 / 65536

/-- The residency of the paged leaves among some children is read (R301): what follows gets the pages that are not resident. -/
def State.residency (s : State) (id : Nat) (j : RayJob) (t : TraceDesc) (n : BvhNode) (k : State → List Nat → State) : List Nat → List Nat → State
  | [], gone => k s gone
  | c :: cs, gone =>
    let w := n.words.getD c 0
    if childType w != 3 || t.resmap = 0 then s.residency id j t n k cs gone
    else
      s.rayRead id j ((t.resmap + leafPage t n w / 8) % 2 ^ 64) 1 (fun s bs =>
        s.residency id j t n k cs (if (bytesNat bs).testBit (leafPage t n w % 8) then gone else gone ++ [leafPage t n w]))

/-- The feedback bits of some pages are set, once every one of their words can be reached (R301). -/
def State.feedbackAll (s : State) (u : UnitCtx) (core : Nat) (source : WriteSource) (map : Nat) (pages : List Nat) : UnitAcc Unit :=
  match s.unitReach u .atomic .none ((pages.map (fun p => (feedbackWord map p, 4))).eraseDups) with
  | .fault s1 x va => .fault s1 x va
  | .wait s1 => .wait s1
  | .ok s1 _ => pages.foldl (fun r p => match r with
      | .ok s _ => s.feedback u core source map p
      | r => r) (.ok s1 ())

/-- What is left to visit below some children of a node. -/
def below (t : TraceDesc) (inst : Option RayInst) (n : BvhNode) (gone : List Nat) (c : Nat) : List Visit :=
  let w := n.words.getD c 0
  match childType w, inst with
  | 1, _ => [.node inst (childIndex w)]
  | 2, none => [.entry (childIndex w)]
  | 2, some i => leafBlocks i n w
  | 3, some i => if gone.contains (leafPage t n w) then [] else leafBlocks i n w
  | _, _ => []

/-- The ray goes on below some children of a node; the pages that it misses are reported (R301). -/
def State.descend (s : State) (id : Nat) (j : RayJob) (t : TraceDesc) (inst : Option RayInst) (n : BvhNode) (cs : List Nat) : State :=
  s.residency id j t n (fun s gone =>
    let j1 := { j with todo := j.todo ++ cs.flatMap (below t inst n gone) }
    if t.fbmap = 0 || gone.isEmpty then s.rayNext id j1
    else
      match s.feedbackAll j.unit j.core (.op id) t.fbmap gone.eraseDups with
      | .fault s1 _ _ => s1.failRay id j true
      | .wait s1 => s1
      | .ok s1 _ => s1.rayNext id j1) cs []

/-- A node: its boxes are tested (R289). -/
def State.visitNode (s : State) (id : Nat) (j : RayJob) (t : TraceDesc) (inst : Option RayInst) (n : Nat) : State :=
  let root := match inst with | some i => i.root | none => t.root
  s.rayRead id j ((root + 128 * n) % 2 ^ 64) 128 (fun s bs =>
    if badNode inst.isSome bs then s.failRay id j true
    else
      let node := parseNode bs
      let s1 := { s with free := s.free + 8 }
      s1.descend id j t inst node (metChildren j inst node s.free))

/-- An instance: the ray enters its object space (R288, R290). -/
def State.visitEntry (s : State) (id : Nat) (j : RayJob) (t : TraceDesc) (idx : Nat) : State :=
  s.rayRead id j ((t.inst + 64 * idx) % 2 ^ 64) 64 (fun s bs =>
    let m := (List.range 12).map (fun i => BitVec.ofNat 32 (field bs (4 * i) 4))
    let org := toObject m j.ray.org true
    let dir := toObject m j.ray.dir false
    let iid := field bs 0x38 4
    let i : RayInst := { idx := idx, iid := iid % 2 ^ 24, flags := field bs 0x3C 4, root := field bs 0x30 8, org := org, dir := dir }
    if (iid / 2 ^ 24) &&& ctlMask j.ctl = 0 || !finiteAll (org ++ dir) || isZeroVec dir then s.rayNext id j
    else s.rayNext id { j with todo := j.todo ++ [.node (some i) 0] })

/-- A triangle block: its triangle is tested, and a candidate accepted, presented or culled (R291, R294, R299, R302). -/
def State.visitBlock (s : State) (id : Nat) (j : RayJob) (t : TraceDesc) (i : RayInst) (addr : Nat) : State :=
  s.rayRead id j addr 64 (fun s bs =>
    match triHit i.org i.dir ((List.range 9).map (fun k => BitVec.ofNat 32 (field bs (4 * k) 4))) with
    | none => s.rayNext id j
    | some (tt, u, v, front) =>
      let inRange := finite32 tt.toNat && fix149 j.ray.tmin ≤ fix149 tt && fix149 tt ≤ fix149 j.ray.tmax
      let opaque_ := (field bs 0x2A 2).testBit 0 || i.flags.testBit 16 || ctlFlag j.ctl 8
      let culled := !i.flags.testBit 17 && ((ctlFlag j.ctl 11 && !front) || (ctlFlag j.ctl 12 && front) || (ctlFlag j.ctl 13 && opaque_) ||
        (ctlFlag j.ctl 14 && !opaque_))
      let h : Hit := { t := tt, u := u, v := v, prim := field bs 0x24 4, geom := field bs 0x28 2, iid := i.iid, inst := i.idx
                       entry := i.flags % 2 ^ 16 + field bs 0x28 2, front := front, block := addr }
      let j1 := { j with seen := j.seen ++ [(i.idx, addr)] }
      if !inRange || culled || j.seen.contains (i.idx, addr) then s.rayNext id j
      else if opaque_ then s.rayNext id (j1.accept h false)
      else if j.inline then s.stopQuery id { j1 with cand := some h } .idle true
      else s.shaderEntry id j t h.entry 8 (fun s a =>
        if a = 0 then s.rayNext id (j1.accept h false) else s.rayNext id { j1 with cand := some h, decision := 0, stage := .wants .anyHit a }))

/-- An any-hit lane has left by EXIT: its decision counts (R299). -/
def RayJob.decided (j : RayJob) : RayJob :=
  let j1 := match j.cand with
    | some h => if j.decision = 3 then j else j.accept h (j.decision = 2)
    | none => j
  { j1 with cand := none, decision := 0, stage := .walking, ran := true }

/-- The stores and atomics that a shader lane had admitted by its EXIT have been performed at DEVICE scope (R298). -/
def State.exitDone (s : State) (w ord : Nat) : Bool :=
  match s.wave? w with
  | none => true
  | some W => s.storesDone w W ord 4 false &&
      !s.pend.any (fun e => e.2.wave == w && e.2.ord < ord && (match e.2.kind with | .atom _ _ _ _ _ _ _ => true | _ => false))

/-- The reductions that a ray has sent are performed at DEVICE scope, and those beyond the device have ended. -/
def State.raySettled (s : State) (id : Nat) : Bool := !s.path.writes.any (fun e => e.2.source == .op id && (e.2.short 4 || e.2.region != .loc))

/-- A ray that is to end does so once its reductions have settled (R301). -/
def State.finishRay (s : State) (id : Nat) (j : RayJob) (failed : Bool) : State :=
  let s1 := (s.settleUnit (.op id)).1
  if !s1.raySettled id then s1 else if j.inline then s1.stopQuery id j .finished false else s1.closeRay id j failed

/-- RAY_NODE_VISIT: a ray takes its next step. -/
def State.visitRay (s : State) (id : Nat) : State :=
  match s.ray? id with
  | none => s
  | some j =>
    match j.stage, j.info with
    | .fresh, _ => if !j.inline && !s.releaseReady j.wave j.ord j.own 4 then s else s.startRay id j
    | .walking, some t =>
      match j.todo with
      | [] => s.endWalk id j t
      | v :: vs =>
        let k := if s.path.remote.any (fun e => e.2.pend == some id) then 0 else Config.freeNat s.free % (v :: vs).length
        let x := (v :: vs).getD k v
        let j1 := { j with todo := (v :: vs).eraseIdx k }
        let s1 := { s with free := s.free + 1 }.setRay id { j with todo := x :: j1.todo }
        match x with
        | .node i n => s1.visitNode id j1 t i n
        | .entry idx => s1.visitEntry id j1 t idx
        | .block i a => s1.visitBlock id j1 t i a
    | .shading _ w l, _ =>
      match s.wave? w with
      | some W => if W.live.has l then s else s.failRay id j false
      | none => s.failRay id j false
    | .exited k w ord, _ =>
      if !s.exitDone w ord then s
      else if k == ShaderKind.anyHit then s.setRay id j.decided
      else s.endRay id { j with ran := true } false
    | .ending failed, _ => s.finishRay id j failed
    | _, _ => s

def execRayNodeVisit (id : Nat) (s : State) : Host.Outcome State Fault Refusal := .next (s.visitRay id)

end Sys2Proof.Machine
end

