-- ==== Sys2Proof/Machine/Raster.lean ====
section
/-! DEFINITION. Machine/Raster.lean: refits, visibility buffers and textures (R305 to R312). -/

namespace Sys2Proof.Machine

/-! ## REFIT (R305 to R307) -/

/-- REFIT and VBLD write a status into S[D]: their outstanding instruction. -/
def unitPend (c : Ctx) (x : ExtWord) (ord : Nat) : Pend :=
  { wave := c.w, lanes := heldLanes c.W c.F, own := heldLanes c.W c.F, ord := ord, tok := x.tok.toNat, dst := .scal x.d.num.toNat 1, pc := c.F.pc, rwc := c.F.rwc, cls := c.cls
    op := c.op, kind := .command }

def refitBody (x : ExtWord) (c : Ctx) (s : State) : Res :=
  if s.acquiring c.w s.nextId (heldLanes c.W c.F) then .stall
  else
    let r := s.addPend (unitPend c x s.nextId)
    let q : Refit := { die := dieOf c.W.core, pend := r.1, wave := c.w, asid := c.T.asid, table := c.T.table, desc := c.F.scalar x.a.num.toNat
                       stage := 0, root := 0, nodes := 0, thresh := 0, ctr := 0, next := 0, chain := none, parent := none, qual := 0, status := 0 }
    .done ({ r.2 with gfx := { r.2.gfx with refits := Tbl.put r.2.gfx.refits r.2.nextId q }, nextId := r.2.nextId + 1 }.adjFrag c.f
      (fun F => F.mark x.tok.toNat))
def execRefit (w : ExtWord) (s : State) : Host.Outcome State Fault Refusal := issue (.refit w) (refitBody w) s

def Refit.unit (q : Refit) : UnitCtx := { who := .die q.die, unit := 2, asid := q.asid, table := q.table }
def State.setRefit (s : State) (id : Nat) (q : Refit) : State := { s with gfx := { s.gfx with refits := Tbl.put s.gfx.refits id q } }
def Refit.node (q : Refit) (n : Nat) : Word := BitVec.ofNat 64 (q.root + 128 * n)

/-- After a status other than 0 the node boxes and counters are unspecified: free values, where they can be written. -/
def State.scramble (s : State) (q : Refit) : State :=
  let open_ (va : Word) (n : Nat) : Word × List Byte := (va, (List.range n).map (fun i => Config.freeByte s.free (va.toNat + i)))
  let put (s : State) (ws : List (Word × List Byte)) : State :=
    match s.unitStoreAll q.unit (.op q.pend) ws with
    | .ok s1 _ => s1
    | _ => s
  (List.range q.nodes).foldl (fun s n => put (put s [open_ (q.node n) 15, open_ (q.node n + 0x40) 48]) [open_ (BitVec.ofNat 64 (q.ctr + 4 * n)) 4])
    { s with free := s.free + 1 }

/-- A REFIT is over but for its writes. -/
def State.endRefit (s : State) (id : Nat) (q : Refit) (status : Nat) : State :=
  let s1 := if status = 0 then s else s.scramble q
  (s1.unitDone id).setRefit id { q with stage := 2, status := status }

/-- Read for a REFIT: a fault gives status 2, poison status 3. -/
def State.refitRead (s : State) (id : Nat) (q : Refit) (va : Word) (n : Nat) (k : State → List Byte → State) : State :=
  match s.unitRead q.unit id va n with
  | .fault s1 _ _ => s1.endRefit id q 2
  | .wait s1 => s1
  | .ok s1 (bs, bad) => if bad then s1.endRefit id q 3 else k s1 bs

/-- A node read for a REFIT: a malformed one gives status 4. -/
def State.refitNode (s : State) (id : Nat) (q : Refit) (n : Nat) (k : State → BvhNode → List Byte → State) : State :=
  s.refitRead id q (q.node n) 128 (fun s bs => if badNode true bs then s.endRefit id q 4 else k s (parseNode bs) bs)

/-- A box by its exact bounds on each axis; none where it is empty. -/
abbrev Box := Option ((Nat → Int) × (Nat → Int))

def boxJoin (a b : Box) : Box :=
  match a, b with
  | none, y => y
  | x, none => x
  | some x, some y => some (fun i => min (x.1 i) (y.1 i), fun i => max (x.2 i) (y.2 i))

/-- A child's present box. -/
def BvhNode.childBox (n : BvhNode) (c : Nat) : Box :=
  if childType (n.words.getD c 0) = 0 || (List.range 3).any (fun a => decide (n.bound c a true < n.bound c a false)) then none
  else some (fun a => n.bound c a false, fun a => n.bound c a true)

def BvhNode.boxUnion (n : BvhNode) : Box := (List.range n.count).foldl (fun b c => boxJoin b (n.childBox c)) none

/-- The bounds of a block's vertices; a vertex that is not finite bounds nothing. -/
def blockBox (bs : List Byte) : Box :=
  (List.range 3).foldl (fun b v =>
    let p := (List.range 3).map (fun i => BitVec.ofNat 32 (field bs (12 * v + 4 * i) 4))
    if finiteAll p then boxJoin b (some (fun i => fix149 (axis p i), fun i => fix149 (axis p i))) else b) none

/-- The new boxes of a node's children, one after another. -/
def State.childBoxes (s : State) (id : Nat) (q : Refit) (n : BvhNode) (k : State → List Box → State) : List Nat → List Box → State
  | [], bs => k s bs
  | c :: cs, bs =>
    let w := n.words.getD c 0
    if childType w = 1 then s.refitNode id q (childIndex w) (fun s m _ => s.childBoxes id q n k cs (bs ++ [m.boxUnion]))
    else if childType w = 2 then
      s.refitRead id q (BitVec.ofNat 64 (n.leafbase + 64 * childIndex w)) (64 * childCnt w) (fun s raw =>
        s.childBoxes id q n k cs (bs ++ [(List.range (childCnt w)).foldl (fun b i => boxJoin b (blockBox (raw.drop (64 * i)))) none]))
    else s.childBoxes id q n k cs (bs ++ [n.childBox c])

/-- The bytes of a refitted node: its first 15, its 48 quantised bounds, and whether QUAL is set (R289, R306). -/
def quantise (n : BvhNode) (thresh : BitVec 32) (boxes : List Box) : List Byte × List Byte × Bool :=
  match boxes.foldl boxJoin none with
  | none => (n.org.flatMap (fun b => natBytes 4 b.toNat) ++ n.exps.map (fun e => BitVec.ofNat 8 e), n.qbox.map (fun b => BitVec.ofNat 8 b), false)
  | some (lo, hi) =>
    let org (a : Nat) : BitVec 32 := originOf (lo a)
    let ex (a : Nat) : Nat := boxExp (hi a - fix149 (org a))
    let unit (a : Nat) : Int := 2 ^ (ex a + 22)
    let bytes (c : Nat) : List Byte :=
      match boxes.getD c none with
      | some (l, h) => (List.range 3).flatMap (fun a =>
          [BitVec.ofNat 8 (floorByte (l a - fix149 (org a)) (unit a)), BitVec.ofNat 8 (ceilByte (h a - fix149 (org a)) (unit a))])
      | none => if c < n.count && childType (n.words.getD c 0) != 0 then [255, 0, 255, 0, 255, 0]
                else (List.range 6).map (fun i => BitVec.ofNat 8 (n.qbox.getD (6 * c + i) 0))
    let area := boxArea lo hi
    let limit := mul32 thresh.toNat n.buildsa.toNat
    let qual := !isNan32 area && !isNan32 limit && !(dec32 area).le (dec32 limit)
    ((List.range 3).flatMap (fun a => natBytes 4 (org a).toNat) ++ (List.range 3).map (fun a => BitVec.ofNat 8 (ex a)), (List.range 8).flatMap bytes, qual)

/-- A step of a REFIT is done: its reads are not used again. -/
def State.refitNext (s : State) (id : Nat) (q : Refit) : State := (s.unitDone id).setRefit id q

/-- Process(n) but for the arrival at its parent: each node is written by one write (R305). -/
def State.process (s : State) (id : Nat) (q : Refit) (n : Nat) : State :=
  s.refitNode id q n (fun s node _ =>
    s.childBoxes id q node (fun s boxes =>
      let r := quantise node q.thresh boxes
      let va := q.node n
      match s.unitStoreAll q.unit (.op q.pend) [(va, r.1), (va + 0x40, r.2.1), (va + 0x74, natBytes 4 (if r.2.2 then 1 else 0))] with
      | .fault s1 _ _ => s1.endRefit id q 2
      | .wait s1 => s1
      | .ok s1 _ => s1.refitNext id { q with qual := q.qual + (if r.2.2 then 1 else 0), chain := none
                                             parent := if node.parent = 0xFFFFFFFF then none else some node.parent })
      (List.range node.count) [])

/-- A write of the die to a line has not reached its home. -/
def State.dieWriting (s : State) (die line : Nat) : Bool :=
  s.path.writes.any (fun e => e.2.region == .loc && e.2.line == line && e.2.die == die && !e.2.accepted)

/-- The arrival at a parent: its counter is incremented at its home, and back at zero with the last of its type-1 children, whose arrival goes on
with the parent (R305). -/
def State.refitArrive (s : State) (id : Nat) (q : Refit) (p : Nat) : State :=
  let va := BitVec.ofNat 64 (q.ctr + 4 * p)
  s.refitNode id q p (fun s n _ =>
    let last (old : Nat) : Bool := old + 1 == (n.words.filter (fun w => childType w == 1)).length
    let q1 (old : Nat) : Refit := { q with parent := none, chain := if last old then some p else none }
    match s.unitReach q.unit .atomic .none [(va, 4)] with
    | .fault s1 _ _ => s1.endRefit id q 2
    | .wait s1 => s1
    | .ok s1 [] => s1
    | .ok s1 (c :: _) =>
      if c.away then
        match s1.unitAnswer id c with
        | none => s1.sendRemote (some id) none (unitLane q.unit.loc q.die) va c.region c.addr (.atomic 0 2 false false true 1 0 4)
        | some r =>
          match r.result with
          | none => s1
          | some (.ok data bad) =>
            if bad then s1.endRefit id q 3
            else if !last (bytesNat data) then s1.refitNext id (q1 (bytesNat data))
            else
              (match s1.unitStore q.unit (.op q.pend) va (natBytes 4 0) with
               | .fault s2 _ _ => s2.endRefit id q 2
               | .wait s2 => s2
               | .ok s2 _ => s2.refitNext id (q1 (bytesNat data)))
          | some _ => s1.endRefit id q 2
      else if s1.dieWriting q.die (c.addr / 128) then s1
      else
        match s1.engineSector q.die (c.addr / 32) with
        | none => s1
        | some v =>
          let s2 := s1.engineReads [c]
          let old := bytesNat ((v.data.drop (c.addr % 32)).take 4)
          if v.poison then s2.endRefit id q 3
          else (s2.unitWrite (.op q.pend) q.die (cellsAt c.addr (natBytes 4 (if last old then 0 else old + 1))) [] (c.mt == 2)).refitNext id (q1 old))

/-- The descriptor of a REFIT, if it is valid. -/
def parseRefit (q : Refit) (bs : List Byte) : Option Refit :=
  let th := BitVec.ofNat 32 (field bs 0x0C 4)
  let n := field bs 8 4
  if 1 ≤ n && n ≤ 2 ^ 24 && finite32 th.toNat && (dec32 one32).le (dec32 th.toNat) && field bs 0x10 8 % 4 == 0 then
    some { q with stage := 1, root := field bs 0 8, nodes := n, thresh := th, ctr := field bs 0x10 8 }
  else none

/-- The refit that a die's engine works on. -/
def State.refitOf (s : State) (die : Nat) : Option (Nat × Refit) := s.gfx.refits.find? (fun e => e.2.die == die && e.2.stage < 2)

/-- The next step of a REFIT whose writes beyond the device have all ended: the descriptor, an arrival, or a node. -/
def State.refitStep (s : State) (id : Nat) (q : Refit) : State :=
  if q.stage = 0 then
    if q.desc.toNat % 64 != 0 then s.endRefit id q 1
    else s.refitRead id q q.desc 64 (fun s bs => match parseRefit q bs with | some q1 => s.refitNext id q1 | none => s.endRefit id q 1)
  else
    match q.parent, q.chain with
    | some p, _ => s.refitArrive id q p
    | none, some n => s.process id q n
    | none, none =>
      if q.nodes ≤ q.next then s.endRefit id q 0
      else s.refitNode id q q.next (fun s n _ =>
        s.refitNext id { q with next := q.next + 1, chain := if n.words.any (fun w => childType w == 1) then none else some q.next })

/-- REFIT_NODE_PROCESS: a step of the REFIT that a die's engine works on. -/
def execRefitNodeProcess (die : Nat) (s : State) : Host.Outcome State Fault Refusal :=
  match s.refitOf die with
  | none => .next s
  | some (id, q) =>
    let r := s.settleUnit (.op q.pend)
    if r.2 then .next (r.1.endRefit id q 2) else if r.1.unitAway (.op q.pend) then .next r.1 else .next (r.1.refitStep id q)

/-- The writes of a unit's instruction are performed at DEVICE scope, and those beyond the device have ended. -/
def State.opSettled (s : State) (pend : Nat) : Bool := !s.path.writes.any (fun e => e.2.source == .op pend && (e.2.short 4 || e.2.short 5))

/-- A REFIT whose writes have all been performed ends: S[D] is written. -/
def State.closeRefit (s : State) (id : Nat) (q : Refit) : State :=
  if q.stage != 2 then s
  else
    let r := s.settleUnit (.op q.pend)
    if r.2 && q.status = 0 then r.1.endRefit id q 2
    else if r.1.opSettled q.pend then
      ({ r.1 with gfx := { r.1.gfx with refits := Tbl.drop r.1.gfx.refits id } }.answerPend q.pend (q.status + q.qual * 2 ^ 32)).completeAll q.pend
    else r.1

/-! ## Passes (R308 to R310) -/

/-- The pass that is open in a slot of a die. -/
def State.passAt (s : State) (die slot : Nat) : Option (Nat × Pass) := s.gfx.passes.find? (fun e => e.2.die == die && e.2.slot == slot)
def State.setPass (s : State) (id : Nat) (p : Pass) : State := { s with gfx := { s.gfx with passes := Tbl.put s.gfx.passes id p } }
def State.adjPass (s : State) (id : Nat) (g : Pass → Pass) : State := { s with gfx := { s.gfx with passes := Tbl.adjust s.gfx.passes id g } }

def vbldBody (x : ExtWord) (c : Ctx) (s : State) : Res :=
  let die := dieOf c.W.core
  if s.acquiring c.w s.nextId (heldLanes c.W c.F) then .stall
  else if (s.passAt die x.x.toNat).isSome then .done (s.adjFrag c.f (fun F => (F.setScalar x.d.num.toNat 4).mark x.tok.toNat))
  else
    let r := s.addPend (unitPend c x s.nextId)
    let p : Pass := { die := die, slot := x.x.toNat, pend := r.1, wave := c.w, asid := c.T.asid, table := c.T.table
                      desc := c.F.scalar x.a.num.toNat, stage := 0, target := 0, width := 0, height := 0, pitch := 0, meshes := 0, flags := 0, arrived := 0
                      tris := [], status := 0 }
    .done ((({ r.2 with nextId := r.2.nextId + 1 } : State).setPass r.2.nextId p).adjFrag c.f (fun F => F.mark x.tok.toNat))
def execVbld (w : ExtWord) (s : State) : Host.Outcome State Fault Refusal := issue (.vbld w) (vbldBody w) s

def meshSources (x : ExtWord) : List Src :=
  (List.range 5).map (fun i => src 1 { x.a with num := x.a.num + BitVec.ofNat 8 i } 6) ++ (if x.c.cls == .vec then [src 3 x.c 2] else [])

/-- MSHEMIT: one triangle for each participating lane. -/
def mshemitBody (x : ExtWord) (c : Ctx) (s : State) : Res :=
  let part := c.part x
  if part = 0 then .done s
  else if s.acquiring c.w s.nextId (heldLanes c.W c.F) then .stall
  else
    match c.rowSources x (meshSources x) part s with
    | .error t => .trap t
    | .ok s1 =>
      match s.passAt (dieOf c.W.core) x.x.toNat with
      | none => .trap ⟨0x07, tvalSub 0x0A x.x.toNat, part, none, false, []⟩
      | some (id, p) =>
        let tri (l : Nat) : Tri :=
          let vs := (c.values x (meshSources x) l).1
          let e (i h : Nat) : BitVec 32 := BitVec.ofNat 32 (elem 32 (vs.getD i 0) h)
          ⟨[e 0 0, e 0 1, e 1 0, e 1 1, e 2 0, e 2 1], [e 3 0, e 3 1, e 4 0], if x.c.cls == .vec then e 5 0 else (c.count x x.c).truncate 32⟩
        .done (s1.setPass id { p with tris := p.tris ++ part.lanes.map tri })
def execMshemit (w : ExtWord) (s : State) : Host.Outcome State Fault Refusal := issue (.mshemit w) (mshemitBody w) s

def mshdoneBody (x : ExtWord) (c : Ctx) (s : State) : Res :=
  if s.acquiring c.w s.nextId (heldLanes c.W c.F) then .stall
  else
    match s.passAt (dieOf c.W.core) x.x.toNat with
    | none => .trap (trapWhole c 0x07 (tvalSub 0x0A x.x.toNat))
    | some (id, p) => .done (s.setPass id { p with arrived := p.arrived + 1 })
def execMshdone (w : ExtWord) (s : State) : Host.Outcome State Fault Refusal := issue (.mshdone w) (mshdoneBody w) s

def Pass.unit (p : Pass) : UnitCtx := { who := .die p.die, unit := 3, asid := p.asid, table := p.table }

/-- A pass ends: its slot closes and S[D] is written. -/
def State.closePass (s : State) (id : Nat) (p : Pass) (status : Nat) : State :=
  (({ s with gfx := { s.gfx with passes := Tbl.drop s.gfx.passes id } }.answerPend p.pend status).completeAll p.pend).unitDone id

/-- A target write faults: no further triangle is rasterised, and the status is 3 (R148, R310). -/
def Pass.fault (p : Pass) : Pass := { p with stage := 2, tris := [], status := 3 }

/-- The pixels of a pass beyond the device whose requests have ended count in its status. -/
def State.settlePass (s : State) (id : Nat) (p : Pass) : State :=
  let ends := s.unitEnds (· == .op p.pend)
  let failed := ends.any (fun e => match e.2.result with | some (.ok _ _) => false | _ => true)
  let hurt := ends.any (fun e => match e.2.result with | some (.ok _ bad) => bad | _ => false)
  (s.unitEnded ends).adjPass id (fun p => if failed then p.fault else if hurt && p.status = 0 then { p with status := 5 } else p)

/-- A pass whose MSHDONEs have arrived and whose triangles are all rasterised and performed completes (R308). -/
def State.finishPass (s : State) (id : Nat) (p0 : Pass) : State :=
  let s1 := s.settlePass id p0
  match Tbl.find s1.gfx.passes id with
  | none => s1
  | some p => if p.stage = 2 && p.meshes ≤ p.arrived && p.tris.isEmpty && s1.opSettled p.pend then s1.closePass id p p.status else s1

/-- The fields of a pass descriptor, if they are valid. -/
def parsePass (p : Pass) (bs : List Byte) : Option Pass :=
  let w := field bs 8 2
  let h := field bs 0x0A 2
  let pitch := field bs 0x0C 4
  let f := field bs 0x14 4
  if field bs 0 8 % 8 == 0 && 1 ≤ w && w ≤ 16384 && 1 ≤ h && h ≤ 16384 && pitch % 8 == 0 && 8 * w ≤ pitch && 1 ≤ field bs 0x10 4 && field bs 0x10 4 ≤ 2 ^ 24 &&
      f / 2 % 4 != 3 then
    some { p with stage := if f % 2 = 1 then 1 else 2, target := BitVec.ofNat 64 (field bs 0 8), width := w, height := h, pitch := pitch
                  meshes := field bs 0x10 4, flags := f % 8 }
  else none

/-- CLEAR: every pixel, once all of them can be reached. -/
def State.clearPass (s : State) (id : Nat) (p : Pass) : State :=
  let row := (List.range p.width).flatMap (fun _ => natBytes 8 0x7F800000FFFFFFFF)
  match s.unitStoreAll p.unit (.op p.pend) ((List.range p.height).map (fun y => (p.target + BitVec.ofNat 64 (p.pitch * y), row))) with
  | .fault s1 _ _ => s1.adjPass id Pass.fault
  | .wait s1 => s1
  | .ok s1 _ => s1.adjPass id (fun p => { p with stage := 2 })

/-- A coordinate snapped to 1/256 pixel. -/
def snap (b : BitVec 32) : Int := ((dec32 b.toNat).scale 8).toInt 0

/-- The pixels of a triangle with their depths (R310); none where it is dropped, with whether that is counted. -/
def rasterise (p : Pass) (t : Tri) : Option (List (Nat × Nat × BitVec 32)) :=
  let big (b : BitVec 32) : Bool := 2 ^ 20 * 2 ^ 149 ≤ (fix149 b).natAbs
  if !finiteAll (t.xy ++ t.z) || t.xy.any big then none
  else
    let px (v : Nat) : Int := snap (axis t.xy (2 * v))
    let py (v : Nat) : Int := snap (axis t.xy (2 * v + 1))
    let area := (px 1 - px 0) * (py 2 - py 0) - (px 2 - px 0) * (py 1 - py 0)
    let cull := p.flags / 2
    if area = 0 then none
    else if (cull = 1 && area < 0) || (cull = 2 && 0 < area) then some []
    else
      let lo (f : Nat → Int) : Nat := ((min (f 0) (min (f 1) (f 2))) / 256).toNat
      let hi (f : Nat → Int) (n : Nat) : Nat := min n ((max (f 0) (max (f 1) (f 2))) / 256 + 1).toNat
      let test (x y : Nat) : Option (BitVec 32) :=
        let at_ (v : Nat) : Int × Int := (px v - (256 * x + 128 : Nat), py v - (256 * y + 128 : Nat))
        let cross (a b : Nat) : Int := (at_ a).1 * (at_ b).2 - (at_ a).2 * (at_ b).1
        let u := cross 2 1
        let v := cross 0 2
        let w := cross 1 0
        let inside (e : Int) (a b : Nat) : Bool :=
          if 0 < area then 0 < -e || (e = 0 && owns (at_ b) (at_ a)) else 0 < e || (e = 0 && owns (at_ a) (at_ b))
        if inside u 1 2 && inside v 2 0 && inside w 0 1 then
          let z := roundQuot (u * fix149 (axis t.z 0) + v * fix149 (axis t.z 1) + w * fix149 (axis t.z 2)) (u + v + w)
          if z.toNat < 0x7F800000 then some z else none
        else none
      some ((List.range (hi py p.height)).flatMap (fun y => if y < lo py then [] else
        (List.range (hi px p.width)).filterMap (fun x => if x < lo px then none else (test x y).map (fun z => (x, y, z)))))

/-- A pixel to be written: where it lies, its address, its word. -/
abbrev Pixel := Piece × Word × Nat

/-- One pixel's unsigned 64-bit atomic minimum at its home, or at the target beyond the device (R310). -/
def State.minPixel (s : State) (p : Pass) (e : Pixel) : State :=
  (s.fillTlb p.unit.who p.asid p.table e.2.1).unitAtomic p.unit (.op p.pend) e.2.1 e.1 1 1 (BitVec.ofNat 64 e.2.2)

/-- One triangle is rasterised, once every one of its pixels can be reached; where one faults the others may be written or not (R148). -/
def State.rasterTri (s : State) (id : Nat) (p : Pass) (t : Tri) (rest : List Tri) : State :=
  match rasterise p t with
  | none => (s.count ctrRASTDROP (10000 + p.die) 1).adjPass id (fun p => { p with tris := rest })
  | some pixels =>
    let at_ (e : Nat × Nat × BitVec 32) : Word := p.target + BitVec.ofNat 64 (p.pitch * e.2.1 + 8 * e.1)
    let u := p.unit
    let rs := pixels.map (fun e => (e, s.engineAccess u.who u.asid u.table u.unit (at_ e) 8 .atomic .none))
    let waits := rs.filterMap (fun r => match r.2 with | .wait w => some w | _ => none)
    let faults := rs.filterMap (fun r => match r.2 with | .fault x => some (⟨x, at_ r.1⟩ : LaneFault) | _ => none)
    let good : List Pixel := rs.filterMap (fun r => match r.2 with
      | .ok ps => some (ps.headD ⟨.loc, 0, 8, 0⟩, at_ r.1, r.1.2.2.toNat * 2 ^ 32 + t.id.toNat)
      | _ => none)
    match faults with
    | [] =>
      if !waits.isEmpty then waits.foldl (fun s w => s.hostWait w) s
      else (good.foldl (fun s e => s.minPixel p e) s).adjPass id (fun p => { p with tris := rest })
    | e :: _ =>
      let s1 := { s with free := s.free + 1 }.logWalk u.loc 0xFF p.die e
      ((if Config.freeBool s.free then good else []).foldl (fun s e => s.minPixel p e) s1).adjPass id Pass.fault

/-- TRIANGLE_RASTERISE: a pass's descriptor, its clearing, or its next triangle; passes of a die in opening order. -/
def State.rasterStep (s : State) (die slot : Nat) : State :=
  match s.passAt die slot with
  | none => s
  | some (id, p) =>
    if p.stage = 0 then
      if p.desc.toNat % 64 != 0 then s.closePass id p 1
      else
        match s.unitRead p.unit id p.desc 64 with
        | .fault s1 _ _ => s1.closePass id p 2
        | .wait s1 => s1
        | .ok s1 (bs, bad) =>
          if bad then s1.closePass id p 2
          else match parsePass p bs with | some p1 => (s1.unitDone id).setPass id p1 | none => s1.closePass id p 1
    else if s.gfx.passes.any (fun e => e.2.die == die && e.1 < id) then s
    else if p.stage = 1 then s.clearPass id p
    else if p.status = 3 then s.setPass id p.fault
    else match p.tris with | [] => s | t :: rest => s.rasterTri id p t rest

def execTriangleRasterise (die slot : Nat) (s : State) : Host.Outcome State Fault Refusal := .next (s.rasterStep die slot)

/-- Refits and passes whose writes are performed end. -/
def State.serveUnits (s : State) : State :=
  let s1 := s.gfx.refits.foldl (fun s e => match Tbl.find s.gfx.refits e.1 with | some q => s.closeRefit e.1 q | none => s) s
  s1.gfx.passes.foldl (fun s e => match Tbl.find s.gfx.passes e.1 with | some p => s.finishPass e.1 p | none => s) s1

/-! ## Textures (R311, R312) -/

/-- A texture descriptor. -/
structure Tex where
  base   : Nat
  width  : Nat
  height : Nat
  levels : Nat
  format : Nat
  resmap : Nat
  fbmap  : Nat

def parseTex (bs : List Byte) : Option Tex :=
  let t : Tex := { base := field bs 0 8, width := field bs 8 2, height := field bs 0x0A 2, levels := field bs 0x0C 1, format := field bs 0x0D 1
                   resmap := field bs 0x10 8, fbmap := field bs 0x18 8 }
  if t.base % 65536 == 0 && 1 ≤ t.width && t.width ≤ 16384 && 1 ≤ t.height && t.height ≤ 16384 && 1 ≤ t.levels &&
      t.levels ≤ 1 + Nat.log2 (max t.width t.height) && t.format ≤ 2 then some t else none

def Tex.wide (t : Tex) (l : Nat) : Nat := max 1 (t.width / 2 ^ l)
def Tex.high (t : Tex) (l : Nat) : Nat := max 1 (t.height / 2 ^ l)
def Tex.tileH (t : Tex) : Nat := if t.format = 1 then 64 else 128
def Tex.size (t : Tex) : Nat := if t.format = 1 then 8 else 4
def Tex.tilesX (t : Tex) (l : Nat) : Nat := (t.wide l + 127) / 128
def Tex.tilesIn (t : Tex) (l : Nat) : Nat := t.tilesX l * ((t.high l + t.tileH - 1) / t.tileH)

/-- The tile of a texel, and the texel's address. -/
def Tex.tile (t : Tex) (l x y : Nat) : Nat := (List.range l).foldl (fun n k => n + t.tilesIn k) 0 + y / t.tileH * t.tilesX l + x / 128
def Tex.texel (t : Tex) (l x y : Nat) : Nat := (t.base + 65536 * t.tile l x y + t.size * (y % t.tileH * 128 + x % 128)) % 2 ^ 64

/-- One coordinate's samples: indices with weights in 1/256. -/
def texAxis (lin clamp : Bool) (free : Nat) (u : BitVec 32) (n : Nat) : List (Nat × Nat) :=
  let u := if finite32 u.toNat then u.toNat else 0
  let x0 := mul32 u (natF32 n)
  let x := if lin then sub32 x0 0x3F000000 else x0
  let i : Int := if finite32 x then (dec32 x).toInt 3 else if clamp then (if x / 2 ^ 31 = 1 then -1 else n) else Config.freeNat free
  let place (k : Int) : Nat := if clamp then (max 0 (min k (n - 1))).toNat else (k % n).toNat
  if !lin then [(place i, 256)]
  else
    let a := if finite32 x then ((addNum 0 (dec32 x).sign (match dec32 x with | .num _ m _ => m | _ => 0) (match dec32 x with | .num _ _ e => e | _ => 0)
               (0 < i) i.natAbs 0).scale 8).toInt 0 else 0
    [(place i, 256 - a.toNat), (place (i + 1), a.toNat)]

/-- The channels of a texel's bytes. -/
def Tex.channels (t : Tex) (bs : List Byte) : List Val :=
  match t.format with
  | 0 => (List.range 4).map (fun k => Val.ofInt (field bs k 1))
  | 1 => (List.range 4).map (fun k => dec16 (field bs (2 * k) 2))
  | _ => [dec32 (field bs 0 4), .num false 0 0, .num false 0 0, dec32 one32]

/-- The weighted sum of one channel, rounded once. -/
def Tex.blend (t : Tex) (k : Nat) (ts : List (Nat × List Byte)) : Nat :=
  if t.format = 0 then
    let z : Int := ts.foldl (fun (z : Int) e => z + ((e.1 * field e.2 k 1 : Nat) : Int)) 0
    (roundQuot (z * 2 ^ 149) (65536 * 255)).toNat
  else (groupSum 0 (ts.map (fun e => mulVal (.num false e.1 (-16)) ((t.channels e.2).getD k (.num false 0 0))))).toNat

/-- What reading for a lane at issue ends in. -/
inductive CoreRead where
  | ok (s : State) (bs : List Byte) (poison : Bool)
  | wait (s : State)
  | fault (e : LaneFault)

/-- Read bytes through the core, as a load of the wave does (R103, R110), after its earlier accesses to them (R316). -/
def State.coreRead (s : State) (c : Ctx) (va : Word) (n : Nat) : CoreRead :=
  let cuts := cutRange va n
  let rs := cuts.map (fun p => s.access (.core c.W.core) c.T.asid c.T.table p.1 p.2 .read .none)
  match c.walkWaits s [va] n, rs.findSome? (fun r => match r with | .error e => some e | .ok _ => none) with
  | v :: _, _ => .wait (s.awaitWalk c.W.core c.T.asid c.T.table v)
  | [], some e => .fault e
  | [], none =>
    let ps := (rs.zip cuts).flatMap (fun r => match r.1 with | .ok q => q.map (fun p => (p, r.2.1)) | .error _ => [])
    let s0 := s.fillAccess (.core c.W.core) c.T.asid c.T.table va n
    let id := heldKey c.f
    let mine : LaneAcc := ⟨0, va, ps.map Prod.fst, [], 0, 0⟩
    let away := ps.filter (fun p => p.1.away)
    let unsent := away.filter (fun p => (s0.unitAnswer id p.1).isNone)
    if c.W.stores.any (fun e => !e.scratch && accsMeet e.accs [mine]) || away.any (fun p => s0.awayWrite c.W.core p.1) ||
        s0.pend.any (fun e => e.2.wave == c.w && e.2.isRead && !e.2.inScratch && (e.2.own &&& heldLanes c.W c.F) != 0 && accsMeet e.2.accs [mine]) then
      .wait s0
    else if !unsent.isEmpty then
      .wait (unsent.foldl (fun s p => s.sendRemote (some id) none 0 p.2 p.1.region p.1.addr (.read p.1.len)) s0)
    else if away.any (fun p => match s0.unitAnswer id p.1 with | some r => r.result.isNone | none => true) then .wait s0
    else
      ps.foldl (fun r p =>
        match r with
        | .ok s bs bad =>
          if p.1.away then
            match (s.unitAnswer id p.1).bind RemoteReq.result with
            | some (.ok data b) => .ok s (bs ++ data) (bad || b)
            | _ => .fault ⟨xfault 0x16 2, p.2⟩
          else
            match s.readSector c.W.core (p.1.addr / 32) p.1.mt false 0 false with
            | some (v, s1) =>
              let home := homeOf p.1.addr
              let s2 := if s.holdsSector c.W.core false false p.1 then s1
                        else s1.sampleSector c.W.core c.T.grid c.F.pc 0 (p.1.addr / 32) v.poison (home != dieOf c.W.core && p.1.mt != 2)
              .ok s2 (bs ++ (v.data.drop (p.1.addr % 32)).take p.1.len) (bad || v.poison)
            | none => .wait s
        | r => r) (.ok s0 [] false)

/-- A lane's sample: its colour, whether it met a tile that is not resident, the tiles it touched, and the address of a poisoned read. -/
structure Sampled where
  vals  : List Nat
  away  : Bool
  tiles : List Nat
  dead  : Option Word

/-- The result of sampling in one lane. -/
inductive LaneSample where
  | ok (s : State) (r : Sampled)
  | wait (s : State)
  | fault (e : LaneFault)

/-- What reading several places for a lane has given so far: the bytes of each, and the address of a poisoned one. -/
structure TexReads where
  r    : CoreRead
  got  : List (List Byte)
  dead : Option Word

/-- Read several places for a lane. -/
def State.texReads (s : State) (c : Ctx) (ps : List (Word × Nat)) : TexReads :=
  ps.foldl (fun (q : TexReads) p =>
    match q.r with
    | .ok s _ _ =>
      (match s.coreRead c p.1 p.2 with
       | .ok s1 bs bad => ⟨.ok s1 [] false, q.got ++ [bs], if bad && q.dead.isNone then some p.1 else q.dead⟩
       | r => ⟨r, q.got, q.dead⟩)
    | _ => q) ⟨.ok s [] false, [], none⟩

/-- Sample a texture for one lane (R312). -/
def State.sampleLane (s : State) (c : Ctx) (t : Tex) (lin clamp : Bool) (l : Nat) (u v : BitVec 32) : LaneSample :=
  let xs := texAxis lin clamp s.free u (t.wide l)
  let ys := texAxis lin clamp (s.free + 1) v (t.high l)
  let pts := ys.flatMap (fun y => xs.map (fun x => (x.1, y.1, x.2 * y.2)))
  let tiles := (pts.map (fun p => t.tile l p.1 p.2.1)).eraseDups
  let res := ({ s with free := s.free + 2 } : State).texReads c (if t.resmap = 0 then [] else tiles.map (fun k => (BitVec.ofNat 64 (t.resmap + k / 8), 1)))
  match res.r with
  | .wait s1 => .wait s1
  | .fault e => .fault e
  | .ok s1 _ _ =>
    if res.dead.isSome || (tiles.zip res.got).any (fun k => !(bytesNat k.2).testBit (k.1 % 8)) then .ok s1 ⟨[0, 0, 0, 0], true, tiles, res.dead⟩
    else
      let rd := s1.texReads c (pts.map (fun p => (BitVec.ofNat 64 (t.texel l p.1 p.2.1), t.size)))
      match rd.r with
      | .wait s2 => .wait s2
      | .fault e => .fault e
      | .ok s2 _ _ => .ok s2 ⟨(List.range 4).map (fun k => t.blend k ((pts.map (fun p => p.2.2)).zip rd.got)), false, tiles, rd.dead⟩

def texSources (x : ExtWord) : List Src := [src 1 x.a 6] ++ (if x.c.cls == .vec then [src 3 x.c 2] else [])

/-- The level: element 0 of C, clamped to the texture's levels. -/
def texLevel (c : Ctx) (x : ExtWord) (t : Tex) (l : Nat) : Nat :=
  let v : Int := toSigned 32 (elem 32 (if x.c.cls == .vec then (c.values x (texSources x) l).1.getD 1 0 else c.count x x.c) 0)
  (max 0 (min v (t.levels - 1 : Nat))).toNat

/-- The effect of TEX and TEXFB once every lane has been sampled: registers, pS, feedback, and the lanes that die. -/
def State.texDone (s : State) (c : Ctx) (x : ExtWord) (write : Bool) (fb : Option Nat) (tok : Nat) (rs : List (Nat × Sampled)) : State :=
  let s0 := s.unitDone (heldKey c.f)
  let s1 := if write then rs.foldl (fun s r =>
      (s.setReg c.w r.1 x.d.num.toNat ⟨pairWord (r.2.vals.getD 0 0) (r.2.vals.getD 1 0), 6⟩).setReg c.w r.1 (x.d.num.toNat + 1)
        ⟨pairWord (r.2.vals.getD 2 0) (r.2.vals.getD 3 0), 6⟩) s0 else s0
  let s2 := match (if write then predOfMod x else none) with
    | some p => s1.setPred c.w p (Mask.ofList (rs.map Prod.fst)) (Mask.ofList ((rs.filter (fun (r : Nat × Sampled) => r.2.away)).map Prod.fst))
    | none => s1
  let s3 := match fb with
    | none => s2
    | some map =>
      let own := heldLanes c.W c.F
      let r := s2.addPend { wave := c.w, lanes := Mask.ofList (rs.map Prod.fst), own := own, ord := s2.nextId, tok := tok, dst := .none, pc := c.F.pc, rwc := c.F.rwc, cls := c.cls
                            op := c.op, kind := .writes }
      ((rs.flatMap (fun (r : Nat × Sampled) => r.2.tiles)).eraseDups).foldl (fun s k =>
        match s.access (.core c.W.core) c.T.asid c.T.table (feedbackWord map k) 4 .atomic .none with
        | .ok ps => s.sendOr (dieOf c.W.core) c.W.core (.op r.1) (feedbackWord map k) (ps.headD ⟨.loc, 0, 4, 0⟩) (feedbackBit map k)
        | .error _ => s) r.2
  rs.foldl (fun s r => match r.2.dead with | some va => s.killLanes c.w (Mask.one r.1) c.origin c.op va | none => s) s3

/-- TEX (`write`) and TEXFB. An invalid descriptor, or one that is not aligned, leaves the result open. -/
def texBody (x : ExtWord) (write : Bool) (c : Ctx) (s : State) : Res :=
  let part := c.part x
  let ls := part.lanes
  if part = 0 then .done s
  else if s.acquiring c.w s.nextId (heldLanes c.W c.F) then .stall
  else
    match c.rowSources x (texSources x) part s with
    | .error t => .trap t
    | .ok s0 =>
      match s0.coreRead c (c.F.scalar x.b.num.toNat) 64 with
      | .wait s1 => .keep s1
      | .fault e => c.faultRes (s.unitDone (heldKey c.f)) 0 (ls.map (fun l => (l, e))) false
      | .ok s1 _ true =>
        .done (s1.texDone c x false none 0 (ls.map (fun l => (l, ⟨[], false, [], some (c.F.scalar x.b.num.toNat)⟩))))
      | .ok s1 bs false =>
        match (if (c.F.scalar x.b.num.toNat).toNat % 64 = 0 then parseTex bs else none) with
        | none =>
          let open_ (l k : Nat) : Nat := (Config.freeWord (s1.free + 4 * l + k)).toNat % 2 ^ 32
          .done ({ s1 with free := s1.free + 256 }.texDone c x write none 0 (ls.map (fun l => (l, ⟨(List.range 4).map (open_ l), false, [], none⟩))))
        | some t =>
          let fb := !write || x.x.getLsbD 2
          let map := if fb && t.fbmap != 0 then some t.fbmap else none
          let run := ls.foldl (fun (r : State × List (Nat × Sampled) × List ((Nat × LaneFault) × Acc) × Bool) l =>
            let v := (c.values x (texSources x) l).1.getD 0 0
            match r.1.sampleLane c t (x.x.getLsbD 0) (x.x.getLsbD 1) (texLevel c x t l) (BitVec.ofNat 32 (elem 32 v 0)) (BitVec.ofNat 32 (elem 32 v 1)) with
            | .wait s2 => (s2, r.2.1, r.2.2.1, true)
            | .fault e => (r.1, r.2.1, r.2.2.1 ++ [((l, e), .read)], r.2.2.2)
            | .ok s2 q =>
              let bad := match map with
                | none => none
                | some m => q.tiles.findSome? (fun k => match s2.access (.core c.W.core) c.T.asid c.T.table (feedbackWord m k) 4 .atomic .none with
                    | .error e => some e | .ok _ => none)
              match bad with
              | some e => (s2, r.2.1, r.2.2.1 ++ [((l, e), .atomic)], r.2.2.2)
              | none => (s2, r.2.1 ++ [(l, q)], r.2.2.1, r.2.2.2)) (s1, [], [], false)
          if run.2.2.2 then .keep run.1
          else if !run.2.2.1.isEmpty then
            let kind := ((run.2.2.1.find? (fun e => e.1.2.x.host)).map Prod.snd).getD .read
            c.faultRes (s.unitDone (heldKey c.f)) (kindCode kind) (run.2.2.1.map Prod.fst) false
          else .done (run.1.texDone c x write map x.tok.toNat run.2.1)

def execTex (w : ExtWord) (s : State) : Host.Outcome State Fault Refusal := issue (.tex w) (texBody w true) s
/-- The feedback reductions of a TEX or TEXFB are performed: its token completes. A failed one is its wave's, as a store's is (R325). -/
def State.settleWrites (s : State) (id : Nat) (p : Pend) : State :=
  let ends := s.unitEnds (· == .op id)
  let s1 := ends.foldl (fun s e => match e.2.result with
    | some (.ok _ _) => s
    | r => s.adjWave p.wave (fun W => { W with failed := W.failed ++ [⟨W.live, e.2.va, r == some .indeterminate⟩] })) (s.unitEnded ends)
  if s1.opSettled id then s1.completeAll id else s1

def execTexfb (w : ExtWord) (s : State) : Host.Outcome State Fault Refusal := issue (.texfb w) (texBody w false) s

end Sys2Proof.Machine
end

