-- ==== Sys2Proof/Machine/Succession.lean ====
section
/-! DEFINITION. Machine/Succession.lean: EXIT.SUCC and the successor task (R209, R210). -/

namespace Sys2Proof.Machine

/-- The successor's wave in the place of an old one (R210). -/
def succWave (W : Wave) (idx : Nat) (base : Nat) : Wave :=
  { startWave W.team idx W.role W.roleIdx W.core W.quadrant W.col0 W.width base with
    storeq := W.storeq, epoch := W.epoch, failed := W.failed, queues := { noQueues with q3 := W.queues.q3 } }

/-- The team's task is succeeded (R210): every fragment stops, outstanding loads are discarded, admitted stores stay to be performed,
quotas become the successor's pools, and its waves start in the places of the old ones. Nothing waits for a fragment that has stopped: no
rendezvous, no order of RACQ or OMCLAIM, no store that was not admitted, no inline query. -/
def State.succeed (s : State) (c : Ctx) (h : Header) : State :=
  let ws := s.wavesOf c.t
  let mine := ws.map Prod.fst
  let gone := (s.frags.filter (fun e => mine.contains e.2.wave)).map Prod.fst
  let turned := ws.flatMap (fun e => e.2.admits.flatMap StoreEntry.pends)
  let s0 := gone.foldl State.forget s
  let s1 := { s0 with
    frags := List.filter (fun e => !mine.contains e.2.wave) s0.frags
    pend := (List.map (fun (e : Nat × Pend) => if mine.contains e.2.wave then (e.1, { e.2 with lanes := 0 }) else e) s0.pend).filter
      (fun e => e.2.lanes != 0 || (e.2.owed && !turned.contains e.1))
    mx := { s0.mx with clasps := List.filter (fun e => e.2.team != c.t) s0.mx.clasps }
    gfx := { s0.gfx with rays := List.filter (fun e => !(e.2.inline && mine.contains e.2.wave)) s0.gfx.rays } }
  let s2 := s1.adjTeam c.t (fun T => { T with
    task := h, gate := s.nextId, racq := []
    quotas := (List.range 4).map (fun r => match h.roles[r]? with | some d => d.pool | none => 0) })
  let starts := ws.filterMap (fun e => match h.roles[e.2.role]? with
    | some d => if e.2.roleIdx < d.count then some (e.1, succWave e.2 (waveIndex h e.2.role e.2.roleIdx) d.base) else none
    | none => none)
  let place : Nat × Wave → Nat × Wave := fun e =>
    if mine.contains e.1 then
      (match starts.find? (fun y => y.1 == e.1) with
       | some y => (e.1, y.2)
       | none => (e.1, { e.2 with live := 0, stack := [], admits := [], queues := noQueues }))
    else e
  let s3 := { s2 with waves := s2.waves.map place }
  let scal := (List.range 8).map c.F.scalar
  starts.foldl (fun s y => s.startFragOf y.1 y.2 h scal) s3

/-- What reading and checking the successor's header comes to: the header, a check that fails, a fault, or a wait for the answers of the
window that it lies in. -/
inductive Succession where
  | fits (h : Header)
  | refused
  | fault (e : LaneFault)
  | wait (s : State)

/-- The header of 64 bytes before an entry: at its home, or by requests to the window that it lies in (R78, R209). Its page
may have to wait for a walker (R86). -/
def State.readSuccessor (s : State) (c : Ctx) (entry : Word) : Succession :=
  let check (bs : List Byte) (bad : Bool) : Succession :=
    match (if bad then none else parseHeader bs entry) with
    | none => .refused
    | some h => if successorFits c.T h then .fits h else .refused
  if entry.toNat % 64 != 0 || c.T.shader then .refused
  else if s.walkBusy (.core c.W.core) c.T.asid (entry - 64) then .wait (s.awaitWalk c.W.core c.T.asid c.T.table (entry - 64))
  else
    match s.access (.core c.W.core) c.T.asid c.T.table (entry - 64) 1 .read .none with
    | .error e => .fault { e with va := entry - 64 }
    | .ok [] => .refused
    | .ok (p :: _) =>
      if p.away then
        let id := heldKey c.f
        let halves : List Piece := [{ p with len := 32 }, { p with addr := p.addr + 32, len := 32 }]
        let answers := halves.map (fun q => s.unitAnswer id q)
        if answers.any Option.isNone then
          .wait ((halves.filter (fun q => (s.unitAnswer id q).isNone)).foldl (fun s q =>
            s.sendRemote (some id) none 0 (entry - 64) q.region q.addr (.read q.len)) s)
        else
          let ends := answers.map (fun r => r.bind RemoteReq.result)
          if ends.any Option.isNone then .wait s
          else
            let data := ends.map (fun r => match r with | some (.ok bs bad) => some (bs, bad) | _ => none)
            if data.any Option.isNone then .fault ⟨xfault 0x16 2, entry - 64⟩
            else check (data.flatMap (fun r => (r.getD ([], false)).1)) (data.any (fun r => (r.getD ([], false)).2))
      else check (readBytes s.mem p.addr 64) (s.memPoisoned p.addr 64)

/-- The header's sectors that an error lies in have been read, if they are local. -/
def State.headerRead (s : State) (c : Ctx) (entry : Word) : State :=
  match s.access (.core c.W.core) c.T.asid c.T.table (entry - 64) 1 .read .none with
  | .ok [p] => if p.away then s.unitDone (heldKey c.f) else s.findIn p.addr 64
  | _ => s

/-- Illegal Run of a successor that fails its check. -/
def refusedSuccessor (x : ExtWord) (c : Ctx) (s : State) : Option Res :=
  match s.readSuccessor c (c.F.scalar x.a.num.toNat) with
  | .refused => some (.trap (illegalRun c 0x03 (c.F.scalar x.a.num.toNat)))
  | _ => none

/-- EXIT.SUCC (R209): the header before the successor's entry is read and checked. -/
def exitSuccBody (x : ExtWord) (c : Ctx) (s : State) : Res :=
  let entry := c.F.scalar x.a.num.toNat
  match s.readSuccessor c entry with
  | .fits h => .keep ((s.headerRead c entry).succeed c h)
  | .refused => .trap (illegalRun c 0x03 entry)
  | .fault e => if e.x.host then .keep (s.parkFor c 0 e c.F.active) else .trap (faultTrap c e)
  | .wait s1 => .keep s1
def execExitSucc (w : ExtWord) (s : State) : Host.Outcome State Fault Refusal := issueChecked (.exitSucc w) (refusedSuccessor w) (exitSuccBody w) s

end Sys2Proof.Machine
end

