-- ==== Sys2Proof/Machine/Launch.lean ====
section
/-! DEFINITION. Machine/Launch.lean: LAUNCH, TREADY, DRAIN and WAIT.F (R373 to R377, R161, R343), and the drain slots (R372). -/

namespace Sys2Proof.Machine

/-! ## Nodes (R366 to R369) -/

/-- A node or overflow address that a walker can read: 128-byte aligned, in local device memory. -/
def nodeAddr (a : Nat) : Bool := a % 128 == 0 && a < 2 ^ 38

/-- A node that the walker cannot read is dropped: one record (R369). -/
def State.dropNode (s : State) (a : Nat) : State :=
  s.logUnit 9 0xFF (homeOf a) (kindWord 0 1 0 0x12) 0 (BitVec.ofNat 64 a) addrPhys

/-- A write of the walker of a node's home die, performed at its home slice. -/
def State.walkerWrite (s : State) (source : WriteSource) (a n v : Nat) : State := s.unitWrite source (homeOf a) (cellsAt a (natBytes n v)) []

/-- A node can be decremented now: its home does not hold its line (R340). -/
def State.nodeFree (s : State) (a : Nat) : Bool := !s.homeHolds (a / 128)

/-- One decrement of PRED, in one step at the node's home (R368); with the old value where the node could be read. -/
def State.decrement (s0 : State) (a : Nat) : Option Nat × State :=
  let s := if nodeAddr a then s0.findIn a 128 else s0
  if !nodeAddr a || s.memPoisoned (a + 4) 4 then (none, s.dropNode a)
  else
    let old := s.memNat (a + 4) 4
    if old = 0 then (some 0, s.count ctrNODEUNDER (10000 + homeOf a) 1)
    else
      let s1 := s.walkerWrite .agent (a + 4) 4 (old - 1)
      (some old, if old = 1 then s1.addTask (homeOf a) (.start a) else s1)

/-! ## Fragments that lose to poison -/

/-- Every fragment that holds a lane of an instruction's fragment is lost, as by a scalar load (R121). -/
def State.loseOwners (s : State) (w : Nat) (own : Mask) (o : Origin) (op : Nat) (va : Word) : State :=
  match s.wave? w with
  | none => s
  | some W => ((s.fragsOf w).filter (fun e => (heldLanes W e.2 &&& own) != 0)).foldl (fun s e => s.loseFragment e.1 op va (some o)) s

/-! ## Operands (R374) -/

/-- The physical address of a once-per-fragment target: aligned, translated, writable, in local device memory. -/
def Ctx.target (c : Ctx) (s : State) (va : Word) (align : Nat) (kind : Acc) : Except Res Nat :=
  if va.toNat % align != 0 then .error (.trap (trapWhole c 0x05 (tvalSub 0x01 va.toNat)))
  else (c.reach s [0] (fun _ => va) 4 kind .launch true).map (fun r => (r.flatMap (fun a => a.2.2.map Piece.addr)).headD 0)

/-! ## LAUNCH (R375) -/

/-- The decrement of a LAUNCH, with its result. -/
def State.doLaunch (s : State) (w : Nat) (own : Mask) (o : Origin) (node : Nat) (va : Word) (dst : Dest) : State :=
  if s.memPoisoned node 128 then (s.findIn node 128).loseOwners w own o 0xC8 va
  else
    let r := s.decrement node
    match dst, r.1 with
    | .scal d _, some old => r.2.setScalars w own d (if old = 0 then 2 else if old = 1 then 0 else 1)
    | _, _ => r.2

def launchBody (x : ExtWord) (c : Ctx) (s : State) : Res :=
  let va := c.F.scalar x.a.num.toNat
  match c.target s va 128 .write with
  | .error r => r
  | .ok pa =>
    let dst : Dest := if x.d.cls == .scal then .scal x.d.num.toNat 1 else .none
    if !s.nodeFree pa then .stall
    else
    c.release (s.fillAccess (.core c.W.core) c.T.asid c.T.table va 4) x.tok.toNat 4 (heldLanes c.W c.F) dst (.launch pa va)
      (fun _ own s => s.doLaunch c.w own c.origin pa va dst)
def execLaunch (w : ExtWord) (s : State) : Host.Outcome State Fault Refusal := issue (.launch w) (launchBody w) s

/-! ## Tile flags (R376, R343) -/

/-- A tile-flag descriptor. -/
structure TileFlag where
  set      : Bool
  rbase    : Word
  rowbytes : Nat
  rows     : Nat
  rstride  : Word
  ok       : Bool
deriving DecidableEq, Repr

def parseFlag (bs : List Byte) : TileFlag :=
  let low := field bs 0 8
  { set := low % 2 == 1, rbase := BitVec.ofNat 64 (field bs 8 8), rowbytes := field bs 16 4, rows := field bs 20 2
    rstride := BitVec.ofNat 64 (field bs 24 8)
    ok := low / 2 == 0 && field bs 22 2 == 0 && 1 ≤ field bs 20 2 && 1 ≤ field bs 16 4 && field bs 16 4 ≤ 2 ^ 24 }

/-- A virtual range cut at 64 KiB pages. -/
def pageRuns : Nat → Word → Nat → List (Word × Nat)
  | 0, _, _ => []
  | fuel + 1, va, n =>
    let k := 65536 - va.toNat % 65536
    if n = 0 then [] else if n ≤ k then [(va, n)] else (va, k) :: pageRuns fuel (va + BitVec.ofNat 64 k) (n - k)

/-- The physical ranges of a tile's rows in local memory: a part that does not translate holds no access of the fragment. -/
def State.tileRanges (s : State) (who : Agent) (asid table : Nat) (t : TileFlag) : List (Nat × Nat) :=
  (List.range t.rows).flatMap (fun r =>
    (pageRuns (t.rowbytes / 65536 + 2) (t.rbase + BitVec.ofNat 64 r * t.rstride) t.rowbytes).filterMap (fun p =>
      match s.access who asid table p.1 1 .read .none with
      | .ok [q] => if q.region == .loc then some (q.addr, p.2) else none
      | _ => none))

def inRanges (rs : List (Nat × Nat)) (a n : Nat) : Bool := rs.any (fun r => decide (a < r.1 + r.2) && decide (r.1 < a + n))

/-- The write reaches into the ranges. -/
def WriteRec.into (r : WriteRec) (rs : List (Nat × Nat)) : Bool :=
  r.region == .loc && (r.cells.any (fun c => inRanges rs c.1 1) || r.steps.any (fun a => a.pieces.any (fun p => inRanges rs p.addr p.len)))

def StoreEntry.into (e : StoreEntry) (rs : List (Nat × Nat)) : Bool :=
  e.accs.any (fun a => a.pieces.any (fun p => p.region == .loc && inRanges rs p.addr p.len))

/-- Every earlier store, atomic and reduction of the wave to a tile is performed at DEVICE scope (R376). -/
def State.tileReady (s : State) (w ord : Nat) (rs : List (Nat × Nat)) : Bool :=
  match s.wave? w with
  | none => true
  | some W =>
    !W.stores.any (fun e => e.ord < ord && !e.scratch && e.into rs) &&
    !s.mx.entries.any (fun e => e.2.wave == w && e.2.isStore && e.2.pends.any (fun p => p < ord)) &&
    !s.path.writes.any (fun e => (match e.2.source with | .wave v o => v == w && o < ord | _ => false) && e.2.short 4 && e.2.into rs)

/-- SET is written at the home slice in one step. -/
def State.doTready (s : State) (w : Nat) (own : Mask) (o : Origin) (pa : Nat) (va : Word) (v : Bool) : State :=
  if s.memPoisoned pa 32 then (s.findIn pa 32).loseOwners w own o 0xC9 va
  else s.walkerWrite .agent pa 1 (s.memNat pa 1 / 2 * 2 + (if v then 1 else 0))

def treadyBody (x : ExtWord) (c : Ctx) (s : State) : Res :=
  let va := c.F.scalar x.a.num.toNat
  match c.target s va 32 .write with
  | .error r => r
  | .ok pa =>
    if s.homeBusy c.W pa 32 then .stall
    else if s.memPoisoned pa 32 then .keep ((s.findIn pa 32).loseFragment c.f c.op va (some c.origin))
    else
      let t := parseFlag (readBytes s.mem pa 32)
      let own := heldLanes c.W c.F
      let s1 := s.fillAccess (.core c.W.core) c.T.asid c.T.table va 4
      if !t.ok then .trap (queueFault c 2 0xFF)
      else if x.sub.getLsbD 0 then
        if s.acquiring c.w s.nextId own then .stall else .done (s1.doTready c.w own c.origin pa va false)
      else
        let rs := s.tileRanges (.core c.W.core) c.T.asid c.T.table t
        if !s.acquiring c.w s.nextId own && s.tileReady c.w s.nextId rs then .done ((s1.doTready c.w own c.origin pa va true).nextEpoch c.w true)
        else .done ((s1.nextEpoch c.w true).addPend { wave := c.w, lanes := own, own := own, ord := s.nextId, tok := x.tok.toNat, dst := .none
                                                      pc := c.F.pc, rwc := c.F.rwc, cls := c.cls, op := c.op, kind := .release 4 (.tready pa va rs) }).2
def execTready (w : ExtWord) (s : State) : Host.Outcome State Fault Refusal := issue (.tready w) (treadyBody w) s

/-- The cache actions of an acquire at DEVICE scope, on the lines of some ranges only (R343). -/
def State.acquireTile (s : State) (core : Nat) (rs : List (Nat × Nat)) : State :=
  let hit (line : Nat) : Bool := inRanges rs (128 * line) 128
  (s.l1Drop core (fun sec => hit (sec / 4))).setRdc (dieOf core)
    (List.filter (fun e => e.2.detached.isNone || !hit e.1) (Tbl.get [] s.path.rdc (dieOf core)))

/-- WAIT.F: the flag is read at its home slice; where it is set, the tile is acquired (R161, R343). -/
def waitFBody (x : ExtWord) (c : Ctx) (s : State) : Res :=
  let va := c.F.scalar x.a.num.toNat
  match c.target s va 32 .read with
  | .error r => r
  | .ok pa =>
    if s.homeBusy c.W pa 32 || s.acquiring c.w s.nextId (heldLanes c.W c.F) then .unselect
    else if s.memPoisoned pa 32 then .keep ((s.findIn pa 32).loseFragment c.f c.op va (some c.origin))
    else
      let t := parseFlag (readBytes s.mem pa 32)
      let s1 := s.fillAccess (.core c.W.core) c.T.asid c.T.table va 4
      if !t.set then .unselect
      else .done ((s1.nextEpoch c.w true).acquireTile c.W.core (s.tileRanges (.core c.W.core) c.T.asid c.T.table t))
def execWaitF (w : ExtWord) (s : State) : Host.Outcome State Fault Refusal := issue (.waitF w) (waitFBody w) s

/-! ## Drain slots (R372, R377) -/

/-- Destinations: the cores of the package, then its dies. -/
def dieDest (d : Nat) : Nat := 1280 + d
def drainKey (dest slot : Nat) : Nat := dest * 16 + slot

def State.drainSlot (s : State) (dest slot : Nat) : DrainSlot := Tbl.get ⟨0, false⟩ s.sched.drains (drainKey dest slot)
def State.setDrain (s : State) (dest slot : Nat) (d : DrainSlot) : State :=
  { s with sched := { s.sched with drains := Tbl.set ⟨0, false⟩ s.sched.drains (drainKey dest slot) d } }

/-- The cluster of a core is enabled. -/
def State.coreEnabled (s : State) (core : Nat) : Bool := (Tbl.get 0 s.sched.enabled (dieOf core)).getLsbD (core % 160 / 4)

/-- The destinations of a mode: 0 dies, 1 enabled cores. -/
def State.destinations (s : State) (mode : Nat) : List Nat :=
  if mode = 0 then (List.range 8).map dieDest else (List.range 1280).filter s.coreEnabled

/-- Every line of a tree is high. -/
def State.treeHigh (s : State) (slot : Nat) : Bool :=
  !s.sched.drains.any (fun e => e.1 % 16 == slot && e.2.armed && e.2.count != 0)

/-- A join whose tree is high completes: its mode's destinations are disarmed and set to 0. -/
def State.serveJoin (s : State) (j : DrainJoin) : State :=
  if !s.treeHigh j.slot then s
  else
    let s1 := (s.destinations j.mode).foldl (fun s d => s.setDrain d j.slot ⟨0, false⟩) s
    { s1 with sched := { s1.sched with joins := s1.sched.joins.erase j } }.addTask (homeOf j.node) (.complete j.node 2 none)

def State.serveJoins (s : State) : State := s.sched.joins.foldl (fun s j => s.serveJoin j) s

/-- The arrivals of a DRAIN. -/
def State.doDrain (s : State) (key n : Nat) : State :=
  let d := Tbl.get ⟨0, false⟩ s.sched.drains key
  { s with sched := { s.sched with drains := Tbl.set ⟨0, false⟩ s.sched.drains key { d with count := d.count - BitVec.ofNat 32 n } } }.serveJoins

/-- The slot that a destination word names. -/
def State.drainDest (s : State) (v : Word) : Option Nat :=
  let slot := (v.extractLsb' 16 4).toNat
  let core := (v.extractLsb' 3 8).toNat
  let die := (v.extractLsb' 0 3).toNat
  if v.extractLsb' 20 44 != 0 || v.extractLsb' 12 4 != 0 then none
  else if v.getLsbD 11 then (if core < 160 && s.coreEnabled (160 * die + core) then some (drainKey (160 * die + core) slot) else none)
  else if core = 0 then some (drainKey (dieDest die) slot) else none

def drainBody (x : ExtWord) (c : Ctx) (s : State) : Res :=
  match s.drainDest (c.F.scalar x.a.num.toNat) with
  | none => .trap (queueFault c 2 x.a.num.toNat)
  | some key =>
    let n := (if x.b.cls == .scal then (c.F.scalar x.b.num.toNat).extractLsb' 0 32 else (c.count x x.b).extractLsb' 0 32).toNat
    if 2 ^ 31 ≤ n then .trap (queueFault c 2 (numOrField x.b))
    else c.release s x.tok.toNat 4 (heldLanes c.W c.F) .none (.drain key n) (fun _ _ s => s.doDrain key n)
def execDrain (w : ExtWord) (s : State) : Host.Outcome State Fault Refusal := issue (.drain w) (drainBody w) s

end Sys2Proof.Machine
end

