-- ==== Sys2Proof/Machine/Place.lean ====
section
/-! DEFINITION. Machine/Place.lean: which resources a team needs and where they are free (R102, R166, R238, R241, R349, R378), and the
placement of a team (R164, R370, R379, R393). -/

namespace Sys2Proof.Machine

/-! ## What placed teams occupy -/

/-- The place of one wave: core, quadrant, first column, quads, base blocks, fragment-table entries. -/
structure Spot3 where
  core    : Nat
  quad    : Nat
  col     : Nat
  quads   : Nat
  base    : Nat
  entries : Nat
deriving DecidableEq, Repr

def Spot3.covers (p : Spot3) (core quad col : Nat) : Bool := p.core == core && p.quad == quad && p.col ≤ col && col < p.col + p.quads

/-- A team's resources: the header that it was placed by, which its storage follows, that of its task, which its frames follow (R210), its cores,
the places of its waves. -/
structure Held where
  hdr   : Header
  task  : Header
  cores : List Nat
  spots : List Spot3
deriving DecidableEq, Repr

/-- T of R166: the pools beyond the base blocks. -/
def Header.extended (h : Header) : Nat := h.roles.foldl (fun n r => n + (r.pool - r.count * r.base)) 0

/-- Reserve(c) of R166. -/
def Held.frames (h : Held) (core quad col : Nat) : Nat :=
  let here := h.spots.filter (fun p => p.covers core quad col)
  here.foldl (fun n p => n + p.base) 0 + min h.task.extended (here.foldl (fun n p => n + (8 - p.base)) 0)

/-- Everything placed, the team being placed last. -/
abbrev Occ := List Held

def Occ.total (o : Occ) (f : Held → Nat) : Nat := List.foldl (fun n h => n + f h) 0 o

/-- The waves of a header in team order: quads, base blocks, and the entries that each needs. -/
def Header.waves (h : Header) : List (Nat × Nat × Nat) := h.roles.flatMap (fun r => List.replicate r.count (2 ^ r.width, r.base, 1))

/-- A core can reserve what every core of the team needs: scratchpad, slots, regions of both banks (R102, R238, R241). -/
def Occ.coreFits (o : Occ) (core : Nat) : Bool :=
  let here : Occ := List.filter (fun (h : Held) => h.cores.contains core) o
  decide (here.total (fun h => h.hdr.scratch) ≤ 458752) && decide (here.total (fun h => h.hdr.slots) ≤ 64) &&
  decide (here.total (fun h => (h.hdr.regions + 1) / 2) ≤ 16) && decide (here.total (fun h => h.hdr.regions / 2) ≤ 16)

/-- The last wave's place is possible: frames of its columns, and at most 128 waves and entries in its quadrant (R166, R349). -/
def Occ.spotFits (o : Occ) (p : Spot3) : Bool :=
  (List.range p.quads).all (fun i => decide (o.total (fun h => h.frames p.core p.quad (p.col + i)) ≤ 16)) &&
  decide (o.total (fun h => (h.spots.filter (fun q => q.core == p.core && q.quad == p.quad)).length) ≤ 128) &&
  decide (o.total (fun h => (h.spots.filter (fun q => q.core == p.core && q.quad == p.quad)).foldl (fun n q => n + q.entries) 0) ≤ 128)

/-- A list begun at another place. -/
def turned {α : Type} (k : Nat) (l : List α) : List α := l.drop (k % (l.length + 1)) ++ l.take (k % (l.length + 1))

/-- Place the waves of the last team one after another; every possibility is tried, and `k` goes on from the first that works. -/
def packWaves {α : Type} (pick : Nat) (cores : List Nat) (k : Occ → Option α) : List (Nat × Nat × Nat) → Occ → Option α
  | [], o => k o
  | (quads, base, entries) :: ws, o =>
    let places := (turned pick cores).flatMap (fun core => (List.range 4).flatMap (fun q => (List.range (16 / quads)).map (fun i =>
      (⟨core, q, i * quads, quads, base, entries⟩ : Spot3))))
    places.findSome? (fun p =>
      match o.getLast? with
      | none => none
      | some h =>
        let o1 : Occ := o.dropLast ++ [{ h with spots := h.spots ++ [p] }]
        if o1.spotFits p then packWaves pick cores k ws o1 else none)

/-- The columns of some cores have frames enough for the base blocks of some waves, or, where the extended blocks fill a column alone, for
eight blocks of each: without this no placement exists (R166). -/
def framesSuffice (h : Header) (waves : List (Nat × Nat × Nat)) (cores : Nat) : Bool :=
  decide (waves.foldl (fun n w => n + w.1 * (if 16 ≤ h.extended then 8 else w.2.1)) 0 ≤ cores * 1024)

/-- Place one more team on given cores. -/
def packTeam {α : Type} (pick : Nat) (hdr : Header) (waves : List (Nat × Nat × Nat)) (cores : List Nat) (o : Occ) (k : Occ → Option α) : Option α :=
  let o1 : Occ := o ++ [⟨hdr, hdr, cores, []⟩]
  if cores.all o1.coreFits && framesSuffice hdr waves cores.length then packWaves pick cores k waves o1 else none

/-- The least k for which a team fits on k empty cores (R378). -/
def teamCores (h : Header) : Option Nat :=
  ([1, 2, 3, 4]).find? (fun k => (packTeam 0 h h.waves (List.range k) [] some).isSome)

/-- The sets of k cores among four, in increasing order. -/
def coreSets (k : Nat) : List (List Nat) :=
  ((List.range 16).filter (fun m => popcount 4 m == k)).map (fun m => (List.range 4).filter (fun i => m.testBit i))

/-- The choices of cores for a team on some dies. -/
def State.coreChoices (s : State) (dies : List Nat) (k pick : Nat) : List (List Nat) :=
  let clusters := dies.flatMap (fun d => ((List.range 40).filter (fun n => (Tbl.get 0 s.sched.enabled d).getLsbD n)).map (fun n => 40 * d + n))
  ((turned pick clusters).flatMap (fun cl => (turned pick (coreSets k)).map (fun cs => cs.map (fun i => 4 * cl + i)))).filter
    (fun cs => !cs.any s.swapping)

/-- Place a team somewhere on some dies. -/
def State.packOn {α : Type} (s : State) (dies : List Nat) (k pick : Nat) (hdr : Header) (waves : List (Nat × Nat × Nat)) (o : Occ) (go : Occ → Option α) :
    Option α :=
  (s.coreChoices dies k pick).findSome? (fun cores => packTeam pick hdr waves cores o go)

/-- Place `n` equal teams together (R380). -/
def State.packMany (s : State) (dies : List Nat) (k pick : Nat) (hdr : Header) : Nat → Occ → Option Occ
  | 0, o => some o
  | n + 1, o => s.packOn dies k pick hdr hdr.waves o (fun o1 => s.packMany dies k pick hdr n o1)

/-- A team's waves that have not ended, in team order, each with the number it has. -/
def State.orderedWaves (s : State) (t : Nat) (T : Team) : List (Nat × Wave) :=
  let ws := s.wavesOf t
  T.placed.roles.zipIdx.flatMap (fun r => (List.range r.1.count).flatMap (fun i => ws.filter (fun e => e.2.role == r.2 && e.2.roleIdx == i && e.2.live != 0)))

/-- What a wave keeps reserved: its place, with its role's base (R166, R210). -/
def placeOf (T : Team) (W : Wave) (entries : Nat) : Spot3 :=
  ⟨W.core, W.quadrant, W.col0, W.width / 4, match T.task.roles[W.role]? with | some d => d.base | none => 1, entries⟩

/-- The occupancy of the machine: a wave's columns are released when it ends (R208), a team's storage at the team's end. -/
def State.occ (s : State) : Occ :=
  (s.teams.filter (fun e => s.occupies e.2)).map (fun e =>
    ⟨e.2.placed, e.2.task, e.2.cores, ((s.wavesOf e.1).filter (fun w => w.2.live != 0)).map (fun w => placeOf e.2 w.2 (s.fragsOf w.1).length)⟩)

/-- The dies of a mask. -/
def diesOf (m : BitVec 8) : List Nat := (List.range 8).filter m.getLsbD

/-- Where a saved team may be restored (R379, R397): on any die, its cores in order, its waves with their fragments. -/
def State.packImage (s : State) (m : Image) (pick : Nat) : Option Occ :=
  match s.team? m.team with
  | none => none
  | some T =>
    s.packOn (List.range 8) T.cores.length pick T.placed
      ((s.orderedWaves m.team T).map (fun e => (e.2.width / 4, (placeOf T e.2 0).base, (s.fragsOf e.1).length))) s.occ some

/-- The complete images that wait to be restored (R397). -/
def State.restorable (s : State) : List (Nat × Image) := s.saves.images.filter (fun e => e.2.complete && e.2.pending)

/-! ## What a placement does -/

/-- The instruction caches of a core and its cluster, and the cluster's constant cache, are cleared when a team of another grid than the
last one served comes (R124, R393); for one of the same grid the constant cache keeps only what the locations still hold, since its LDCs read
nothing older than its placement. -/
def State.serveGrid (s : State) (core grid : Nat) (always : Bool) : State :=
  let cl := clusterOf core
  let s1 := if Tbl.get 0 s.sched.servedCore core = grid && !always then s
            else { s with path := { s.path with icore := Tbl.set [] s.path.icore core [] } }
  let current (e : Nat × Sector) : Bool := e.2 == s1.homeSector e.1
  let s2 := if Tbl.get 0 s1.sched.servedClus cl = grid && !always then
              { s1 with path := { s1.path with const := Tbl.set [] s1.path.const cl (List.filter current (Tbl.get [] s1.path.const cl)) } }
            else { s1 with path := { s1.path with iclus := Tbl.set [] s1.path.iclus cl [], const := Tbl.set [] s1.path.const cl [] } }
  { s2 with sched := { s2.sched with servedCore := Tbl.set 0 s2.sched.servedCore core grid, servedClus := Tbl.set 0 s2.sched.servedClus cl grid } }

/-- The L1 gives up lines to a new reservation: which ones is open (R102). -/
def State.trimL1 (s : State) (core : Nat) : State :=
  let t := Tbl.get [] s.path.l1 core
  let t1 : Tbl Sector := if Config.freeBool s.free then List.drop (t.length - s.l1Cap core) t else List.take (s.l1Cap core) t
  { s with path := { s.path with l1 := Tbl.set [] s.path.l1 core t1 }, free := s.free + 1 }

/-- The slots that a placed team reserves on a core. Slots, like the team's scratchpad and regions, are named within the team: fixed
slot numbers are safe in a program that claims in a fixed order (R255, the attention program). -/
def takeSlots (n : Nat) : List Nat := List.range n

/-- The caches as a team that arrives on its cores finds them. -/
def State.arriveOn (s : State) (cores : List Nat) (grid : Nat) (always : Bool) : State :=
  cores.foldl (fun s core => ((s.serveGrid core grid always).acquire core 4).trimL1 core) s

/-- What a new team is. -/
structure NewTeam where
  grid   : Nat
  id     : Nat
  x      : Nat
  y      : Nat
  z      : Nat
  ex     : Nat
  ey     : Nat
  ez     : Nat
  asid   : Nat
  table  : Nat
  hdr    : Header
  args   : List Word
  shader : Bool
deriving DecidableEq, Repr

/-- The waves of a placed team, each at its place with fragment 0 (R164, R370). -/
def State.startWaves (s : State) (t : Nat) (n : NewTeam) (spots : List Spot3) : State :=
  let roles := n.hdr.roles.zipIdx.flatMap (fun r => (List.range r.1.count).map (fun i => (r.2, i, r.1)))
  ((roles.zip spots).zipIdx).foldl (fun s e =>
    let r := e.1.1
    let p := e.1.2
    let W := startWave t e.2 r.1 r.2.1 p.core p.quad p.col r.2.2.lanes r.2.2.base
    let w := s.nextId
    let s1 := { s with waves := Tbl.put s.waves w W, nextId := s.nextId + 1 }
    s1.startFragOf w W n.hdr n.args) s

/-- A team starts at its place; what it is numbered (R102, R108, R238, R241, R379). -/
def State.startTeam (s : State) (n : NewTeam) (cores : List Nat) (spots : List Spot3) : Nat × State :=
  let t := s.nextId
  let om := cores.map (fun _ => ({ noOperandMem with reserved := takeSlots n.hdr.slots } : OperandMem))
  let T : Team := { grid := n.grid, id := n.id, asid := n.asid, table := n.table, x := n.x, y := n.y, z := n.z, ex := n.ex, ey := n.ey, ez := n.ez
                    placed := n.hdr, task := n.hdr, cores := cores, where_ := .live
                    quotas := (List.range 4).map (fun r => match n.hdr.roles[r]? with | some d => d.pool | none => 0)
                    racq := [], lost := false, shader := n.shader, gate := 0, scratch := [], spoison := [], barriers := [], om := om
                    acc := cores.map (fun _ => noAcc) }
  let s1 := { s with teams := Tbl.put s.teams t T, nextId := s.nextId + 1, free := s.free + 1 }
  (t, (s1.arriveOn cores n.grid false).startWaves t n spots)

end Sys2Proof.Machine
end

