-- ==== Sys2Proof/Machine/Walker.lean ====
section
/-! DEFINITION. Machine/Walker.lean: the graph walkers (R366 to R372), the placement of pending teams (R376, R379, R380), and shader waves
(R297). -/

namespace Sys2Proof.Machine

/-! ## Completion (R369) -/

/-- Everything that a team's waves, commands and operations have sent is performed at DEVICE scope. -/
def State.teamSettled (s : State) (t : Nat) : Bool :=
  let ws := (s.wavesOf t).map Prod.fst
  (s.wavesOf t).all (fun e => e.2.stores.isEmpty && e.2.queues.q3.isEmpty) &&
  !s.path.writes.any (fun e => (match e.2.source with | .wave w _ => ws.contains w | _ => false) && e.2.short 4) &&
  !s.eng.cmds.any (fun e => e.2.team == t || e.2.to_.contains t) && !s.mx.entries.any (fun e => e.2.team == t) &&
  !s.gfx.passes.any (fun e => ws.contains e.2.wave) && !s.gfx.refits.any (fun e => ws.contains e.2.wave) &&
  !s.gfx.rays.any (fun e => !e.2.inline && ws.contains e.2.wave) && !s.rc.ops.any (fun e => ws.contains e.2.wave) &&
  !s.pend.any (fun e => ws.contains e.2.wave && e.2.owed)

/-- A grid has no team and no ray left, and its effects are performed. -/
def State.gridSettled (s : State) (g : Nat) (G : Grid) : Bool :=
  G.running == 0 && G.pending.isEmpty && !s.gfx.rays.any (fun e => !e.2.inline && e.2.grid == g) &&
  (s.teams.filter (fun e => e.2.grid == g)).all (fun e => s.teamSettled e.1)

/-- STATUS is written, and the task goes on once that is performed. -/
def State.finishNode (s : State) (node status : Nat) : State :=
  let id := s.nextId
  let kind := s.memNat node 1
  let s1 := { s with nextId := s.nextId + 1 }
  let s2 := if kind = 2 && status = 2 then s1.raise 2 (natBytes 8 (s1.memNat (node + 0x48) 8) ++ natBytes 8 node) else s1
  (s2.walkerWrite (.op id) (node + 8) 4 status).addTask (homeOf node) (.written node id)

/-- A completion's turn: the effects first. -/
def State.completeNode (s : State) (node status : Nat) (grid : Option Nat) : State :=
  match grid with
  | none => s.finishNode node status
  | some g =>
    match Tbl.find s.sched.grids g with
    | none => s
    | some G =>
      if s.gridSettled g G then { s with sched := { s.sched with grids := Tbl.drop s.sched.grids g } }.finishNode node G.worst
      else s.addTask (homeOf node) (.complete node status grid)

/-- The successors of a node (R367). -/
def State.followNode (s0 : State) (node : Nat) : State :=
  let s := s0.findIn node 128
  if s.memPoisoned node 128 then s.dropNode node
  else
    let n := min 6 (s.memNat (node + 0x0C) 1)
    s.addTask (homeOf node) (.follow ((List.range n).map (fun i => s.memNat (node + 0x10 + 8 * i) 8)) (s.memNat (node + 0x40) 8))

/-- The next decrement of a list, or the next overflow block. -/
def State.followList (s : State) (die : Nat) (nodes : List Nat) (block : Nat) : State :=
  match nodes with
  | a :: as => if nodeAddr a && !s.nodeFree a then s.addTask die (.follow nodes block) else (s.decrement a).2.addTask die (.follow as block)
  | [] =>
    if block = 0 then s
    else if !nodeAddr block then s.dropNode block
    else if s.memPoisoned block 128 then (s.findIn block 128).dropNode block
    else
      let es := (List.range 15).map (fun i => s.memNat (block + 8 * i) 8)
      s.addTask die (.follow (es.takeWhile (· != 0)) (s.memNat (block + 0x78) 8))

/-! ## Start (R366, R369 to R372) -/

/-- The fields that every kind shares are in their ranges (R366). -/
def nodeFieldsOk (b : List Byte) : Bool :=
  let n := field b 0x0C 1
  field b 0 1 ≤ 3 && field b 1 1 < 3 && (field b 1 1 == 0 || field b 0 1 == 0) && field b 2 2 == 0 && n ≤ 6 && field b 0x0D 3 == 0 &&
  (List.range 6).all (fun i => if i < n then nodeAddr (field b (0x10 + 8 * i) 8) else field b (0x10 + 8 * i) 8 == 0) && nodeAddr (field b 0x40 8)

/-- The address of a level-1 table (R80). -/
def tableAddr (a : Nat) : Bool := a % 65536 == 0 && a < 2 ^ 38

/-- The body of a kernel node in its ranges (R370). -/
def kernelOk (b : List Byte) : Bool :=
  let n := field b 0x5C 4 * field b 0x60 4 * field b 0x64 4
  tableAddr (field b 0x50 8) && field b 0x58 2 < 2 ^ 12 && field b 0x5A 1 != 0 && field b 0x5B 1 == 0 && 1 ≤ n && n ≤ 65535 && field b 0x78 8 == 0

/-- The body of a drain-join node (R372). -/
def joinOk (b : List Byte) : Bool :=
  tableAddr (field b 0x50 8) && field b 0x58 2 < 2 ^ 12 && (b.drop 0x5A).all (· == 0)

/-- A copy node's body (R371). -/
def copyOk (b : List Byte) : Bool :=
  field b 0x58 8 ≤ 2 ^ 32 && tableAddr (field b 0x60 8) && field b 0x68 2 < 2 ^ 12 && (b.drop 0x6A).all (· == 0)

/-- A header with no roles, for what stands in a team's place. -/
def noHeader : Header :=
  { entry := 0, flags := 0, lanes := 0, pclass := 1, scratch := 0, roles := [], slots := 0, regions := 0, fuseto := 0, trapctl := 0, handler := 0 }

/-- A copy node runs as one CPY.GG on the engines of a cluster of its home die (R371): which cluster is open. -/
def State.startCopy (s : State) (node : Nat) (b : List Byte) : State :=
  let die := homeOf node
  let cls := (List.range 40).filter (fun n => (Tbl.get 0 s.sched.enabled die).getLsbD n)
  let cl := 40 * die + cls.getD (Config.freeNat s.free % cls.length) 0
  let t := s.nextId
  let T : Team := { grid := t, id := 2 ^ 16, asid := field b 0x68 2, table := field b 0x60 8, x := 0, y := 0, z := 0, ex := 1, ey := 1, ez := 1
                    placed := noHeader, task := noHeader, cores := [], where_ := .live, quotas := [], racq := [], lost := false, shader := false
                    gate := 0, scratch := [], spoison := [], barriers := [], om := [], acc := [] }
  let k : Command := { pend := t + 1, team := t, wave := nodeWave + node, queue := 0, cluster := cl, kind := 0x98, src := 0, dst := 0
                       regs := [BitVec.ofNat 64 (field b 0x48 8), BitVec.ofNat 64 (field b 0x50 8), BitVec.ofNat 64 (field b 0x58 8)], signal := 0
                       tile := [], fmt := 0, op := 0, ordered := false, ftz := false, to_ := [t], bytes := field b 0x58 8, started := false
                       next := 0, srd := 0, gv := 0, poison := false, fault := none, abort := false, ending := false }
  { s with teams := Tbl.put s.teams t T, eng := { s.eng with cmds := Tbl.put s.eng.cmds (t + 2) k }, nextId := t + 3, free := s.free + 1 }

/-- A node starts: STATUS 1, then its body. -/
def State.startNode (s0 : State) (node : Nat) : State :=
  let s := s0.findIn node 128
  if s.memPoisoned node 128 then s.dropNode node
  else
    let b := readBytes s.mem node 128
    let s1 := s.walkerWrite .agent (node + 8) 4 1
    let die := homeOf node
    let bad := s1.addTask die (.complete node 9 none)
    if !nodeFieldsOk b then bad
    else
      match field b 0 1 with
      | 0 => if kernelOk b then s1.addTask die (.read node) else bad
      | 1 => if copyOk b then s1.startCopy node b else bad
      | 2 => if (b.drop 0x50).all (· == 0) then s1.addTask die (.complete node 2 none) else bad
      | _ => if joinOk b then s1.addTask die (.read node) else bad

/-- What names the requests of a walker's reads. -/
def nodeKey (node : Nat) : Nat := 2 ^ 61 + node

/-- A grid starts: its teams are pending; or its node completes at once (R370, R378, R380). -/
def State.startGrid (s : State) (node : Nat) (b : List Byte) (h : Header) (args : List Byte) : State :=
  let die := homeOf node
  let ext (i : Nat) : Nat := field b (0x5C + 4 * i) 4
  let n := ext 0 * ext 1 * ext 2
  let dies : BitVec 8 := BitVec.ofNat 8 (field b 0x5A 1)
  let persist := field b 1 1 == 1
  match teamCores h with
  | none => s.addTask die (.complete node 4 none)
  | some k =>
    if persist && (s.packMany (diesOf dies) k 0 h n []).isNone then s.addTask die (.complete node 4 none)
    else
      let g : Grid := { node := node, die := die, order := s.nextId, asid := field b 0x58 2, table := field b 0x50 8, dies := dies, ex := ext 0
                        ey := ext 1, ez := ext 2, header := h, args := (List.range 8).map (fun i => BitVec.ofNat 64 (field args (8 * i) 8))
                        persist := persist, flags := if field b 1 1 == 2 then some (BitVec.ofNat 64 (field b 0x70 8)) else none
                        pending := (List.range n).map (fun i => ⟨i, 0⟩), running := 0, worst := 2 }
      { s with sched := { s.sched with grids := Tbl.put s.sched.grids s.nextId g }, nextId := s.nextId + 1 }

/-- The header and ARGS of a kernel node are read and checked. -/
def State.readKernel (s : State) (node : Nat) (b : List Byte) : State :=
  let die := homeOf node
  let u : UnitCtx := { who := .die die, unit := 5, asid := field b 0x58 2, table := field b 0x50 8 }
  let entry : Word := BitVec.ofNat 64 (field b 0x48 8)
  let args : Word := BitVec.ofNat 64 (field b 0x68 8)
  let done (s : State) (status : Nat) : State := (s.unitDone (nodeKey node)).addTask die (.complete node status none)
  match s.unitRead u (nodeKey node) (entry - 64) 64 with
  | .fault s1 _ _ => done s1 7
  | .wait s1 => s1.addTask die (.read node)
  | .ok s1 (hb, hbad) =>
    match (if args = 0 then .ok s1 (List.replicate 64 0, false) else s1.unitRead u (nodeKey node) args 64) with
    | .fault s2 _ _ => done s2 7
    | .wait s2 => s2.addTask die (.read node)
    | .ok s2 (ab, abad) =>
      if hbad || abad then done s2 8
      else
        match parseHeader hb entry with
        | none => done s2 3
        | some h => if field b 1 1 == 1 && !h.persistent then done s2 3 else (s2.unitDone (nodeKey node)).startGrid node b h ab

/-- A phase header's counts by destination (R372); none where it is malformed. -/
def State.phaseCounts (s : State) (bs : List Byte) : Option (Nat × Nat × List (Nat × Nat)) :=
  let mode := field bs 0 1
  let slot := field bs 1 1
  let n := if mode = 0 then 8 else 1280
  let cs := (List.range n).map (fun i => (if mode = 0 then dieDest i else i, field bs (16 + 4 * i) 4))
  if 2 ≤ mode || 16 ≤ slot || !((bs.drop 2).take 14).all (· == 0) || cs.any (fun c => 2 ^ 31 ≤ c.2) ||
     cs.any (fun c => mode = 1 && !s.coreEnabled c.1 && c.2 != 0) then none
  else some (mode, slot, cs.filter (fun c => mode = 0 || s.coreEnabled c.1))

/-- A drain-join arms its slots, all in one step, and waits for its tree. -/
def State.readJoin (s : State) (node : Nat) (b : List Byte) : State :=
  let die := homeOf node
  let u : UnitCtx := { who := .die die, unit := 5, asid := field b 0x58 2, table := field b 0x50 8 }
  let phase : Word := BitVec.ofNat 64 (field b 0x48 8)
  let done (s : State) (status : Nat) : State := (s.unitDone (nodeKey node)).addTask die (.complete node status none)
  match s.unitRead u (nodeKey node) phase 16 with
  | .fault s1 _ _ => done s1 7
  | .wait s1 => s1.addTask die (.read node)
  | .ok s1 (h16, bad16) =>
    if bad16 then done s1 8
    else
      match s1.unitRead u (nodeKey node) phase (if field h16 0 1 = 1 then 5136 else 48) with
      | .fault s2 _ _ => done s2 7
      | .wait s2 => s2.addTask die (.read node)
      | .ok s2 (bs, bad) =>
        if bad then done s2 8
        else
          match s2.phaseCounts bs with
          | none => done s2 9
          | some (mode, slot, cs) =>
            if cs.any (fun c => (s2.drainSlot c.1 slot).armed) then done s2 9
            else
              let s3 := cs.foldl (fun (s : State) (c : Nat × Nat) => s.setDrain c.1 slot ⟨(s.drainSlot c.1 slot).count + BitVec.ofNat 32 c.2, true⟩) (s2.unitDone (nodeKey node))
              { s3 with sched := { s3.sched with joins := s3.sched.joins ++ [(⟨node, mode, slot⟩ : DrainJoin)] } }.serveJoins

/-- One task of a walker. -/
def State.walk1 (s : State) (die : Nat) (t : WalkTask) : State :=
  match t with
  | .start node => s.startNode node
  | .read node =>
    let b := readBytes s.mem node 128
    if s.memPoisoned node 128 then (s.findIn node 128).dropNode node else if field b 0 1 = 0 then s.readKernel node b else s.readJoin node b
  | .complete node status grid => s.completeNode node status grid
  | .written node id => if s.path.writes.any (fun e => e.2.source == .op id && e.2.short 4) then s.addTask die t else s.followNode node
  | .follow nodes block => s.followList die nodes block

/-- NODE_START: a die's walker takes up one of its tasks: which one is open. -/
def State.walkerStep (s : State) (die : Nat) : State :=
  let ts := Tbl.get [] s.sched.tasks die
  let k := Config.freeNat s.free % ts.length
  match ts[k]? with
  | none => s
  | some t => ({ s with sched := { s.sched with tasks := Tbl.set [] s.sched.tasks die (ts.eraseIdx k) }, free := s.free + 1 }).walk1 die t

def execNodeStart (die : Nat) (s : State) : Host.Outcome State Fault Refusal := .next (s.walkerStep die)

/-! ## Pending teams (R376, R379, R380) -/

def State.adjGrid (s : State) (g : Nat) (f : Grid → Grid) : State := { s with sched := { s.sched with grids := Tbl.adjust s.sched.grids g f } }

/-- The tile flag of a FLAGLAUNCH team, as its grid's walker reads it: set, not set yet, or waiting for the host. -/
def State.flagOf (s : State) (g : Nat) (G : Grid) (i : Nat) : Bool × State :=
  match G.flags with
  | none => (true, s)
  | some base =>
    let id := 2 ^ 60 + g * 65536 + i
    let u : UnitCtx := { who := .die G.die, unit := 5, asid := G.asid, table := G.table }
    match s.unitRead u id (base + BitVec.ofNat 64 (32 * i)) 32 with
    | .ok s1 (bs, bad) => (!bad && (parseFlag bs).set, s1.unitDone id)
    | .wait s1 => (false, s1)
    | .fault s1 _ _ => (false, s1.unitDone id)

/-- What a look through the pending teams has found: the dies on which no later team may be placed, the teams that did not fit, and the first
that does: its grid, its index (none for a whole persistent grid), the dies it may be placed on. -/
structure Scan where
  s       : State
  blocked : BitVec 8
  past    : List (Nat × Nat)
  hit     : Option (Nat × Option Nat × BitVec 8)

/-- One pending team's turn. -/
def Scan.look (q : Scan) (e : Nat × Grid × PendingTeam) : Scan :=
  let g := e.1
  let G := e.2.1
  let p := e.2.2
  let dies := G.dies &&& ~~~q.blocked
  if q.hit.isSome || dies = 0 then q
  else
    match teamCores G.header with
    | none => q
    | some k =>
      if G.persist then
        if (G.pending.head?).map PendingTeam.index != some p.index then q
        else if (q.s.packMany (diesOf dies) k (Config.freeNat q.s.free) G.header G.pending.length q.s.occ).isSome then { q with hit := some (g, none, dies) }
        else { q with blocked := q.blocked ||| G.dies }
      else
        let r := q.s.flagOf g G p.index
        if !r.1 then { q with s := r.2 }
        else if (r.2.packOn (diesOf dies) k (Config.freeNat r.2.free) G.header G.header.waves r.2.occ some).isSome then
          { q with s := r.2, hit := some (g, some p.index, dies) }
        else { q with s := r.2, past := q.past ++ [(g, p.index)], blocked := if 64 ≤ p.passed then q.blocked ||| G.dies else q.blocked }

def State.scan (s : State) : Scan :=
  (s.sched.grids.flatMap (fun g => g.2.pending.map (fun p => (g.1, g.2, p)))).foldl Scan.look ⟨s, 0, [], none⟩

/-- Some complete image must be restored before any pending team is placed (R379). -/
def State.restoreFirst (s : State) : Bool :=
  s.restorable.any (fun e => 64 ≤ e.2.passed || (s.packImage e.2 (Config.freeNat s.free)).isSome)

/-- A team with index i of a grid is placed where the occupancy's entry says. -/
def State.placeTeam (s : State) (g : Nat) (G : Grid) (i : Nat) (h : Held) : State :=
  let n : NewTeam := { grid := g, id := i, x := i % G.ex, y := i / G.ex % G.ey, z := i / (G.ex * G.ey), ex := G.ex, ey := G.ey, ez := G.ez
                       asid := G.asid, table := G.table, hdr := G.header, args := G.args, shader := false }
  (s.startTeam n h.cores h.spots).2.adjGrid g (fun G => { G with pending := G.pending.filter (fun p => p.index != i), running := G.running + 1 })

/-- `n` placements on a die passed over the teams that did not fit there and the images that wait. -/
def State.passOver (s : State) (past : List (Nat × Nat)) (dies : BitVec 8) (n : Nat) : State :=
  let grids := s.sched.grids.map (fun (g : Nat × Grid) =>
    (g.1, { g.2 with pending := g.2.pending.map (fun p => if past.contains (g.1, p.index) && (g.2.dies &&& dies) != 0 then { p with passed := p.passed + n } else p) }))
  let images := s.saves.images.map (fun (e : Nat × Image) => (e.1, if e.2.complete && e.2.pending then { e.2 with passed := e.2.passed + n } else e.2))
  { s with sched := { s.sched with grids := grids }, saves := { s.saves with images := images } }

/-- TEAM_PLACE: the first pending team that fits is placed on the die, where it is one of those it fits on. -/
def State.placeOn (s : State) (die : Nat) : State :=
  if s.restoreFirst then s
  else
    let q := s.scan
    match q.hit with
    | some (g, some i, dies) =>
      (match Tbl.find q.s.sched.grids g with
       | none => q.s
       | some G =>
         if !dies.getLsbD die then q.s
         else
           match (teamCores G.header).bind (fun k => q.s.packOn [die] k (Config.freeNat q.s.free) G.header G.header.waves q.s.occ some) with
           | none => q.s
           | some o =>
             match o.getLast? with
             | none => q.s
             | some h => (({ q.s with free := q.s.free + 1 }).placeTeam g G i h).passOver q.past (BitVec.ofNat 8 (2 ^ die)) 1)
    | _ => q.s

def execTeamPlace (die : Nat) (s : State) : Host.Outcome State Fault Refusal := .next (s.placeOn die)

/-- PERSISTENT_GRID_PLACE: all of a grid's teams at once. -/
def State.placeGrid (s : State) (g : Nat) : State :=
  if s.restoreFirst then s
  else
    let q := s.scan
    match q.hit, Tbl.find q.s.sched.grids g with
    | some (g1, none, dies), some G =>
      if g1 != g then q.s
      else
        (match (teamCores G.header).bind (fun k => q.s.packMany (diesOf dies) k (Config.freeNat q.s.free) G.header G.pending.length q.s.occ) with
         | none => q.s
         | some o =>
           let hs := List.drop q.s.occ.length o
           let s1 := (G.pending.zip hs).foldl (fun (s : State) (e : PendingTeam × Held) => s.placeTeam g G e.1.index e.2) { q.s with free := q.s.free + 1 }
           s1.passOver q.past (hs.foldl (fun m h => m ||| BitVec.ofNat 8 (2 ^ dieOf (h.cores.headD 0))) 0) hs.length)
    | _, _ => q.s

def execPersistentGridPlace (grid : Nat) (s : State) : Host.Outcome State Fault Refusal := .next (s.placeGrid grid)

/-! ## Shader waves (R297) -/

/-- What a ray wants: a shader at an entry. -/
def RayJob.want (j : RayJob) : Option (ShaderKind × Nat) := match j.stage with | .wants k e => some (k, e) | _ => none

/-- Two rays may share a shader wave: the same grid, entry and payload. -/
def RayJob.alike (a b : RayJob) : Bool :=
  a.want.map Prod.snd == b.want.map Prod.snd && a.grid == b.grid && a.payload.length == b.payload.length && a.asid == b.asid && a.table == b.table &&
  dieOf a.core == dieOf b.core

/-- The header may serve a shader. -/
def shaderHeaderOk (h : Header) : Bool :=
  h.roles.length == 1 && (h.roles.all (fun r => r.count == 1)) && h.scratch == 0 && !h.successor && !h.persistent && teamCores h == some 1

/-- The rays' payloads stand in the first registers of their lanes. -/
def payloadRegs (js : List (Nat × RayJob)) (W : Wave) : Wave :=
  js.zipIdx.foldl (fun W e => e.1.2.payload.zipIdx.foldl (fun W v => W.setReg e.2 v.2 v.1) W) W

/-- A shader wave starts with some rays in its lanes. -/
def State.startShader (s : State) (j : RayJob) (h : Header) (held : Held) (js : List (Nat × RayJob)) : State :=
  let f := Config.freeNat s.free
  let (ex, ey, ez) := match Tbl.find s.sched.grids j.grid with | some G => (G.ex, G.ey, G.ez) | none => (1, 1, 1)
  let n : NewTeam := { grid := j.grid, id := 0xFFFF, x := f % ex, y := f / ex % ey, z := f / (ex * ey) % ez, ex := ex, ey := ey, ez := ez, asid := j.asid
                       table := j.table, hdr := h, args := [], shader := true }
  let r := ({ s with free := s.free + 1 }).startTeam n held.cores held.spots
  match (r.2.wavesOf r.1).head? with
  | none => r.2
  | some (w, _) =>
    let lanes := Mask.first js.length
    let s1 := r.2.adjWave w (fun W => payloadRegs js { W with live := lanes })
    let s2 := { s1 with frags := List.map (fun (e : Nat × Frag) => if e.2.wave = w then (e.1, { e.2 with active := lanes }) else e) s1.frags }
    let s3 := js.zipIdx.foldl (fun s e =>
      match e.1.2.want with
      | some (k, _) => s.setRay e.1.1 { e.1.2 with stage := .shading k w e.2 }
      | none => s) s2
    s3.adjGrid j.grid (fun G => { G with running := G.running + 1 })

/-- SHADER_WAVE_PLACE: rays of the die that want one entry get a wave: which rays share it is open. -/
def State.placeShader (s : State) (die : Nat) : State :=
  let ready := s.gfx.rays.filter (fun e => e.2.want.isSome && dieOf e.2.core == die)
  match ready[Config.freeNat s.free % ready.length]? with
  | none => s
  | some (id, j) =>
    let all := ready.filter (fun e => e.2.alike j)
    let entry : Word := BitVec.ofNat 64 ((j.want.map Prod.snd).getD 0)
    let fail (s : State) : State := all.foldl (fun s e => (s.unitDone e.1).failRay e.1 e.2 false) s
    match ({ s with free := s.free + 1 }).unitRead { j.unit with who := .die die } id (entry - 64) 64 with
    | .fault s1 _ _ => fail s1
    | .wait s1 => s1
    | .ok s1 (bs, bad) =>
      match (if bad then none else parseHeader bs entry) with
      | none => fail s1
      | some h =>
        if !shaderHeaderOk h then fail s1
        else
          match s1.packOn [die] 1 (Config.freeNat s1.free) h h.waves s1.occ some with
          | none => s1
          | some o =>
            match o.getLast? with
            | none => s1
            | some held => ({ s1.unitDone id with free := s1.free + 1 }).startShader j h held ((turned (Config.freeNat s1.free) all).take h.lanes)

def execShaderWavePlace (die : Nat) (s : State) : Host.Outcome State Fault Refusal := .next (s.placeShader die)

end Sys2Proof.Machine
end

