-- ==== Sys2Proof/Machine/Traps.lean ====
section
/-! DEFINITION. Machine/Traps.lean: TRAP, BKPT and TRET (R387, R388), ECHK and ICLR (R400 to R402). -/

namespace Sys2Proof.Machine

/-! ## TRAP and BKPT (R387) -/

/-- A trap of some lanes after their instruction, with a code. -/
def codeTrap (cause : Nat) (code : Word) (part : Mask) : Trap := ⟨cause, code, part, some part, true, []⟩

def trapBody (x : ExtWord) (c : Ctx) (s : State) : Res :=
  let part := c.part x
  if part = 0 then .done s else .trap (codeTrap 0x10 (c.count x x.a) part)
def execTrap (w : ExtWord) (s : State) : Host.Outcome State Fault Refusal := issue (.trap w) (trapBody w) s

/-- Some lanes stop HALTED for the debugger after their instruction; without room for a split the whole fragment does. -/
def State.stopLanes (s : State) (c : Ctx) (part : Mask) (cause : Nat) : Res :=
  match (if c.F.active &&& ~~~part = 0 then none else s.splitOff c.f part) with
  | none => .done (s.halt c.f cause)
  | some (n, s1) =>
    .done ((s1.adjFrag n (fun F => { F with pc := F.pc + BitVec.ofNat 64 c.len, runCount := F.runCount + 1 })).halt n cause)

/-- BKPT: a stop for an attached debugger that asked for it, or in a handler; nothing in a handler without one; else a trap (R386, R387). -/
def bkptBody (x : ExtWord) (c : Ctx) (s : State) : Res :=
  let part := c.part x
  if part = 0 then .done s
  else
    match Tbl.find s.debug c.t with
    | some d => if d.stops || c.F.save.isSome then s.stopLanes c part 0x11 else .trap (codeTrap 0x11 (c.count x x.a) part)
    | none => if c.F.save.isSome then .done s else .trap (codeTrap 0x11 (c.count x x.a) part)
def execBkpt (w : ExtWord) (s : State) : Host.Outcome State Fault Refusal := issue (.bkpt w) (bkptBody w) s

/-! ## TRET (R388) -/

/-- The fragment goes back into the interrupted run. -/
def Frag.trapReturn (F : Frag) (v : TrapSave) (keep : Bool) (age runs : Nat) : Frag :=
  { F with tmp := v.tmp, tmpValid := v.tmpValid, runCount := v.runCount, mode := if keep then F.mode else v.mode, pc := F.tpc, target := v.target
           save := none, await := 0, fstate := .ready, gathered := false, age := age, waitFrom := runs, boost := none, rwc := F.rwc + 2 }

def tretBody (x : ExtWord) (c : Ctx) (s : State) : Res :=
  match c.F.save with
  | none => .trap (trapWhole c 0x03 0)
  | some v =>
    if c.F.tpc.toNat % 4 != 0 then .trap (illegalRun c 0x03 c.F.tpc)
    else
      let s1 := s.runDone c.W
      .keep { (s1.adjFrag c.f (fun F => F.trapReturn v (x.sub.getLsbD 0) s.nextId (s1.runsIn c.W))) with nextId := s.nextId + 1 }
def execTret (w : ExtWord) (s : State) : Host.Outcome State Fault Refusal := issue (.tret w) (tretBody w) s

/-! ## ECHK (R401, R411, R412) -/

/-- The 64 bytes of a record. -/
def ErrorRecord.bytes (r : ErrorRecord) : List Byte :=
  natBytes 8 r.time.toNat ++ natBytes 8 r.loc.toNat ++ natBytes 8 r.pc.toNat ++ natBytes 8 r.rwc.toNat ++ natBytes 4 r.kind.toNat ++
  natBytes 4 r.synd.toNat ++ natBytes 8 r.lanes.toNat ++ natBytes 8 r.addr.toNat ++ natBytes 8 r.seqf.toNat

/-- The record with a sequence number, or the status 1 (overwritten) or 2 (not yet logged). -/
def State.record (s : State) (n : BitVec 32) : Except Nat ErrorRecord :=
  match s.rel.ring[(s.rel.seq - 1 - n).toNat]? with
  | some r => .ok r
  | none => if (n - s.rel.seq).msb then .error 1 else .error 2

/-- The wave has scratchpad accesses of its own to some bytes outstanding. -/
def State.scratchBusy (s : State) (w : Nat) (W : Wave) (a n : Nat) : Bool :=
  let p : List LaneAcc := [⟨0, 0, [⟨.scratch, a, n, 0⟩], [], 0, 0⟩]
  W.stores.any (fun e => e.scratch && accsMeet e.accs p) || s.pend.any (fun e => e.2.wave == w && e.2.isRead && e.2.inScratch && accsMeet e.2.accs p)

def echkBody (x : ExtWord) (c : Ctx) (s : State) : Res :=
  let put (v : Nat) (s : State) : Res := .done (s.adjFrag c.f (fun F => F.setScalar x.d.num.toNat (BitVec.ofNat 64 v)))
  if s.acquiring c.w s.nextId (heldLanes c.W c.F) then .stall
  else if !x.sub.getLsbD 0 then put s.rel.seq.toNat s
  else
    let a := c.F.scalar x.a.num.toNat
    if a.toNat % 16 != 0 then .trap (trapWhole c 0x05 (tvalSub 0x04 a.toNat))
    else
      match rangeFault c c.T a 64 with
      | some t => .trap t
      | none =>
        if s.scratchBusy c.w c.W a.toNat 64 then .stall
        else if s.rel.echkOff then put 3 s
        else
          match s.record ((c.F.scalar x.b.num.toNat).extractLsb' 0 32) with
          | .error st => put st s
          | .ok r =>
            let cells := cellsAt a.toNat r.bytes
            put 0 (s.adjTeam c.t (fun T => { T with scratch := writeCells T.scratch cells, spoison := poisonAfter T.spoison cells [] }))
def execEchk (w : ExtWord) (s : State) : Host.Outcome State Fault Refusal := issue (.echk w) (echkBody w) s

/-! ## ICLR (R402) -/

/-- Lines of the core's and the cluster's instruction caches go. -/
def State.codeDrop (s : State) (core : Nat) (p : Nat → Bool) : State :=
  let keep (t : Tbl Sector) : Tbl Sector := List.filter (fun e => !p e.1) t
  { s with path := { s.path with icore := Tbl.set [] s.path.icore core (keep (Tbl.get [] s.path.icore core))
                                 iclus := Tbl.set [] s.path.iclus (clusterOf core) (keep (Tbl.get [] s.path.iclus (clusterOf core))) } }

/-- The physical ranges of a virtual one, where it translates. -/
def State.codeRanges (s : State) (c : Ctx) (va : Word) (n : Nat) : List (Nat × Nat) :=
  (pageRuns (n / 65536 + 2) va n).filterMap (fun p =>
    match s.translate (.core c.W.core) c.T.asid c.T.table p.1 with
    | .ok r => let pa := s.alias (leafPa r p.1); if paTop pa = 0 then some (paLow pa, p.2) else none
    | .error _ => none)

def iclrBody (x : ExtWord) (c : Ctx) (s : State) : Res :=
  if s.acquiring c.w s.nextId (heldLanes c.W c.F) then .stall
  else if x.sub.getLsbD 0 then .done (s.codeDrop c.W.core (fun _ => true))
  else
    let rs := s.codeRanges c (c.F.scalar x.a.num.toNat) (c.F.scalar x.b.num.toNat).toNat
    .done (s.codeDrop c.W.core (fun sec => inRanges rs (sec / 4 * 128) 128))
def execIclr (w : ExtWord) (s : State) : Host.Outcome State Fault Refusal := issue (.iclr w) (iclrBody w) s

end Sys2Proof.Machine
end

