-- ==== Sys2Proof/Machine/Swap.lean ====
section
/-! DEFINITION. Machine/Swap.lean: shadow slots, swaps, images and restores (R389 to R399), the end of a team by force (R386, R399), and spare
substitution (R415 to R418). -/

namespace Sys2Proof.Machine

/-! ## A team that is ended from outside -/

/-- A slot without a team. -/
def Slot.without (x : Slot) (t : Nat) : Slot :=
  match x with
  | .empty => .empty
  | .held ts => .held (ts.erase t)
  | .spilling ts => if ts.erase t = [] then .empty else .spilling (ts.erase t)

/-- The team's context is in no slot and no image. -/
def State.dropContext (s : State) (t : Nat) : State :=
  { s with saves := { s.saves with slots := s.saves.slots.map (fun e => (e.1, e.2.without t))
                                   images := List.filter (fun e => e.2.team != t || e.2.kind == .checkpoint) s.saves.images } }

/-- Every lane of a team leaves for good, and the team ends with a status (R364, R386, R399). -/
def State.killTeam (s : State) (t status : Nat) : State :=
  let ws := s.wavesOf t
  let s1 := ws.foldl (fun s e =>
    let s1 := (s.fragsOf e.1).foldl (fun s f => (s.noteExit f.1).forget f.1) s
    let s2 := s1.dropLanes e.1 e.2.live
    { s2 with frags := List.filter (fun f => f.2.wave != e.1) s2.frags }) s
  (s1.teamEnded t status).dropContext t

/-! ## Swaps (R391, R392) -/

def State.slot (s : State) (core : Nat) : Slot := Tbl.get .empty s.saves.slots core
def State.setSlot (s : State) (core : Nat) (x : Slot) : State := { s with saves := { s.saves with slots := Tbl.set .empty s.saves.slots core x } }

/-- The teams whose contexts a slot holds. -/
def Slot.teams (x : Slot) : List Nat := match x with | .empty => [] | .held ts => ts | .spilling ts => ts

/-- One extension of a swap set: the cores of every team that has a part on it, resident or in its slots. -/
def State.widenSwap (s : State) (cores : List Nat) : List Nat :=
  let inSlots := cores.flatMap (fun c => (s.slot c).teams)
  (s.teams.filter (fun e => (e.2.where_ == .live && e.2.cores.any cores.contains) || inSlots.contains e.1)).foldl
    (fun cs e => e.2.cores.foldl NSet.insert cs) cores

/-- The swap set of some cores: a cluster has four. -/
def State.swapSet (s : State) (cores : List Nat) : List Nat := s.widenSwap (s.widenSwap (s.widenSwap (cores.foldl NSet.insert [])))

/-- A swap may start: no slot of its set is being spilled, and no other swap runs on its cores. -/
def State.swapReady (s : State) (cores : List Nat) : Bool :=
  cores.all (fun c => (match s.slot c with | .spilling _ => false | _ => true) && !s.swapping c)

/-- Sequencers of the set stop: each running run is interrupted after its instruction (R45). -/
def State.startSwap (s : State) (id : Nat) (x : Swap) : State :=
  let cores := s.swapSet x.cores
  if x.since.isSome || !s.swapReady cores then s
  else
    let s1 := (s.teams.filter (fun e => e.2.where_ == .live && e.2.cores.any cores.contains)).foldl (fun s e => s.stopTeam e.1) s
    { s1 with saves := { s1.saves with swaps := Tbl.put s1.saves.swaps id { x with cores := cores, since := some s.ticks } } }

/-- Requested swaps start in order, as soon as they may. -/
def State.startSwaps (s : State) : State := s.saves.swaps.foldl (fun s e => s.startSwap e.1 e.2) s

/-- Request a swap. -/
def State.requestSwap (s : State) (cores : List Nat) (keep : Bool) (spare : Option (Nat × Nat)) : State :=
  { s with saves := { s.saves with swaps := Tbl.put s.saves.swaps s.nextId ⟨cores, keep, none, spare⟩ }, nextId := s.nextId + 1 }

/-- The waits of some teams' fragments become what they have counted, when the teams leave, and count on from there, when they come back: only
resident clocks count (R362, R381). -/
def State.turnWaits (s : State) (ts : List Nat) : State :=
  { s with frags := List.map (fun e => match s.wave? e.2.wave with
      | some W => if ts.contains W.team then (e.1, { e.2 with waitFrom := s.runsIn W - e.2.waitFrom }) else e
      | none => e) s.frags }

/-- Teams whose context an uncorrectable error has struck in the slot end CONTEXT-LOST, with one record, whose context id no image gave (R399). -/
def State.loseContexts (s : State) (ts : List Nat) : State :=
  (ts.filter (fun t => s.rel.weak.contains (.context t))).foldl (fun s t =>
    let core := match s.team? t with | some T => T.cores.headD 0 | none => 0
    let s1 := (s.dropWeak (fun e => e == .context t)).logUnit 8 (core % 160) (dieOf core) (kindWord 0 2 0 0x0D) (Config.freeNat s.free % 2 ^ 32) 0 0
    { s1 with free := s1.free + 1 }.killTeam t 6) s

/-- The contexts of the cores and of their slots exchange. -/
def State.exchange (s : State) (cores : List Nat) (keep : Bool) : State :=
  let out := (s.teams.filter (fun e => e.2.where_ == .live && e.2.cores.any cores.contains)).map Prod.fst
  let back := cores.flatMap (fun c => (s.slot c).teams)
  let leaving (core : Nat) : List Nat := out.filter (fun t => match s.team? t with | some T => T.cores.contains core | none => false)
  let s1 := cores.foldl (fun (s : State) core =>
    s.setSlot core (if keep then .held (leaving core) else if leaving core = [] then .empty else .spilling (leaving core))) s
  let s2 : State := { s1.turnWaits (out ++ back) with
    teams := List.map (fun e => if out.contains e.1 then (e.1, { e.2 with where_ := .slot })
                                else if back.contains e.1 then (e.1, { e.2 with where_ := .live }) else e) s1.teams }
  (cores.foldl State.trimL1 s2).loseContexts back

/-! ## Images (R394 to R397) -/

/-- The bytes of a die's save pool that images take. -/
def State.poolUsed (s : State) (die but : Nat) : Nat :=
  (s.saves.images.filter (fun e => e.2.die == die && e.1 != but && (e.2.kind != .park || e.2.complete))).foldl (fun n e => n + e.2.size) 0

def State.poolRoom (s : State) (die but size : Nat) : Bool :=
  match Tbl.find s.saves.pools die with
  | none => false
  | some p => s.poolUsed die but + size ≤ p.2

/-- SPILL_COMPLETE: the next team of a SPILLING slot goes into an image, where its die's pool has room; the slot is EMPTY after the last. -/
def State.spillNext (s : State) (core : Nat) : State :=
  match s.slot core with
  | .spilling (t :: _) =>
    (match s.team? t with
     | none => (s.setSlot core ((s.slot core).without t))
     | some T =>
       if !s.poolRoom (dieOf core) (2 ^ 33) (imageSize T) then s
       else
         let r := s.newImage t .spill [] []
         let s1 := r.2.adjTeam t (fun T => { T with where_ := .image r.1 })
         T.cores.foldl (fun (s : State) c => s.setSlot c ((s.slot c).without t)) s1)
  | _ => s

def execSpillComplete (id : Nat) (s : State) : Host.Outcome State Fault Refusal := .next (s.spillNext id)

/-- A team's accesses have all landed (R345, R397): its queues are drained, its stores performed or failed, its loads and atomics returned. -/
def State.drained (s : State) (t : Nat) : Bool :=
  (s.wavesOf t).all (fun e => e.2.stores.isEmpty &&
    !s.path.writes.any (fun x => (match x.2.source with | .wave w _ => w == e.1 | _ => false) && (x.2.short 4 || x.2.short 5)) &&
    !s.pend.any (fun p => p.2.wave == e.1 && (match p.2.kind with
      | .load _ _ _ _ _ _ _ _ _ _ _ => true
      | .atom _ _ _ _ _ _ _ => true
      | _ => false)))

/-- An image that has been answered, or needs no answer, and is complete waits to be restored from now on. -/
def State.adjImage (s : State) (id : Nat) (f : Image → Image) : State := { s with saves := { s.saves with images := Tbl.adjust s.saves.images id f } }

/-- IMAGE_COMPLETE (R397). -/
def State.completeImage (s : State) (id : Nat) : State :=
  match Tbl.find s.saves.images id with
  | none => s
  | some m =>
    if m.complete || !s.drained m.team || (m.kind == .park && !s.poolRoom m.die id m.size) then s
    else { (s.adjImage id (fun m => { m with complete := true, pending := m.pending || m.kind == .spill, order := s.nextId })) with nextId := s.nextId + 1 }

def execImageComplete (id : Nat) (s : State) : Host.Outcome State Fault Refusal := .next (s.completeImage id)

/-! ## Restore (R397, R399) -/

/-- Waits of a team's fragments may complete spuriously (R329): which of them do is open. -/
def State.stirWaits (s : State) (p : Waiter → Bool) : State :=
  let ws := s.path.waits.zipIdx.map (fun (e : (Nat × Waiter) × Nat) =>
    if p e.1.2 && Config.freeBool (s.free + e.2) then (e.1.1, { e.1.2 with done := true, listed := false }) else e.1)
  { s with path := { s.path with waits := ws }, free := s.free + s.path.waits.length }

/-- A waiter of a team. -/
def State.waitsIn (s : State) (t : Nat) (w : Waiter) : Bool :=
  match s.frag? w.frag with
  | some F => (match s.wave? F.wave with | some W => W.team == t | none => false)
  | none => false

/-- A team's waves stand at new places: their cores, quadrants and columns, and their fragments' entries. -/
def State.moveWaves (s : State) (ws : List (Nat × Wave)) (spots : List Spot3) : State :=
  (ws.zip spots).foldl (fun s e =>
    let w := e.1.1
    let p := e.2
    let s1 := s.adjWave w (fun W => { W with core := p.core, quadrant := p.quad, col0 := p.col })
    (s1.fragsOf w).foldl (fun s f =>
      let others := (s.inQuadrant p.core p.quad).filter (fun g => g.1 != f.1)
      let free := (List.range 128).filter (fun n => !(others.map (fun g => g.2.entry)).contains n)
      let n := free.getD (Config.freeNat s.free % free.length) f.2.entry
      { ((s.reuseEntry p.core p.quad n).adjFrag f.1 (fun F => { F with entry := n, age := s.nextId, waitFrom := Tbl.get 0 s.sched.runs (p.core * 4 + p.quad), boost := none }))
        with free := s.free + 1, nextId := s.nextId + 1 }) s1) s

/-- What names a core in the matrix engines follows a team to its new cores. -/
def State.moveMatrix (s : State) (t : Nat) (f : Nat → Nat) : State :=
  { s with mx := { s.mx with
      clasps := s.mx.clasps.map (fun e => if e.2.team = t then (e.1, { e.2 with core := f e.2.core }) else e)
      entries := s.mx.entries.map (fun e => if e.2.team = t then (e.1, { e.2 with core := f e.2.core }) else e) } }

/-- The core that takes the place of another. -/
def coreMap (old new : List Nat) (core : Nat) : Nat := match (old.zip new).find? (fun p => p.1 == core) with | some p => p.2 | none => core

/-- The fault recorded at a park is delivered (R389): its lanes leave as the trapping fragment where there is room. -/
def State.deliverTrap (s : State) (f : Nat) (t : Trap) : State :=
  match s.frag? f with
  | none => s
  | some F =>
    let m := t.mask &&& F.active
    if m = 0 then s
    else
      match (if F.active &&& ~~~m = 0 then none else s.splitOff f m) with
      | some (n, s1) => (s1.adjFrag n (fun N => { N with rwc := F.rwc })).takeTrap n t F.pc
      | none => s.takeTrap f t F.pc

/-- A team becomes resident at a place. -/
def State.bringBack (s : State) (t : Nat) (T : Team) (h : Held) : State :=
  let to_ := coreMap T.cores h.cores
  let s0 := { s with waves := List.map (fun (e : Nat × Wave) => if e.2.team = t then (e.1, { e.2 with core := to_ e.2.core }) else e) s.waves }
  let s1 := (s0.moveWaves (s.orderedWaves t T) h.spots).moveMatrix t to_
  let s2 := s1.adjTeam t (fun T => { T with cores := h.cores, where_ := .live })
  let s3 := h.cores.foldl (fun (s : State) core => ((s.serveGrid core T.grid true).acquire core 4).trimL1 core) s2
  s3.stirWaits (s.waitsIn t)

/-- An uncorrectable error struck this image, or the slot that it was written from; whether one that lies in the die's save pool struck it is
open (R399). -/
def State.imageLost (s : State) (m : Image) : Bool :=
  s.rel.weak.contains (.context m.team) ||
  match Tbl.find s.saves.pools m.die with
  | none => false
  | some p => s.memPoisoned p.1 p.2 && Config.freeBool s.free

/-- RESTORE: a complete image comes back, if it is the first in order that fits; or its team ends CONTEXT-LOST. -/
def State.restoreImage (s : State) (id : Nat) : State :=
  let fits := s.restorable.filter (fun e => (s.packImage e.2 (Config.freeNat s.free)).isSome)
  match Tbl.find s.saves.images id with
  | none => s
  | some m =>
    if fits.any (fun e => e.2.order < m.order) then s
    else if !(m.complete && m.pending) then s
    else
      match (s.packImage m (Config.freeNat s.free)).bind List.getLast?, s.team? m.team with
      | some h, some T =>
        let s0 := { s with free := s.free + 1 }
        if s.imageLost m then
          ((s0.dropWeak (fun e => e == .context m.team)).logUnit 7 0xFF m.die (kindWord 0 2 0 0x0D) id 0 0).killTeam m.team 6
        else
          let s1 := { s0 with saves := { s0.saves with images := Tbl.drop s0.saves.images id } }.bringBack m.team T h
          if m.deliver then m.traps.foldl (fun s x => s.deliverTrap x.1 x.2) s1 else s1
      | _, _ => s

def execRestore (id : Nat) (s : State) : Host.Outcome State Fault Refusal := .next (s.restoreImage id)

/-! ## Spares (R415 to R418) -/

/-- A substitution record (R414). -/
def State.logSpare (s : State) (unit core die kind number : Nat) : State := s.logUnit unit core die (kindWord 0 0 0 0x10) (kind + number % 256 * 2 ^ 8) 0 0

/-- Columns that a quadrant has substituted. -/
def State.usedColumns (s : State) (core quad : Nat) : List (Nat × Nat) := Tbl.get [] s.mgmt.columns (core * 4 + quad)

/-- The copy engines of a cluster leave their work to those of another of the package (R417): its commands, and its chunks. -/
def State.moveEngines (s : State) (cl new : Nat) : State :=
  { s with eng := { s.eng with
      cmds := s.eng.cmds.map (fun e => if e.2.cluster = cl then (e.1, { e.2 with cluster := new }) else e)
      chunks := s.eng.chunks.map (fun e => if e.2.engine / 8 = cl then (e.1, { e.2 with engine := 8 * new + e.2.engine % 8 }) else e) } }

/-- A wave's write on its way, when its core's place is taken by another. -/
def WriteRec.movedTo (r : WriteRec) (f : Nat → Nat) : WriteRec := match r.source with | .wave _ _ => { r with core := f r.core } | _ => r

/-- A swap that waits, when its cores' places are taken by others. -/
def Swap.movedTo (x : Swap) (f : Nat → Nat) : Swap :=
  { x with cores := x.cores.map f, spare := x.spare.map (fun y => if y.1 = 0 then (0, f (y.2 / 64) * 64 + y.2 % 64) else y) }

/-- Everything on a cluster moves to another: teams, waves, counts of runs, slots, matrix work, commands, rays, writes on their way (R345), swaps that wait. -/
def State.moveCluster (s : State) (cl new : Nat) : State :=
  let mv (core : Nat) : Nat := if clusterOf core = cl then 4 * new + core % 4 else core
  let mine := (s.teams.filter (fun e => e.2.cores.any (fun c => clusterOf c == cl))).map Prod.fst
  let s1 := mine.foldl (fun s t => s.moveMatrix t mv) s
  let s2 : State := { s1 with
    teams := List.map (fun (e : Nat × Team) => if mine.contains e.1 then (e.1, { e.2 with cores := e.2.cores.map mv }) else e) s1.teams
    waves := List.map (fun (e : Nat × Wave) => if mine.contains e.2.team then (e.1, { e.2 with core := mv e.2.core }) else e) s1.waves
    path := { s1.path with writes := List.map (fun (e : Nat × WriteRec) => (e.1, e.2.movedTo mv)) s1.path.writes }
    gfx := { s1.gfx with rays := List.map (fun (e : Nat × RayJob) => (e.1, { e.2 with core := mv e.2.core })) s1.gfx.rays }
    sched := { s1.sched with runs := s1.sched.runs.foldl (fun t e => Tbl.set 0 t (4 * mv (e.1 / 4) + e.1 % 4) e.2) [] }
    saves := { s1.saves with slots := s1.saves.slots.foldl (fun t e => Tbl.set .empty t (mv e.1) e.2) []
                             swaps := List.map (fun (e : Nat × Swap) => (e.1, e.2.movedTo mv)) s1.saves.swaps } }
  let s3 := s2.moveEngines cl new
  let grids := ((s3.teams.filter (fun e => mine.contains e.1)).flatMap (fun e => e.2.cores.map (fun core => (core, e.2.grid)))).eraseDups
  let s4 := grids.foldl (fun (s : State) (g : Nat × Nat) => ((s.serveGrid g.1 g.2 true).acquire g.1 4).trimL1 g.1) s3
  mine.foldl (fun s t => s.stirWaits (s.waitsIn t)) s4

/-- The enabled set of a die without one cluster, and with another where there is one. -/
def State.replaceCluster (s : State) (cl : Nat) (new : Option Nat) : State :=
  let d := cl / 40
  let set := Tbl.get 0 s.sched.enabled d &&& ~~~(BitVec.ofNat 40 (2 ^ (cl % 40)))
  let set1 := match new with | some n => set ||| BitVec.ofNat 40 (2 ^ (n % 40)) | none => set
  { s with sched := { s.sched with enabled := Tbl.set 0 s.sched.enabled d set1 } }

/-- The teams of a cluster that no spare takes over leave it as images. -/
def State.evacuate (s : State) (cl : Nat) : State :=
  let cores := (List.range 4).map (fun i => 4 * cl + i)
  let there (t : Nat) (T : Team) : Bool := T.cores.any cores.contains && (T.where_ == .live || T.where_ == .slot) && Tbl.get 0 s.sched.ended t == 0
  let ts := s.teams.filter (fun e => there e.1 e.2)
  let s1 := ts.foldl (fun s e => (s.stopTeam e.1).adjTeam e.1 (fun T => { T with where_ := .slot })) s
  cores.foldl (fun (s : State) core =>
    let here := (ts.filter (fun e => e.2.cores.contains core)).map Prod.fst
    s.setSlot core (if here = [] then .empty else .spilling here)) s1

/-- A cluster is taken out of service (R417): a spare takes its place, or its teams leave. -/
def State.substituteCluster (s : State) (cl : Nat) : State :=
  let d := cl / 40
  let left := Tbl.get 0 s.mgmt.clusters d
  match (List.range 40).find? left.getLsbD with
  | none =>
    let s1 := (s.evacuate cl).replaceCluster cl none
    (match (List.range 40).find? (Tbl.get 0 s1.sched.enabled d).getLsbD with
     | none => s1
     | some n => s1.moveEngines cl (40 * d + n))
  | some n =>
    let s1 := { s with mgmt := { s.mgmt with clusters := Tbl.set 0 s.mgmt.clusters d (left &&& ~~~(BitVec.ofNat 40 (2 ^ n))) } }
    let s2 := (s1.moveCluster cl (40 * d + n)).replaceCluster cl (some (40 * d + n))
    s2.logSpare 0 0xFF d 1 n

/-- A column of a core: core x 64 + quadrant x 16 + column. -/
def columnName (core quad col : Nat) : Nat := core * 64 + quad * 16 + col

/-- A column is replaced while its core's context is away (R416). -/
def State.substituteColumn (s : State) (name : Nat) : State :=
  let core := name / 64
  let quad := name / 16 % 4
  let col := name % 16
  let used := s.usedColumns core quad
  { s with mgmt := { s.mgmt with columns := Tbl.set [] s.mgmt.columns (core * 4 + quad) (used ++ [(col, s.time)]) } }.log
    ⟨0, setColumn (locUnit 0 (core % 160) (dieOf core) ||| BitVec.ofNat 64 (quad * 2 ^ 12)) col, 0, 0, kindWord 0 0 0 0x10,
     BitVec.ofNat 32 ((16 + used.length) % 256 * 2 ^ 8), 0, 0, 0⟩

/-- SWAP_COMPLETE: 2,560 clocks after its start a swap ends (R392). In a substitution's swap the context that left comes back (R416, R417). -/
def State.endSwap (s : State) (id : Nat) : State :=
  match Tbl.find s.saves.swaps id with
  | none => s
  | some x =>
    match x.since with
    | none => s
    | some t =>
      if s.clocksSince t < 2560 then s
      else
        let s1 := { s with saves := { s.saves with swaps := Tbl.drop s.saves.swaps id } }
        match x.spare with
        | none => s1.exchange x.cores x.keep
        | some (0, column) => s1.substituteColumn column
        | some (_, cl) => s1.substituteCluster cl

def execSwapComplete (swap : Nat) (s : State) : Host.Outcome State Fault Refusal := .next (s.endSwap swap)

/-- The body of an AGING event (R444). -/
def agingBody (kind die number : Nat) (seq : BitVec 32) : List Byte := natBytes 1 kind ++ natBytes 1 die ++ natBytes 2 number ++ natBytes 4 0 ++ natBytes 8 seq.toNat

/-- A marked unit is substituted at once, or reported where the owner has disabled that (R415). -/
def State.marked (s : State) (kind core die number : Nat) (act : State → State) : State :=
  if s.mgmt.autoSpare then act s
  else
    let seq := s.rel.seq
    let margin := (Config.freeWord s.free).toNat % 2 ^ 32
    (({ s with free := s.free + 1 }).logUnit (if kind = 2 then 1 else 0) core die (kindWord 0 0 0 0x11) margin 0 0).raise 6 (agingBody kind die number seq)

/-- A column, cluster or L2 way whose margin has fallen (R416 to R418). -/
def State.wearOut (s : State) (f : AgingFinding) : State :=
  match f with
  | .none => s
  | .column core quad col =>
    s.marked 0 (core % 160) (dieOf core) col (fun s =>
      if 2 ≤ (s.usedColumns core quad).length then s.requestSwap ((List.range 4).map (fun i => core / 4 * 4 + i)) true (some (1, clusterOf core))
      else s.requestSwap [core] true (some (0, columnName core quad col)))
  | .cluster die cl => s.marked 1 0xFF die cl (fun s => s.requestSwap ((List.range 4).map (fun i => (40 * die + cl) * 4 + i)) true (some (1, 40 * die + cl)))
  | .l2way die way =>
    s.marked 2 0xFF die way (fun s =>
      let n := Tbl.get 0 s.mgmt.ways die
      ({ s with mgmt := { s.mgmt with ways := Tbl.set 0 s.mgmt.ways die (n + 1) } }.logSpare 1 0xFF die 2 (32 + n)).stirWaits (fun w => w.die == die))

/-- A column that two vote records within one hour name, and that has not been substituted since (R415). -/
def State.votedColumn (s : State) : Option (Nat × Nat × Nat) :=
  let hour := 3600 * 10 ^ 9
  let votes := s.rel.ring.filter (fun r => r.kind.toNat % 256 == 8 || r.kind.toNat % 256 == 9)
  let name (r : ErrorRecord) : Nat × Nat × Nat :=
    (r.loc.toNat % 8 * 160 + r.loc.toNat / 16 % 256, r.loc.toNat / 2 ^ 12 % 4, r.loc.toNat / 2 ^ 14 % 32)
  let fresh (r : ErrorRecord) : Bool :=
    !(s.usedColumns (name r).1 (name r).2.1).any (fun u => u.1 == (name r).2.2 && decide (r.time.toNat ≤ u.2 / 17)) &&
    !s.saves.swaps.any (fun x => x.2.spare == some (0, columnName (name r).1 (name r).2.1 (name r).2.2))
  let near (r q : ErrorRecord) : Bool := name r == name q && r.time.toNat - q.time.toNat < hour && q.time.toNat - r.time.toNat < hour
  let marked := votes.filter fresh
  ((marked.filter (fun r => (name r).2.2 < 16)).find? (fun r => 2 ≤ (marked.filter (near r)).length)).map name

/-- AGING_CHECK: the monitors' finding, and the columns that vote records name. -/
def execAgingCheck (finding : AgingFinding) (s : State) : Host.Outcome State Fault Refusal :=
  let s1 := s.wearOut finding
  match s1.votedColumn with
  | some (core, quad, col) => .next (s1.wearOut (.column core quad col))
  | none => .next s1

end Sys2Proof.Machine
end

