-- ==== Sys2Proof/Machine/Select.lean ====
section
/-! DEFINITION. Machine/Select.lean: when a fragment is eligible (R41, R210, R354), which ones start a run (R381), meetings that are decided
without an issuing member (R205, R359, R360), and their timers (R362). -/

namespace Sys2Proof.Machine

/-! ## Eligibility (R41, R354) -/

/-- The instruction at a fragment's PC, where its words can be read. -/
def State.nextInstr (s : State) (c : Ctx) : Option Instr :=
  match s.fetchInstr c.W.core c.T.asid c.T.table c.F.pc with
  | .ok bs => (match decode bs with | .ok (i, _) => some i | .error _ => none)
  | _ => none

/-- A body that finds its hold condition false. -/
def Res.holds (r : Res) : Bool := match r with | .unselect => true | _ => false

/-- What an instruction that may wait as a hold does when its condition is true. -/
def holdBody (i : Instr) : Option (Ctx → State → Res) :=
  match i with
  | .waitB w => some (waitBBody w)
  | .waitK w => some (waitKBody w)
  | .waitF w => some (waitFBody w)
  | .mov w => some (movBody w)
  | .cpy w => some (copyBody 0x98 w)
  | .cpyt w => some (copyBody 0x99 w)
  | .cpym w => some (copyBody 0x9A w)
  | .cpyr w => some (copyBody 0x9B w)
  | .cpyg w => some (copyBody 0x9C w)
  | .qfence w => some (qfenceBody w)
  | .rct w => some (rctBody w)
  | .omfill w => some (omfillBody w)
  | .omread w => some (omreadBody w)
  | .accz w => some (regionBody (.accz w) w false (fun c => heldLanes c.W c.F) .none)
  | .accrd w => some (regionBody (.accrd w) w true (fun c => c.part w) (.vec w.d.num.toNat (accRegs w.tag w.x.toNat)))
  | .accred w => some (regionBody (.accred w) w true (fun c => c.part w) (.vec w.d.num.toNat 1))
  | .accwr w => some (regionSrcBody (.accwr w) w (srcRow 1 w.a (accRegs w.tag w.x.toNat) w.tag))
  | .accsc w => some (regionSrcBody (.accsc w) w [src 1 w.a 6])
  | .accst w => some (accstBody w)
  | _ => none

/-- The hold condition of an instruction at a fragment's PC holds; one without such a condition may always issue. -/
def State.holdTrue (s : State) (c : Ctx) (i : Instr) : Bool :=
  match i with
  | .waitA w =>
    (match s.waiter c.f with
     | some (_, x) => x.done
     | none => !(waitABody w c s).holds)
  | .racq w => (blockRange c w.a 7 (c.count w w.a)).isSome || s.racqReady c.f c.W c.T (blockMask (c.count w w.a))
  | .omclaim w =>
    let n := (c.count w w.a).toNat
    n = 0 || 8 < n || c.T.task.slots < n ||
      (n ≤ (s.freeSlots c.t c.T c.W.core).length && claimFirst (c.T.omAt (coreIndex c.T c.W.core)) c.f)
  | i => match holdBody i with | some b => !(b c s).holds | none => true

/-- What a hold instruction takes as it issues: an entry or the room of a queue, slots, room in a context's queue. The blocks of an RACQ are taken
as its fragment is selected. -/
def claimBody (i : Instr) : Option (Ctx → State → Res) :=
  match i with
  | .waitB _ => none
  | .waitK _ => none
  | .waitF _ => none
  | .omclaim w => some (omclaimBody w)
  | i => holdBody i

/-- The state once the fragments that have been selected at hold instructions have taken what they claim (R41). -/
def State.afterClaims (s : State) (f : Nat) : State :=
  (s.frags.filter (fun e => e.1 != f && e.2.fstate == .running && e.2.runCount = 0)).foldl (fun s e =>
    match s.ctxOf e.1 .instructionFetch with
    | none => s
    | some c =>
      match (s.nextInstr c).bind claimBody with
      | none => s
      | some b =>
        match b c s with
        | .done s1 => s1
        | _ => s) s

/-- The hold condition holds with what others have claimed taken (R41). -/
def State.holdOk (s : State) (c : Ctx) (i : Instr) : Bool :=
  let s1 := s.afterClaims c.f
  match s1.ctxOf c.f i with
  | none => false
  | some c1 => s1.holdTrue c1 i

/-- Every store that a team's earlier task admitted is performed at TEAM scope (R210). -/
def State.gateOpen (s : State) (t : Nat) (T : Team) : Bool :=
  T.gate = 0 || (s.wavesOf t).all (fun e =>
    !e.2.stores.any (fun q => q.ord < T.gate) && !s.mx.entries.any (fun q => q.2.wave == e.1 && q.2.isStore && q.2.pends.any (fun p => p < T.gate)) &&
    !s.path.writes.any (fun q => (match q.2.source with | .wave w o => w == e.1 && o < T.gate | _ => false) && q.2.short 2))

/-- The team's cores execute it now. -/
def State.issues (s : State) (c : Ctx) : Bool := c.T.where_ == .live && !s.swapping c.W.core

/-- Nothing before its next instruction keeps a fragment from a run: its tokens, its part of a splitting instruction, its team's earlier task. -/
def State.atRun (s : State) (c : Ctx) : Bool :=
  s.tokensDone c.W c.F c.F.await && (match c.F.hold with | some id => (Tbl.find s.pend id).isNone | none => true) && s.gateOpen c.t c.T

/-- A fragment that is neither meeting nor halted may start or continue a run. -/
def State.eligible (s : State) (c : Ctx) : Bool := s.atRun c && (match s.nextInstr c with | some i => s.holdOk c i | none => true)

/-- A fragment whose RACQ or OMCLAIM waits takes its place in the order of those (R167, R255). -/
def State.joinWaiting (s : State) (c : Ctx) : State :=
  if !s.atRun c then s
  else
    match s.nextInstr c with
    | some (.racq w) => if s.holdOk c (.racq w) then s else s.joinRacq c.t c.f
    | some (.omclaim w) => if s.holdOk c (.omclaim w) then s else s.joinOmclaim c.t (coreIndex c.T c.W.core) c.f
    | _ => s

/-- A BLOCKED fragment that has become eligible is READY, with a new age and a new wait; a READY one that is not is BLOCKED (R381). -/
def State.review (s : State) (f : Nat) : State :=
  match s.ctxOf f .instructionFetch with
  | none => s
  | some c =>
    if !s.issues c then s
    else if c.F.fstate == .blocked && s.eligible c then
      { (s.adjFrag f (fun F => { F with fstate := .ready, hold := none, age := s.nextId, waitFrom := s.runsIn c.W, boost := none })) with nextId := s.nextId + 1 }
    else if c.F.fstate == .ready && !s.eligible c then (s.joinWaiting c).adjFrag f (fun F => { F with fstate := .blocked })
    else if c.F.fstate == .blocked then s.joinWaiting c
    else s

/-! ## Choosing (R353, R381) -/

/-- The columns of the quads that hold a fragment's ACTIVE lanes (R353). -/
def columnsOf (W : Wave) (F : Frag) : List Nat := (F.active.lanes.map (fun l => W.col0 + l / 4)).dedup

/-- A fragment of a quadrant with its columns. -/
structure Candidate where
  f    : Nat
  F    : Frag
  cols : List Nat
deriving DecidableEq, Repr

/-- A READY fragment is boosted when 48 runs have completed in its quadrant since its wait began; boosted ones come in the order in which
they became so. -/
def Candidate.boosted (x : Candidate) (runs : Nat) : Bool := decide (x.F.waitFrom + 48 ≤ runs)

/-- The first of two in the order of R381: boosted ones first, by the moment of their boost and then by age; the others by age. -/
def Candidate.before (runs : Nat) (x y : Candidate) : Bool :=
  if x.boosted runs && y.boosted runs then decide (x.F.waitFrom < y.F.waitFrom) || (x.F.waitFrom == y.F.waitFrom && decide (x.F.age ≤ y.F.age))
  else x.boosted runs || (!y.boosted runs && decide (x.F.age ≤ y.F.age))

def insertBy (le : Candidate → Candidate → Bool) (x : Candidate) : List Candidate → List Candidate
  | [] => [x]
  | y :: ys => if le x y then x :: y :: ys else y :: insertBy le x ys

/-- The choice of the idle sequencers: the fragments taken, given the free sequencers, the columns in flight, and the columns of the boosted
fragments that have been passed over. Boosted ones stand first in the list. -/
def chooseRuns (runs : Nat) : Nat → List Nat → List Nat → List Candidate → List Nat
  | _, _, _, [] => []
  | 0, _, _, _ => []
  | n + 1, busy, kept, x :: rest =>
    if meet x.cols busy then chooseRuns runs (n + 1) busy (if x.boosted runs then x.cols ++ kept else kept) rest
    else if x.boosted runs || !meet x.cols kept then x.f :: chooseRuns runs n (x.cols ++ busy) kept rest
    else chooseRuns runs (n + 1) busy kept rest

/-- The blocks of an RACQ that is granted are held from its fragment's selection on (R41, R167). -/
def State.takeBlocks (s : State) (f : Nat) : State :=
  match s.ctxOf f .instructionFetch with
  | none => s
  | some c =>
    match s.nextInstr c with
    | some (.racq w) =>
      if (blockMaskEarly w c s).isSome then s
      else
        (match racqBody w c s with
         | .done s1 => s1
         | _ => s)
    | _ => s

/-- A fragment wins a sequencer, unless one chosen before it has claimed what its hold needs (R41): its AWAIT is served, with the cache actions
that it asks for (R151). -/
def State.takeRun (s : State) (f core : Nat) : State :=
  match s.ctxOf f .instructionFetch with
  | none => s
  | some c =>
    if !s.eligible c then s
    else ((s.takeBlocks f).awaited f core c.F.await).adjFrag f (fun F => { F with fstate := .running, await := 0 })

/-- RUN_SELECT: the idle sequencers of a quadrant choose. -/
def State.runSelect (s : State) (core quadrant : Nat) : State :=
  let s1 := ((s.inQuadrant core quadrant).map Prod.fst).foldl State.review s
  let here := (s1.inQuadrant core quadrant).filterMap (fun e =>
    match s1.ctxOf e.1 .instructionFetch with
    | some c => if s1.issues c then some (⟨e.1, c.F, columnsOf c.W c.F⟩ : Candidate) else none
    | none => none)
  let running := here.filter (fun x => x.F.fstate == .running)
  let runs := Tbl.get 0 s.sched.runs (core * 4 + quadrant)
  let ready := (here.filter (fun x => x.F.fstate == .ready)).foldl (fun l x => insertBy (Candidate.before runs) x l) []
  if !s1.startClock core then s1
  else
    let s2 := (chooseRuns runs (4 - running.length) (running.flatMap (fun x => x.cols)) [] ready).foldl (fun s f => s.takeRun f core) s1
    { s2 with frags := List.map (fun e => if here.any (fun x => x.f == e.1 && x.F.fstate == .ready && x.boosted runs)
                                          then (e.1, { e.2 with boost := some (e.2.waitFrom + 48) }) else e) s2.frags }

def execRunSelect (core quadrant : Nat) (s : State) : Host.Outcome State Fault Refusal := .next (s.runSelect core quadrant)

/-- INSTRUCTION_FETCH: the words at the PC of the fragment that issues next return, or their fetch fails (R20, R92). -/
def execInstructionFetch (s : State) : Host.Outcome State Fault Refusal :=
  match s.frags.find? (fun e => e.2.fstate == .running) with
  | none => .next s
  | some e => .next (match s.fetchFor e.1 with | .stop s1 => s1 | .go _ s1 => { s1 with cur := s.cur })

/-! ## Meetings that nobody issues into (R205, R359, R360) -/

/-- A fragment of an attached team is HALTED (R421). -/
def State.frozen (s : State) (t : Nat) : Bool :=
  (Tbl.find s.debug t).isSome && s.frags.any (fun e => e.2.fstate == .halted && (match s.wave? e.2.wave with | some W => W.team == t | none => false))

/-- The timers of meetings advance by the time of one step, while their team is resident (R362, R421). -/
def State.tickTimers (s : State) (dt : Nat) : State :=
  { s with frags := List.map (fun e => match e.2.meet with
      | none => e
      | some m =>
        match s.ctxOf e.1 .instructionFetch with
        | some c => if s.issues c && !s.frozen c.t then (e.1, { e.2 with meet := some { m with counted := m.counted + dt } }) else e
        | none => e) s.frags }

/-- Arithmetic clocks that a meeting's timer has counted (R13). -/
def Meet.clocks (m : Meet) : Nat := m.counted / 20

/-- 64 x 2^to clocks have passed; code 15 never expires (R205, R360). -/
def Meet.expired (m : Meet) (tmo : Nat) : Bool := tmo < 15 && decide (64 * 2 ^ tmo ≤ m.clocks)

/-- The kinds of meeting at which a wave's fragments wait. -/
def State.meetKinds (s : State) (w : Nat) : List MeetKind :=
  ((s.fragsOf w).filterMap (fun e => if e.2.fstate == .meeting then e.2.meet.map Meet.kind else none)).dedup

/-- One meeting of a wave is decided if it can be without a timer. -/
def State.decideMeeting (s : State) (w : Nat) (W : Wave) (k : MeetKind) : State :=
  match k with
  | .clasp => s
  | .forced a m win =>
    let ms := s.waiting w k
    let groups := if win then [ms] else ms.map (fun e => [e])
    groups.foldl (fun s g =>
      let g1 := g.filter (fun e => (s.waiting w k).any (fun y => y.1 == e.1))
      if g1.isEmpty then s
      else
        let need := s.needed W a m win g1
        if (arrivedAt k need).length = need.length then s.closeWindow w a k need else s) s
  | _ => if s.allWaiting w k then s.decideFuse w k none else s

/-- Every meeting of a resident team whose condition has become true is decided. -/
def State.decideMeetings (s : State) : State :=
  s.waves.foldl (fun s e =>
    match s.wave? e.1 with
    | none => s
    | some W =>
      match s.team? W.team with
      | none => s
      | some T => if T.where_ == .live && !s.swapping W.core then (s.meetKinds e.1).foldl (fun s k => s.decideMeeting e.1 W k) s else s) s

/-- The wave's team is resident: its meetings go on (R354, R362). -/
def State.waveResides (s : State) (w : Nat) : Bool :=
  match s.wave? w with
  | some W => s.resides W.team W.core
  | none => false

/-- FUSE_TIMEOUT: a member's timer at an RCV or FUSE of the wave has run out, and the fuse is decided (R205). -/
def State.fuseTimeout (s : State) (w : Nat) : State :=
  if !s.waveResides w then s
  else (s.meetKinds w).foldl (fun s k => match k with
    | .clasp => s
    | .forced _ _ _ => s
    | _ => if (s.waiting w k).any (fun e => match e.2.meet with | some m => m.expired m.tmo | none => false) then s.decideFuse w k none else s) s

def execFuseTimeout (wave : Nat) (s : State) : Host.Outcome State Fault Refusal := .next (s.fuseTimeout wave)

/-- WINDOW_TIMEOUT: the window that a fragment waits in closes, if the timer of the fragment that opened it has run out (R360). -/
def State.windowTimeout (s : State) (f : Nat) : State :=
  match s.frag? f with
  | none => s
  | some F =>
    match F.meet, s.wave? F.wave with
    | some m, some W =>
      (match m.kind with
       | .forced a n true =>
         let ms := s.waiting F.wave m.kind
         let opened := ms.foldl (fun (b : Option Meet) e => match b, e.2.meet with
           | none, x => x
           | some y, some x => if y.counted < x.counted then some x else some y
           | some y, none => some y) none
         (match opened with
          | some o => if s.waveResides F.wave && o.expired o.tmo then s.closeWindow F.wave a m.kind (s.needed W a n true ms) else s
          | none => s)
       | _ => s)
    | _, _ => s

def execWindowTimeout (meeting : Nat) (s : State) : Host.Outcome State Fault Refusal := .next (s.windowTimeout meeting)

/-! ## The watchdog (R424) -/

/-- The event's code of a watched meeting. -/
def Meet.watched (m : Meet) : Option Nat :=
  match m.kind with
  | .forced _ _ false => some 0
  | .rcv _ => if m.tmo = 15 then some 1 else none
  | .fuse => if m.tmo = 15 then some 1 else none
  | .clasp => some 2
  | _ => none

/-- The threshold of a team, in clocks. -/
def State.dogOf (s : State) (t : Nat) : Nat := match Tbl.find s.debug t with | some d => d.dog | none => 2 ^ 26

/-- The needed fragments that have not arrived, by number; the gang's absent members, by their place in GANG. -/
def State.absentees (s : State) (f : Nat) (F : Frag) (W : Wave) (m : Meet) : Nat :=
  let bits (l : List Nat) : Nat := l.dedup.foldl (fun n b => n + 2 ^ b) 0
  match m.kind with
  | .clasp =>
    (match s.mx.clasps.find? (fun e => e.2.arrived.any (fun a => a.2 == f)) with
     | none => 0
     | some (_, k) =>
       bits ((List.range 4).filter (fun n =>
         let i := (k.gang.extractLsb' (16 * n) 16).toNat
         i != 0xFFFF && !k.arrived.any (fun a => match s.wave? a.1 with | some V => V.idx == i | none => false))))
  | .forced a n win =>
    let need := s.needed W a n win [(f, F)]
    bits ((need.filter (fun e => !(arrivedAt m.kind need).any (fun y => y.1 == e.1))).map (fun e => e.2.num))
  | k => bits (((s.fragsOf F.wave).filter (fun e => !(s.waiting F.wave k).any (fun y => y.1 == e.1))).map (fun e => e.2.num))

/-- WATCHDOG_EXPIRY: each watched meeting of a wave that has lasted longer than its team's threshold is reported once. -/
def State.watchdog (s : State) (w : Nat) : State :=
  (s.fragsOf w).foldl (fun s e =>
    match s.ctxOf e.1 .instructionFetch with
    | none => s
    | some c =>
      match c.F.meet with
      | none => s
      | some m =>
        match m.watched with
        | none => s
        | some kind =>
          if m.told || c.F.fstate != .meeting || m.clocks ≤ s.dogOf c.t then s
          else
            let body := natBytes 8 (s.nodeOf c.T) ++ natBytes 2 c.T.id ++ natBytes 2 c.W.idx ++ natBytes 1 c.F.num ++ natBytes 1 kind ++ natBytes 2 0 ++
              natBytes 8 c.F.pc.toNat ++ natBytes 8 (s.absentees e.1 c.F c.W m)
            (s.adjFrag e.1 (fun F => { F with meet := some { m with told := true } })).raise 3 body) s

def execWatchdogExpiry (wave : Nat) (s : State) : Host.Outcome State Fault Refusal := .next (s.watchdog wave)

end Sys2Proof.Machine
end

