-- ==== Sys2Proof/Machine/Sampling.lean ====
section
/-! DEFINITION. Machine/Sampling.lean: PC samples with their stall reasons (R382, R429), sync, throttle and counter records (R432, R433), the
throttle level (R450). -/

namespace Sys2Proof.Machine

/-! ## Stall reasons (R382) -/

/-- The instruction that a fragment waits at, by the reason that a false hold condition has. -/
def holdReason (i : Instr) : Nat :=
  match i with
  | .waitA _ => 5
  | .waitB _ => 5
  | .waitF _ => 5
  | .waitK _ => 5
  | .racq _ => 6
  | .omclaim _ => 2
  | .mov _ => 7
  | .cpy _ => 7
  | .cpyt _ => 7
  | .cpym _ => 7
  | .cpyr _ => 7
  | .cpyg _ => 7
  | .qfence _ => 7
  | .rct _ => 7
  | _ => 2

/-- What a RUNNING fragment's instruction may wait in place for beyond its registers: room in the store queue, outstanding writes of blocks. -/
def placeBody (i : Instr) : Option (Ctx → State → Res) :=
  match i with
  | .st w => some (storeBody (.st w) w false)
  | .sts w => some (storeBody (.sts w) w true)
  | .atom w => some (atomBody w false true)
  | .atoms w => some (atomBody w true true)
  | .red w => some (atomBody w false false)
  | .reds w => some (atomBody w true false)
  | .rrel w => some (rrelBody w)
  | _ => none

/-- The instruction is interlocked: a dependence, request entries, a full store queue, RREL (R382). -/
def State.waitsInPlace (s : State) (c : Ctx) (i : Instr) : Bool :=
  interlocked c i s || s.awaitsEntries c || (match placeBody i with
    | some b => (match b c s with | .stall => true | _ => false)
    | none => false)

/-- A RUNNING fragment's next words are not in its core's instruction cache: their fetch is outstanding (R429). -/
def State.fetching (s : State) (c : Ctx) : Bool :=
  c.F.fstate == .running && (match s.access (.core c.W.core) c.T.asid c.T.table c.F.pc 4 .fetch .none with
    | .ok ps => ps.any (fun p => (Tbl.find (Tbl.get [] s.path.icore c.W.core) (p.addr / 32)).isNone)
    | .error _ => true)

/-- The context of a fragment that stands before an instruction. -/
def Ctx.reading (c : Ctx) (i : Instr) : Ctx :=
  { c with len := i.length, op := (i.word0.extractLsb' 4 8).toNat, cls := classOf c.F.mode (pclOf i) }

/-- The codes present for a fragment in this clock; in a withheld one a READY fragment is not selected (R451). -/
def State.stallCodes (s : State) (c : Ctx) : List Nat :=
  let pre := if !s.issues c then [1] else []
  let tok := if !s.tokensDone c.W c.F c.F.await then [4] else []
  let next := s.nextInstr c
  let busy := (((s.inQuadrant c.W.core c.W.quadrant).filter (fun e => e.2.fstate == .running)).flatMap (fun e =>
    match s.wave? e.2.wave with | some W => columnsOf W e.2 | none => []))
  pre ++ (match c.F.fstate with
    | .meeting => (match c.F.meet with | some m => if m.kind == .clasp then [2] else [3] | none => [])
    | .blocked =>
      tok ++ (match next with
        | some i => if s.holdOk c i then [] else [holdReason i]
        | none => [])
    | .running =>
      if s.fetching c then [11]
      else
        (match next with
         | some i => (if tokenFull (c.reading i) i s then [4] else []) ++ (if s.waitsInPlace (c.reading i) i then [8] else [])
         | none => [])
    | .ready => if s.startClock c.W.core && meet (columnsOf c.W c.F) busy then [9] else [10]
    | .halted => [])

/-- REASON and MASK. -/
def stallSample (codes : List Nat) : Nat :=
  let cs := codes.dedup
  let mask := (cs.filter (fun k => 0 < k)).foldl (fun n k => n + 2 ^ (k - 1)) 0
  (if cs.isEmpty then 0 else cs.foldl min 15) + mask * 16

/-! ## PC samples (R429) -/

/-- What an entry of a core's fragment tables has to report: a fragment of a profiled grid, or the report of one that has ended. -/
def State.entryReport (s : State) (core k : Nat) : Option (List Word) :=
  let quad := k / 128 % 4
  let entry := k % 128
  let pack (wave frag team : Nat) (bits : Nat) : Word :=
    BitVec.ofNat 64 (wave % 2 ^ 16 * 2 ^ 48 + quad * 2 ^ 46 + entry * 2 ^ 39 + frag % 16 * 2 ^ 35 + team % 2 ^ 16 * 2 ^ 19 + bits)
  match Tbl.find s.prof.exits (core * 512 + k) with
  | some x => some [x.pc, pack x.wave x.frag x.team (2 ^ 17)]
  | none =>
    match (s.inQuadrant core quad).find? (fun e => e.2.entry == entry) with
    | none => none
    | some e =>
      match s.ctxOf e.1 .instructionFetch with
      | none => none
      | some c =>
        if s.prof.grids.contains c.T.grid then
          some [c.F.pc, pack c.W.idx c.F.num c.T.id ((if c.F.fstate == .halted then 2 ^ 18 else 0) + (if s.fetching c then 2 ^ 16 else 0) + stallSample (s.stallCodes c))]
        else none

/-- PC_SAMPLE: once every 2^k clocks, an enabled core takes its next entry that has something to report. -/
def State.pcSample (s : State) (core : Nat) : State :=
  if !s.coreEnabled core || s.clocksSince (Tbl.get 0 s.prof.pcAt core) < 2 ^ s.prof.pcK then s
  else
    let s1 := { s with prof := { s.prof with pcAt := Tbl.set 0 s.prof.pcAt core s.ticks } }
    let from_ := Tbl.get 0 s.prof.next core
    match ((List.range 512).map (fun i => (from_ + i) % 512)).findSome? (fun k => (s.entryReport core k).map (fun r => (k, r))) with
    | none => s1
    | some (k, r) =>
      let s2 := { s1 with prof := { s1.prof with next := Tbl.set 0 s1.prof.next core ((k + 1) % 512), exits := Tbl.drop s1.prof.exits (core * 512 + k) }
                          free := s1.free + 1 }
      s2.profile (dieOf core) (some core) 1 r

def execPcSample (core : Nat) (s : State) : Host.Outcome State Fault Refusal := .next (s.pcSample core)

/-! ## Sync and throttle records (R432) -/

/-- SYNC_RECORD: every 2^16 clocks of a core, its CLK with GTIME. -/
def State.syncRecord (s : State) (core : Nat) : State :=
  if s.clocksSince (Tbl.get 0 s.prof.syncAt core) < 2 ^ 16 then s
  else
    { s with prof := { s.prof with syncAt := Tbl.set 0 s.prof.syncAt core s.ticks } }.profile (dieOf core) (some core) 4 [s.clk core, s.gtime]

def execSyncRecord (core : Nat) (s : State) : Host.Outcome State Fault Refusal := .next (s.syncRecord core)

/-- The throttle level becomes another: a record from each enabled core. -/
def State.setLevel (s : State) (level : Nat) : State :=
  if s.mgmt.level = level then s
  else
    let s1 := { s with mgmt := { s.mgmt with level := level } }
    (((List.range 1280).filter s.coreEnabled).filter (fun c => (Tbl.find s.prof.rings (dieOf c)).isSome)).foldl
      (fun (s : State) c => s.profile (dieOf c) (some c) 5 [s.gtime, BitVec.ofNat 64 level]) s1

/-- The package's power limit in milliwatts (R18). -/
def powerLimit : Nat := 2550000

/-- POWER_MEASUREMENT (R15, R450): the device sets a level of its choice, not below the floor; above the limit it withholds clocks. -/
def execPowerMeasurement (milliwatt : Nat) (s : State) : Host.Outcome State Fault Refusal :=
  .next ({ s with mgmt := { s.mgmt with power := milliwatt }, free := s.free + 1 }.setLevel
    (max (if powerLimit < milliwatt then max 1 s.mgmt.floor else s.mgmt.floor) (Config.freeNat s.free % 8)))

/-! ## Counters (R433) -/

/-- The counters of a core and of a die, in table order. -/
def coreCounters : List Nat := [ctrLAVIOL, ctrPREFDROP, ctrBARDUP, ctrBARLOST, ctrTRFAIL, ctrEXITDROP]
def dieCounters : List Nat := [ctrREDPSN, ctrNODEUNDER, ctrRASTDROP, ctrPROFLOSS]

def State.countersAt (s : State) (place : Nat) (cs : List Nat) : List Word := cs.map (fun k => BitVec.ofNat 64 (Tbl.get 0 s.rel.counters (place * 16 + k)))

/-- The cores of a die that are enabled. -/
def State.coresOf (s : State) (die : Nat) : List Nat := (List.range 160).filterMap (fun i => if s.coreEnabled (160 * die + i) then some (160 * die + i) else none)

/-- Every counter of a die: its enabled cores in order, then the die itself. -/
def State.dieReport (s : State) (die : Nat) : List Word :=
  (s.coresOf die).flatMap (fun c => s.countersAt c coreCounters) ++ s.countersAt (10000 + die) dieCounters

/-- The counters of a die are zero again. -/
def State.clearCounters (s : State) (die : Nat) : State :=
  let mine (k : Nat) : Bool := k / 16 == 10000 + die || (k / 16 < 1280 && k / 16 / 160 == die)
  { s with rel := { s.rel with counters := List.filter (fun e => !mine e.1) s.rel.counters } }

/-- The records that a flush writes: one for each enabled core and one for each die. -/
def State.flushCounters (s : State) : State :=
  (s.prof.rings.map Prod.fst).foldl (fun s die =>
    let s1 := (s.coresOf die).foldl (fun (s : State) c => s.profile die (some c) 7 (s.countersAt c coreCounters)) s
    s1.profile die none 7 (s1.countersAt (10000 + die) dieCounters)) s

end Sys2Proof.Machine
end

