-- ==== Sys2Proof/Machine/Shake.lean ====
section
/-! DEFINITION. Machine/Shake.lean: SHAKE256, the hash that R448 measures with (Keccak as its public standard defines it: log entry 20). -/

namespace Sys2Proof.Machine

/-- The state of the permutation: 25 lanes of 64 bits, lane (x, y) at 5y + x. -/
abbrev Sponge := List Word

def Sponge.lane (a : List Word) (x y : Nat) : Word := a.getD (5 * (y % 5) + x % 5) 0

/-- The lanes from a function of their place. -/
def spongeOf (f : Nat → Nat → Word) : List Word := (List.range 25).map (fun i => f (i % 5) (i / 5))

/-- Column parities are added to the neighbouring columns. -/
def theta (a : List Word) : List Word :=
  let c := (List.range 5).map (fun x => (List.range 5).foldl (fun v y => v ^^^ Sponge.lane a x y) 0)
  let d := (List.range 5).map (fun x => c.getD ((x + 4) % 5) 0 ^^^ (c.getD ((x + 1) % 5) 0).rotateLeft 1)
  spongeOf (fun x y => Sponge.lane a x y ^^^ d.getD x 0)

/-- The rotation of each lane, by 5y + x. -/
def rotations : List Nat := [0, 1, 62, 28, 27, 36, 44, 6, 55, 20, 3, 10, 43, 25, 39, 41, 45, 15, 21, 8, 18, 2, 61, 56, 14]

/-- Lanes are rotated, then moved: lane (x, y) goes to (y, 2x + 3y). -/
def rhoPi (a : List Word) : List Word :=
  let r := a.zipIdx.map (fun e => e.1.rotateLeft (rotations.getD e.2 0))
  spongeOf (fun x y => Sponge.lane r ((x + 3 * y) % 5) x)

def chi (a : List Word) : List Word := spongeOf (fun x y => Sponge.lane a x y ^^^ (~~~(Sponge.lane a (x + 1) y) &&& Sponge.lane a (x + 2) y))

/-- The bits of the round constants come from a shift register of 8 bits. -/
def lfsr (r : BitVec 8) : BitVec 8 := (r <<< 1) ^^^ (if r.getLsbD 7 then 0x71 else 0)

/-- One constant, and the register after it: bit 2^j - 1 is the register's low bit before its step j. -/
def roundConst (r : BitVec 8) : Word × BitVec 8 :=
  (List.range 7).foldl (fun (st : Word × BitVec 8) j =>
    (if st.2.getLsbD 0 then st.1 ^^^ BitVec.ofNat 64 (2 ^ (2 ^ j - 1)) else st.1, lfsr st.2)) (0, r)

/-- 24 rounds. -/
def keccakF (a : List Word) : List Word :=
  ((List.range 24).foldl (fun (st : List Word × BitVec 8) _ =>
    let k := roundConst st.2
    let b := chi (rhoPi (theta st.1))
    ((b.headD 0 ^^^ k.1) :: b.drop 1, k.2)) (a, 1)).1

/-- The bytes of some lanes. -/
def laneBytes (v : Word) : List Byte := (List.range 8).map (fun i => v.extractLsb' (8 * i) 8)

/-- A lane from 8 bytes. -/
def laneOf (bs : List Byte) : Word := bs.zipIdx.foldl (fun (v : Word) e => v ||| ((e.1.zeroExtend 64 : Word) <<< (8 * e.2))) 0

/-- Absorb one block of 136 bytes. -/
def absorb (a : List Word) (block : List Byte) : List Word :=
  keccakF (a.zipIdx.map (fun e => if e.2 < 17 then e.1 ^^^ laneOf ((block.drop (8 * e.2)).take 8) else e.1))

/-- The padded message: 1111 and 1 after it, and the last bit of its last block. -/
def padded (m : List Byte) : List Byte :=
  let n := 136 - m.length % 136
  if n = 1 then m ++ [0x9F] else m ++ 0x1F :: List.replicate (n - 2) 0 ++ [0x80]

def absorbAll : Nat → List Word → List Byte → List Word
  | 0, a, _ => a
  | k + 1, a, m => absorbAll k (absorb a (m.take 136)) (m.drop 136)

/-- 512 bits of SHAKE256 of a message. -/
def shake512 (m : List Byte) : List Byte :=
  let p := padded m
  ((absorbAll (p.length / 136) (List.replicate 25 0) p).flatMap laneBytes).take 64

end Sys2Proof.Machine
end

