-- ==== Sys2Proof/Machine/Management.lean ====
section
/-! DEFINITION. Machine/Management.lean: the management protocol (R441 to R446), bring-up and reset (R447), and trust (R448, R449). The bodies
of requests that the spec gives no layout are the model's own (log entry 22). -/

namespace Sys2Proof.Machine

/-! ## Time -/

/-- Nanoseconds of GTIME since a step. -/
def State.nsSince (s : State) (tick : Nat) : Nat := (s.time - timeAt tick) / 17

/-! ## Ownership (R443, R444) -/

/-- The master of a session. -/
def State.masterOf (s : State) (id : Nat) : Nat := match Tbl.find s.mgmt.sessions id with | some x => x.master | none => 0

/-- The better of two pending claims: the higher priority, then the lower master id. -/
def betterClaim (a b : Nat × Session) : Nat × Session :=
  let p (x : Nat × Session) : Nat := x.2.claim.getD 0
  if p a < p b || (p a = p b && b.2.master < a.2.master) then b else a

/-- The winner among the pending claims. -/
def State.winner (s : State) : Option (Nat × Session) :=
  match s.mgmt.sessions.filter (fun e => e.2.claim.isSome) with
  | [] => none
  | x :: rest => some (rest.foldl betterClaim x)

/-- Park messages that are still unanswered go to another master's session, where they are not held already (R389, R443). -/
def State.repeatParks (s : State) : State :=
  let held := s.mgmt.queue.filter (fun e => e.kind == 1)
  let new := (s.saves.images.filter (fun e => e.2.kind == .park && !e.2.pending && !e.2.pages.isEmpty)).filterMap (fun e =>
    match s.team? e.2.team with
    | none => none
    | some T => let b := parkBody e.1 T.asid e.2.die e.2.pages; if held.any (fun h => h.body == b) then none else some (⟨1, b⟩ : Event))
  { s with mgmt := { s.mgmt with queue := s.mgmt.queue ++ new } }

/-- A session becomes the owner: its lease starts, and the events that are held go to it. -/
def State.own (s : State) (id prio : Nat) : State :=
  let m := s.masterOf id
  let s1 := { s with mgmt := { s.mgmt with owner := some id, prio := prio, lease := s.ticks } }
  let s2 := if m = s.mgmt.former then s1 else s1.repeatParks
  { s2 with mgmt := { s2.mgmt with former := m } }.sendEvents

/-- Whenever there is no owner, the best pending claim wins at once. -/
def State.elect (s : State) : State :=
  match s.mgmt.owner, s.winner with
  | none, some (id, x) => { s with mgmt := { s.mgmt with sessions := Tbl.put s.mgmt.sessions id { x with claim := none } } }.own id (x.claim.getD 0)
  | _, _ => s

/-- Ownership ends: unacknowledged events are held again, before the others. -/
def State.disown (s : State) : State :=
  { s with mgmt := { s.mgmt with owner := none, prio := 0, queue := s.mgmt.unacked.map SentEvent.event ++ s.mgmt.queue, unacked := [] } }

/-- The lease has lapsed: 5 s since the last HEARTBEAT or accepted request of the owner. -/
def State.lapsed (s : State) : Bool := s.mgmt.owner.isSome && decide (5 * 10 ^ 9 ≤ s.nsSince s.mgmt.lease)

def State.lapse (s : State) : State := if s.lapsed then s.disown.elect else s

/-- LEASE_EXPIRY (R443). -/
def execLeaseExpiry (s : State) : Host.Outcome State Fault Refusal := .next s.lapse

/-- EVENT_RESEND: an event that has not been acknowledged for 250 ms is sent again with its number. -/
def State.resend (s : State) (n : Nat) : State :=
  match s.mgmt.owner, s.mgmt.unacked.find? (fun e => e.seq == n) with
  | some id, some e =>
    if s.nsSince e.since < 250 * 10 ^ 6 then s
    else
      let port := match Tbl.find s.mgmt.sessions id with | some x => x.port | none => 0
      { s with mgmt := { s.mgmt with unacked := s.mgmt.unacked.map (fun (y : SentEvent) => if y.seq = n then { y with since := s.ticks } else y) } }.say
        (.event port id e.seq e.event.kind e.event.body)
  | _, _ => s

def execEventResend (id : Nat) (s : State) : Host.Outcome State Fault Refusal := .next (s.resend id)

/-! ## Requests (R441 to R443) -/

/-- STATUS values. -/
def stOK : Nat := 0
def stNOTOWNER : Nat := 1
def stNOTREADY : Nat := 2
def stBADARG : Nat := 3
def stBUSY : Nat := 4
def stAUTH : Nat := 5

/-- What acting on a request ends in: an answer at once, or one that is still due. -/
inductive Verdict where
  | answer (s : State) (status : Nat) (payload : List Byte)
  | later (s : State)
deriving DecidableEq, Repr

def ok (s : State) : Verdict := .answer s stOK []
def refuse (s : State) (status : Nat) : Verdict := .answer s status []

/-- The answer to a request of a session is stored among its last 64, and sent. -/
def State.reply (s : State) (session seq op status : Nat) (payload : List Byte) : State :=
  match Tbl.find s.mgmt.sessions session with
  | none => s
  | some x =>
    { s with mgmt := { s.mgmt with sessions := Tbl.put s.mgmt.sessions session { x with stored := ((seq, op, status, payload) :: x.stored).take 64 } } }.say
      (.edjor x.port op session seq status payload)

/-- An accepted request of the owner renews its lease. -/
def State.renew (s : State) : State := { s with mgmt := { s.mgmt with lease := s.ticks } }

/-- A request of a session: a repeat is answered from the store or dropped; an owner-only request needs the owner and, unless it acts early,
READY. What a message of an unknown session is answered with is open. -/
def State.request (s : State) (q : EdjorRequest) (op : Nat) (ownerOnly early : Bool) (act : State → Verdict) : State :=
  let s := s.lapse
  let id := q.session.toNat
  let seq := q.seq.toNat
  match Tbl.find s.mgmt.sessions id with
  | none => { s with free := s.free + 1 }.say (.edjor q.port op id seq (1 + Config.freeNat s.free % 5) [])
  | some x =>
    if seq ≤ x.top then
      (match x.stored.find? (fun e => e.1 == seq) with
       | some e => s.say (.edjor q.port e.2.1 id seq e.2.2.1 e.2.2.2)
       | none => s)
    else
      let s1 := { s with mgmt := { s.mgmt with sessions := Tbl.put s.mgmt.sessions id { x with port := q.port, top := seq } } }
      if ownerOnly && s.mgmt.owner != some id then s1.reply id seq op stNOTOWNER []
      else if !s.ready && !early then s1.reply id seq op stNOTREADY []
      else
        match act (if ownerOnly then s1.renew else s1) with
        | .answer s2 status payload => s2.reply id seq op status payload
        | .later s2 => s2

/-- EDJOR_OTHER_OP: an operation that is not assigned (R442). -/
def execEdjorOtherOp (q : EdjorRequest) (s : State) : Host.Outcome State Fault Refusal :=
  .next (s.request q q.op.toNat false true (fun s => refuse s stBADARG))

/-! ## Sessions (R441) -/

/-- Bytes that are open, `n` of them. -/
def freeBytes (k n : Nat) : List Byte := (List.range n).map (Config.freeByte k)

/-- NONCE: a fresh nonce from the random source; the oldest of 64 unused ones is discarded. -/
def execNonce (q : EdjorRequest) (s : State) : Host.Outcome State Fault Refusal :=
  let v := freeBytes s.free 32
  let ns := s.mgmt.nonces ++ [⟨v, q.source, s.ticks⟩]
  .next ({ s with mgmt := { s.mgmt with nonces := ns.drop (ns.length - 64) }, free := s.free + 1 }.say (.edjor q.port 0x06 0 0 stOK v))

/-- The bytes of a text. -/
def textBytes (t : String) : List Byte := t.toList.map (fun c => BitVec.ofNat 8 c.toNat)

/-- HELLO: a valid nonce of the same source within 10 s, and a signature of the master's key over EDJH, the nonce and the id. -/
def State.hello (s : State) (q : EdjorRequest) : State :=
  let master := field q.body 0 8
  let nonce := (q.body.drop 8).take 32
  let sign := q.body.drop 40
  let fresh := s.mgmt.nonces.any (fun n => n.value == nonce && n.source == q.source && decide (s.nsSince n.since ≤ 10 * 10 ^ 9))
  let s1 := { s with mgmt := { s.mgmt with nonces := s.mgmt.nonces.filter (fun n => n.value != nonce) } }
  let good := match Config.masterKey master with
    | some key => Config.signed key (textBytes "EDJH" ++ nonce ++ natBytes 8 master) sign
    | none => false
  if !(fresh && good) then s1.say (.edjor q.port 0x01 0 q.seq.toNat stAUTH [])
  else
    let id := s1.mgmt.nextSess
    let x : Session := { master := master, port := q.port, top := 0, stored := [], claim := none, evSeq := 1 }
    { s1 with mgmt := { s1.mgmt with sessions := Tbl.put s1.mgmt.sessions id x, nextSess := id + 1 } }.say (.edjor q.port 0x01 id q.seq.toNat stOK (natBytes 8 id))

def execHello (q : EdjorRequest) (s : State) : Host.Outcome State Fault Refusal := .next (s.hello q)

/-! ## Ownership requests (R443) -/

/-- CLAIM: a priority of 1 to 255 is pending until it is decided. -/
def execClaim (q : EdjorRequest) (s : State) : Host.Outcome State Fault Refusal :=
  .next (s.request q 0x10 false true (fun s =>
    let p := field q.body 0 1
    if p = 0 then refuse s stBADARG
    else
      match Tbl.find s.mgmt.sessions q.session.toNat with
      | none => refuse s stAUTH
      | some x => ok { s with mgmt := { s.mgmt with sessions := Tbl.put s.mgmt.sessions q.session.toNat { x with claim := some p } } }.elect))

def execHeartbeat (q : EdjorRequest) (s : State) : Host.Outcome State Fault Refusal := .next (s.request q 0x11 true true ok)

def execRelease (q : EdjorRequest) (s : State) : Host.Outcome State Fault Refusal :=
  .next (s.request q 0x12 true false (fun s => ok s.disown.elect))

/-- HANDOVER: the named session owns the device from here on. -/
def execHandover (q : EdjorRequest) (s : State) : Host.Outcome State Fault Refusal :=
  .next (s.request q 0x13 true false (fun s =>
    let id := field q.body 0 8
    match Tbl.find s.mgmt.sessions id with
    | none => refuse s stBADARG
    | some x => ok ({ s.disown with mgmt := { s.disown.mgmt with sessions := Tbl.put s.mgmt.sessions id { x with claim := none } } }.own id (x.claim.getD 0))))

/-- EVACK: an event is acknowledged; the accesses that wait for a host's page walk again (R149, R444). -/
def execEvack (q : EdjorRequest) (s : State) : Host.Outcome State Fault Refusal :=
  .next (s.request q 0x41 true false (fun s =>
    let n := field q.body 0 8
    match s.mgmt.unacked.find? (fun e => e.seq == n) with
    | none => ok s
    | some e =>
      let s1 := { s with mgmt := { s.mgmt with unacked := s.mgmt.unacked.filter (fun y => y.seq != n) } }
      let s2 := if e.event.kind = 7 then { s1 with eng := { s1.eng with waits := s1.eng.waits.filter (fun w => w.body != e.event.body) } } else s1
      ok s2.sendEvents))

/-! ## Reads (R411, R445, R446, R449) -/

/-- The enabled clusters of a die as 5 bytes. -/
def State.clusterBytes (s : State) (die : Nat) : List Byte := natBytes 5 (Tbl.get 0 s.sched.enabled die).toNat

/-- The status block (R446). -/
def State.statusBlock (s : State) : List Byte :=
  let state := (if s.ready then 1 else 0) + s.mgmt.stage * 2 + s.mgmt.fail * 256
  let left := match s.mgmt.owner with | some _ => (5 * 10 ^ 9 - s.nsSince s.mgmt.lease) / 10 ^ 6 | none => 0
  natBytes 4 state ++ natBytes 1 1 ++ natBytes 1 s.mgmt.level ++ natBytes 2 (s.links.self % 2 ^ 10) ++ (List.range 8).flatMap s.clusterBytes ++
  natBytes 8 (match s.mgmt.owner with | some id => s.masterOf id | none => 0) ++ natBytes 4 left ++ natBytes 1 s.mgmt.prio ++ natBytes 3 0 ++
  natBytes 8 s.mgmt.fwver ++ natBytes 8 s.rel.seq.toNat

def execStatus (q : EdjorRequest) (s : State) : Host.Outcome State Fault Refusal :=
  .next (s.request q 0x02 false true (fun s => .answer s stOK s.statusBlock))

/-- ERRRING: records from a sequence number on, or the owner's setting of kernel access (R411). -/
def execErrring (q : EdjorRequest) (s : State) : Host.Outcome State Fault Refusal :=
  .next (s.request q 0x05 false true (fun s =>
    let kind := field q.body 0 1
    if kind = 0 then
      let from_ := BitVec.ofNat 32 (field q.body 4 4)
      let n := min (field q.body 8 2) 4096
      .answer s stOK ((List.range n).flatMap (fun i => match s.record (from_ + BitVec.ofNat 32 i) with | .ok r => r.bytes | .error _ => []))
    else if kind = 1 then
      if s.mgmt.owner != some q.session.toNat then refuse s stNOTOWNER
      else ok { s.renew with rel := { s.rel with echkOff := field q.body 1 1 != 0 } }
    else refuse s stBADARG))

/-- A list of an exact length. -/
def exactly (n : Nat) (l : List Byte) : List Byte := (l ++ List.replicate (n - l.length) 0).take n

/-- The attestation report (R449). -/
def State.report (s : State) (nonce : List Byte) : List Byte :=
  textBytes "EDJA" ++ natBytes 4 1 ++ exactly 32 nonce ++ natBytes 16 Config.serial ++ natBytes 8 s.gtime.toNat ++
  (s.mgmt.meas.map (exactly 64)).flatten ++ natBytes 2 (s.links.self % 2 ^ 10) ++ natBytes 1 1 ++ natBytes 13 0

/-- ATTEST: the report, its signature and the certificate, once the firmware has been measured. -/
def execAttest (q : EdjorRequest) (s : State) : Host.Outcome State Fault Refusal :=
  .next (s.request q 0x04 false (s.mgmt.stage ≥ 4) (fun s =>
    if q.body.length != 32 then refuse s stBADARG
    else .answer s stOK (s.report q.body ++ exactly 3309 (Config.signature (s.report q.body)) ++ Config.certificate)))

/-! ## Bring-up (R447, R448) -/

/-- MEASi is extended by a component. -/
def State.extend (s : State) (i : Nat) (component : List Byte) : State :=
  let m := s.mgmt.meas.zipIdx.map (fun e => if e.2 = i then shake512 (e.1 ++ shake512 component) else e.1)
  { s with mgmt := { s.mgmt with meas := m } }

/-- The main firmware that runs after the next start: the staged image, where there is one. -/
def State.mainImage (s : State) : List Byte := s.mgmt.staged.getD (Config.component 1)

/-- Step 4: every component is verified and measured. -/
def State.measureAll (s : State) : State :=
  if !(List.range 3).all (fun i => Config.signed Config.firmwareKey (Config.component i) (Config.componentSig i)) then
    { s with mgmt := { s.mgmt with fail := 3 } }
  else
    let s1 := ((s.extend 0 (Config.component 0)).extend 1 (Config.component 1)).extend 2 (Config.component 2)
    let s2 := match s.mgmt.staged with | some img => s1.extend 3 img | none => s1
    { s2 with mgmt := { s2.mgmt with stage := 4, fwver := Config.version s.mainImage } }

/-- What comes from the module configuration at bring-up (R434, R440). -/
def configured : Links :=
  { self := Config.peerId % 2 ^ 10, epoch := 0
    peers := (List.range 1024).filterMap (fun k => if Config.peerPorts k % 2 ^ 16 = 0 then none else some (k, Config.peerPorts k % 2 ^ 16))
    windows := [], addrs := (List.range 2).map (fun k => (k, Config.portAddr k)) }

/-- The cores that have left reset once a bring-up step is complete: whenever during bring-up a core does so, which is open, its CLK starts at 0;
those that have not by then do so at the step that sets READY (R13; log entry 97). -/
def State.leaveReset (s : State) (last : Bool) : Tbl Nat :=
  (List.range 1280).filterMap (fun c => match Tbl.find s.sched.started c with
    | some t => some (c, t)
    | none => if last || Config.freeBool (s.free + c) then some (c, s.ticks) else none)

/-- BRING_UP: the next step is completed, or fails; whether a step of the hardware fails is open. A device that has failed stays as it is. -/
def State.bringUpStep (s : State) : State :=
  if s.ready || s.mgmt.fail != 0 then s
  else
    let bad := Config.freeBool s.free
    let s0 := { s with free := s.free + 2 }
    let s1 := { s0 with sched := { s0.sched with started := s0.leaveReset (4 ≤ s.mgmt.stage) }, free := s0.free + 1280 }
    match s.mgmt.stage with
    | 0 =>
      if bad then { s1 with mgmt := { s1.mgmt with fail := if Config.freeBool (s.free + 1) then 1 else 4 } }
      else { s1 with links := { configured with windows := s1.links.windows, epoch := s1.links.epoch }, mgmt := { s1.mgmt with stage := 1 } }
    | 1 => if bad then { s1 with mgmt := { s1.mgmt with fail := 2 } } else { s1 with mgmt := { s1.mgmt with stage := 2 } }
    | 2 => { s1 with mem := [], poison := [], rel := { s1.rel with rot := [] }, mgmt := { s1.mgmt with stage := 3 } }
    | 3 => s1.measureAll
    | _ => { s1 with ready := true, mgmt := { s1.mgmt with stage := 5 } }

def execBringUp (s : State) : Host.Outcome State Fault Refusal := .next s.bringUpStep

/-- What a RESET leaves: sessions, measurements, the staged image, spares, throttling and time go on, and the state epoch changes (R324); everything
else is as at reset. -/
def State.restart (s : State) : State :=
  { State.reset with
    rel    := { State.reset.rel with upset := s.rel.upset, rot := s.rel.rot }
    sched  := { State.reset.sched with enabled := s.sched.enabled }
    links  := { s.links with windows := [], epoch := s.links.epoch + 1 }
    saves  := { State.reset.saves with nextCtx := s.saves.nextCtx }
    mgmt   := { s.disown.mgmt with stage := 0, fail := 0, windows := [], due := [] }
    nextId := s.nextId
    agenda := s.agenda
    ticks  := s.ticks
    free   := s.free
    mem    := s.mem
    poison := s.poison }

/-- RESET (R447). -/
def execReset (q : EdjorRequest) (s : State) : Host.Outcome State Fault Refusal := .next (s.request q 0x30 true true (fun s => ok s.restart.elect))

/-- FWLOAD: an image and its signature are staged for the next RESET, where the signature holds (R448). -/
def execFwload (q : EdjorRequest) (s : State) : Host.Outcome State Fault Refusal :=
  .next (s.request q 0x2F true false (fun s =>
    let n := q.body.length - 3309
    let img := q.body.take n
    if Config.signed Config.firmwareKey img (q.body.drop n) then ok { s with mgmt := { s.mgmt with staged := some img } } else refuse s stBADARG))

/-! ## Throttling, spares, peers (R415, R440, R450) -/

/-- THROTTLE: the floor of the issue-throttle level. -/
def execThrottle (q : EdjorRequest) (s : State) : Host.Outcome State Fault Refusal :=
  .next (s.request q 0x2C true false (fun s =>
    let n := field q.body 0 1
    if 7 < n then refuse s stBADARG else ok ({ s with mgmt := { s.mgmt with floor := n } }.setLevel (max n s.mgmt.level))))

/-- SPARE: automatic substitution is enabled or disabled. -/
def execSpare (q : EdjorRequest) (s : State) : Host.Outcome State Fault Refusal :=
  .next (s.request q 0x2D true false (fun s =>
    let n := field q.body 0 1
    if 1 < n then refuse s stBADARG else ok { s with mgmt := { s.mgmt with autoSpare := n == 1 } }))

/-- A team is resident. -/
def State.anyResident (s : State) : Bool := s.teams.any (fun e => e.2.where_ == .live && Tbl.get 0 s.sched.ended e.1 == 0)

/-- PEERMAP: the ports of a peer id, or this device's own id while no team is resident. -/
def execPeermap (q : EdjorRequest) (s : State) : Host.Outcome State Fault Refusal :=
  .next (s.request q 0x2E true false (fun s =>
    let kind := field q.body 0 1
    let id := field q.body 2 2
    let ports := field q.body 4 2
    if 1023 < id || 1 < kind then refuse s stBADARG
    else if kind = 1 then (if s.anyResident then refuse s stBUSY else ok { s with links := { s.links with self := id } })
    else ok { s with links := { s.links with peers := if ports = 0 then Tbl.drop s.links.peers id else Tbl.put s.links.peers id ports } }))

end Sys2Proof.Machine
end

