-- ==== Sys2Proof/Machine/Host.lean ====
section
/-! DEFINITION. Machine/Host.lean: what reaches the device from its ports: RoCEv2 (R435 to R439), peers (R440), and the owner's requests about
memory, translations, graphs, teams and profiles (R88, R386, R389, R391, R394, R428, R433); the patrol scrubber (R75). -/

namespace Sys2Proof.Machine

/-! ## Accesses from outside (R437, R440) -/

/-- A write from outside, performed at the homes of its lines as a release at SYSTEM scope: the writes that its completion waits for. -/
def State.outsideWrite (s : State) (cells : List (Nat × Byte)) (bad : List Nat) : List Nat × State :=
  ((cells.map (fun c => c.1 / 128)).dedup).foldl (fun (st : List Nat × State) line =>
    let mine := cells.filter (fun c => c.1 / 128 == line)
    let home := homeOf (128 * line)
    let r : WriteRec := { source := .agent, die := home, core := 160 * home, region := .loc, line := line, cells := mine
                          bad := bad.filter (fun b => b / 4 == line), op := .st, steps := [], release := true, scope := 5, accepted := false
                          invals := [], acks := [] }
    let p := st.2.putWrite r
    (st.1 ++ [p.1], (p.2.storeHome mine r.bad).homeWrites p.1 r ((mine.map (fun c => c.1 / 32)).dedup))) ([], s)

/-- A read from outside of a range, performed at the homes of its sectors: they hold them from then on, and errors at rest are found. -/
def State.outsideRead (s : State) (a n : Nat) : State := (sectorsOf a n).foldl (fun s k => s.homeRead k false) s

/-- A home holds a read of these bytes (R340). -/
def State.heldRange (s : State) (a n : Nat) : Bool := (sectorsOf a n).any (fun k => s.homeHolds (k / 4))

/-- One step of an atomic from outside. -/
def outsideStep (op fmt : Nat) (sg ftz : Bool) (a n : Nat) (operand compare : Word) (m : Tbl Byte) : Tbl Byte × Nat :=
  let v := readNat m a n
  (writeNat m a n (atomOp op fmt sg ftz v operand.toNat compare.toNat), v)

/-- The writes have all been performed at DEVICE scope. -/
def State.writesDone (s : State) (ws : List Nat) : Bool := !ws.any (fun w => (Tbl.find s.path.writes w).isSome)

/-- One record for a read from outside that touches poison (R405). -/
def State.logPoisonRead (s : State) (a n : Nat) : State :=
  let bad := (sectorsOf a n).filter s.bad
  let first := bad.headD 0
  let mask := (bad.filter (fun k => k / 16 == first / 16)).foldl (fun m k => m + 2 ^ (k % 16)) 0
  s.logUnit 2 0xFF (homeOf (32 * first)) (kindWord 0 1 0 0x02) mask (BitVec.ofNat 64 (32 * first)) addrPhys

/-- The sectors of a range as a mask of one bit each, in bytes. -/
def poisonMask (s : State) (a n : Nat) : List Byte :=
  let secs := sectorsOf a n
  natBytes ((secs.length + 7) / 8) (secs.zipIdx.foldl (fun m e => if s.bad e.1 then m + 2 ^ e.2 else m) 0)

/-! ## Requests that are still due (R88, R436, R437) -/

/-- A queue pair and a window that a request uses. -/
def Due.pair (d : Due) : Option (Nat × Nat) := match d with | .write p q _ _ _ _ => some (p, q) | _ => none
def Due.window? (d : Due) : Option Nat := match d with | .write _ _ w _ _ _ => some w | .read _ _ w _ _ => some w | _ => none

/-- A request beyond the device is of an address space, or of whatever unit sent it. -/
def State.requestOf (s : State) (mine : Nat → Bool) (r : RemoteReq) : Bool :=
  match r.pend.bind (Tbl.find s.pend) with
  | some p => mine p.wave
  | none => true

/-- The accesses of some address spaces that were translated before a place in order have been performed (R88). -/
def State.oldAccessesDone (s : State) (asid : Option Nat) (place : Nat) : Bool :=
  let mine (w : Nat) : Bool := match (s.wave? w).bind (fun W => s.team? W.team) with
    | some T => (match asid with | some a => T.asid == a | none => true)
    | none => true
  !s.waves.any (fun e => mine e.1 && e.2.stores.any (fun q => q.ord < place)) &&
  !s.pend.any (fun e => e.1 < place && mine e.2.wave && (e.2.isRead || e.2.owed && (match e.2.kind with | .store _ _ => true | .writes => true | _ => false))) &&
  !s.mx.entries.any (fun e => e.1 < place && !e.2.accs.isEmpty && mine e.2.wave) &&
  !s.path.writes.any (fun e => match e.2.source with | .wave w o => mine w && o < place | .agent => false | _ => e.1 < place) &&
  !s.path.remote.any (fun e => e.1 < place && e.2.result.isNone && s.requestOf mine e.2)

/-- Begin or finish one request that is due; none when it is over. `earlier` are the requests accepted before it. -/
def State.serveDue (s : State) (earlier : List Due) (d : Due) : Option Due × State :=
  match d with
  | .write port qp w cells begun ws =>
    if !begun then
      if earlier.any (fun x => x.pair == some (port, qp)) then (some d, s)
      else let r := s.outsideWrite cells []; (some (.write port qp w cells true r.1), r.2)
    else if s.writesDone ws then (none, s.say (.rdma port qp none [])) else (some d, s)
  | .read port qp _ a n =>
    if s.heldRange a n then (some d, s)
    else
      let s1 := s.outsideRead a n
      if s1.memPoisoned a n then (none, (s1.logPoisonRead a n).say (.rdma port qp (some .operationalError) []))
      else (none, s1.say (.rdma port qp none (readBytes s1.mem a n)))
  | .peer r begun ws data bad =>
    if begun then
      if s.writesDone ws then
        let c : CachedResponse := { peer := r.peer, id := r.id, since := s.ticks, data := data, poison := bad }
        (none, { s with path := { s.path with cached := s.path.cached ++ [c] } }.say (.peer r.peer r.id s.links.epoch (some (data, bad))))
      else (some d, s)
    else
      let a := r.pa % 2 ^ 38
      (match r.op with
       | .read n =>
         if s.heldRange a n then (some d, s)
         else
           let s1 := s.outsideRead a n
           (none, s1.say (.peer r.peer r.id s.links.epoch (some (readBytes s1.mem a n, s1.memPoisoned a n))))
       | .write cells =>
         let at_ := cells.map (fun c => (a + c.1, c.2))
         let q := s.outsideWrite at_ (if r.poison then (at_.map (fun c => c.1 / 32)).eraseDups else [])
         (some (.peer r true q.1 [] false), q.2)
       | .atomic op fmt sg ftz ret operand compare n =>
         if s.heldRange a n then (some d, s)
         else
           let s1 := s.findIn a n
           if s1.memPoisoned a n then
             (some (.peer r true [] [] true), if ret then s1 else s1.count ctrREDPSN (10000 + homeOf a) 1)
           else
             let v := outsideStep op.toNat fmt.toNat sg ftz a n operand compare s1.mem
             let q := s1.outsideWrite (cellsAt a (readBytes v.1 a n)) (if r.poison then sectorsOf a n else [])
             (some (.peer r true q.1 (if ret then natBytes n v.2 else []) false), q.2))
  | .mread id seq a n =>
    if s.heldRange a n then (some d, s)
    else let s1 := s.outsideRead a n; (none, s1.reply id seq 0x03 stOK (readBytes s1.mem a n ++ poisonMask s1 a n))
  | .close id seq w => if earlier.any (fun x => x.window? == some w) then (some d, s) else (none, s.reply id seq 0x22 stOK [])
  | .inval id seq asid place => if s.oldAccessesDone asid place then (none, s.reply id seq 0x25 stOK []) else (some d, s)

/-- Every request that is due goes as far as it can, in the order of arrival. -/
def State.serveDues (s : State) : State :=
  let r := s.mgmt.due.foldl (fun (st : List Due × State) d =>
    let q := st.2.serveDue st.1 d
    ((match q.1 with | some x => st.1 ++ [x] | none => st.1), q.2)) ([], s)
  { r.2 with mgmt := { r.2.mgmt with due := r.1 } }

/-- A request is accepted and served as far as it goes at once. -/
def State.owe (s : State) (d : Due) : State := { s with mgmt := { s.mgmt with due := s.mgmt.due ++ [d] } }.serveDues

/-! ## RoCEv2 (R405, R435 to R437) -/

/-- The window of an rkey that allows an access: its index and the address of the first byte. -/
def State.windowFor (s : State) (q : RdmaRequest) (n right : Nat) : Option (Nat × Nat) :=
  match s.mgmt.windows.find? (fun e => e.2.rkey == q.rkey) with
  | some (k, w) => if q.addr + n ≤ w.size && w.rights.getLsbD right then some (k, w.base + q.addr) else none
  | none => none

/-- RDMA_WRITE: into an open window, after the earlier writes of its queue pair; its ACK follows when it is performed. -/
def execRdmaWrite (q : RdmaRequest) (s : State) : Host.Outcome State Fault Refusal :=
  match (if s.ready then s.windowFor q q.data.length 1 else none) with
  | none => .next (s.say (.rdma q.port q.qp (some .accessError) []))
  | some (k, a) => .next (s.owe (.write q.port q.qp k (cellsAt a q.data) false []))

/-- RDMA_READ: a poisoned sector is answered with a NAK and a record. -/
def execRdmaRead (q : RdmaRequest) (s : State) : Host.Outcome State Fault Refusal :=
  match (if s.ready then s.windowFor q q.bytes 0 else none) with
  | none => .next (s.say (.rdma q.port q.qp (some .accessError) []))
  | some (k, a) => .next (s.owe (.read q.port q.qp k a q.bytes))

/-- ROCE_UNSUPPORTED_OP: NAK Invalid Request, and nothing is performed. -/
def execRoceUnsupportedOp (q : RdmaRequest) (s : State) : Host.Outcome State Fault Refusal := .next (s.say (.rdma q.port q.qp (some .invalidRequest) []))

/-- OTHER_TRAFFIC_DROP: nothing happens (R434). -/
def execOtherTrafficDrop (_port : Nat) (s : State) : Host.Outcome State Fault Refusal := .next s

/-- ARP_NEIGHBOUR_DISCOVERY: the port answers with its addresses (R434). -/
def execArpNeighbourDiscovery (port : Nat) (s : State) : Host.Outcome State Fault Refusal :=
  match Tbl.find s.links.addrs port with
  | some a => .next (s.say (.address port a.1 a.2))
  | none => .next s

/-! ## Peers (R324, R440) -/

/-- UALINK_INBOUND_REQUEST: performed at the home L2, at most once for each id of a peer; a repeat is answered from the kept responses. A retry of
a request that was first sent under another state epoch is not performed. -/
def State.inbound (s : State) (r : PeerRequest) : State :=
  if !s.ready || (r.retry && r.epoch != s.links.epoch) then s.say (.peer r.peer r.id s.links.epoch none)
  else
    match s.path.cached.find? (fun c => c.peer == r.peer && c.id == r.id) with
    | some c => s.say (.peer r.peer r.id s.links.epoch (some (c.data, c.poison)))
    | none =>
      if s.mgmt.due.any (fun d => match d with | .peer y _ _ _ _ => y.peer == r.peer && y.id == r.id | _ => false) then s
      else s.owe (.peer r false [] [] false)

def execUalinkInboundRequest (r : PeerRequest) (s : State) : Host.Outcome State Fault Refusal := .next (s.inbound r)

/-! ## Windows (R436, R438) -/

/-- An rkey that no open window has. -/
def State.freshKey (s : State) : BitVec 32 :=
  let k := (Config.freeWord s.free).extractLsb' 0 32
  (((List.range 257).map (fun i => k + BitVec.ofNat 32 i)).find? (fun r => !s.mgmt.windows.any (fun e => e.2.rkey == r))).getD k

/-- OPENDMW: index, base, size, rights; the answer is the rkey. -/
def execOpendmw (q : EdjorRequest) (s : State) : Host.Outcome State Fault Refusal :=
  .next (s.request q 0x21 true false (fun s =>
    let k := field q.body 0 4
    let base := field q.body 8 8
    let size := field q.body 16 8
    let rights := field q.body 24 1
    if 256 ≤ k || base % 65536 != 0 || size % 65536 != 0 || size = 0 || 2 ^ 38 < size || 2 ^ 38 < base + size || rights = 0 || 3 < rights then refuse s stBADARG
    else if (Tbl.find s.mgmt.windows k).isSome then refuse s stBUSY
    else
      let key := s.freshKey
      .answer { s with mgmt := { s.mgmt with windows := Tbl.put s.mgmt.windows k ⟨base, size, BitVec.ofNat 8 rights, key⟩ }, free := s.free + 1 } stOK
        (natBytes 4 key.toNat)))

/-- CLOSEDMW: later requests are refused at once; it completes when the accepted ones are performed and acknowledged. -/
def execClosedmw (q : EdjorRequest) (s : State) : Host.Outcome State Fault Refusal :=
  .next (s.request q 0x22 true false (fun s =>
    let k := field q.body 0 4
    if (Tbl.find s.mgmt.windows k).isNone then refuse s stBADARG
    else .later ({ s with mgmt := { s.mgmt with windows := Tbl.drop s.mgmt.windows k } }.owe (.close q.session.toNat q.seq.toNat k))))

/-- The fields of a host window table entry (R438), where they are in range; what is reserved is ignored (R5). -/
def parseHostWindow (bs : List Byte) : Option HostWindow :=
  let w : HostWindow := { offset := field bs 0 8, size := field bs 8 8, port := field bs 0x10 1, rights := BitVec.ofNat 8 (field bs 0x11 1 % 4)
                          qpn := field bs 0x14 4, raddr := field bs 0x18 8, rkey := field bs 0x20 4 }
  if bs.length = 64 && w.offset % 65536 = 0 && w.size % 65536 = 0 && 0 < w.size && w.offset + w.size ≤ 2 ^ 48 && w.port ≤ 9 then
    some w
  else none

/-- OPENHW: an entry of the host window table is set; entries do not overlap. -/
def execOpenhw (q : EdjorRequest) (s : State) : Host.Outcome State Fault Refusal :=
  .next (s.request q 0x23 true false (fun s =>
    let k := field q.body 0 8
    match parseHostWindow (q.body.drop 8) with
    | none => refuse s stBADARG
    | some w =>
      if 1024 ≤ k || s.links.windows.any (fun e => e.1 != k && decide (e.2.offset < w.offset + w.size) && decide (w.offset < e.2.offset + e.2.size)) then
        refuse s stBADARG
      else ok { s with links := { s.links with windows := Tbl.put s.links.windows k w } }))

/-- CLOSEHW: later accesses find no entry; those already sent complete. -/
def execClosehw (q : EdjorRequest) (s : State) : Host.Outcome State Fault Refusal :=
  .next (s.request q 0x24 true false (fun s =>
    let k := field q.body 0 8
    if (Tbl.find s.links.windows k).isNone then refuse s stBADARG
    else ok { s with links := { s.links with windows := Tbl.drop s.links.windows k } }))

/-- READMEM: bytes of device memory with a poison mask, read as an RDMA READ is (R405, R445). -/
def execReadmem (q : EdjorRequest) (s : State) : Host.Outcome State Fault Refusal :=
  .next (s.request q 0x03 false false (fun s =>
    let a := field q.body 0 8
    let n := field q.body 8 4
    if 2 ^ 38 < a + n then refuse s stBADARG else .later (s.owe (.mread q.session.toNat q.seq.toNat a n))))

/-! ## Translation invalidation (R88, R329) -/

/-- A cached entry matches an address space (or all) and a range of pages. -/
def TlbEntry.hit (e : TlbEntry) (asid : Option Nat) (lo hi : Nat) : Bool :=
  (match asid with | some a => e.asid == a | none => true) &&
  (if e.block then e.page / 2 ^ 13 * 2 ^ 13 ≤ hi && lo < (e.page / 2 ^ 13 + 1) * 2 ^ 13 else lo ≤ e.page && e.page ≤ hi)

/-- Every matching entry leaves every translation cache, and the walk caches what belongs to the address space; waits on an address that
it covers may complete. -/
def State.invalidateMaps (s : State) (asid : Option Nat) (lo hi : Nat) : State :=
  let keep (l : List TlbEntry) : List TlbEntry := l.filter (fun e => !e.hit asid lo hi)
  let mine (a : Nat) : Bool := match asid with | some b => a == b | none => true
  let each (t : Tbl (List TlbEntry)) : Tbl (List TlbEntry) := t.foldl (fun t e => Tbl.set [] t e.1 (keep e.2)) t
  let s1 := { s with path := { s.path with
    tlbCore := each s.path.tlbCore, tlbClus := each s.path.tlbClus, tlbDie := each s.path.tlbDie
    walkc := s.path.walkc.foldl (fun t (e : Nat × List WalkEntry) => Tbl.set [] t e.1 (e.2.filter (fun w => !mine w.asid))) s.path.walkc } }
  s1.stirWaits (fun w => lo ≤ vaPage w.va && vaPage w.va ≤ hi && match (s.frag? w.frag).bind (fun F => (s.wave? F.wave).bind (fun W => s.team? W.team)) with
    | some T => mine T.asid
    | none => false)

/-- INVAL: it is complete when every access that used a removed entry has been performed at DEVICE scope. -/
def execInval (q : EdjorRequest) (s : State) : Host.Outcome State Fault Refusal :=
  .next (s.request q 0x25 true false (fun s =>
    let asid := if field q.body 2 1 = 0 then some (field q.body 0 2 % 2 ^ 12) else none
    let whole := field q.body 3 1 != 0
    let start := BitVec.ofNat 64 (field q.body 8 8)
    let size := field q.body 16 8
    let lo := if whole then 0 else vaPage start
    let hi := if whole then 2 ^ 39 - 1 else vaPage (start + BitVec.ofNat 64 (size - 1))
    if !whole && size = 0 then refuse s stBADARG
    else .later ((s.invalidateMaps asid lo hi).owe (.inval q.session.toNat q.seq.toNat asid s.nextId))))

/-! ## Graphs and teams (R368, R386, R389, R391, R392, R394) -/

/-- A launch message: one decrement of the node that it names, once its home does not hold the line (R340, R368). -/
def State.graphgo (s : State) (a : Nat) : State :=
  if nodeAddr a && !s.nodeFree a then s.addTask (homeOf a) (.follow [a] 0) else (s.decrement a).2

/-- GRAPHGO (R368). -/
def execGraphgo (q : EdjorRequest) (s : State) : Host.Outcome State Fault Refusal :=
  .next (s.request q 0x20 true false (fun s => ok (s.graphgo (field q.body 0 8))))

/-- The cores that a request names: a count, then 16 bits for each. -/
def coresIn (bs : List Byte) (off : Nat) : List Nat := (List.range (field bs off 2)).map (fun i => field bs (off + 2 + 2 * i) 2)

/-- SWAP: enabled cores of one cluster, with KEEP. -/
def execSwap (q : EdjorRequest) (s : State) : Host.Outcome State Fault Refusal :=
  .next (s.request q 0x26 true false (fun s =>
    let cores := coresIn q.body 2
    if cores.isEmpty || !cores.all (fun c => c < 1280 && s.coreEnabled c && clusterOf c == clusterOf (cores.headD 0)) then refuse s stBADARG
    else ok ((s.requestSwap cores (field q.body 0 1 != 0) none).startSwaps)))

/-- The cores whose slots hold the contexts of the teams in the slots of some cores. -/
def State.slotSet (s : State) (cores : List Nat) : List Nat :=
  let grow (cs : List Nat) : List Nat :=
    (cs.flatMap (fun c => (s.slot c).teams)).foldl (fun cs t => match s.team? t with | some T => T.cores.foldl NSet.insert cs | none => cs) cs
  grow (grow (grow (cores.foldl NSet.insert [])))

/-- SPILL: the HELD slots of the named cores become SPILLING (R391). -/
def execSpill (q : EdjorRequest) (s : State) : Host.Outcome State Fault Refusal :=
  .next (s.request q 0x31 true false (fun s =>
    let cores := coresIn q.body 0
    let held (c : Nat) : Bool := match s.slot c with | .held _ => true | _ => false
    if cores.isEmpty || !cores.all held then refuse s stBADARG
    else
      ok ((s.slotSet cores).foldl (fun (s : State) c => match s.slot c with
        | .held ts => s.setSlot c (if ts.isEmpty then .empty else .spilling ts)
        | _ => s) s)))

/-- SAVEPOOL: a die's save pool. -/
def execSavepool (q : EdjorRequest) (s : State) : Host.Outcome State Fault Refusal :=
  .next (s.request q 0x27 true false (fun s =>
    let die := field q.body 0 1
    let base := field q.body 8 8
    let size := field q.body 16 8
    if 7 < die || 2 ^ 38 < base + size then refuse s stBADARG
    else ok { s with saves := { s.saves with pools := Tbl.put s.saves.pools die (base, size) } }))

/-- The owner's answer for a parked team: its image is pending restore from now on, or as soon as it is complete. -/
def State.answerPark (s : State) (q : EdjorRequest) (deliver : Bool) : Verdict :=
  let id := field q.body 0 4
  match Tbl.find s.saves.images id with
  | none => refuse s stBADARG
  | some m =>
    if m.kind != .park || m.pending || m.pages.isEmpty then refuse s stBADARG
    else ok { (s.adjImage id (fun m => { m with pending := true, deliver := deliver, order := s.nextId })) with nextId := s.nextId + 1 }

def execParkansResolve (q : EdjorRequest) (s : State) : Host.Outcome State Fault Refusal := .next (s.request q 0x28 true false (fun s => s.answerPark q false))
def execParkansDeliver (q : EdjorRequest) (s : State) : Host.Outcome State Fault Refusal := .next (s.request q 0x28 true false (fun s => s.answerPark q true))

/-- The team that a request names by its grid's node and its TEAM. -/
def State.teamNamed (s : State) (bs : List Byte) : Option Nat :=
  let node := field bs 0 8
  let id := field bs 8 2
  (s.teams.find? (fun e => e.2.id == id && !e.2.shader && Tbl.get 0 s.sched.ended e.1 == 0 &&
    (match Tbl.find s.sched.grids e.2.grid with | some g => g.node == node | none => false))).map Prod.fst

/-- ENDTEAM: the team ends LOST (R386). -/
def execEndteam (q : EdjorRequest) (s : State) : Host.Outcome State Fault Refusal :=
  .next (s.request q 0x29 true false (fun s =>
    match s.teamNamed q.body with
    | none => refuse s stBADARG
    | some t => ok (s.killTeam t 5)))

/-! ## Profiles (R428 to R433) -/

/-- The words of a report as bytes. -/
def wordBytes (ws : List Word) : List Byte := ws.flatMap (fun v => natBytes 8 v.toNat)

/-- PROFILE_READ: every counter of a die. -/
def execProfileRead (q : EdjorRequest) (s : State) : Host.Outcome State Fault Refusal :=
  .next (s.request q 0x2B true false (fun s =>
    let die := field q.body 0 1
    if 7 < die then refuse s stBADARG else .answer s stOK (wordBytes (s.dieReport die))))

/-- PROFILE_READ_CLEAR: the same, and they are zero again in the same step. -/
def execProfileReadClear (q : EdjorRequest) (s : State) : Host.Outcome State Fault Refusal :=
  .next (s.request q 0x2B true false (fun s =>
    let die := field q.body 0 1
    if 7 < die then refuse s stBADARG else .answer (s.clearCounters die) stOK (wordBytes (s.dieReport die))))

/-- A switch of a list of grids by a node's address. -/
def State.switchGrid (s : State) (l : List Nat) (node : Nat) (on : Bool) : List Nat :=
  let gs := (s.sched.grids.filter (fun e => e.2.node == node)).map Prod.fst
  if on then (l ++ gs).dedup else l.filter (fun g => !gs.contains g)

/-- What a PROFILE request sets before it flushes: nothing, a die's ring, a grid's profiling or tracing, the sampling exponents, or how far
the host has read (log entry 22). -/
def State.profileSet (s : State) (bs : List Byte) : Option State :=
  let a := field bs 8 8
  let b := field bs 16 8
  match field bs 0 1 with
  | 0 => some s
  | 1 =>
    let die := field bs 1 1
    if 7 < die || 2 ^ 38 < a + b || b % 8 != 0 then none
    else some { s with prof := { s.prof with rings := if b = 0 then Tbl.drop s.prof.rings die else Tbl.put s.prof.rings die ⟨a, b, 0, 0, 0⟩ } }
  | 2 => some { s with prof := { s.prof with grids := s.switchGrid s.prof.grids a (b != 0) } }
  | 3 => some { s with prof := { s.prof with traced := s.switchGrid s.prof.traced a (b != 0) } }
  | 4 => if a < 10 || 24 < a || b < 6 || 20 < b then none else some { s with prof := { s.prof with pcK := a, memK := b } }
  | 5 =>
    let die := field bs 1 1
    (match Tbl.find s.prof.rings die with
     | none => none
     | some r => if a < r.tail || r.head < a then none else some { s with prof := { s.prof with rings := Tbl.put s.prof.rings die { r with tail := a } } })
  | _ => none

/-- PROFILE_FLUSH: what it sets, then one counter record for each enabled core and die; the answer says how far each ring is written. -/
def execProfileFlush (q : EdjorRequest) (s : State) : Host.Outcome State Fault Refusal :=
  .next (s.request q 0x2B true false (fun s =>
    match s.profileSet q.body with
    | none => refuse s stBADARG
    | some s1 =>
      let s2 := s1.flushCounters
      .answer s2 stOK (s2.prof.rings.flatMap (fun e => natBytes 8 e.1 ++ natBytes 8 e.2.head))))

/-! ## The patrol scrubber (R73, R75, R414) -/

/-- A corrected error is folded into a record of its kind and page that is less than 1 s old, or logged. -/
def State.logCorrected (s : State) (die addr synd : Nat) : State :=
  let fold (r : ErrorRecord) : Bool :=
    r.kind.toNat % 256 == 1 && r.addr.toNat / 65536 == addr / 65536 && decide (s.gtime.toNat - r.time.toNat < 10 ^ 9)
  match s.rel.ring.find? fold with
  | some r =>
    let n := r.seqf.toNat / 2 ^ 40 % 256
    let r1 := if n < 255 then { r with seqf := r.seqf + (1 <<< 40) } else r
    { s with rel := { s.rel with ring := s.rel.ring.map (fun y => if y = r then r1 else y) } }
  | none => s.logUnit 2 0xFF die (kindWord 0 0 0 0x01) synd (BitVec.ofNat 64 addr) addrPhys

/-- PATROL_SCRUB: a sector is clean, corrected, or its codeword holds an uncorrectable error, which is found and handled as by any read. -/
def State.scrub (s : State) (sector : Nat) (u : SectorUpset) : State :=
  let addr := 32 * sector
  let die := homeOf addr
  if 2 ^ 33 ≤ sector then s
  else
    match (if s.rel.rot.contains (sector / 4) then SectorUpset.uncorrectable else u) with
    | .none => s
    | .corrected => { s with free := s.free + 1 }.logCorrected die addr (Config.freeNat s.free % 132)
    | .uncorrectable => s.findError (sector / 4)

def execPatrolScrub (sector : Nat) (upset : SectorUpset) (s : State) : Host.Outcome State Fault Refusal := .next (s.scrub sector upset)

end Sys2Proof.Machine
end

