-- ==== Sys2Proof/Machine/Debugging.lean ====
section
/-! DEFINITION. Machine/Debugging.lean: attaching, stops, STEP and STEP.ALL (R419 to R423), replay mode and rollbacks (R426, R427). Answers of
DEBUG requests carry the status of the team's fragments (log entry 22). -/

namespace Sys2Proof.Machine

/-! ## Debug state -/

def noDebug : Debug := { stops := false, breaks := [], watches := [], dog := 2 ^ 26, stepping := none, status := 0, replay := none }

def State.adjDebug (s : State) (t : Nat) (g : Debug → Debug) : State := { s with debug := Tbl.adjust s.debug t g }

/-- The fragments of a team, in increasing order of wave index and then of number (R423). -/
def State.teamFrags (s : State) (t : Nat) : List (Nat × Frag) :=
  let key (e : Nat × Frag) : Nat := (match s.wave? e.2.wave with | some W => W.idx * 16 | none => 0) + e.2.num
  let mine := s.frags.filter (fun e => match s.wave? e.2.wave with | some W => W.team == t | none => false)
  mine.foldl (fun l e => let r := l.span (fun y => decide (key y ≤ key e)); r.1 ++ e :: r.2) []

/-- The code of a fragment's state in a status answer. -/
def stateCode (F : Frag) : Nat :=
  match F.fstate with
  | .ready => 0
  | .running => 1
  | .blocked => 2
  | .meeting => 3
  | .halted => 5

/-- The state and debug cause of every fragment of a team. -/
def State.debugStatus (s : State) (t : Nat) : List Byte :=
  natBytes 1 ((Tbl.find s.debug t).map Debug.status |>.getD 0) ++
  (s.teamFrags t).flatMap (fun e =>
    natBytes 2 ((s.wave? e.2.wave).map Wave.idx |>.getD 0) ++ natBytes 1 e.2.num ++ natBytes 1 (stateCode e.2 + if e.2.save.isSome then 128 else 0) ++
    natBytes 4 (e.2.stop.getD 0) ++ natBytes 8 e.2.pc.toNat ++ natBytes 8 e.2.rwc.toNat)

/-- The fragment that a request names by wave index and number, after the team. -/
def State.fragNamed (s : State) (t : Nat) (bs : List Byte) : Option Nat :=
  ((s.teamFrags t).find? (fun e => e.2.num == field bs 2 1 && (match s.wave? e.2.wave with | some W => W.idx == field bs 0 2 | none => false))).map Prod.fst

/-- A DEBUG request about an attached team: its body goes on after the team. -/
def State.debugRequest (s : State) (q : EdjorRequest) (act : Nat → Debug → List Byte → State → Verdict) : State :=
  s.request q 0x2A true false (fun s =>
    match s.teamNamed q.body with
    | none => refuse s stBADARG
    | some t =>
      match Tbl.find s.debug t with
      | none => refuse s stBADARG
      | some d => act t d (q.body.drop 16) s)

/-- The answer of a DEBUG request. -/
def State.debugOk (s : State) (t : Nat) : Verdict := .answer s stOK (s.debugStatus t)

/-! ## Stopping and going on (R420) -/

/-- An arrival is withdrawn: from a rendezvous, from the orders of waits, from a meeting. -/
def State.withdraw (s : State) (f : Nat) : State := (s.forget f).adjFrag f (fun F => { F with meet := none })

/-- The fragment has arrived somewhere and waits there. -/
def State.waitsAt (s : State) (f : Nat) : Bool :=
  ((s.frag? f).bind Frag.meet).isSome || s.path.waits.any (fun e => e.2.frag == f) ||
    s.teams.any (fun e => e.2.racq.contains f || e.2.om.any (fun o => o.waiters.contains f))

/-- A fragment stops for the debugger at its instruction boundary, with what it waits for as it is; one that a Double Fault halted stays as it is. -/
def State.stopFrag (s : State) (f cause : Nat) : State :=
  match s.frag? f with
  | none => s
  | some F => if F.fstate == .halted then s else s.halt f cause

/-- A stopped fragment goes on, in the meeting that it waits in or past an address breakpoint it stands at. -/
def State.goOn (s : State) (f : Nat) : State :=
  match s.frag? f with
  | none => s
  | some F =>
    if F.fstate != .halted || F.stop == some 0x18 then s
    else if F.meet.isSome then s.adjFrag f (fun F => { F with fstate := .meeting, stop := none })
    else (s.adjFrag f (fun F => { F with stop := passing F.pc })).readyNow f

def State.stopTeamFrags (s : State) (t cause : Nat) : State := (s.teamFrags t).foldl (fun s e => s.stopFrag e.1 cause) s
def State.goOnTeam (s : State) (t : Nat) : State := (s.teamFrags t).foldl (fun s e => s.goOn e.1) s

/-- DEBUG_ATTACH: the owner attaches to a team, or detaches, which lets its stopped fragments go on (R419). -/
def execDebugAttach (q : EdjorRequest) (s : State) : Host.Outcome State Fault Refusal :=
  .next (s.request q 0x2A true false (fun s =>
    match s.teamNamed q.body with
    | none => refuse s stBADARG
    | some t =>
      if field q.body 16 1 = 0 then
        (if (Tbl.find s.debug t).isSome then s else { s with debug := Tbl.put s.debug t noDebug }).debugOk t
      else ({ s with debug := Tbl.drop s.debug t }.goOnTeam t).debugOk t))

/-- A watchpoint of a request: start, size, kind. -/
def watchOf (bs : List Byte) : Option Watch :=
  let w : Watch := ⟨BitVec.ofNat 64 (field bs 0 8), field bs 8 4, field bs 12 1⟩
  if 1 ≤ w.size && w.size ≤ 65536 && w.kind ≤ 2 then some w else none

/-- DEBUG_SET_STOPS: breakpoint stops, up to 4 address breakpoints and 4 watchpoints, the watchdog threshold (R419, R424). -/
def execDebugSetStops (q : EdjorRequest) (s : State) : Host.Outcome State Fault Refusal :=
  .next (s.debugRequest q (fun t _ bs s =>
    let nb := field bs 1 1
    let nw := field bs 2 1
    let dog := field bs 8 8
    let breaks := (List.range nb).map (fun i => BitVec.ofNat 64 (field bs (16 + 8 * i) 8))
    match (List.range nw).mapM (fun i => watchOf (bs.drop (16 + 8 * nb + 16 * i))) with
    | none => refuse s stBADARG
    | some ws =>
      if 4 < nb || 4 < nw || (dog != 0 && (dog < 2 ^ 16 || 2 ^ 40 < dog)) then refuse s stBADARG
      else (s.adjDebug t (fun d => { d with stops := field bs 0 1 != 0, breaks := breaks, watches := ws, dog := if dog = 0 then d.dog else dog })).debugOk t))

/-- DEBUG_STOP: every fragment of the team stops, or goes on (R420). -/
def execDebugStop (q : EdjorRequest) (s : State) : Host.Outcome State Fault Refusal :=
  .next (s.debugRequest q (fun t _ bs s =>
    if field bs 0 1 = 0 then ((s.adjDebug t (fun d => { d with stepping := none })).stopTeamFrags t 0).debugOk t else (s.goOnTeam t).debugOk t))

/-! ## Stepping (R422, R423) -/

/-- STEP's outcomes as a status: 0 retired or trapped, 1 BLOCKED, 2 ENDLOG. -/
def stepBlocked : Nat := 1
def stepEndlog : Nat := 2

/-- A turn: the fragment is let go, and its retired work counts from here. -/
def State.beginTurn (s : State) (t f : Nat) (all : Bool) (queue : List Nat) : State :=
  match s.frag? f with
  | none => s
  | some F => (s.goOn f).adjDebug t (fun d => { d with stepping := some ⟨all, f, queue, F.rwc, F.save.isSome, s.ticks, s.waitsAt f⟩ })

/-- A STEP or STEP.ALL is over: every fragment is HALTED. -/
def State.endSteps (s : State) (t : Nat) : State := (s.stopTeamFrags t 0x12).adjDebug t (fun d => { d with stepping := none })

/-- The next turn of a round, or its end. -/
def State.nextTurn (s : State) (t : Nat) : List Nat → State
  | [] => s.endSteps t
  | f :: rest =>
    if ((s.frag? f).map (fun (F : Frag) => F.fstate == .halted && F.stop != some 0x18)).getD false then s.beginTurn t f true rest else s.nextTurn t rest

/-- What the turn's fragment has come to: on its way, or done. -/
def State.turnOver (s : State) (x : Stepping) : Bool :=
  match s.frag? x.focus with
  | none => true
  | some F =>
    F.fstate == .halted || (!x.saved && F.save.isSome) ||
    (if x.all then F.fstate == .meeting || (F.rwc != x.rwc && F.runCount == 0) else F.rwc != x.rwc)

/-- Fragments of a stepped team that have no turn are held; in a round, one that waits in a meeting waits on. -/
def State.holdOthers (s : State) (t : Nat) (x : Stepping) : State :=
  (s.teamFrags t).foldl (fun s e => if e.1 == x.focus || (x.all && e.2.fstate == .meeting) then s else s.stopFrag e.1 0x12) s

/-- A fragment that a meeting of the round has fused into finishes its run in the same turn. -/
def State.fusedInto (s : State) (t : Nat) : Option (Nat × Frag) :=
  (s.teamFrags t).find? (fun e => e.2.fstate == .ready || e.2.fstate == .running || e.2.fstate == .blocked)

/-- One look at the step of a team: its turn goes on, passes to the next fragment, or ends the step. -/
def State.serveStep (s : State) (t : Nat) (d : Debug) : State :=
  match d.stepping with
  | none => s
  | some x =>
    match (if x.all && ((s.frag? x.focus).isNone || ((s.frag? x.focus).map (fun (F : Frag) => F.fstate == FState.meeting)).getD false) then s.fusedInto t else none) with
    | some (f, F) =>
      (s.adjDebug t (fun d => { d with stepping := some { x with focus := f, rwc := F.rwc - 1, saved := F.save.isSome } })).holdOthers t { x with focus := f }
    | none =>
      if !s.turnOver x then s.holdOthers t x
      else if x.all then
        let s1 := match s.frag? x.focus with | some F => if F.fstate == FState.meeting then s else s.stopFrag x.focus 0x12 | none => s
        (s1.holdOthers t x).nextTurn t x.queue
      else s.endSteps t

/-- Every step under way is looked at. -/
def State.serveSteps (s : State) : State :=
  (s.debug).foldl (fun s e => match Tbl.find s.debug e.1 with | some d => s.serveStep e.1 d | none => s) s

/-- STEP_BLOCKED_TIMEOUT: a fragment whose turn has lasted 2^20 clocks without its instruction being able to go on is passed over; an arrival that
it made in a STEP is withdrawn. -/
def State.stepTimeout (s : State) (f : Nat) : State :=
  match (s.debug).find? (fun e => match e.2.stepping with | some x => x.focus == f | none => false) with
  | none => s
  | some (t, d) =>
    match d.stepping with
    | none => s
    | some x =>
      if s.clocksSince x.since < 2 ^ 20 || s.turnOver { x with all := false } then s
      else
        let s1 := ((if x.all || x.waited then s else s.withdraw f).stopFrag f 0x12).adjDebug t (fun d => { d with status := stepBlocked })
        if x.all then s1.nextTurn t x.queue else s1.endSteps t

def execStepBlockedTimeout (frag : Nat) (s : State) : Host.Outcome State Fault Refusal := .next (s.stepTimeout frag)

/-! ## Replay mode (R426) -/

/-- A team's context as it stands. -/
def State.snapshot (s : State) (t : Nat) (T : Team) : Snapshot :=
  let ws := s.wavesOf t
  let mine (w : Nat) : Bool := ws.any (fun e => e.1 == w)
  { team := T, waves := ws, frags := s.frags.filter (fun e => mine e.2.wave), pend := s.pend.filter (fun e => mine e.2.wave) }

/-- The body of LOGFULL and of REPLAY. -/
def State.teamBody (s : State) (T : Team) : List Byte := natBytes 8 (s.nodeOf T) ++ natBytes 2 T.id

/-- A team in replay mode logs the context that each change leaves; a full log ends the mode (R426). -/
def State.noteReplay (s : State) (t : Nat) (d : Debug) : State :=
  match d.replay, s.team? t with
  | some r, some T =>
    if r.copy.isSome then s
    else
      let snap := s.snapshot t T
      if r.log.getLast? == some snap then s
      else if r.size < 64 * (r.log.length + 1) then
        let s1 := { s with saves := { s.saves with images := List.filter (fun (e : Nat × Image) => !(e.2.team == t && e.2.kind == ImageKind.checkpoint)) s.saves.images } }
        (s1.adjDebug t (fun d => { d with replay := none })).raise 4 (s.teamBody T ++ natBytes 6 0)
      else s.adjDebug t (fun d => { d with replay := some { r with log := r.log ++ [snap] } })
  | _, _ => s

def State.noteReplays (s : State) : State :=
  (s.debug).foldl (fun s e => match Tbl.find s.debug e.1 with | some d => s.noteReplay e.1 d | none => s) s

/-- DEBUG_REPLAY_MODE: a checkpoint: the team stops at instruction boundaries, its context is copied, RWC counts from 0, and it goes on. -/
def execDebugReplayMode (q : EdjorRequest) (s : State) : Host.Outcome State Fault Refusal :=
  .next (s.debugRequest q (fun t d bs s =>
    let base := field bs 0 8
    let size := field bs 8 8
    match s.team? t with
    | none => refuse s stBADARG
    | some T =>
      if size = 0 || 2 ^ 38 < base + size || T.where_ != .live then refuse s stBADARG
      else if d.replay.isSome || !s.poolRoom (dieOf (T.cores.headD 0)) (2 ^ 33) (imageSize T) then refuse s stBUSY
      else
        let s1 := (s.stopTeam t).newImage t .checkpoint [] []
        let mine (F : Frag) : Bool := match s.wave? F.wave with | some W => W.team == t | none => false
        let s2 := { s1.2 with frags := List.map (fun (e : Nat × Frag) => if mine e.2 then (e.1, { e.2 with rwc := 0 }) else e) s1.2.frags }
        match s2.team? t with
        | none => refuse s stBADARG
        | some T2 => (s2.adjDebug t (fun d => { d with replay := some ⟨base, size, [s2.snapshot t T2], none, none, 0⟩ })).debugOk t))

/-! ## Rollback (R427) -/

/-- An instruction that takes something from the log (R426): a value from outside the team's own instructions, a completion, a permission or a
decision. -/
def usesLog (i : Instr) : Bool :=
  match i with
  | .seam w => w.await != 0
  | .mfs w => w.a.num.toNat == 0x2A || w.a.num.toNat == 0x2B
  | .mov w => w.a.cls == .queue
  | .bra _ => true
  | .brx _ => true
  | .retn _ => true
  | .rcv _ => true
  | .fuse _ => true
  | .waitB _ => true
  | .waitA _ => true
  | .waitF _ => true
  | .waitK _ => true
  | .ld _ => true
  | .ldc _ => true
  | .lds _ => true
  | .st _ => true
  | .atom _ => true
  | .atoms _ => true
  | .echk _ => true
  | .bqry _ => true
  | .rcq _ => true
  | .rcgen _ => true
  | .rccfgLoad _ => true
  | .rccfgDrop _ => true
  | .rccfgPause _ => true
  | .rccfgRun _ => true
  | .rcstat _ => true
  | .trace _ => true
  | .rqstep _ => true
  | .hitget _ => true
  | .tex _ => true
  | .texfb _ => true
  | .launch _ => true
  | .refit _ => true
  | .vbld _ => true
  | i => match extWord i with | some w => w.minw != 0 | none => false

/-- The fragment that a request names, in a snapshot. -/
def Snapshot.fragNamed (c : Snapshot) (wave num : Nat) : Option (Nat × Frag) :=
  c.frags.find? (fun e => e.2.num == num && c.waves.any (fun w => w.1 == e.2.wave && w.2.idx == wave))

/-- The lanes of one fragment, its registers and its stack entries, as another snapshot has them. -/
def Snapshot.takeFrag (c d : Snapshot) (f : Nat) : Snapshot :=
  match d.frags.find? (fun e => e.1 == f) with
  | none => { c with frags := c.frags.filter (fun e => e.1 != f) }
  | some (_, F) =>
    let upd (e : Nat × Wave) : Nat × Wave :=
      if e.1 != F.wave then e
      else
        match Tbl.find d.waves e.1 with
        | none => e
        | some V =>
          let lanes := heldLanes V F
          let regs := (V.vregs.filter (fun r => lanes.has (r.1 / 256))).foldl (fun t r => Tbl.set VReg.zero t r.1 r.2)
            (List.filter (fun r => !lanes.has (r.1 / 256)) e.2.vregs)
          let preds := (V.preds.map Prod.fst ++ e.2.preds.map Prod.fst).dedup.foldl (fun t p =>
            Tbl.set 0 t p ((Tbl.get 0 e.2.preds p &&& ~~~lanes) ||| (Tbl.get 0 V.preds p &&& lanes))) e.2.preds
          (e.1, { e.2 with vregs := regs, preds := preds, stack := V.stack.filter (fun x => x.owner == F.num) ++ e.2.stack.filter (fun x => x.owner != F.num) })
    { c with waves := c.waves.map upd, frags := Tbl.put c.frags f F }

/-- The position at which a fragment first has retired `n` instructions. -/
def reachedAt (log : List Snapshot) (wave num : Nat) (n : Word) : Option Nat :=
  log.findIdx? (fun c => match c.fragNamed wave num with | some (_, F) => F.rwc == n | none => false)

/-- How far a fragment goes beyond a position before it takes something from the log. -/
def State.freeRun (s : State) (log : List Snapshot) (f : Nat) : Nat → Nat → Nat
  | 0, pos => pos
  | n + 1, pos =>
    match log[pos]?, log[pos + 1]? with
    | some a, some b =>
      (match a.frags.find? (fun e => e.1 == f), b.frags.find? (fun e => e.1 == f) with
       | some (_, F), some (_, G) =>
         if F.rwc == G.rwc then s.freeRun log f n (pos + 1)
         else
           let W := ((Tbl.find a.waves F.wave).map Wave.core).getD 0
           (match s.fetchInstr W a.team.asid a.team.table F.pc with
            | .ok bs => (match decode bs with | .ok (i, _) => if usesLog i then pos else s.freeRun log f n (pos + 1) | .error _ => pos)
            | _ => pos)
       | _, _ => pos)
    | _, _ => pos

/-- The context in which the focus stands at a position, and each other fragment before its first use of what follows there. -/
def State.replayContext (s : State) (log : List Snapshot) (pos focus : Nat) : Option Snapshot :=
  match log[pos]? with
  | none => none
  | some c =>
    some (c.frags.foldl (fun c e =>
      if e.1 = focus then c
      else match log[s.freeRun log e.1 (log.length - pos) pos]? with | some d => c.takeFrag d e.1 | none => c) c)

/-- A replay copy takes a context over: its own numbers for waves and fragments, everything HALTED, nothing outstanding. -/
def State.showCopy (s : State) (copy base : Nat) (c : Snapshot) : State :=
  match s.team? copy with
  | none => s
  | some C =>
    let place (w : Nat) (W : Wave) : Wave := match s.wave? (base + w) with
      | some V => { W with team := copy, core := V.core, quadrant := V.quadrant, col0 := V.col0, storeq := [], admits := [], queues := { W.queues with q3 := [] } }
      | none => { W with team := copy, storeq := [], admits := [], queues := { W.queues with q3 := [] } }
    let old := (s.wavesOf copy).map Prod.fst
    let ws := c.waves.map (fun e => (base + e.1, place e.1 e.2))
    let fs := c.frags.map (fun e => (base + e.1, { e.2 with wave := base + e.2.wave, fstate := .halted, stop := some 0x12, meet := none, hold := none }))
    { s with
      teams := Tbl.put s.teams copy { c.team with grid := C.grid, cores := C.cores, where_ := C.where_ }
      waves := ws.foldl (fun t e => Tbl.put t e.1 e.2) (List.filter (fun e => !old.contains e.1) s.waves)
      frags := fs.foldl (fun t e => Tbl.put t e.1 e.2) (List.filter (fun e => !old.contains e.2.wave) s.frags) }

/-- The replay copy of a team goes. -/
def State.dropCopy (s : State) (copy : Nat) : State :=
  let ws := (s.wavesOf copy).map Prod.fst
  { s with teams := Tbl.drop s.teams copy, waves := List.filter (fun e => !ws.contains e.1) s.waves, frags := List.filter (fun e => !ws.contains e.2.wave) s.frags }

/-- Numbers of replay copies' waves and fragments lie above all others. -/
def copyBase (copy : Nat) : Nat := 2 ^ 70 * copy

/-- A grid that no replay copy shares with another team. -/
def copyGrid : Nat := 2 ^ 50

/-- A replay copy is placed on free resources, at rest. -/
def State.placeCopy (s : State) (t : Nat) (T : Team) (h : Held) (c : Snapshot) : Nat × State :=
  let copy := s.nextId
  let base := copyBase copy
  let at_ := ((s.orderedWaves t T).zip h.spots).map (fun (e : (Nat × Wave) × Spot3) => (base + e.1.1, { e.1.2 with team := copy, core := e.2.core, quadrant := e.2.quad, col0 := e.2.col }))
  let s1 := { s with
    teams := Tbl.put s.teams copy { T with grid := copyGrid, cores := h.cores, where_ := .live }
    waves := at_.foldl (fun t (e : Nat × Wave) => Tbl.put t e.1 e.2) s.waves
    nextId := s.nextId + 1 }
  (copy, s1.showCopy copy base c)

/-- DEBUG_ROLLBACK: the live team is kept as an image, and a replay copy shows where the focus has retired `n` instructions. -/
def execDebugRollback (q : EdjorRequest) (s : State) : Host.Outcome State Fault Refusal :=
  .next (s.debugRequest q (fun t d bs s =>
    let n := BitVec.ofNat 64 (field bs 8 8)
    match d.replay, s.team? t with
    | some r, some T =>
      let s0 := match r.copy with | some c => s.dropCopy c | none => s
      let img := s0.saves.images.find? (fun e => e.2.team == t && e.2.kind == .checkpoint)
      let hit := reachedAt r.log (field bs 0 2) (field bs 2 1) n
      let pos := hit.getD (r.log.length - 1)
      let focus := ((r.log[pos]?).bind (fun c => c.fragNamed (field bs 0 2) (field bs 2 1))).map Prod.fst
      (match img with
       | none => refuse s stBADARG
       | some (_, m) =>
         match (s0.packImage m (Config.freeNat s0.free)).bind List.getLast?, s0.replayContext r.log pos (focus.getD 0) with
         | some h, some c =>
           let status := if hit.isSome then 0 else stepEndlog
           let live := match r.live with
             | some id => (id, s0)
             | none => let p := (s0.stopTeam t).newImage t .park [] []; (p.1, p.2.adjTeam t (fun T => { T with where_ := .image p.1 }))
           let p := { live.2 with free := live.2.free + 1 }.placeCopy t T h c
           let s1 := p.2.adjDebug t (fun d => { d with status := status, stepping := none
                                                       replay := some { r with copy := some p.1, live := some live.1, pos := pos } })
           (s1.raise 5 (s.teamBody T ++ natBytes 1 status ++ natBytes 5 0 ++ natBytes 8 n.toNat)).debugOk t
         | _, _ => refuse s stBUSY)
    | _, _ => refuse s stBADARG))

/-- DEBUG_DISCARD_REPLAY: the copy goes, and the live team may be restored. -/
def execDebugDiscardReplay (q : EdjorRequest) (s : State) : Host.Outcome State Fault Refusal :=
  .next (s.debugRequest q (fun t d _ s =>
    match d.replay with
    | none => refuse s stBADARG
    | some r =>
      match r.copy, r.live with
      | some c, some live =>
        let s1 := (s.dropCopy c).adjDebug t (fun d => { d with replay := some { r with copy := none, live := none, pos := 0 } })
        .answer { (s1.adjImage live (fun m => { m with pending := true, order := s1.nextId })) with nextId := s1.nextId + 1 } stOK (s1.debugStatus t)
      | _, _ => refuse s stBADARG))

/-- The copy's focus goes to the next position at which `p` holds of it; without one the log has ended. -/
def State.stepCopy (s : State) (t : Nat) (r : Replay) (copy wave num : Nat) (p : Frag → Frag → Bool) : State :=
  match r.log[r.pos]?.bind (fun c => c.fragNamed wave num) with
  | none => s.adjDebug t (fun d => { d with status := stepEndlog })
  | some (f, F) =>
    let later := (List.range (r.log.length - r.pos)).map (fun i => r.pos + i)
    match later.find? (fun i => match (r.log[i]?).bind (fun c => c.frags.find? (fun e => e.1 == f)) with | some (_, G) => p F G | none => true) with
    | none => s.adjDebug t (fun d => { d with status := stepEndlog })
    | some i =>
      match s.replayContext r.log i f with
      | none => s.adjDebug t (fun d => { d with status := stepEndlog })
      | some c => (s.showCopy copy (copyBase copy) c).adjDebug t (fun d => { d with status := 0, replay := some { r with pos := i } })

/-- STEP: the focus advances by one instruction, and the others are held; a replay copy advances along its log. -/
def execDebugStep (q : EdjorRequest) (s : State) : Host.Outcome State Fault Refusal :=
  .next (s.debugRequest q (fun t d bs s =>
    match d.replay.bind (fun r => r.copy.map (fun c => (r, c))) with
    | some (r, c) => (s.stepCopy t r c (field bs 0 2) (field bs 2 1) (fun F G => F.rwc != G.rwc || (F.save.isNone && G.save.isSome))).debugOk t
    | none =>
      match s.fragNamed t bs with
      | none => refuse s stBADARG
      | some f => (((s.stopTeamFrags t 0).adjDebug t (fun d => { d with status := 0 })).beginTurn t f false []).debugOk t))

/-- STEP.ALL: one turn for every fragment that no Double Fault has halted. -/
def execDebugStepAll (q : EdjorRequest) (s : State) : Host.Outcome State Fault Refusal :=
  .next (s.debugRequest q (fun t d _ s =>
    match d.replay.bind (fun r => r.copy.map (fun c => (r, c))) with
    | some (r, c) =>
      let names := ((r.log[r.pos]?).map (fun (x : Snapshot) => x.frags.filterMap (fun (e : Nat × Frag) => (Tbl.find x.waves e.2.wave).map (fun W => (W.idx, e.2.num))))).getD []
      (names.foldl (fun s k => match (Tbl.find s.debug t).bind Debug.replay with
        | some r1 => s.stepCopy t r1 c k.1 k.2 (fun F G => (F.rwc != G.rwc && G.runCount == 0) || (F.save.isNone && G.save.isSome) || G.fstate == .meeting)
        | none => s) s).debugOk t
    | none =>
      let s1 := (s.stopTeamFrags t 0).adjDebug t (fun d => { d with status := 0 })
      (s1.nextTurn t ((s1.teamFrags t).map Prod.fst)).debugOk t))

end Sys2Proof.Machine
end

