-- ==== Sys2Proof/Machine/Dispatch.lean ====
section
/-! DEFINITION. Machine/Dispatch.lean: one arm per step of the machine. -/

namespace Sys2Proof.Machine

def exec (i : Instr) (s : State) : Host.Outcome State Fault Refusal :=
  match i with
  | .seam w => Sys2Proof.Machine.execSeam w s
  | .nop w => Sys2Proof.Machine.execNop w s
  | .nopLong w => Sys2Proof.Machine.execNopLong w s
  | .iaddBase w => Sys2Proof.Machine.execIaddBase w s
  | .iaddBaseLit w lit => Sys2Proof.Machine.execIaddBaseLit w lit s
  | .isubBase w => Sys2Proof.Machine.execIsubBase w s
  | .isubBaseLit w lit => Sys2Proof.Machine.execIsubBaseLit w lit s
  | .andBase w => Sys2Proof.Machine.execAndBase w s
  | .andBaseLit w lit => Sys2Proof.Machine.execAndBaseLit w lit s
  | .orBase w => Sys2Proof.Machine.execOrBase w s
  | .orBaseLit w lit => Sys2Proof.Machine.execOrBaseLit w lit s
  | .xorBase w => Sys2Proof.Machine.execXorBase w s
  | .xorBaseLit w lit => Sys2Proof.Machine.execXorBaseLit w lit s
  | .shlBase w => Sys2Proof.Machine.execShlBase w s
  | .shlBaseLit w lit => Sys2Proof.Machine.execShlBaseLit w lit s
  | .shrBase w => Sys2Proof.Machine.execShrBase w s
  | .shrBaseLit w lit => Sys2Proof.Machine.execShrBaseLit w lit s
  | .sarBase w => Sys2Proof.Machine.execSarBase w s
  | .sarBaseLit w lit => Sys2Proof.Machine.execSarBaseLit w lit s
  | .notBase w => Sys2Proof.Machine.execNotBase w s
  | .popcBase w => Sys2Proof.Machine.execPopcBase w s
  | .clzBase w => Sys2Proof.Machine.execClzBase w s
  | .ctzBase w => Sys2Proof.Machine.execCtzBase w s
  | .brevBase w => Sys2Proof.Machine.execBrevBase w s
  | .movBase w => Sys2Proof.Machine.execMovBase w s
  | .movlBaseLit w lit => Sys2Proof.Machine.execMovlBaseLit w lit s
  | .pnotBase w => Sys2Proof.Machine.execPnotBase w s
  | .pmovBase w => Sys2Proof.Machine.execPmovBase w s
  | .emulationBase w lit => Sys2Proof.Machine.execEmulationBase w lit s
  | .emulation w => Sys2Proof.Machine.execEmulation w s
  | .bra w => Sys2Proof.Machine.execBra w s
  | .brx w => Sys2Proof.Machine.execBrx w s
  | .call w => Sys2Proof.Machine.execCall w s
  | .retn w => Sys2Proof.Machine.execRetn w s
  | .loop w => Sys2Proof.Machine.execLoop w s
  | .rcv w => Sys2Proof.Machine.execRcv w s
  | .fuse w => Sys2Proof.Machine.execFuse w s
  | .elect w => Sys2Proof.Machine.execElect w s
  | .exit w => Sys2Proof.Machine.execExit w s
  | .exitSucc w => Sys2Proof.Machine.execExitSucc w s
  | .iadd w => Sys2Proof.Machine.execIadd w s
  | .isub w => Sys2Proof.Machine.execIsub w s
  | .iaddc w => Sys2Proof.Machine.execIaddc w s
  | .isubb w => Sys2Proof.Machine.execIsubb w s
  | .imul w => Sys2Proof.Machine.execImul w s
  | .imulh w => Sys2Proof.Machine.execImulh w s
  | .imad w => Sys2Proof.Machine.execImad w s
  | .imadc w => Sys2Proof.Machine.execImadc w s
  | .idiv w => Sys2Proof.Machine.execIdiv w s
  | .irem w => Sys2Proof.Machine.execIrem w s
  | .imin w => Sys2Proof.Machine.execImin w s
  | .imax w => Sys2Proof.Machine.execImax w s
  | .iabs w => Sys2Proof.Machine.execIabs w s
  | .ineg w => Sys2Proof.Machine.execIneg w s
  | .and w => Sys2Proof.Machine.execAnd w s
  | .or w => Sys2Proof.Machine.execOr w s
  | .xor w => Sys2Proof.Machine.execXor w s
  | .not w => Sys2Proof.Machine.execNot w s
  | .andn w => Sys2Proof.Machine.execAndn w s
  | .blut w => Sys2Proof.Machine.execBlut w s
  | .shl w => Sys2Proof.Machine.execShl w s
  | .shr w => Sys2Proof.Machine.execShr w s
  | .sar w => Sys2Proof.Machine.execSar w s
  | .rot w => Sys2Proof.Machine.execRot w s
  | .fshl w => Sys2Proof.Machine.execFshl w s
  | .fshr w => Sys2Proof.Machine.execFshr w s
  | .popc w => Sys2Proof.Machine.execPopc w s
  | .clz w => Sys2Proof.Machine.execClz w s
  | .ctz w => Sys2Proof.Machine.execCtz w s
  | .brev w => Sys2Proof.Machine.execBrev w s
  | .bfx w => Sys2Proof.Machine.execBfx w s
  | .bfi w => Sys2Proof.Machine.execBfi w s
  | .bswz w => Sys2Proof.Machine.execBswz w s
  | .icmp w => Sys2Proof.Machine.execIcmp w s
  | .pick w => Sys2Proof.Machine.execPick w s
  | .mov w => Sys2Proof.Machine.execMov w s
  | .movl w => Sys2Proof.Machine.execMovl w s
  | .lea w => Sys2Proof.Machine.execLea w s
  | .sad w => Sys2Proof.Machine.execSad w s
  | .pand w => Sys2Proof.Machine.execPand w s
  | .por w => Sys2Proof.Machine.execPor w s
  | .pxor w => Sys2Proof.Machine.execPxor w s
  | .pnot w => Sys2Proof.Machine.execPnot w s
  | .pset w => Sys2Proof.Machine.execPset w s
  | .pmov w => Sys2Proof.Machine.execPmov w s
  | .fadd w => Sys2Proof.Machine.execFadd w s
  | .fsub w => Sys2Proof.Machine.execFsub w s
  | .fmul w => Sys2Proof.Machine.execFmul w s
  | .ffma w => Sys2Proof.Machine.execFfma w s
  | .fmin w => Sys2Proof.Machine.execFmin w s
  | .fmax w => Sys2Proof.Machine.execFmax w s
  | .fset w => Sys2Proof.Machine.execFset w s
  | .fclass w => Sys2Proof.Machine.execFclass w s
  | .frnd w => Sys2Proof.Machine.execFrnd w s
  | .fexf w => Sys2Proof.Machine.execFexf w s
  | .fxpi w => Sys2Proof.Machine.execFxpi w s
  | .fgetx w => Sys2Proof.Machine.execFgetx w s
  | .flog2 w => Sys2Proof.Machine.execFlog2 w s
  | .frcp w => Sys2Proof.Machine.execFrcp w s
  | .frsq w => Sys2Proof.Machine.execFrsq w s
  | .fsqrt w => Sys2Proof.Machine.execFsqrt w s
  | .fsin w => Sys2Proof.Machine.execFsin w s
  | .fcos w => Sys2Proof.Machine.execFcos w s
  | .ftanh w => Sys2Proof.Machine.execFtanh w s
  | .fdot2 w => Sys2Proof.Machine.execFdot2 w s
  | .fdot4 w => Sys2Proof.Machine.execFdot4 w s
  | .cvt w => Sys2Proof.Machine.execCvt w s
  | .cvti w => Sys2Proof.Machine.execCvti w s
  | .cvtf w => Sys2Proof.Machine.execCvtf w s
  | .pack w => Sys2Proof.Machine.execPack w s
  | .unpk w => Sys2Proof.Machine.execUnpk w s
  | .mxq w => Sys2Proof.Machine.execMxq w s
  | .mxd w => Sys2Proof.Machine.execMxd w s
  | .tagset w => Sys2Proof.Machine.execTagset w s
  | .shfl w => Sys2Proof.Machine.execShfl w s
  | .shflx w => Sys2Proof.Machine.execShflx w s
  | .shup w => Sys2Proof.Machine.execShup w s
  | .shdn w => Sys2Proof.Machine.execShdn w s
  | .bcst w => Sys2Proof.Machine.execBcst w s
  | .vote w => Sys2Proof.Machine.execVote w s
  | .matchv w => Sys2Proof.Machine.execMatchv w s
  | .redw w => Sys2Proof.Machine.execRedw w s
  | .scanw w => Sys2Proof.Machine.execScanw w s
  | .mfs w => Sys2Proof.Machine.execMfs w s
  | .mts w => Sys2Proof.Machine.execMts w s
  | .racq w => Sys2Proof.Machine.execRacq w s
  | .rrel w => Sys2Proof.Machine.execRrel w s
  | .rgive w => Sys2Proof.Machine.execRgive w s
  | .ld w => Sys2Proof.Machine.execLd w s
  | .st w => Sys2Proof.Machine.execSt w s
  | .lds w => Sys2Proof.Machine.execLds w s
  | .sts w => Sys2Proof.Machine.execSts w s
  | .ldc w => Sys2Proof.Machine.execLdc w s
  | .pref w => Sys2Proof.Machine.execPref w s
  | .cctl w => Sys2Proof.Machine.execCctl w s
  | .fence w => Sys2Proof.Machine.execFence w s
  | .atom w => Sys2Proof.Machine.execAtom w s
  | .atoms w => Sys2Proof.Machine.execAtoms w s
  | .red w => Sys2Proof.Machine.execRed w s
  | .reds w => Sys2Proof.Machine.execReds w s
  | .wake w => Sys2Proof.Machine.execWake w s
  | .waitB w => Sys2Proof.Machine.execWaitB w s
  | .waitA w => Sys2Proof.Machine.execWaitA w s
  | .waitF w => Sys2Proof.Machine.execWaitF w s
  | .waitK w => Sys2Proof.Machine.execWaitK w s
  | .cpy w => Sys2Proof.Machine.execCpy w s
  | .cpyt w => Sys2Proof.Machine.execCpyt w s
  | .cpym w => Sys2Proof.Machine.execCpym w s
  | .cpyr w => Sys2Proof.Machine.execCpyr w s
  | .cpyg w => Sys2Proof.Machine.execCpyg w s
  | .qfence w => Sys2Proof.Machine.execQfence w s
  | .binit w => Sys2Proof.Machine.execBinit w s
  | .bqry w => Sys2Proof.Machine.execBqry w s
  | .barv w => Sys2Proof.Machine.execBarv w s
  | .bexp w => Sys2Proof.Machine.execBexp w s
  | .omclaim w => Sys2Proof.Machine.execOmclaim w s
  | .omrel w => Sys2Proof.Machine.execOmrel w s
  | .omfill w => Sys2Proof.Machine.execOmfill w s
  | .omread w => Sys2Proof.Machine.execOmread w s
  | .mma w => Sys2Proof.Machine.execMma w s
  | .mmas w => Sys2Proof.Machine.execMmas w s
  | .accz w => Sys2Proof.Machine.execAccz w s
  | .accrd w => Sys2Proof.Machine.execAccrd w s
  | .accwr w => Sys2Proof.Machine.execAccwr w s
  | .accst w => Sys2Proof.Machine.execAccst w s
  | .accsc w => Sys2Proof.Machine.execAccsc w s
  | .accred w => Sys2Proof.Machine.execAccred w s
  | .rcq w => Sys2Proof.Machine.execRcq w s
  | .rct w => Sys2Proof.Machine.execRct w s
  | .rcgen w => Sys2Proof.Machine.execRcgen w s
  | .rccfgLoad w => Sys2Proof.Machine.execRccfgLoad w s
  | .rccfgDrop w => Sys2Proof.Machine.execRccfgDrop w s
  | .rccfgPause w => Sys2Proof.Machine.execRccfgPause w s
  | .rccfgRun w => Sys2Proof.Machine.execRccfgRun w s
  | .rcstat w => Sys2Proof.Machine.execRcstat w s
  | .trace w => Sys2Proof.Machine.execTrace w s
  | .rqinit w => Sys2Proof.Machine.execRqinit w s
  | .rqstep w => Sys2Proof.Machine.execRqstep w s
  | .hitget w => Sys2Proof.Machine.execHitget w s
  | .hitacc w => Sys2Proof.Machine.execHitacc w s
  | .hitign w => Sys2Proof.Machine.execHitign w s
  | .vbld w => Sys2Proof.Machine.execVbld w s
  | .tex w => Sys2Proof.Machine.execTex w s
  | .texfb w => Sys2Proof.Machine.execTexfb w s
  | .refit w => Sys2Proof.Machine.execRefit w s
  | .mshemit w => Sys2Proof.Machine.execMshemit w s
  | .mshdone w => Sys2Proof.Machine.execMshdone w s
  | .launch w => Sys2Proof.Machine.execLaunch w s
  | .tready w => Sys2Proof.Machine.execTready w s
  | .drain w => Sys2Proof.Machine.execDrain w s
  | .trap w => Sys2Proof.Machine.execTrap w s
  | .tret w => Sys2Proof.Machine.execTret w s
  | .bkpt w => Sys2Proof.Machine.execBkpt w s
  | .echk w => Sys2Proof.Machine.execEchk w s
  | .iclr w => Sys2Proof.Machine.execIclr w s
  | .runSelect core quadrant => Sys2Proof.Machine.execRunSelect core quadrant s
  | .windowTimeout meeting => Sys2Proof.Machine.execWindowTimeout meeting s
  | .fuseTimeout wave => Sys2Proof.Machine.execFuseTimeout wave s
  | .watchdogExpiry wave => Sys2Proof.Machine.execWatchdogExpiry wave s
  | .tableWalk die => Sys2Proof.Machine.execTableWalk die s
  | .loadDataReturn id => Sys2Proof.Machine.execLoadDataReturn id s
  | .storeQueueDrain wave => Sys2Proof.Machine.execStoreQueueDrain wave s
  | .homeWriteAccept id => Sys2Proof.Machine.execHomeWriteAccept id s
  | .rdcInvalidation id die => Sys2Proof.Machine.execRdcInvalidation id die s
  | .invalidationAck id => Sys2Proof.Machine.execInvalidationAck id s
  | .l2Eviction line => Sys2Proof.Machine.execL2Eviction line s
  | .detachNotice die line => Sys2Proof.Machine.execDetachNotice die line s
  | .detachedLineDrop die line => Sys2Proof.Machine.execDetachedLineDrop die line s
  | .atomicPerform id => Sys2Proof.Machine.execAtomicPerform id s
  | .atomicResponse id => Sys2Proof.Machine.execAtomicResponse id s
  | .waitTablePoll id => Sys2Proof.Machine.execWaitTablePoll id s
  | .ualinkResponse r => Sys2Proof.Machine.execUalinkResponse r s
  | .ualinkRetryTimeout id => Sys2Proof.Machine.execUalinkRetryTimeout id s
  | .peerResponseCacheExpiry peer id => Sys2Proof.Machine.execPeerResponseCacheExpiry peer id s
  | .ualinkInboundRequest r => Sys2Proof.Machine.execUalinkInboundRequest r s
  | .copyChunkStart cluster engine => Sys2Proof.Machine.execCopyChunkStart cluster engine s
  | .copyChunkDone id => Sys2Proof.Machine.execCopyChunkDone id s
  | .matrixOpStart core context => Sys2Proof.Machine.execMatrixOpStart core context s
  | .matrixOpComplete core context => Sys2Proof.Machine.execMatrixOpComplete core context s
  | .rcqComplete id lane => Sys2Proof.Machine.execRcqComplete id lane s
  | .rctSampleDrain wave => Sys2Proof.Machine.execRctSampleDrain wave s
  | .optimiserStep inst => Sys2Proof.Machine.execOptimiserStep inst s
  | .rcgenImageWrite inst => Sys2Proof.Machine.execRcgenImageWrite inst s
  | .rcuGenerationSwitch inst cluster => Sys2Proof.Machine.execRcuGenerationSwitch inst cluster s
  | .rayNodeVisit id => Sys2Proof.Machine.execRayNodeVisit id s
  | .shaderWavePlace die => Sys2Proof.Machine.execShaderWavePlace die s
  | .refitNodeProcess die => Sys2Proof.Machine.execRefitNodeProcess die s
  | .triangleRasterise die slot => Sys2Proof.Machine.execTriangleRasterise die slot s
  | .nodeStart die => Sys2Proof.Machine.execNodeStart die s
  | .teamPlace die => Sys2Proof.Machine.execTeamPlace die s
  | .persistentGridPlace grid => Sys2Proof.Machine.execPersistentGridPlace grid s
  | .swapComplete swap => Sys2Proof.Machine.execSwapComplete swap s
  | .spillComplete id => Sys2Proof.Machine.execSpillComplete id s
  | .imageComplete id => Sys2Proof.Machine.execImageComplete id s
  | .restore id => Sys2Proof.Machine.execRestore id s
  | .patrolScrub sector upset => Sys2Proof.Machine.execPatrolScrub sector upset s
  | .agingCheck finding => Sys2Proof.Machine.execAgingCheck finding s
  | .eventResend id => Sys2Proof.Machine.execEventResend id s
  | .pcSample core => Sys2Proof.Machine.execPcSample core s
  | .syncRecord core => Sys2Proof.Machine.execSyncRecord core s
  | .powerMeasurement milliwatt => Sys2Proof.Machine.execPowerMeasurement milliwatt s
  | .rdmaWrite q => Sys2Proof.Machine.execRdmaWrite q s
  | .rdmaRead q => Sys2Proof.Machine.execRdmaRead q s
  | .roceUnsupportedOp q => Sys2Proof.Machine.execRoceUnsupportedOp q s
  | .otherTrafficDrop port => Sys2Proof.Machine.execOtherTrafficDrop port s
  | .nonce q => Sys2Proof.Machine.execNonce q s
  | .hello q => Sys2Proof.Machine.execHello q s
  | .status q => Sys2Proof.Machine.execStatus q s
  | .readmem q => Sys2Proof.Machine.execReadmem q s
  | .attest q => Sys2Proof.Machine.execAttest q s
  | .errring q => Sys2Proof.Machine.execErrring q s
  | .claim q => Sys2Proof.Machine.execClaim q s
  | .heartbeat q => Sys2Proof.Machine.execHeartbeat q s
  | .release q => Sys2Proof.Machine.execRelease q s
  | .handover q => Sys2Proof.Machine.execHandover q s
  | .leaseExpiry => Sys2Proof.Machine.execLeaseExpiry s
  | .graphgo q => Sys2Proof.Machine.execGraphgo q s
  | .opendmw q => Sys2Proof.Machine.execOpendmw q s
  | .closedmw q => Sys2Proof.Machine.execClosedmw q s
  | .openhw q => Sys2Proof.Machine.execOpenhw q s
  | .closehw q => Sys2Proof.Machine.execClosehw q s
  | .inval q => Sys2Proof.Machine.execInval q s
  | .swap q => Sys2Proof.Machine.execSwap q s
  | .savepool q => Sys2Proof.Machine.execSavepool q s
  | .parkansResolve q => Sys2Proof.Machine.execParkansResolve q s
  | .parkansDeliver q => Sys2Proof.Machine.execParkansDeliver q s
  | .endteam q => Sys2Proof.Machine.execEndteam q s
  | .debugAttach q => Sys2Proof.Machine.execDebugAttach q s
  | .debugSetStops q => Sys2Proof.Machine.execDebugSetStops q s
  | .debugStop q => Sys2Proof.Machine.execDebugStop q s
  | .debugStep q => Sys2Proof.Machine.execDebugStep q s
  | .debugStepAll q => Sys2Proof.Machine.execDebugStepAll q s
  | .debugReplayMode q => Sys2Proof.Machine.execDebugReplayMode q s
  | .debugRollback q => Sys2Proof.Machine.execDebugRollback q s
  | .debugDiscardReplay q => Sys2Proof.Machine.execDebugDiscardReplay q s
  | .profileRead q => Sys2Proof.Machine.execProfileRead q s
  | .profileReadClear q => Sys2Proof.Machine.execProfileReadClear q s
  | .profileFlush q => Sys2Proof.Machine.execProfileFlush q s
  | .throttle q => Sys2Proof.Machine.execThrottle q s
  | .spare q => Sys2Proof.Machine.execSpare q s
  | .peermap q => Sys2Proof.Machine.execPeermap q s
  | .fwload q => Sys2Proof.Machine.execFwload q s
  | .reset q => Sys2Proof.Machine.execReset q s
  | .spill q => Sys2Proof.Machine.execSpill q s
  | .evack q => Sys2Proof.Machine.execEvack q s
  | .bringUp => Sys2Proof.Machine.execBringUp s
  | .reservedOpcode word0 bit => Sys2Proof.Machine.execReservedOpcode word0 bit s
  | .instructionFetch => Sys2Proof.Machine.execInstructionFetch s
  | .hostWindowResponse r => Sys2Proof.Machine.execHostWindowResponse r s
  | .hostWindowRetryTimeout id => Sys2Proof.Machine.execHostWindowRetryTimeout id s
  | .edjorOtherOp q => Sys2Proof.Machine.execEdjorOtherOp q s
  | .arpNeighbourDiscovery port => Sys2Proof.Machine.execArpNeighbourDiscovery port s
  | .stepBlockedTimeout frag => Sys2Proof.Machine.execStepBlockedTimeout frag s
  | .rccfgLoadDone inst => Sys2Proof.Machine.execRccfgLoadDone inst s

end Sys2Proof.Machine
end

