-- ==== Sys2Proof/Machine/Schedule.lean ====
section
/-! DEFINITION. Machine/Schedule.lean: what follows of itself from the state (the completion of fences, releases, commands, meetings and
requests whose conditions have come true), the end of a team's records, and which agent moves next (R38, R381; log entry 4). -/

namespace Sys2Proof.Machine

/-! ## Outstanding instructions whose conditions have come true -/

/-- The condition of a FENCE on its earlier accesses (R117, R130). -/
def State.fenceReady (s : State) (p : Pend) (W : Wave) (kind scope : Nat) : Bool :=
  match kind with
  | 0 => s.readsDone p.wave p.ord p.own && s.storesDone p.wave W p.ord scope false
  | 1 => s.readsDone p.wave p.ord p.own
  | 2 => s.readsDone p.wave p.ord p.own && s.storesDone p.wave W p.ord scope false
  | _ => s.storesDone p.wave W p.ord 3 true

/-- A release store has been performed at its scope (R117). -/
def State.storePerformed (s : State) (id : Nat) (p : Pend) (W : Wave) (scope : Nat) : Bool :=
  !W.stores.any (fun e => e.pends.contains id) &&
  !s.path.writes.any (fun e => e.2.source == .wave p.wave p.ord && e.2.short scope)

/-- What stands behind a release happens (R158, R277, R328, R375 to R377). -/
def State.act (s : State) (id : Nat) (p : Pend) (W : Wave) (T : Team) (a : After) : State :=
  match a with
  | .barv addr lanes n => (s.doBarv p.wave p.ord addr lanes n).completeAll id
  | .wake pa n => (s.doWake p.wave p.own pa n p.dst).completeAll id
  | .launch node va => (s.doLaunch p.wave p.own p.origin node va p.dst).completeAll id
  | .tready pa va _ => (s.doTready p.wave p.own p.origin pa va true).completeAll id
  | .drain key n => (s.doDrain key n).completeAll id
  | .radiance op inst _ arg => s.rcArrive id p op inst T.asid T.table W.core arg

/-- The condition of an instruction that performs a release before its effect. -/
def State.actReady (s : State) (p : Pend) (scope : Nat) (a : After) : Bool :=
  match a with
  | .tready _ _ ranges => !s.acquiring p.wave p.ord p.own && s.tileReady p.wave p.ord ranges
  | .launch node _ => s.nodeFree node && s.releaseReady p.wave p.ord p.own scope
  | _ => s.releaseReady p.wave p.ord p.own scope

/-- One outstanding instruction goes on, or completes, if it can without an event of its own. -/
def State.settlePend (s : State) (id : Nat) : State :=
  match Tbl.find s.pend id with
  | none => s
  | some p =>
    match s.wave? p.wave with
    | none => s
    | some W =>
      match s.team? W.team with
      | none => s
      | some T =>
        match p.kind with
        | .fence kind scope =>
          if s.fenceReady p W kind scope then (if kind ≤ 1 then s.acquire W.core scope else s).completeAll id else s
        | .store scope true => if s.storePerformed id p W scope then s.completeAll id else s
        | .release scope a => if s.actReady p scope a then s.act id p W T a else s
        | .writes => s.settleWrites id p
        | .omrel core slots =>
          let k := coreIndex T core
          if slots.any (fun n => s.slotBusy W.team k n || s.slotInOrder W.team core n p.ord) then s else s.completeAll id
        | _ => s

def State.settlePends (s : State) : State := s.pend.foldl (fun s e => s.settlePend e.1) s

/-- Fences of queues that are passed, commands whose records found no room, and commands that are over (R146, R148, R150). -/
def State.settleCommands (s : State) : State :=
  s.eng.cmds.foldl (fun s e => match Tbl.find s.eng.cmds e.1 with
    | none => s
    | some k =>
      if k.kind = 0x9D then (if s.fencePassed e.1 k then s.dropCommand e.1 else s)
      else if k.started then
        (if s.aborted k && !k.ending then (s.adjCmd e.1 (fun k => { k with abort := true, poison := true })).endCommand e.1 else s.endCommand e.1)
      else s) s

/-! ## The end of a team's records (R364) -/

/-- An ended team of which everything is performed leaves its resources. -/
def State.reapTeam (s : State) (t : Nat) : State :=
  let ws := (s.wavesOf t).map Prod.fst
  let mine (w : Nat) : Bool := ws.contains w
  let s1 := s.dropContext t
  { s1 with
    teams := Tbl.drop s1.teams t
    waves := List.filter (fun e => !mine e.1) s1.waves
    frags := List.filter (fun e => !mine e.2.wave) s1.frags
    pend := List.filter (fun e => !mine e.2.wave) s1.pend
    gfx := { s1.gfx with rays := List.filter (fun e => !mine e.2.wave) s1.gfx.rays }
    saves := { s1.saves with images := List.filter (fun e => e.2.team != t) s1.saves.images }
    sched := { s1.sched with ended := Tbl.drop s1.sched.ended t }
    debug := Tbl.drop s1.debug t }

def State.reap (s : State) : State :=
  s.sched.ended.foldl (fun s e => if s.teamSettled e.1 then s.reapTeam e.1 else s) s

/-! ## A step's beginning -/

/-- Everything that follows of itself from the state, after `dt` more of time. -/
def State.settle (s : State) (dt : Nat) : State :=
  (s.tickTimers dt).expireDetached.settlePends.settleRows.serveClasps.serveRadiance.serveUnits.serveJoins.startSwaps.decideMeetings.settleCommands.serveDues.serveSteps.noteReplays.reap

/-! ## Who moves next -/

/-- The instructions and the choices of runs of the cores. -/
def State.coreMoves (s : State) : List Move :=
  s.frags.filterMap (fun e => if e.2.fstate == .running then some (.issue e.1) else none) ++
  (s.waves.map (fun e => .event (.runSelect e.2.core e.2.quadrant))) ++
  (s.waves.flatMap (fun e => [.event (.storeQueueDrain e.1), .event (.rctSampleDrain e.1), .event (.fuseTimeout e.1), .event (.watchdogExpiry e.1)])) ++
  (s.frags.filterMap (fun e => if e.2.fstate == .meeting then some (.event (.windowTimeout e.1)) else none)) ++
  ((s.debug).filterMap (fun e => e.2.stepping.map (fun x => .event (.stepBlockedTimeout x.focus))))

/-- The events of the memory path. -/
def State.pathMoves (s : State) : List Move :=
  (s.pend.flatMap (fun e => match e.2.kind with
    | .load _ _ _ _ _ _ _ _ _ _ _ => [.event (.loadDataReturn e.1)]
    | .pref _ _ => [.event (.loadDataReturn e.1)]
    | .atom _ _ _ _ _ _ _ => [.event (.atomicResponse e.1)]
    | .query _ _ _ => e.2.lanes.lanes.map (fun l => .event (.rcqComplete e.1 l))
    | _ => [])) ++
  (s.path.writes.flatMap (fun e => [.event (.homeWriteAccept e.1), .event (.atomicPerform e.1), .event (.invalidationAck e.1)] ++
    e.2.invals.map (fun d => .event (.rdcInvalidation e.1 d)))) ++
  (s.path.detach.map (fun e => .event (.detachNotice e.1 e.2))) ++ (s.path.walkq.map (fun r => .event (.tableWalk r.die))) ++
  (s.path.waits.map (fun e => .event (.waitTablePoll e.1))) ++
  (s.path.remote.map (fun e => .event (if e.2.region == .host then .hostWindowRetryTimeout e.1 else .ualinkRetryTimeout e.1)))

/-- The events of the engines and units. -/
def State.unitMoves (s : State) : List Move :=
  (s.eng.cmds.map (fun e => .event (.copyChunkStart e.2.cluster (e.1 % 8)))) ++ (s.eng.chunks.map (fun e => .event (.copyChunkDone e.1))) ++
  (s.mx.entries.flatMap (fun e => [.event (.matrixOpStart e.2.core e.2.ctx), .event (.matrixOpComplete e.2.core e.2.ctx)])) ++
  (s.rc.insts.flatMap (fun e => [.event (.optimiserStep e.1), .event (.rcgenImageWrite e.1)] ++
    s.enabledClusters.map (fun c => .event (.rcuGenerationSwitch e.1 c)))) ++
  (s.rc.ops.map (fun e => .event (.rccfgLoadDone e.2.inst))) ++
  (s.gfx.rays.flatMap (fun e => [.event (.rayNodeVisit e.1), .event (.shaderWavePlace (dieOf e.2.core))])) ++
  (s.gfx.refits.map (fun e => .event (.refitNodeProcess e.2.die))) ++ (s.gfx.passes.map (fun e => .event (.triangleRasterise e.2.die e.2.slot)))

/-- The events of scheduling, saving and management. -/
def State.deviceMoves (s : State) : List Move :=
  (s.sched.tasks.map (fun e => .event (.nodeStart e.1))) ++
  (s.sched.grids.flatMap (fun e => if e.2.pending.isEmpty then [] else if e.2.persist then [.event (.persistentGridPlace e.1)]
    else (List.range 8).map (fun d => .event (.teamPlace d)))) ++
  (s.saves.swaps.map (fun e => .event (.swapComplete e.1))) ++ (s.saves.slots.map (fun e => .event (.spillComplete e.1))) ++
  (s.saves.images.flatMap (fun e => [.event (.imageComplete e.1), .event (.restore e.1)])) ++
  (s.mgmt.unacked.map (fun e => .event (.eventResend e.seq))) ++ (if s.mgmt.owner.isSome then [.event .leaseExpiry] else [])

/-- The moves that have something to do without the outside world. -/
def State.moves (s : State) : List Move := s.coreMoves ++ s.pathMoves ++ s.unitMoves ++ s.deviceMoves

/-- The move of a machine whose agenda is empty: each kind of work in its turn. -/
def State.defaultMove (s : State) : Move :=
  if s.ready then s.moves.getD (s.ticks % s.moves.length) (.event (.runSelect 0 0)) else .event .bringUp

/-- The state after what follows of itself and the time that a step takes. -/
def State.begin (s : State) : State := { (s.settle (Config.elapsed s.ticks)) with ticks := s.ticks + 1, cur := none }

/-- The next move, which leaves the agenda, and the state in which it is made. -/
def State.nextMove (s : State) : Move × State :=
  match s.agenda with
  | m :: rest => (m, { s.begin with agenda := rest })
  | [] => (s.begin.defaultMove, s.begin)

end Sys2Proof.Machine
end

