-- ==== Sys2Proof/Machine/Step.lean ====
section
/-! DEFINITION. Machine/Step.lean: one step of the machine: the next agent moves (R38, R381; log entry 4). -/

namespace Sys2Proof.Machine

/-- One step: a fragment issues the instruction at its PC, or an event of the device or its host happens. -/
def step (s : State) : Host.Outcome State Fault Refusal :=
  match s.nextMove with
  | (.event i, s1) => exec i s1
  | (.issue f, s1) =>
    match s1.fetchFor f with
    | .stop s2 => .next s2
    | .go i s2 => exec i s2

/-- The state with an instruction's bits placed where the next step fetches. -/
def State.withFetchWord (s : State) (nbits w : Nat) : State := s.withCode (tableBytes nbits w)

end Sys2Proof.Machine
end

