-- ==== Sys2Proof/Safety.lean ====
section
/-! DEFINITION. Safety.lean: what counts as a safe run, and the terms in which claims speak of instructions: when one may issue, what a
register holds, what else is left as it was. -/

namespace Sys2Proof

/-- The state's memory and its poisoned sectors are in canonical form: equal memories are equal data. -/
def Canonical (s : Machine.State) : Prop := Machine.Memory.wf s.mem = true ∧ Machine.NSet.wf s.poison = true

/-- A step goes on: it ends neither in a fault nor in a refusal. -/
def GoesOn (s : Machine.State) : Prop := ∃ t, Machine.step s = .next t

/-- `n` steps from a state, each of which goes on. -/
def SafeFor : Nat → Machine.State → Prop
  | 0, _ => True
  | n + 1, s => ∃ t, Machine.step s = .next t ∧ SafeFor n t

namespace Machine

/-! ## Reading the state -/

/-- One byte of device memory. -/
abbrev State.byte (s : State) (a : Nat) : Byte := Tbl.get 0 s.mem a

/-- A vector register of a wave in a lane. -/
def State.vreg (s : State) (w l n : Nat) : VReg := match s.wave? w with | some W => W.reg l n | none => VReg.zero

/-- A predicate of a wave. -/
def State.predOf (s : State) (w p : Nat) : Mask := match s.wave? w with | some W => W.pred p | none => 0

/-- A scalar register of a fragment. -/
def State.scalarOf (s : State) (f n : Nat) : Word := match s.frag? f with | some F => F.scalar n | none => 0

/-- A temporary of a fragment, and whether it is valid. -/
def State.tmpOf (s : State) (f n : Nat) : Word × Bool :=
  match s.frag? f with | some F => (Tbl.get 0 F.tmp n, F.tmpValid.getLsbD n) | none => (0, false)

/-! ## An instruction that may issue -/

/-- Fragment `c.f` is the current one and instruction `i` passes what stands before its effect: its encoding is legal (R48 to R50), its
register is open to it (R169, R388), the run's order holds (R41 to R44), the blocks it names are held (R168), none of its registers awaits a
result and its token has room (R32), no upset strikes (R409), and no register holds an uncorrectable error (R403). -/
structure Ready (s : State) (c : Ctx) (i : Instr) : Prop where
  current : s.cur = some c.f
  context : s.ctxOf c.f i = some c
  legal   : offence c i = none
  allowed : privilege c i = none
  order   : runOffence c i (s.nextWord c) = none
  blocks  : blockOffence c i = none
  results : interlocked c i s = false
  tokens  : tokenFull c i s = false
  calm    : s.rel.upset = none
  sound   : s.rel.weak = []

/-- Instruction `i` of context `c` has had its effect, which left `s`, and retires (R41). -/
def Retired (c : Ctx) (i : Instr) (s : State) : State := (s.retire c.f c.len).lookahead c i

/-! ## What an instruction leaves alone -/

/-- Some operand of the list names register `n` of a class. -/
def named (ds : List Operand) (k : Cls) (n : Nat) : Bool := ds.any (fun d => d.cls == k && d.num.toNat == n)

/-- From `s` to `t` only the registers that `ds` names have changed, vector registers and predicates in the lanes of `part` alone; MODE has
gained at most flags, and none unless `flags` holds; the fragment has passed its instruction, and is no longer late there (R360); a lookahead
violation may have been counted.
Every byte of memory and every other piece of state is as it was. -/
structure OnlyWrites (c : Ctx) (s t : State) (ds : List Operand) (part : Mask) (flags : Bool) : Prop where
  memory   : ∀ a, t.byte a = s.byte a
  counters : ∀ k, k ≠ c.W.core * 16 + ctrLAVIOL → Tbl.get 0 t.rel.counters k = Tbl.get 0 s.rel.counters k
  rest     : { t with waves := s.waves, frags := s.frags, rel := { t.rel with counters := s.rel.counters } } = s
  waves    : ∀ w, w ≠ c.w → t.wave? w = s.wave? w
  frags    : ∀ f, f ≠ c.f → t.frag? f = s.frag? f
  wave     : ∃ W, t.wave? c.w = some W ∧ { W with vregs := c.W.vregs, preds := c.W.preds } = c.W ∧
    (∀ l n, l < 64 → n < 256 → (named ds .vec n && part.has l) = false → W.reg l n = c.W.reg l n) ∧
    (∀ p l, l < 64 → (named ds .pred p && part.has l) = false → (W.pred p).has l = (c.W.pred p).has l)
  frag     : ∃ F, t.frag? c.f = some F ∧
    { F with pc := c.F.pc, runCount := c.F.runCount, rwc := c.F.rwc, gathered := c.F.gathered, ahead := c.F.ahead, scal := c.F.scal,
             tmp := c.F.tmp, tmpValid := c.F.tmpValid, mode := c.F.mode, late := c.F.late } = c.F ∧
    F.pc = c.F.pc + BitVec.ofNat 64 c.len ∧
    (∀ n, named ds .scal n = false → F.scalar n = c.F.scalar n) ∧
    (∀ n, n < 8 → named ds .tmp n = false → Tbl.get 0 F.tmp n = Tbl.get 0 c.F.tmp n ∧ F.tmpValid.getLsbD n = c.F.tmpValid.getLsbD n) ∧
    F.mode &&& ~~~(0x3E000 : Word) = c.F.mode &&& ~~~(0x3E000 : Word) ∧ (flags = false → F.mode = c.F.mode)

/-- D has received a value that `P` allows for each lane: in the participating lanes of a vector register, each with its tag; once, as for
lane 0, in a scalar register or a temporary, which becomes valid (R26, R27). -/
def Receives (c : Ctx) (t : State) (d : Operand) (part : Mask) (P : Nat → Word → Prop) (tag : Nat → Tag) : Prop :=
  (d.cls = .vec → ∀ l, part.has l = true → P l (t.vreg c.w l d.num.toNat).val ∧ (t.vreg c.w l d.num.toNat).tag = tag l) ∧
  (d.cls = .scal → P 0 (t.scalarOf c.f d.num.toNat)) ∧
  (d.cls = .tmp → d.num.toNat < 8 → P 0 (t.tmpOf c.f d.num.toNat).1 ∧ (t.tmpOf c.f d.num.toNat).2 = true)

/-- MODE's sticky flags have gained `X`, and nothing else of MODE has changed (R170, R179). -/
def Raises (c : Ctx) (t : State) (X : FFlags) : Prop := ∃ F, t.frag? c.f = some F ∧ F.mode = modeOrFlags c.F.mode X

/-- Predicate D has received, in each participating lane, what `val` says. Writing p0 has no effect (R24). -/
def ReceivesPred (c : Ctx) (t : State) (p : Nat) (part : Mask) (val : Nat → Bool) : Prop :=
  p ≠ 0 → ∀ l, l < 64 → part.has l = true → (t.predOf c.w p).has l = val l

end Machine

end Sys2Proof
end

