-- ==== Sys2Proof/Certificates/Slice0/Obligations.lean ====
section
/-! DEFINITION. Certificates/Slice0/Obligations.lean: the statements for the provers. -/

namespace Sys2Proof.Claims

open Sys2Proof.Machine

/-! ## Terms of the statements -/

/-- Instruction `i` completes from `s`: `exec` answers a next state in which only `ds` (in the lanes of `part`) and, under `flags`, MODE's sticky
flags have changed, and of which `P` holds. -/
def Completes (s : State) (c : Ctx) (i : Instr) (ds : List Operand) (part : Mask) (flags : Bool) (P : State → Prop) : Prop :=
  ∃ t, exec i s = .next t ∧ OnlyWrites c s t ds part flags ∧ P t

/-- The base forms on vector registers, and what each makes of A (R37). -/
def baseForms (w : BaseWord) (lit : Word) : List (Instr × (VReg → VReg)) :=
  let imm : Word := w.x.zeroExtend 64
  [(.iaddBase w, fun a => ⟨a.val + imm, 1⟩), (.iaddBaseLit w lit, fun a => ⟨a.val + lit, 1⟩),
   (.isubBase w, fun a => ⟨a.val - imm, 1⟩), (.isubBaseLit w lit, fun a => ⟨a.val - lit, 1⟩),
   (.andBase w, fun a => ⟨a.val &&& imm, a.tag⟩), (.andBaseLit w lit, fun a => ⟨a.val &&& lit, a.tag⟩),
   (.orBase w, fun a => ⟨a.val ||| imm, a.tag⟩), (.orBaseLit w lit, fun a => ⟨a.val ||| lit, a.tag⟩),
   (.xorBase w, fun a => ⟨a.val ^^^ imm, a.tag⟩), (.xorBaseLit w lit, fun a => ⟨a.val ^^^ lit, a.tag⟩),
   (.shlBase w, fun a => ⟨BitVec.ofNat 64 (a.val.toNat * 2 ^ min imm.toNat 64), 1⟩),
   (.shlBaseLit w lit, fun a => ⟨BitVec.ofNat 64 (a.val.toNat * 2 ^ min lit.toNat 64), 1⟩),
   (.shrBase w, fun a => ⟨BitVec.ofNat 64 (a.val.toNat / 2 ^ min imm.toNat 64), 1⟩),
   (.shrBaseLit w lit, fun a => ⟨BitVec.ofNat 64 (a.val.toNat / 2 ^ min lit.toNat 64), 1⟩),
   (.sarBase w, fun a => ⟨BitVec.ofInt 64 (a.val.toInt / 2 ^ min imm.toNat 63), 1⟩),
   (.sarBaseLit w lit, fun a => ⟨BitVec.ofInt 64 (a.val.toInt / 2 ^ min lit.toNat 63), 1⟩),
   (.notBase w, fun a => ⟨a.val ^^^ BitVec.allOnes 64, a.tag⟩),
   (.popcBase w, fun a => ⟨BitVec.ofNat 64 (popcount 64 a.val.toNat), 1⟩), (.clzBase w, fun a => ⟨BitVec.ofNat 64 (leadingZeros 64 a.val.toNat), 1⟩),
   (.ctzBase w, fun a => ⟨BitVec.ofNat 64 (trailingZeros 64 a.val.toNat), 1⟩),
   (.brevBase w, fun a => ⟨BitVec.ofNat 64 (reverseBits 64 a.val.toNat), a.tag⟩), (.movBase w, fun a => a),
   (.movlBaseLit w lit, fun _ => ⟨lit, w.x⟩)]

/-- The arithmetic instructions: their number of sources and their exact operations (R188). -/
def intOps (x : ExtWord) : List (Instr × Nat × (Int → Int → Int → Int)) :=
  [(.iadd x, 2, fun a b _ => a + b), (.isub x, 2, fun a b _ => a - b), (.imul x, 2, fun a b _ => a * b),
   (.imulh x, 2, fun a b _ => a * b / 2 ^ tagWidth x.tag), (.imad x, 3, fun a b c => a * b + c),
   (.idiv x, 2, fun a b _ => if b = 0 then 2 ^ tagWidth x.tag - 1 else a.tdiv b), (.irem x, 2, fun a b _ => if b = 0 then a else a - b * a.tdiv b),
   (.imin x, 2, fun a b _ => min a b), (.imax x, 2, fun a b _ => max a b), (.iabs x, 1, fun a _ _ => (a.natAbs : Int)), (.ineg x, 1, fun a _ _ => -a)]

/-- Lo and Hi of R188, and the clamp between them. -/
def clampTo (w : Nat) (sg : Bool) (v : Int) : Int :=
  if sg then max (-(2 ^ (w - 1))) (min v (2 ^ (w - 1) - 1)) else max 0 (min v (2 ^ w - 1))

/-- The bitwise instructions, shifts, counts and bit fields: their number of sources and their result elements (R190, R191). -/
def bitOps (x : ExtWord) : List (Instr × Nat × (Nat → Nat → Nat → Nat)) :=
  let w := tagWidth x.tag
  [(.and x, 2, fun a b _ => a &&& b), (.or x, 2, fun a b _ => a ||| b), (.xor x, 2, fun a b _ => a ^^^ b), (.not x, 1, fun a _ _ => 2 ^ w - 1 - a),
   (.andn x, 2, fun a b _ => a &&& (2 ^ w - 1 - b)), (.blut x, 3, lutOp (x.sub.toNat * 16 + x.x.toNat) w),
   (.shl x, 2, fun a b _ => a * 2 ^ min b w), (.shr x, 2, fun a b _ => a / 2 ^ min b w),
   (.sar x, 2, fun a b _ => wrap w (toSigned w a / 2 ^ min b (w - 1))),
   (.rot x, 2, fun a b _ => rotl w a (if x.sub.getLsbD 0 then w - b % w else b % w)),
   (.fshl x, 3, fun a b c => (a * 2 ^ w + b) * 2 ^ (c % w) / 2 ^ w), (.fshr x, 3, fun a b c => (a * 2 ^ w + b) / 2 ^ (c % w)),
   (.popc x, 1, fun a _ _ => popcount w a), (.clz x, 1, fun a _ _ => leadingZeros w a), (.ctz x, 1, fun a _ _ => trailingZeros w a),
   (.brev x, 1, fun a _ _ => reverseBits w a), (.bfx x, 2, bfxOp (x.mod.getLsbD 0) w), (.bfi x, 3, bfiOp w)]

/-- The predicate instructions and the lanes in which each makes D true (R197). -/
def predOps (c : Ctx) (x : ExtWord) : List (Instr × (Nat → Bool)) :=
  let a (l : Nat) : Bool := (c.W.pred x.a.num.toNat).has l ^^ x.mod.getLsbD 0
  let b (l : Nat) : Bool := (c.W.pred x.b.num.toNat).has l ^^ x.mod.getLsbD 1
  [(.pand x, fun l => a l && b l), (.por x, fun l => a l || b l), (.pxor x, fun l => a l ^^ b l),
   (.pnot x, fun l => !(c.W.pred x.a.num.toNat).has l), (.pmov x, fun l => (c.W.pred x.a.num.toNat).has l),
   (.pset x, fun l => match x.a.cls with
     | .scal => (c.F.scalar x.a.num.toNat).getLsbD l
     | .vec => (c.W.reg l x.a.num.toNat).val != 0
     | _ => c.bits x x.a 1 l != 0)]

/-- The six conditions of ICMP (R193). -/
def compares (k : Nat) (a b : Int) : Prop :=
  (k = 0 ∧ a = b) ∨ (k = 1 ∧ a ≠ b) ∨ (k = 2 ∧ a < b) ∨ (k = 3 ∧ a ≤ b) ∨ (k = 4 ∧ a > b) ∨ (k = 5 ∧ a ≥ b)

/-- An instruction that computes the elements of D from the elements of its sources: its sources, the width of D's elements, what element `e` of
lane `l` becomes, with the exceptions it raises, and D's tag. -/
structure Elementwise where
  instr  : Instr
  srcs   : List Src
  width  : Nat
  result : Nat → List Word → Nat → Nat × FFlags
  tag    : Tag

/-- The elements of a lane's sources in a format, flushed under FTZ (R175, R212). -/
def elemVals (f : Fmt) (ftz : Bool) (vs : List Word) (e k : Nat) : Val := f.read ftz (elem f.w (nth vs k) e)

/-- Floating-point arithmetic, FMIN and FMAX, FRND and the functions (R215, R216, R220, R222). -/
def floatOps (c : Ctx) (x : ExtWord) : List Elementwise :=
  let f := fmtAt x.tag
  let z := modeFTZ c.F.mode
  let v := elemVals f z
  let rnd := x.rnd.toNat
  let unary (i : Instr) (op : Nat) : Elementwise :=
    ⟨i, srcsIn x 1 x.tag, f.w, fun _ vs e => f.func x.tag z op rnd (elem f.w (nth vs 0) e), x.fmt⟩
  [⟨.fadd x, srcsIn x 2 x.tag, f.w, fun _ vs e => roundOp x f z [v vs e 0, v vs e 1] (addVal rnd (v vs e 0) (v vs e 1), 0), x.fmt⟩,
   ⟨.fsub x, srcsIn x 2 x.tag, f.w, fun _ vs e => roundOp x f z [v vs e 0, v vs e 1] (addVal rnd (v vs e 0) (minus (v vs e 1)), 0), x.fmt⟩,
   ⟨.fmul x, srcsIn x 2 x.tag, f.w, fun _ vs e => roundOp x f z [v vs e 0, v vs e 1] (mulVal (v vs e 0) (v vs e 1), 0), x.fmt⟩,
   ⟨.ffma x, srcsIn x 3 x.tag, f.w, fun _ vs e => roundOp x f z [v vs e 0, v vs e 1, v vs e 2] (fmaVal rnd (v vs e 0) (v vs e 1) (v vs e 2)), x.fmt⟩,
   ⟨.fmin x, srcsIn x 2 x.tag, f.w, fun _ vs e => ((f.convert false 0 false 0 (minMaxVal false (x.mod.getLsbD 0) (v vs e 0) (v vs e 1))).1,
     sigFlag [v vs e 0, v vs e 1]), x.fmt⟩,
   ⟨.fmax x, srcsIn x 2 x.tag, f.w, fun _ vs e => ((f.convert false 0 false 0 (minMaxVal true (x.mod.getLsbD 0) (v vs e 0) (v vs e 1))).1,
     sigFlag [v vs e 0, v vs e 1]), x.fmt⟩,
   ⟨.frnd x, srcsIn x 1 x.tag, f.w, fun _ vs e => ((f.convert false 0 false 0 (integral rnd (v vs e 0))).1, sigFlag [v vs e 0]), x.fmt⟩,
   unary (.fexf x) 0x49, unary (.flog2 x) 0x4C, unary (.frcp x) 0x4D, unary (.frsq x) 0x4E, unary (.fsqrt x) 0x4F, unary (.fsin x) 0x50,
   unary (.fcos x) 0x51, unary (.ftanh x) 0x52]

/-- Dot products, scaling, exponents, masks and classes in registers, conversions and PACK (R217 to R226). The conversions have D's old bits as a
second source. -/
def convertOps (c : Ctx) (x : ExtWord) : List Elementwise :=
  let f := fmtAt x.tag
  let z := modeFTZ c.F.mode
  let v := elemVals f z
  let w := tagWidth x.tag
  let converted (conv : Nat → Nat → Nat → Nat × FFlags) (l : Nat) (vs : List Word) (e : Nat) : Nat × FFlags :=
    match cvtSource (tagCount x.tag) (tagCount x.sub.toNat) x.x.toNat e with
    | some k => conv l e (elem (tagWidth x.sub.toNat) (nth vs 0) k)
    | none => (if x.mod.getLsbD 1 then 0 else elem w (nth vs 1) e, 0)
  let old : List Src := [src 1 x.a x.sub.toNat, rawSrc 0 x.d 0]
  let fset : List Elementwise := if x.d.cls = .pred then [] else
    [⟨.fset x, srcsIn x 2 x.tag, f.w, fun _ vs e => let r := fcond (x.sub &&& 7).toNat (v vs e 0) (v vs e 1); (if r.1 then 2 ^ f.w - 1 else 0, r.2),
      BitVec.ofNat 4 (intTagOf x.tag)⟩]
  let cvt : List Elementwise := if x.rnd = 5 then [] else [⟨.cvt x, old, w, converted (convFF x c), x.fmt⟩]
  fset ++ cvt ++
  [⟨.fdot2 x, [src 1 x.a x.tag, src 2 x.b x.tag, src 3 x.c 6], 32, fun _ vs e => dotElem x z f f 2 vs e, 6⟩,
   ⟨.fdot4 x, [src 1 x.a x.tag, src 2 x.b (if x.mod.getLsbD 0 then 19 - x.tag else x.tag), src 3 x.c 6], 32,
     fun _ vs e => dotElem x z f (fmtAt (if x.mod.getLsbD 0 then 19 - x.tag else x.tag)) 4 vs e, 6⟩,
   ⟨.fxpi x, [src 1 x.a x.tag, src 2 x.b (intTagOf x.tag)], f.w,
     fun _ vs e => roundOp x f z [v vs e 0] (.val ((v vs e 0).scale (nearExp (elemInt f.w true (nth vs 1) e))), 0), x.fmt⟩,
   ⟨.fgetx x, [src 1 x.a x.tag], f.w, fun _ vs e => fgetxOp (x.mod.getLsbD 0) f z [v vs e 0],
     if x.mod.getLsbD 0 then x.fmt else BitVec.ofNat 4 (intTagOf x.tag)⟩,
   ⟨.cvti x, old, w, converted (convFI x c), x.fmt⟩, ⟨.cvtf x, old, w, converted (convIF x c), x.fmt⟩,
   ⟨.pack x, srcsIn x 2 x.sub.toNat, w, fun _ vs e =>
     packElem x z (elem (tagWidth x.sub.toNat) (nth vs (e / tagCount x.sub.toNat)) (e % tagCount x.sub.toNat)), x.fmt⟩]

/-- An element of CVT.SR's result (R181, R224). -/
def stochastic (c : Ctx) (x : ExtWord) (l : Nat) (vs : List Word) (e : Nat) : Nat × FFlags :=
  match cvtSource (tagCount x.tag) (tagCount x.sub.toNat) x.x.toNat e with
  | some k => convFF x c l e (elem (tagWidth x.sub.toNat) (nth vs 0) k)
  | none => (if x.mod.getLsbD 1 then 0 else elem (tagWidth x.tag) (nth vs 1) e, 0)

/-- The exceptions that a lane of such an instruction raises: those of its sources' conversions and those of its elements. -/
def Elementwise.flags (p : Elementwise) (c : Ctx) (x : ExtWord) (l : Nat) : FFlags :=
  (c.values x p.srcs l).2 ||| (List.range (64 / p.width)).foldl (fun fl e => fl ||| (p.result l (c.values x p.srcs l).1 e).2) 0

/-- Such an instruction completes: every element of D is its result, MODE gains the exceptions of the lanes, nothing else changes. -/
def Elementwise.completes (p : Elementwise) (s : State) (c : Ctx) (x : ExtWord) : Prop :=
  Ready s c p.instr → c.tagTrap (c.lanesOf x) p.srcs = none → c.fpTrap (c.lanesOf x) (p.flags c x) = none →
    Completes s c p.instr [x.d] (c.part x) true (fun t =>
      Receives c t x.d (c.part x) (fun l v => ∀ e, e < 64 / p.width → elem p.width v e = (p.result l (c.values x p.srcs l).1 e).1 % 2 ^ p.width)
        (fun _ => p.tag) ∧
      Raises c t ((c.lanesOf x).foldl (fun fl l => fl ||| p.flags c x l) 0))

/-- A cross-lane instruction executes on its own fragment at once: it names no MINW, or the fragment is in a handler, or it has been gathered,
or is late at the window (R35, R354, R359, R361). -/
def Direct (c : Ctx) (x : ExtWord) : Prop :=
  x.minw = 0 ∨ c.F.save.isSome = true ∨ c.F.gathered = true ∨ (x.win = true ∧ c.F.lateAt c.F.pc = true)

/-- D and the predicate that MOD names, if it names one (R231). -/
def withPred (x : ExtWord) : List Operand := if x.mod.getLsbD 5 then [x.d, ⟨.pred, (x.mod &&& 31).zeroExtend 8⟩] else [x.d]

/-- The permutations and the lane and element that each element of D comes from (R232, R233). -/
def permutations (x : ExtWord) : List (Instr × (Ctx → Nat → Nat → Option (Nat × Nat))) :=
  [(.shfl x, shflPick x), (.shflx x, shflxPick x), (.shup x, shiftPick x true), (.shdn x, shiftPick x false),
   (.bcst x, fun c l _ => bcstPick x c l)]

/-- No outstanding instruction of the wave is to write a vector register of these blocks (R167). -/
def Unawaited (s : State) (c : Ctx) (blocks : BitVec 8) : Prop :=
  ∀ e ∈ s.pend, e.2.wave = c.w → ∀ n k, (e.2.dst = .vec n k ∨ ∃ p, e.2.dst = .both n k p) → ∀ i, i < k → blocks.getLsbD ((n + i) / 32) = false

/-- The transfers to the targets of lanes: BRA, BRX and RETN, each with its lanes' targets and whether a failing target names lanes of its own
(R198 to R200). -/
def transfers (c : Ctx) (x : ExtWord) : List (Instr × (Nat → Word) × Bool) :=
  [(.bra x, fun _ => c.F.pc + c.bits x x.a 0 0, false), (.brx x, c.bits x x.a 0, x.a.cls == .vec), (.retn x, fun _ => c.F.scalar x.a.num.toNat, false)]

/-- The fragment has taken a trap into its handler (R385): the trap registers, the trap save, invalid temporaries, MODE's trap enables clear with its
other bits kept, the handler's first instruction next; its registers, lanes, GANG and late marks, and every wave, as they were. -/
def Entered (c : Ctx) (t : State) (cause : Nat) (tpc tval : Word) (tmask : Mask) (runCount : Nat) : Prop :=
  ∃ F, t.frag? c.f = some F ∧ F.tcause = BitVec.ofNat 64 cause ∧ F.tpc = tpc ∧ F.tval = tval ∧ F.tmask = tmask ∧
    F.save = some ⟨c.F.tmp, c.F.tmpValid, runCount, c.F.mode, c.F.target⟩ ∧ F.tmpValid = 0 ∧ F.runCount = 0 ∧
    F.mode = c.F.mode &&& ~~~(0x7C : Word) ∧ F.pc = c.T.task.entry + c.T.task.handler.signExtend 64 ∧ F.fstate = .ready ∧ F.await = 0 ∧
    F.scal = c.F.scal ∧ F.active = c.F.active ∧ F.gang = c.F.gang ∧ F.late = c.F.late

/-- What the order checks of a run answer before an instruction's effect (R41, R43, R44): the subcode of Illegal Run. -/
def runSubcode (c : Ctx) (i : Instr) (next : Option (BitVec 32)) : Option Nat :=
  let seam := match i with | .seam _ => true | _ => false
  let badSeam := match next with | some v => v.extractLsb' 0 2 != 0 || v.extractLsb' 4 8 != 1 || v.extractLsb' 29 3 != 0 | none => true
  if 24 ≤ c.F.runCount ∧ seam = false then some 1
  else if isTransfer i = true ∧ badSeam = true then some 2
  else if isHold i = true ∧ c.F.runCount ≠ 0 then some 4
  else if ∃ n ∈ tmpReads i, c.F.tmpValid.getLsbD n = false then some 5
  else none

/-- No record of the instruction is kept for a profiler: its grid is neither traced nor sampled (R430, R431). -/
def Unprofiled (s : State) (c : Ctx) : Prop := s.prof.traced.contains c.T.grid = false ∧ s.prof.grids.contains c.T.grid = false

/-- The instruction has passed and no register or byte of memory has changed yet: every vector register, predicate, scalar register and temporary and
ACTIVE as they were, and MODE as it is given. -/
def Passed (c : Ctx) (s t : State) (mode : Word) : Prop :=
  (∀ a, t.byte a = s.byte a) ∧ (∀ w l n, t.vreg w l n = s.vreg w l n) ∧ (∀ w p, t.predOf w p = s.predOf w p) ∧
  ∃ F, t.frag? c.f = some F ∧ F.pc = c.F.pc + BitVec.ofNat 64 c.len ∧ F.rwc = c.F.rwc + 1 ∧ F.scal = c.F.scal ∧ F.tmp = c.F.tmp ∧
    F.active = c.F.active ∧ F.mode = mode

/-- The instruction has passed, and MODE is as it was too. -/
def PassedUnchanged (c : Ctx) (s t : State) : Prop := Passed c s t c.F.mode

/-- The fragment waits, BLOCKED at its instruction, and nothing else has changed. -/
def Waits (c : Ctx) (s t : State) : Prop :=
  ∃ F, t.frag? c.f = some F ∧ F = { c.F with fstate := .blocked } ∧ t.waves = s.waves ∧ t.teams = s.teams ∧ t.pend = s.pend ∧ ∀ a, t.byte a = s.byte a

/-- The loads, with their space and whether they read through the constant cache (R121, R124). -/
def loads (x : ExtWord) : List (Instr × Bool × Bool) := [(.ld x, false, false), (.lds x, true, false), (.ldc x, false, true)]

/-- The bytes that an access of SUB's size moves (R119). -/
def accessBytes (x : ExtWord) : Nat := 2 ^ (x.sub &&& 7).toNat

/-- No failure of a remote store waits to be reported, and no remote store of the wave is outstanding (R325). -/
def RemoteQuiet (s : State) (c : Ctx) : Prop := c.W.failed = [] ∧ s.remoteStores c.w c.W = false

/-- What a push reads (R134), and whether its tile descriptor could be read. -/
def pushOf (kind : Nat) (x : ExtWord) (c : Ctx) : Push × Bool :=
  let regs := (List.range (regsOf kind)).map (fun i => c.F.scalar (x.a.num.toNat + i))
  let at_ := regs.getD 1 0
  let there := kind == 0x99 && at_.toNat % 64 == 0 && (scratchFault c.T at_ 64 false).isNone
  (⟨kind, x, regs, if x.b.cls == .scal then c.F.scalar x.b.num.toNat else 0, if there then readBytes c.T.scratch at_.toNat 64 else []⟩, there)

/-- The copies with their kinds (R138). -/
def copies (x : ExtWord) : List (Instr × Nat) := [(.cpy x, 0x98), (.cpyt x, 0x99), (.cpym x, 0x9A), (.cpyr x, 0x9B), (.cpyg x, 0x9C)]

/-- The instruction is outstanding under identity `id`, on its token, with its destination and its lanes. -/
def Outstanding (c : Ctx) (t : State) (id tok : Nat) (dst : Dest) (lanes : Mask) : Prop :=
  ∃ P, Tbl.find t.pend id = some P ∧ P.wave = c.w ∧ P.tok = tok ∧ P.dst = dst ∧ P.lanes = lanes ∧ P.own = heldLanes c.W c.F

/-- A matrix instruction of one wave: its context, slots and region or the trap of its operands, the registers it captures, whether it must not
read poison, the lanes of its token, its destination (R255 to R259). -/
structure Solo where
  instr : Instr
  place : Except Trap (Nat × List Nat × Nat)
  srcs  : List Src
  clean : Bool
  lanes : Mask
  dst   : Dest

/-- The matrix instructions of one wave but OMCLAIM, OMREL and ACCST. -/
def soloOps (c : Ctx) (x : ExtWord) : List Solo :=
  let slot := (slotOperand c x x.b).map (fun k => (2, [k], 0))
  let region := (regionOperand c x x.c).map (fun r => (contextOf r, ([] : List Nat), r))
  let held := heldLanes c.W c.F
  let d := x.d.num.toNat
  [⟨.omfill x, slot, srcRow 1 x.a (x.sub.toNat + 1) x.tag, false, held, .none⟩, ⟨.omread x, slot, [], true, c.part x, .vec d (x.sub.toNat + 1)⟩,
   ⟨.accz x, region, [], false, held, .none⟩, ⟨.accrd x, region, [], true, c.part x, .vec d (accRegs x.tag x.x.toNat)⟩,
   ⟨.accred x, region, [], true, c.part x, .vec d 1⟩, ⟨.accwr x, region, srcRow 1 x.a (accRegs x.tag x.x.toNat) x.tag, false, held, .none⟩,
   ⟨.accsc x, region, [src 1 x.a 6], false, held, .none⟩]

/-- The fragment would join this rendezvous: one of its team on its core, where its wave does not stand yet and whose gang names its wave (R246). -/
def joins (s : State) (c : Ctx) (k : Clasp) : Bool :=
  k.core == c.W.core && k.team == c.t && k.arrived.all (fun m => m.1 != c.w) &&
    (match k.arrived.head? with
     | some m => (match s.wave? m.1 with | some W => (gangOf k.gang W.idx).contains c.W.idx | none => false)
     | none => false)

/-- The fragment stands at a meeting: MEETING at its instruction, and nothing else has changed. -/
def Meets (c : Ctx) (s t : State) : Prop :=
  (∃ F, t.frag? c.f = some F ∧ F.fstate = .meeting ∧ { F with fstate := c.F.fstate, meet := c.F.meet, ahead := c.F.ahead } = c.F) ∧
  (∀ f, f ≠ c.f → t.frag? f = s.frag? f) ∧ t.waves = s.waves ∧ t.teams = s.teams ∧ t.pend = s.pend ∧ t.mx.entries = s.mx.entries ∧
  ∀ a, t.byte a = s.byte a

/-- A member of the gang that is in no handler has taken a trap at its instruction into the handler (R247, R385). -/
def GangTrapped (c : Ctx) (s t : State) (f cause : Nat) (tval : Word) : Prop :=
  ∀ F, s.frag? f = some F → F.save = none → ∃ G, t.frag? f = some G ∧ G.tcause = BitVec.ofNat 64 cause ∧ G.tpc = F.pc ∧ G.tval = tval ∧
    G.tmask = F.active ∧ G.save.isSome = true ∧ G.pc = c.T.task.entry + c.T.task.handler.signExtend 64 ∧ G.scal = F.scal ∧ G.active = F.active

/-- The operations on an instance, with their codes and arguments (R277). -/
def instanceOps (c : Ctx) (x : ExtWord) : List (Instr × Nat × Nat) :=
  [(.rccfgLoad x, 0, (c.F.scalar x.a.num.toNat).toNat), (.rccfgDrop x, 1, x.sub.toNat), (.rccfgPause x, 2, x.sub.toNat), (.rccfgRun x, 3, x.sub.toNat),
   (.rcgen x, 4, x.sub.toNat), (.rcstat x, 5, x.sub.toNat)]

/-- The sources that RCQ (or RCT, with its targets and weight) reads for an instance. -/
def cacheSources (x : ExtWord) (i : Instance) (sample : Bool) : List Src := rcSources x i.cfg.naux i.cfg.nout sample

/-- The wave holds the registers that RCQ or RCT reads only under some records (R272). -/
def Holding (s : State) (c : Ctx) (i : Instr) : Prop := ∀ r ∈ s.recordUses i, c.W.holds r.1 = true

/-- What RCQ and RCT need: an open instance of the team's address space, registers that are held, sources of the right tags, no enabled exception of
their conversion, and no acquire outstanding (R272, R282). -/
structure CacheReady (s : State) (c : Ctx) (x : ExtWord) (i : Instance) (sample : Bool) : Prop where
  part    : c.part x ≠ 0
  free    : s.acquiring c.w s.nextId (heldLanes c.W c.F) = false
  inst    : s.openInst (instOf x) = some i
  asid    : i.asid = c.T.asid
  blocks  : Holding s c (if sample then .rct x else .rcq x)
  tags    : c.tagTrap (c.part x).lanes (cacheSources x i sample) = none
  calm    : c.fpTrap (c.part x).lanes (fun l => (c.values x (cacheSources x i sample) l).2) = none

/-- MODE after the sources of RCQ or RCT are read: with the exceptions of their conversions (R178). -/
def readMode (c : Ctx) (x : ExtWord) (i : Instance) (sample : Bool) : Word :=
  modeOrFlags c.F.mode ((c.part x).lanes.foldl (fun m l => m ||| (c.values x (cacheSources x i sample) l).2) 0)

/-- RCQ or RCT, with its sources read, meets an instance that is not open, or of another address space: the trap (R282). -/
def InstanceFault (s : State) (c : Ctx) (x : ExtWord) (sample : Bool) (t : Trap) : Prop :=
  let k := instOf x
  let i := s.openInst k
  let srcs := rcSources x ((i.map (fun i => i.cfg.naux)).getD 0) ((i.map (fun i => i.cfg.nout)).getD 3) sample
  c.part x ≠ 0 ∧ s.acquiring c.w s.nextId (heldLanes c.W c.F) = false ∧ Holding s c (if sample then .rct x else .rcq x) ∧
  c.tagTrap (c.part x).lanes srcs = none ∧ c.fpTrap (c.part x).lanes (fun l => (c.values x srcs l).2) = none ∧
  ((i = none ∧ t = ⟨0x07, tvalSub 8 k, c.part x, none, false, []⟩) ∨
   (∃ y, i = some y ∧ y.asid ≠ c.T.asid ∧ t = ⟨0x07, tvalSub 9 k, c.part x, none, false, []⟩))

/-- The sample of a lane (R272, R274, R275), with `t2` where the spec gives no source of it. -/
def cacheSample (s : State) (c : Ctx) (x : ExtWord) (i : Instance) (t2 : BitVec 32) (l : Nat) : Sample :=
  let vs := (c.values x (cacheSources x i true) l).1
  let at_ (r e : Nat) : BitVec 32 := BitVec.ofNat 32 (elem 32 (nth vs r) e)
  let b := if 2 < i.cfg.naux then 4 else 3
  { input := rcInput i.cfg.naux vs, targets := [at_ b 0, at_ b 1] ++ (if i.cfg.nout = 4 then [at_ (b + 1) 0, at_ (b + 1) 1] else [t2])
    weight := at_ (if i.cfg.nout = 4 then b + 2 else b + 1) 0
    key := [s.nodeOf c.T, c.T.id, c.W.idx % 2 ^ 16, l, Tbl.get 0 c.W.samples (instOf x * 64 + l)] }

/-- Operation `o` has its answer: S[D] of the fragments that hold its lanes, or lanes that came from theirs, and its token is complete. -/
def Answered (s t : State) (o : RcOp) (id : Nat) (P : Pend) (d v : Nat) : Prop :=
  Tbl.find t.pend o.pend = none ∧ Tbl.find t.rc.ops id = none ∧
  ∀ f F W, s.frag? f = some F → s.wave? P.wave = some W → F.wave = P.wave → heldLanes W F &&& P.own ≠ 0 →
    ∃ G, t.frag? f = some G ∧ G.scalar d = BitVec.ofNat 64 v

/-- The fragment passes, and registers and memory are as they were but for what `P` says of scalar register D. -/
def PassesWith (c : Ctx) (s t : State) (d : Nat) (v : Word) : Prop :=
  (∀ a, t.byte a = s.byte a) ∧ (∀ w l n, t.vreg w l n = s.vreg w l n) ∧ (∀ w p, t.predOf w p = s.predOf w p) ∧
  ∃ F, t.frag? c.f = some F ∧ F.pc = c.F.pc + BitVec.ofNat 64 c.len ∧ F.active = c.F.active ∧ F.mode = c.F.mode ∧
    ∀ n, F.scalar n = if n = d then v else c.F.scalar n

/-- A ray or query as TRACE and RQINIT start it in a lane (R294, R296). -/
def started (c : Ctx) (x : ExtWord) (inline : Bool) (pend l : Nat) (j : RayJob) : Prop :=
  j.inline = inline ∧ j.wave = c.w ∧ j.lane = l ∧ j.pend = pend ∧ j.desc = c.F.scalar x.b.num.toNat ∧ j.ray = rayOf (c.values x (raySources x) l).1 ∧
  j.ctl = (c.count x x.c).toNat % 2 ^ 15 ∧ j.hit = none ∧ j.cand = none ∧ j.failed = false ∧ j.stage = .fresh

/-- The lane has an open inline query, whose instruction is complete. -/
def openQuery (s : State) (c : Ctx) (l : Nat) : Bool := match s.query? c.w l with | some (_, j) => j.stage == .idle | none => false

/-- A ray's registers as TRACE reads them (R296). -/
def rayRegister (r : Ray) (i : Nat) : VReg :=
  let pair (a b : BitVec 32) : VReg := ⟨b ++ a, 6⟩
  match i with
  | 0 => pair (r.org.getD 0 0) (r.org.getD 1 0)
  | 1 => pair (r.org.getD 2 0) r.tmin
  | 2 => pair (r.dir.getD 0 0) (r.dir.getD 1 0)
  | _ => pair (r.dir.getD 2 0) r.tmax

/-- The attributes of a hit, with the ray's registers (R303). -/
def hitValue (h : Hit) (r : Ray) (sel : Nat) : VReg :=
  let pair (a b : Nat) : Word := BitVec.ofNat 32 b ++ BitVec.ofNat 32 a
  match sel with
  | 0 => ⟨pair h.t.toNat 0, 6⟩
  | 1 => ⟨pair h.u.toNat h.v.toNat, 6⟩
  | 2 => ⟨pair h.prim h.geom, 2⟩
  | 3 => ⟨pair h.iid h.inst, 2⟩
  | 4 => ⟨pair (if h.front then 1 else 2) h.entry, 2⟩
  | k => rayRegister r (k - 5)

/-- The rays' identities rise, and no inline query is a ray whose shader runs. -/
def RaysApart (s : State) : Prop :=
  (s.gfx.rays.map Prod.fst).Pairwise (· < ·) ∧ ∀ e ∈ s.gfx.rays, e.2.inline = true → ∀ k w l, e.2.stage ≠ .shading k w l

/-- The registers that TRACE's result goes to, with pS where it is named (R294). -/
def traceDest (x : ExtWord) : Dest :=
  match predOfMod x with
  | some p => if x.x.toNat = 0 then .pred p else .both x.d.num.toNat x.x.toNat p
  | none => if x.x.toNat = 0 then .none else .vec x.d.num.toNat x.x.toNat

/-- A triangle as MSHEMIT emits it in a lane (R310). -/
def emitted (c : Ctx) (x : ExtWord) (l : Nat) : Tri :=
  let vs := (c.values x (meshSources x) l).1
  let e (i h : Nat) : BitVec 32 := BitVec.ofNat 32 (elem 32 (vs.getD i 0) h)
  ⟨[e 0 0, e 0 1, e 1 0, e 1 1, e 2 0, e 2 1], [e 3 0, e 3 1, e 4 0], if x.c.cls == .vec then e 5 0 else (c.count x x.c).truncate 32⟩

/-- The fragment passes with registers and memory as they were, but for `v` in scalar register `d` and the bytes that `mem` gives. -/
def PassesStoring (c : Ctx) (s t : State) (d : Option (Nat × Word)) (mem : Nat → Option Byte) : Prop :=
  (∀ a, t.byte a = (mem a).getD (s.byte a)) ∧ (∀ w l n, t.vreg w l n = s.vreg w l n) ∧ (∀ w p, t.predOf w p = s.predOf w p) ∧
  ∃ F, t.frag? c.f = some F ∧ F.pc = c.F.pc + BitVec.ofNat 64 c.len ∧ F.active = c.F.active ∧ F.mode = c.F.mode ∧
    ∀ n, F.scalar n = match d with | some e => if n = e.1 then e.2 else c.F.scalar n | none => c.F.scalar n

/-- No WAIT.A is registered for the sector of an address. -/
def NoWaitAt (s : State) (pa : Nat) : Prop := ∀ e ∈ s.path.waits, e.2.pa / 32 ≠ pa / 32

/-- The instructions that may name a MINW (R35). -/
def gathering (x : ExtWord) : List Instr :=
  [.elect x, .shfl x, .shflx x, .shup x, .shdn x, .bcst x, .vote x, .matchv x, .redw x, .scanw x, .omclaim x, .omrel x, .omfill x, .omread x,
   .accz x, .accrd x, .accred x, .accwr x, .accsc x, .accst x, .mma x, .mmas x]

/-- Every byte of memory and every register of the waves and teams is as it was, and so are all other fragments than `f`. -/
def Still (f : Nat) (s t : State) : Prop :=
  t.mem = s.mem ∧ t.poison = s.poison ∧ t.waves = s.waves ∧ t.teams = s.teams ∧ t.pend = s.pend ∧ ∀ k, k ≠ f → t.frag? k = s.frag? k

/-- `exec` answers a next state: one of which `P` holds where the time for it has come, and the state as it is before. -/
def Timed (s : State) (i : Instr) (come : Prop) (P : State → Prop) : Prop := ∃ t, exec i s = .next t ∧ ((come ∧ P t) ∨ (¬come ∧ t = s))

/-- The owner's request `q` is accepted: the device is READY, the lease has not lapsed, the session is the owner's and SEQ is new (R441 to R443). -/
def Accepted (s : State) (q : EdjorRequest) : Prop :=
  s.lapsed = false ∧ s.ready = true ∧ s.mgmt.owner = some q.session.toNat ∧
  ∃ x, Tbl.find s.mgmt.sessions q.session.toNat = some x ∧ x.top < q.seq.toNat

/-- `exec` answers a next state in which the last message that left says STATUS and a payload to the request, and of which `P` holds. -/
def Answers (s : State) (q : EdjorRequest) (i : Instr) (op status : Nat) (P : State → List Byte → Prop) : Prop :=
  ∃ t payload rest, exec i s = .next t ∧ t.mgmt.out = .edjor q.port op q.session.toNat q.seq.toNat status payload :: rest ∧ P t payload

/-- `r` is one of the requests: its operation code, whether only the owner may make it, whether it acts before READY (R442, R443, R447). -/
def Requested (s : State) (q : EdjorRequest) (r : Instr × Nat × Bool × Bool) : Prop :=
  r ∈ ([(.status q, 0x02, false, true), (.readmem q, 0x03, false, false), (.attest q, 0x04, false, decide (4 ≤ s.mgmt.stage)), (.errring q, 0x05, false, true),
   (.claim q, 0x10, false, true), (.heartbeat q, 0x11, true, true), (.release q, 0x12, true, false), (.handover q, 0x13, true, false),
   (.graphgo q, 0x20, true, false), (.opendmw q, 0x21, true, false), (.closedmw q, 0x22, true, false), (.openhw q, 0x23, true, false),
   (.closehw q, 0x24, true, false), (.inval q, 0x25, true, false), (.swap q, 0x26, true, false), (.savepool q, 0x27, true, false),
   (.parkansResolve q, 0x28, true, false), (.parkansDeliver q, 0x28, true, false), (.endteam q, 0x29, true, false), (.debugAttach q, 0x2A, true, false),
   (.debugSetStops q, 0x2A, true, false), (.debugStop q, 0x2A, true, false), (.debugStep q, 0x2A, true, false), (.debugStepAll q, 0x2A, true, false),
   (.debugReplayMode q, 0x2A, true, false), (.debugRollback q, 0x2A, true, false), (.debugDiscardReplay q, 0x2A, true, false),
   (.profileRead q, 0x2B, true, false), (.profileReadClear q, 0x2B, true, false), (.profileFlush q, 0x2B, true, false), (.throttle q, 0x2C, true, false),
   (.spare q, 0x2D, true, false), (.peermap q, 0x2E, true, false), (.fwload q, 0x2F, true, false), (.reset q, 0x30, true, true),
   (.spill q, 0x31, true, false), (.evack q, 0x41, true, false), (.edjorOtherOp q, q.op.toNat, false, true)] : List (Instr × Nat × Bool × Bool))

/-- A DEBUG request names team `k`, which the debugger that `d` describes is attached to (R419). -/
def Debugs (s : State) (q : EdjorRequest) (k : Nat) (d : Debug) : Prop := Accepted s q ∧ s.teamNamed q.body = some k ∧ Tbl.find s.debug k = some d

/-- Every fragment of a list has stopped for the debugger. -/
def AllHalted (t : State) (fs : List (Nat × Frag)) : Prop := ∀ e ∈ fs, ∃ F, t.frag? e.1 = some F ∧ F.fstate = .halted

/-- The session of `q` is the owner's, its lease has not lapsed, and SEQ is new (R441, R443). -/
def Owns (s : State) (q : EdjorRequest) : Prop :=
  s.lapsed = false ∧ s.mgmt.owner = some q.session.toNat ∧ ∃ x, Tbl.find s.mgmt.sessions q.session.toNat = some x ∧ x.top < q.seq.toNat

/-- A session that may ask, owner or not. -/
def Asks (s : State) (q : EdjorRequest) : Prop :=
  s.lapsed = false ∧ ∃ x, Tbl.find s.mgmt.sessions q.session.toNat = some x ∧ x.top < q.seq.toNat

/-- Only the management side has changed (and how many open values are used up), and no owner. -/
def OnlyManages (s t : State) : Prop := { t with mgmt := s.mgmt, free := s.free } = s ∧ t.mgmt.owner = s.mgmt.owner

end Sys2Proof.Claims

open Sys2Proof Sys2Proof.Machine Sys2Proof.Claims

/-! ## The checks before an effect, and exceptions -/

/-- Before an instruction's effect come its checks, in the order of R49: the first that fails is the trap it takes, whole; and while one of its
registers awaits a result or its token is full (R32), it waits and nothing changes. -/
def Obligations.ChecksComeFirst : Prop :=
  ∀ (s : State) (c : Ctx) (i : Instr), i.parts ≠ none → s.cur = some c.f → s.ctxOf c.f i = some c →
    (∀ b, offence c i = some b →
      exec i s = .next (s.trapFrag c.f ⟨0x01, BitVec.ofNat 64 (i.word0.toNat * 2 ^ 32 + b % 256), c.F.active, none, false, []⟩ c.len)) ∧
    (∀ t, offence c i = none → privilege c i = some t → exec i s = .next (s.trapFrag c.f t c.len)) ∧
    (∀ k, offence c i = none → privilege c i = none → runSubcode c i (s.nextWord c) = some k →
      exec i s = .next (s.trapFrag c.f ⟨0x02, tvalSub k c.F.pc.toNat, c.F.active, none, false, []⟩ c.len)) ∧
    (∀ t, offence c i = none → privilege c i = none → runSubcode c i (s.nextWord c) = none → blockOffence c i = some t →
      exec i s = .next (s.trapFrag c.f t c.len)) ∧
    (offence c i = none → privilege c i = none → runSubcode c i (s.nextWord c) = none → blockOffence c i = none →
      (interlocked c i s = true ∨ tokenFull c i s = true) → exec i s = .next s)

/-- Handler entry (R385), for a trap at an instruction whose team has a handler: one step writes the trap registers and the trap save, makes the
temporaries invalid, clears MODE's trap enables alone and goes to the handler; registers, predicates, stack and memory are unchanged, where no walk of
the trap has met an error at rest. Without a handler the fragment ends and one record is logged. -/
def Obligations.HandlerEntry : Prop :=
  ∀ (s : State) (c : Ctx) (i : Instr) (t : Trap), s.ctxOf c.f i = some c → c.F.save = none → t.after = false →
    (c.T.task.handler ≠ 0 → t.walk = [] ∨ s.rel.rot = [] →
      Entered c (s.trapFrag c.f t c.len) t.cause c.F.pc t.tval t.mask c.F.runCount ∧ (s.trapFrag c.f t c.len).waves = s.waves ∧
      (s.trapFrag c.f t c.len).mem = s.mem ∧ (s.trapFrag c.f t c.len).pend = s.pend) ∧
    (c.T.task.handler = 0 → (s.trapFrag c.f t c.len).frag? c.f = none ∧
      (s.trapFrag c.f t c.len).rel.ring.head?.map (fun r => (r.pc, r.lanes, r.kind, r.synd)) =
        some (c.F.pc, t.mask, kindWord t.cause 2 0 0x0E, BitVec.ofNat 32 (t.tval.toNat % 2 ^ 32)))

/-- A trap of a TRAPPED fragment is a Double Fault (R386): it is HALTED with its first trap's registers kept, and one record names both causes. -/
def Sys2Proof.Claims.doubleFault : Prop :=
  ∀ (s : State) (c : Ctx) (i : Instr) (t : Trap), s.ctxOf c.f i = some c → c.F.save.isSome = true → t.after = false →
    t.walk = [] ∨ s.rel.rot = [] →
    ∃ F r, (s.trapFrag c.f t c.len).frag? c.f = some F ∧ F.fstate = .halted ∧ F.tcause = c.F.tcause ∧ F.tpc = c.F.tpc ∧ F.tval = c.F.tval ∧
      F.tmask = c.F.tmask ∧ F.pc = c.F.pc ∧ (s.trapFrag c.f t c.len).rel.ring.head? = some r ∧ r.kind = kindWord 0x18 1 0 0x0C ∧
      r.synd = BitVec.ofNat 32 t.cause ∧ r.pc = c.F.pc ∧ (s.trapFrag c.f t c.len).waves = s.waves

/-- Opcode 0xFF in either form, with no hook installed, and an encoding that the decoder rejects (R48, R50, R51): Illegal Instruction of the whole
fragment, TVAL[8] set for the emulation opcode alone. -/
def Sys2Proof.Claims.emulationAndReserved : Prop :=
  (∀ (s : State) (c : Ctx) (w : BaseWord) (x : ExtWord) (lit : Option Word) (i : Instr), i ∈ [Instr.emulationBase w lit, Instr.emulation x] → Ready s c i →
    c.F.save = none → c.T.task.handler ≠ 0 →
    ∃ t, exec i s = .next t ∧ (∀ a, t.byte a = s.byte a) ∧ t.waves = s.waves ∧
      ∃ F, t.frag? c.f = some F ∧ F.tcause = 0x01 ∧ F.tpc = c.F.pc ∧ F.tval = BitVec.ofNat 64 (i.word0.toNat * 2 ^ 32 + 2 ^ 8 + 4) ∧
        F.tmask = c.F.active ∧ F.pc = c.T.task.entry + c.T.task.handler.signExtend 64) ∧
  (∀ (s : State) (c : Ctx) (w0 : BitVec 32) (bit : BitVec 8), s.cur = some c.f → s.ctxOf c.f (.reservedOpcode w0 bit) = some c → c.F.save = none →
    c.T.task.handler ≠ 0 →
    ∃ t, exec (.reservedOpcode w0 bit) s = .next t ∧ (∀ a, t.byte a = s.byte a) ∧ t.waves = s.waves ∧
      Entered c t 0x01 c.F.pc (BitVec.ofNat 64 (w0.toNat * 2 ^ 32 + bit.toNat)) c.F.active c.F.runCount)

/-- A trap in a handler halts the fragment for good or loses it; emulation and reserved opcodes trap (R46, R51, R386). -/
def Obligations.OtherExceptions : Prop := Claims.doubleFault ∧ Claims.emulationAndReserved

/-- TRAP and BKPT (R386, R387): their participating lanes trap after the instruction, with the code in TVAL; with none they have no effect. Where only
some lanes take part and there is room they leave as the trapping fragment, and the others go on past the instruction. -/
def Sys2Proof.Claims.softwareTraps : Prop :=
  ∀ (s : State) (c : Ctx) (x : ExtWord), ∀ p ∈ [(Instr.trap x, 0x10), (Instr.bkpt x, 0x11)], Ready s c p.1 →
    (c.part x = 0 → Completes s c p.1 [] 0 false (fun _ => True)) ∧
    (c.part x ≠ 0 → Tbl.find s.debug c.t = none → c.F.save = none → c.T.task.handler ≠ 0 → c.F.active &&& ~~~(c.part x) = 0 →
      ∃ t, exec p.1 s = .next t ∧ t.waves = s.waves ∧ (∀ a, t.byte a = s.byte a) ∧
        Entered c t p.2 (c.F.pc + BitVec.ofNat 64 c.len) (c.count x x.a) (c.part x) (c.F.runCount + 1)) ∧
    (c.part x ≠ 0 → Tbl.find s.debug c.t = none → c.F.save = none → c.T.task.handler ≠ 0 → c.F.active &&& ~~~(c.part x) ≠ 0 →
      ∀ n s1, s.splitOff c.f (c.part x) = some (n, s1) → n ≠ c.f →
      ∃ t N F, exec p.1 s = .next t ∧ (∀ a, t.byte a = s.byte a) ∧ t.frag? n = some N ∧ N.active = c.part x ∧ N.tcause = BitVec.ofNat 64 p.2 ∧
        N.tpc = c.F.pc + BitVec.ofNat 64 c.len ∧ N.tval = c.count x x.a ∧ N.tmask = c.part x ∧ t.frag? c.f = some F ∧
        F.active = c.F.active &&& ~~~(c.part x) ∧ F.pc = c.F.pc + BitVec.ofNat 64 c.len ∧ F.save = none) ∧
    (p.1 = .bkpt x → Tbl.find s.debug c.t = none → c.F.save.isSome = true → Completes s c p.1 [] 0 false (fun _ => True)) ∧
    (∀ d, p.1 = .bkpt x → Tbl.find s.debug c.t = some d → (d.stops = true ∨ c.F.save.isSome = true) → c.part x ≠ 0 → c.F.active &&& ~~~(c.part x) = 0 →
      ∃ t F, exec p.1 s = .next t ∧ t.frag? c.f = some F ∧ F.fstate = .halted ∧ F.pc = c.F.pc + BitVec.ofNat 64 c.len ∧ F.tcause = c.F.tcause ∧
        F.tpc = c.F.tpc ∧ F.tval = c.F.tval ∧ F.tmask = c.F.tmask ∧ t.waves = s.waves ∧ (∀ a, t.byte a = s.byte a))

/-- TRET in a handler (R388): the temporaries, their validity, the run count and, without .KEEP, MODE come back from the trap save, and the fragment
resumes at TPC. Outside one it raises Privilege, and a TPC that is no multiple of 4 is a Double Fault. -/
def Sys2Proof.Claims.trapReturn : Prop :=
  (∀ (s : State) (c : Ctx) (x : ExtWord) (v : TrapSave), Ready s c (.tret x) → c.F.save = some v → c.F.tpc.toNat % 4 = 0 →
    ∃ t F, exec (.tret x) s = .next t ∧ t.frag? c.f = some F ∧ F.tmp = v.tmp ∧ F.tmpValid = v.tmpValid ∧ F.runCount = v.runCount ∧
      F.mode = (if x.sub.getLsbD 0 then c.F.mode else v.mode) ∧ F.pc = c.F.tpc ∧ F.fstate = .ready ∧ F.save = none ∧ F.scal = c.F.scal ∧
      F.active = c.F.active ∧ F.tcause = c.F.tcause ∧ F.tpc = c.F.tpc ∧ F.tval = c.F.tval ∧ F.tmask = c.F.tmask ∧ t.waves = s.waves ∧
      (∀ a, t.byte a = s.byte a)) ∧
  (∀ (c : Ctx) (x : ExtWord), c.F.save = none → privilege c (.tret x) = some ⟨0x03, 0, c.F.active, none, false, []⟩) ∧
  (∀ (s : State) (c : Ctx) (x : ExtWord) (v : TrapSave), Ready s c (.tret x) → c.F.save = some v → c.F.tpc.toNat % 4 ≠ 0 →
    ∃ t F, exec (.tret x) s = .next t ∧ t.frag? c.f = some F ∧ F.fstate = .halted ∧ F.tcause = c.F.tcause ∧ F.tpc = c.F.tpc ∧ t.waves = s.waves)

/-- TRAP and BKPT enter the handler, TRET leaves it (R387, R388). -/
def Obligations.TrapsAndReturns : Prop := Claims.softwareTraps ∧ Claims.trapReturn

/-! ## Base forms, integers, predicates -/

/-- NOP in every form only advances the PC: no register, flag or byte of memory changes, and the instruction counts toward the run (R40). -/
def Obligations.NopOnlyAdvances : Prop :=
  ∀ (s : State) (c : Ctx) (w : BaseWord) (n : NopWord) (i : Instr), i ∈ [Instr.nop w, Instr.nopLong n] → Ready s c i →
    Completes s c i [] 0 false (fun t => ∃ F, t.frag? c.f = some F ∧ F.runCount = c.F.runCount + 1)

/-- The base forms (R37): every active lane of D receives the tabled value and tag, unguarded and with no tag check;
MOVL with X = 0xF raises Illegal Instruction. -/
def Obligations.BaseFormsCompute : Prop :=
  (∀ (s : State) (c : Ctx) (w : BaseWord) (lit : Word), ∀ p ∈ baseForms w lit, Ready s c p.1 →
    Completes s c p.1 [⟨.vec, w.d⟩] (c.F.active &&& c.W.live) false
      (fun t => ∀ l, (c.F.active &&& c.W.live).has l = true → t.vreg c.w l w.d.toNat = p.2 (c.W.reg l w.a.toNat))) ∧
  (∀ (s : State) (c : Ctx) (w : BaseWord) (p : Instr × Bool), p ∈ [(Instr.pnotBase w, true), (Instr.pmovBase w, false)] → Ready s c p.1 →
    Completes s c p.1 [⟨.pred, w.d⟩] (c.F.active &&& c.W.live) false
      (fun t => ReceivesPred c t w.d.toNat (c.F.active &&& c.W.live) (fun l => (c.W.pred w.a.toNat).has l ^^ p.2))) ∧
  (∀ (s : State) (c : Ctx) (w : BaseWord) (lit : Word), w.x = 15 → s.cur = some c.f → s.ctxOf c.f (.movlBaseLit w lit) = some c →
    ∃ b < 256, exec (.movlBaseLit w lit) s =
      .next (s.trapFrag c.f ⟨0x01, BitVec.ofNat 64 ((Instr.movlBaseLit w lit).word0.toNat * 2 ^ 32 + b), c.F.active, none, false, []⟩ c.len))

/-- Integer arithmetic (R188): each element of D is the exact operation on the elements of the sources, clamped under SAT or taken modulo
2^w; SAD sums the absolute differences into the 64-bit C. -/
def Obligations.IntegerArithmetic : Prop :=
  (∀ (s : State) (c : Ctx) (x : ExtWord), ∀ p ∈ intOps x, Ready s c p.1 → c.tagTrap (c.lanesOf x) (srcsIn x p.2.1 x.tag) = none →
    Completes s c p.1 [x.d] (c.part x) false (fun t => Receives c t x.d (c.part x) (fun l v => ∀ e, e < 64 / tagWidth x.tag →
      let w := tagWidth x.tag
      let el (k : Nat) : Int := elemInt w (x.mod.getLsbD 0) (nth (c.values x (srcsIn x p.2.1 x.tag) l).1 k) e
      let r := p.2.2 (el 0) (el 1) (el 2)
      (elem w v e : Int) = (if x.sat then clampTo w (x.mod.getLsbD 0) r else r) % 2 ^ w) (fun _ => x.fmt))) ∧
  (∀ (s : State) (c : Ctx) (x : ExtWord), Ready s c (.sad x) → c.tagTrap (c.lanesOf x) [src 1 x.a x.tag, src 2 x.b x.tag, src 3 x.c 1] = none →
    Completes s c (.sad x) [x.d] (c.part x) false (fun t => Receives c t x.d (c.part x) (fun l v =>
      let vs := (c.values x [src 1 x.a x.tag, src 2 x.b x.tag, src 3 x.c 1] l).1
      let el (k e : Nat) : Int := elemInt (tagWidth x.tag) (x.mod.getLsbD 0) (nth vs k) e
      v.toNat = ((nth vs 2).toNat + ((List.range (64 / tagWidth x.tag)).map (fun e => (el 0 e - el 1 e).natAbs)).sum) % 2 ^ 64) (fun _ => 1)))

/-- Logic, shifts, counts and bit fields (R190, R191): each element of D is what the tables say of the elements of the sources; D is tagged
FMT, or A's tag under FMT 0. -/
def Sys2Proof.Claims.logicAndShifts : Prop :=
  ∀ (s : State) (c : Ctx) (x : ExtWord), ∀ p ∈ bitOps x, Ready s c p.1 → c.tagTrap (c.lanesOf x) (srcsIn x p.2.1 x.tag) = none →
    Completes s c p.1 [x.d] (c.part x) false (fun t => Receives c t x.d (c.part x) (fun l v => ∀ e, e < 64 / tagWidth x.tag →
      let el (k : Nat) : Nat := elem (tagWidth x.tag) (nth (c.values x (srcsIn x p.2.1 x.tag) l).1 k) e
      elem (tagWidth x.tag) v e = p.2.2 (el 0) (el 1) (el 2) % 2 ^ tagWidth x.tag)
      (fun l => if x.fmt = 0 then (if x.a.cls = .vec then (c.W.reg l x.a.num.toNat).tag else 0) else x.fmt))

/-- Carry chains (R189): IADDC and ISUBB write the 64-bit sum or difference and its carry or borrow; IMADC writes the low and the high half of
the 128-bit product and sum. -/
def Sys2Proof.Claims.carryChains : Prop :=
  (∀ (s : State) (c : Ctx) (x : ExtWord) (sub : Bool) (i : Instr), i = (if sub then Instr.isubb x else Instr.iaddc x) → Ready s c i →
    c.tagTrap (c.part x).lanes [src 1 x.a 1, src 2 x.b 1] = none →
    let v (l k : Nat) : Int := (nth (c.values x [src 1 x.a 1, src 2 x.b 1] l).1 k).toNat
    let ci (l : Nat) : Int := if x.c.cls = .pred then (if (c.W.pred x.c.num.toNat).has l then 1 else 0) else (x.c.num &&& 1).toNat
    let r (l : Nat) : Int := if sub then v l 0 - v l 1 - ci l else v l 0 + v l 1 + ci l
    Completes s c i [x.d, ⟨.pred, (x.mod &&& 31).zeroExtend 8⟩] (c.part x) false (fun t =>
      Receives c t x.d (c.part x) (fun l w => (w.toNat : Int) = r l % 2 ^ 64) (fun _ => 1) ∧
      ReceivesPred c t (x.mod &&& 31).toNat (c.part x) (fun l => decide (if sub then r l < 0 else 2 ^ 64 ≤ r l)))) ∧
  (∀ (s : State) (c : Ctx) (x : ExtWord), Ready s c (.imadc x) → x.d.cls = .vec → c.tagTrap (c.part x).lanes (srcsIn x 3 1) = none →
    let v (l k : Nat) : Nat := (nth (c.values x (srcsIn x 3 1) l).1 k).toNat
    let cin (l : Nat) : Nat := if x.mod.getLsbD 5 = true ∧ (c.W.pred (x.mod &&& 31).toNat).has l = true then 1 else 0
    let r (l : Nat) : Nat := v l 0 * v l 1 + v l 2 + cin l
    Completes s c (.imadc x) [x.d, { x.d with num := x.d.num + 1 }] (c.part x) false (fun t => ∀ l, (c.part x).has l = true →
      t.vreg c.w l x.d.num.toNat = ⟨BitVec.ofNat 64 (r l), 1⟩ ∧ t.vreg c.w l (x.d.num + 1).toNat = ⟨BitVec.ofNat 64 (r l / 2 ^ 64), 1⟩))

/-- Bitwise instructions, shifts, counts, bit fields and carry chains (R189 to R191). -/
def Obligations.BitsAndCarries : Prop := Claims.logicAndShifts ∧ Claims.carryChains

/-- Predicate instructions (R197): D is, in each participating lane, what the table says; the other lanes keep D. -/
def Sys2Proof.Claims.predicateInstructions : Prop :=
  ∀ (s : State) (c : Ctx) (x : ExtWord), ∀ p ∈ predOps c x, Ready s c p.1 →
    Completes s c p.1 [⟨.pred, x.d.num⟩] (c.part x) false (fun t => ReceivesPred c t x.d.num.toNat (c.part x) p.2)

/-- ICMP (R193), each form for each condition: a predicate D says whether every element, or any under .ANY, meets the condition; another D
has all ones in the elements that meet it and zero in the others. -/
def Sys2Proof.Claims.integerCompare : Prop :=
  ∀ (s : State) (c : Ctx) (x : ExtWord), Ready s c (.icmp x) → (x.sub &&& 7).toNat < 6 →
    let w := tagWidth x.tag
    let holds (l e : Nat) : Prop := compares (x.sub &&& 7).toNat
      (elemInt w (x.mod.getLsbD 0) (nth (c.values x (srcsIn x 2 x.tag) l).1 0) e) (elemInt w (x.mod.getLsbD 0) (nth (c.values x (srcsIn x 2 x.tag) l).1 1) e)
    (x.d.cls = .pred → c.tagTrap (c.part x).lanes (srcsIn x 2 x.tag) = none →
      Completes s c (.icmp x) [x.d] (c.part x) false (fun t => x.d.num ≠ 0 → ∀ l, (c.part x).has l = true →
        ((t.predOf c.w x.d.num.toNat).has l = true ↔
          if x.mod.getLsbD 1 then ∃ e, e < 64 / w ∧ holds l e else ∀ e, e < 64 / w → holds l e))) ∧
    (x.d.cls ≠ .pred → c.tagTrap (c.lanesOf x) (srcsIn x 2 x.tag) = none →
      Completes s c (.icmp x) [x.d] (c.part x) false (fun t => Receives c t x.d (c.part x) (fun l v => ∀ e, e < 64 / w →
        (holds l e → elem w v e = 2 ^ w - 1) ∧ (¬holds l e → elem w v e = 0)) (fun _ => x.fmt)))

/-- Predicates: the instructions on them, and the compares that make them (R193, R197). -/
def Obligations.PredicatesAndCompares : Prop := Claims.predicateInstructions ∧ Claims.integerCompare

/-- BSWZ and LEA (R192, R196): bytes picked from the pool of sixteen; base plus scaled index plus displacement modulo 2^64. -/
def Obligations.SwizzleAndAddress : Prop :=
  (∀ (s : State) (c : Ctx) (x : ExtWord), Ready s c (.bswz x) →
    Completes s c (.bswz x) [x.d] (c.part x) false (fun t => Receives c t x.d (c.part x) (fun l v => ∀ i, i < 8 →
      let pool (k : Nat) : Nat := if k < 8 then elem 8 (c.bits x x.a x.tag l) k else elem 8 (c.bits x x.b x.tag l) (k - 8)
      elem 8 v i = if (c.bits x x.c x.tag l).getLsbD (32 + i) then 0 else pool (elem 4 (c.bits x x.c x.tag l) i)) (fun _ => x.fmt))) ∧
  (∀ (s : State) (c : Ctx) (x : ExtWord), Ready s c (.lea x) → c.tagTrap (c.lanesOf x) (srcsIn x 3 1) = none →
    Completes s c (.lea x) [x.d] (c.part x) false (fun t => Receives c t x.d (c.part x) (fun l v =>
      v = c.bits x x.a 1 l + c.bits x x.b 1 l * BitVec.ofNat 64 (2 ^ (x.x &&& 3).toNat) + c.bits x x.c 1 l) (fun _ => 1)))

/-- PICK, MOV and MOVL (R194, R195): the whole value is copied, a vector register with its tag. MOV from a queue takes the queue's oldest
entry, and waits BLOCKED while there is none (R131, R132). -/
def Sys2Proof.Claims.copiesAndPops : Prop :=
  (∀ (s : State) (c : Ctx) (x : ExtWord), Ready s c (.pick x) →
    let o (l : Nat) : Operand := if (c.W.pred x.c.num.toNat).has l then x.a else x.b
    Completes s c (.pick x) [x.d] (c.part x) false (fun t => Receives c t x.d (c.part x) (fun l v => v = c.bits x (o l) 0 l)
      (fun l => if (o l).cls = .vec then (c.W.reg l (o l).num.toNat).tag else 0))) ∧
  (∀ (s : State) (c : Ctx) (x : ExtWord), Ready s c (.mov x) → x.d.cls ≠ .queue → x.a.cls ≠ .queue →
    Completes s c (.mov x) [x.d] (c.part x) false (fun t => Receives c t x.d (c.part x) (fun l v => v = c.bits x x.a x.tag l)
      (fun l => if x.a.cls = .vec then (c.W.reg l x.a.num.toNat).tag else x.fmt))) ∧
  (∀ (s : State) (c : Ctx) (x : ExtWord), Ready s c (.movl x) →
    Completes s c (.movl x) [x.d] (c.part x) false (fun t => Receives c t x.d (c.part x) (fun _ v => some v = x.lit ∨ x.lit = none ∧ v = 0) (fun _ => x.x))) ∧
  (∀ (s : State) (c : Ctx) (x : ExtWord) (v : Word) (rest : List Word), Ready s c (.mov x) → x.d.cls ≠ .queue → x.a.cls = .queue → 4 ≤ x.a.num.toNat →
    c.W.queues.records x.a.num.toNat = v :: rest →
    exec (.mov x) s = .next (Retired c (.mov x) (c.write x.d (c.part x) (fun _ => v) (fun _ => 0)
      (s.adjWave c.w (fun W => { W with queues := W.queues.setRecords x.a.num.toNat rest }))))) ∧
  (∀ (s : State) (c : Ctx) (x : ExtWord), Ready s c (.mov x) → x.d.cls ≠ .queue → x.a.cls = .queue → 4 ≤ x.a.num.toNat →
    c.W.queues.records x.a.num.toNat = [] →
    ∃ t F, exec (.mov x) s = .next t ∧ t.frag? c.f = some F ∧ F.fstate = .blocked ∧ F.pc = c.F.pc ∧ t.waves = s.waves ∧ ∀ a, t.byte a = s.byte a)

/-! ## Floating point -/

/-- Floating-point arithmetic and functions (R212 to R216, R220 to R223): each element of D is the operation's result on the sources' elements, and
MODE gains the exceptions that the lanes raise. -/
def Obligations.FloatArithmetic : Prop := ∀ (s : State) (c : Ctx) (x : ExtWord), ∀ p ∈ floatOps c x, p.completes s c x

/-- Dot products, tests in registers, exponents and conversions (R217 to R226), element by element; CVT.SR also advances the seed (R181). -/
def Sys2Proof.Claims.floatConversions : Prop :=
  (∀ (s : State) (c : Ctx) (x : ExtWord), ∀ p ∈ convertOps c x, p.completes s c x) ∧
  (∀ (s : State) (c : Ctx) (x : ExtWord), x.rnd = 5 →
    let srcs : List Src := [src 1 x.a x.sub.toNat, rawSrc 0 x.d 0]
    let w := tagWidth x.tag
    let flags (l : Nat) : FFlags := (c.values x srcs l).2 ||| (List.range (64 / w)).foldl (fun fl e => fl ||| (stochastic c x l (c.values x srcs l).1 e).2) 0
    Ready s c (.cvt x) → c.tagTrap (c.lanesOf x) srcs = none → c.fpTrap (c.lanesOf x) flags = none →
      ∃ t F, exec (.cvt x) s = .next t ∧ t.frag? c.f = some F ∧ (∀ a, t.byte a = s.byte a) ∧
        Receives c t x.d (c.part x) (fun l v => ∀ e, e < 64 / w →
          elem w v e = (stochastic c x l (c.values x srcs l).1 e).1 % 2 ^ w) (fun _ => x.fmt) ∧
        F.mode = modeNextSeed (modeOrFlags c.F.mode ((c.lanesOf x).foldl (fun fl l => fl ||| flags l) 0)))

/-- FSET and FCLASS into a predicate (R218, R219): true when the test holds in every element, or in any under .ANY. -/
def Sys2Proof.Claims.floatTests : Prop :=
  ∀ (s : State) (c : Ctx) (x : ExtWord), x.d.cls = .pred →
    let f := fmtAt x.tag
    let z := modeFTZ c.F.mode
    let overAll (p : Nat → Prop) : Prop := if x.mod.getLsbD 1 then ∃ e, e < 64 / f.w ∧ p e else ∀ e, e < 64 / f.w → p e
    let test (l e : Nat) : Bool × FFlags := let vs := (c.values x (srcsIn x 2 x.tag) l).1; fcond (x.sub &&& 7).toNat (elemVals f z vs e 0) (elemVals f z vs e 1)
    let raised (l : Nat) : FFlags := (c.values x (srcsIn x 2 x.tag) l).2 ||| (List.range (64 / f.w)).foldl (fun fl e => fl ||| (test l e).2) 0
    (Ready s c (.fset x) → c.tagTrap (c.part x).lanes (srcsIn x 2 x.tag) = none → c.fpTrap (c.part x).lanes raised = none →
      Completes s c (.fset x) [x.d] (c.part x) true (fun t =>
        (x.d.num ≠ 0 → ∀ l, (c.part x).has l = true → ((t.predOf c.w x.d.num.toNat).has l = true ↔ overAll (fun e => (test l e).1 = true))) ∧
        Raises c t ((c.part x).lanes.foldl (fun fl l => fl ||| raised l) 0))) ∧
    (Ready s c (.fclass x) → (c.bits x x.b 1 0).toNat < 2 ^ 10 → c.tagTrap (c.part x).lanes [src 1 x.a x.tag] = none →
      Completes s c (.fclass x) [x.d] (c.part x) false (fun t => x.d.num ≠ 0 → ∀ l, (c.part x).has l = true →
        ((t.predOf c.w x.d.num.toNat).has l = true ↔
          overAll (fun e => (c.bits x x.b 1 0).getLsbD (classBit f (elem f.w (nth (c.values x [src 1 x.a x.tag] l).1 0) e)) = true))))

/-- FCLASS to a register (R219): each element of D holds the one bit of its element's class, and no flag is raised. -/
def Sys2Proof.Claims.classElements : Prop :=
  ∀ (s : State) (c : Ctx) (x : ExtWord), x.d.cls ≠ .pred → Ready s c (.fclass x) → c.tagTrap (c.lanesOf x) [src 1 x.a x.tag] = none →
    Completes s c (.fclass x) [x.d] (c.part x) false (fun t => Receives c t x.d (c.part x) (fun l v => ∀ e, e < 64 / (fmtAt x.tag).w →
      elem (fmtAt x.tag).w v e = 2 ^ classBit (fmtAt x.tag) (elem (fmtAt x.tag).w (nth (c.values x [src 1 x.a x.tag] l).1 0) e))
      (fun _ => BitVec.ofNat 4 (intTagOf x.tag)))

/-- Conversions and tests of floating-point elements (R218, R219, R225). -/
def Obligations.FloatTestsAndConversions : Prop := Claims.floatConversions ∧ Claims.floatTests ∧ Claims.classElements

/-- UNPK, MXQ and MXD (R226 to R228): each participating lane's rows of D, and the scale register of MXQ, hold the converted elements; MX conversions
ignore FTZ. -/
def Obligations.RowConversions : Prop :=
  (∀ (s : State) (c : Ctx) (x : ExtWord), Ready s c (.unpk x) → x.d.num.toNat < 255 →
    let src0 := srcsIn x 1 x.sub.toNat
    let vs (l : Nat) : List Word := (c.values x src0 l).1
    let row (l k : Nat) : Nat → Nat × FFlags := fun e => packElem x (modeFTZ c.F.mode) (elem (tagWidth x.sub.toNat) (nth (vs l) 0) (k * tagCount x.tag + e))
    let fl (l : Nat) : FFlags := (c.values x src0 l).2 ||| ((packFl (tagWidth x.tag) (row l 0)).2 ||| (packFl (tagWidth x.tag) (row l 1)).2)
    c.tagTrap (c.part x).lanes src0 = none → c.fpTrap (c.part x).lanes fl = none →
    Completes s c (.unpk x) [⟨.vec, x.d.num⟩, ⟨.vec, x.d.num + 1⟩] (c.part x) true (fun t =>
      (∀ l k, (c.part x).has l = true → k < 2 → t.vreg c.w l (x.d.num.toNat + k) = ⟨packWith (tagWidth x.tag) (fun e => (row l k e).1), x.fmt⟩) ∧
      Raises c t ((c.part x).lanes.foldl (fun m l => m ||| fl l) 0))) ∧
  (∀ (s : State) (c : Ctx) (x : ExtWord), Ready s c (.mxq x) →
    let f := fmtAt x.tag
    let srcs := srcRow 1 x.a 8 x.sub.toNat ++ [rawSrc 3 x.c 0]
    let per := tagCount x.tag
    let vs (l : Nat) : List Word := (c.noFtz.values x srcs l).1
    let q (l : Nat) : Nat × (Nat → Nat) × FFlags :=
      mxQuantise x f ((List.range 32).map (fun i => (fmtAt x.sub.toNat).decode (elem 16 (nth (vs l) (i / 4)) (i % 4))))
    let fl (l : Nat) : FFlags := (c.noFtz.values x srcs l).2 ||| (q l).2.2
    c.noFtz.tagTrap (c.part x).lanes srcs = none → c.noFtz.fpTrap (c.part x).lanes fl = none → x.d.num.toNat + 32 / per ≤ 256 →
    (∀ k, k < 32 / per → x.d.num.toNat + k ≠ x.c.num.toNat) →
    ∃ t, exec (.mxq x) s = .next t ∧ (∀ a, t.byte a = s.byte a) ∧
      (∀ l k, (c.part x).has l = true → k < 32 / per →
        t.vreg c.w l (x.d.num.toNat + k) = ⟨packWith (tagWidth x.tag) (fun e => (q l).2.1 (k * per + e)), x.fmt⟩) ∧
      (∀ l, (c.part x).has l = true → t.vreg c.w l x.c.num.toNat = ⟨setByte (nth (vs l) 8) (x.x &&& 7).toNat (q l).1, 14⟩) ∧
      Raises c t ((c.part x).lanes.foldl (fun m l => m ||| fl l) 0)) ∧
  (∀ (s : State) (c : Ctx) (x : ExtWord), Ready s c (.mxd x) →
    let f := fmtAt x.tag
    let g := fmtAt x.sub.toNat
    let per := tagCount x.sub.toNat
    let srcs := srcRow 1 x.a (32 / per) x.sub.toNat ++ [src 3 x.c 14]
    let vs (l : Nat) : List Word := (c.noFtz.values x srcs l).1
    let r (l i : Nat) : Nat × FFlags :=
      match scaleExp (elem 8 (nth (vs l) (32 / per)) (x.x &&& 7).toNat) with
      | none => (f.canonicalNan, 0)
      | some k => f.convert false x.rnd.toNat false 0 ((g.decode (elem g.w (nth (vs l) (i / per)) (i % per))).scale k)
    let fl (l : Nat) : FFlags := (c.noFtz.values x srcs l).2 ||| (List.range 32).foldl (fun m i => m ||| (r l i).2) 0
    c.noFtz.tagTrap (c.part x).lanes srcs = none → c.noFtz.fpTrap (c.part x).lanes fl = none → x.d.num.toNat + 8 ≤ 256 →
    ∃ t, exec (.mxd x) s = .next t ∧ (∀ a, t.byte a = s.byte a) ∧
      (∀ l k, (c.part x).has l = true → k < 8 → t.vreg c.w l (x.d.num.toNat + k) = ⟨packWith 16 (fun e => (r l (4 * k + e)).1), x.fmt⟩) ∧
      Raises c t ((c.part x).lanes.foldl (fun m l => m ||| fl l) 0))

/-- TAGSET (R229): A's bits with the tag in X, or with the tag that B names, or A's tag as a number. -/
def Sys2Proof.Claims.tagInstructions : Prop :=
  ∀ (s : State) (c : Ctx) (x : ExtWord), Ready s c (.tagset x) →
    let a (l : Nat) : VReg := c.W.reg l x.a.num.toNat
    let b (l : Nat) : Tag := (c.bits x x.b 0 l).extractLsb' 0 4
    (x.mod.getLsbD 0 = true → (∀ l, (c.part x).has l = true → b l ≠ 15) →
      Completes s c (.tagset x) [x.d] (c.part x) false (fun t => Receives c t x.d (c.part x) (fun l v => v = (a l).val) b)) ∧
    (x.mod.getLsbD 0 = false → x.sub.getLsbD 0 = true →
      Completes s c (.tagset x) [x.d] (c.part x) false (fun t => Receives c t x.d (c.part x) (fun l v => v = (a l).tag.zeroExtend 64) (fun _ => 1))) ∧
    (x.mod.getLsbD 0 = false → x.sub.getLsbD 0 = false →
      Completes s c (.tagset x) [x.d] (c.part x) false (fun t => Receives c t x.d (c.part x) (fun l v => v = (a l).val) (fun _ => x.x)))

/-- Registers are copied, popped and tagged (R195, R194, R229). -/
def Obligations.CopiesPopsAndTags : Prop := Claims.copiesAndPops ∧ Claims.tagInstructions

/-! ## Across lanes -/

/-- Permutations and BCST (R231 to R233): each element of D is the element that the instruction's position names, read as FMT, or zero where its lane is
absent; the predicate in MOD says whether a source was absent. -/
def Sys2Proof.Claims.lanePermutations : Prop :=
  ∀ (s : State) (c : Ctx) (x : ExtWord), ∀ p ∈ permutations x,
    let lanes := (c.part x).lanes
    let w := tagWidth x.tag
    let got (l e : Nat) : Nat × FFlags := match p.2 c l e with | some q => c.elemOf x.a x.tag q.1 q.2 | none => (0, 0)
    let flags (l : Nat) : FFlags := (List.range (64 / w)).foldl (fun fl e => fl ||| (got l e).2) 0
    Ready s c p.1 → Direct c x → x.d.cls = .vec →
    c.laneTagTrap lanes (src 1 x.a x.tag) (fun l => (List.range (tagCount x.tag)).filterMap (fun e => (p.2 c l e).map Prod.fst)) = none →
    c.fpTrap lanes flags = none →
    Completes s c p.1 (withPred x) (c.part x) true (fun t =>
      Receives c t x.d (c.part x) (fun l v => ∀ e, e < 64 / w → elem w v e = (got l e).1 % 2 ^ w)
        (fun l => if x.tag = 0 then (match p.2 c l 0 with | some q => (c.W.reg q.1 x.a.num.toNat).tag | none => 0) else x.fmt) ∧
      (x.mod.getLsbD 5 = true → ReceivesPred c t (x.mod &&& 31).toNat (c.part x)
        (fun l => (List.range (tagCount x.tag)).any (fun e => (p.2 c l e).isNone))) ∧
      Raises c t (lanes.foldl (fun fl l => fl ||| flags l) 0))

/-- BCST into a scalar register (R231, R233): it receives once, in every element, the source element of the lowest participating lane's segment. -/
def Sys2Proof.Claims.scalarBroadcast : Prop :=
  ∀ (s : State) (c : Ctx) (x : ExtWord),
    let lanes := (c.part x).lanes
    let w := tagWidth x.tag
    let got (l : Nat) : Nat × FFlags := match bcstPick x c l with | some q => c.elemOf x.a x.tag q.1 q.2 | none => (0, 0)
    let flags (l : Nat) : FFlags := (List.range (64 / w)).foldl (fun fl _ => fl ||| (got l).2) 0
    Ready s c (.bcst x) → Direct c x → x.d.cls = .scal →
    c.laneTagTrap lanes (src 1 x.a x.tag) (fun l => (List.range (tagCount x.tag)).filterMap (fun _ => (bcstPick x c l).map Prod.fst)) = none →
    c.fpTrap lanes flags = none →
    Completes s c (.bcst x) (withPred x) (c.part x) true (fun t =>
      (∀ e, e < 64 / w → elem w (t.scalarOf c.f x.d.num.toNat) e = (got (lanes.headD 0)).1 % 2 ^ w) ∧
      Raises c t (lanes.foldl (fun fl l => fl ||| flags l) 0))

/-- Lanes read other lanes (R231 to R233): SHFL, SHFLX, SHUP, SHDN and BCST, to vectors and to scalars. -/
def Obligations.PermutationsAndBroadcast : Prop := Claims.lanePermutations ∧ Claims.scalarBroadcast

/-- VOTE, MATCHV and ELECT (R207, R234, R235), over the participating lanes of each lane's segment. -/
def Sys2Proof.Claims.votesAndMatches : Prop :=
  ∀ (s : State) (c : Ctx) (x : ExtWord), Direct c x →
    let part := c.part x
    let seg (l k : Nat) : Prop := part.has k = true ∧ k / segWidth c.W x = l / segWidth c.W x
    let yes (k : Nat) : Prop := ((c.W.pred x.a.num.toNat).has k ^^ x.mod.getLsbD 0) = true
    let same (l k : Nat) : Prop := elem (tagWidth x.tag) (c.W.reg k x.a.num.toNat).val 0 = elem (tagWidth x.tag) (c.W.reg l x.a.num.toNat).val 0
    (Ready s c (.vote x) → x.d.cls = .pred → x.sub.toNat < 3 → Completes s c (.vote x) [x.d] part false (fun t => x.d.num ≠ 0 → ∀ l, part.has l = true →
      ((t.predOf c.w x.d.num.toNat).has l = true ↔
        (x.sub = 0 ∧ ∀ k, seg l k → yes k) ∨ (x.sub = 1 ∧ ∃ k, seg l k ∧ yes k) ∨
        (x.sub = 2 ∧ ((∀ k, seg l k → yes k) ∨ ∀ k, seg l k → ¬yes k))))) ∧
    (Ready s c (.vote x) → x.sub = 3 → Completes s c (.vote x) [x.d] part false (fun t =>
      Receives c t x.d part (fun l v => ∀ k, k < 64 → (v.getLsbD k = true ↔ (if x.d.cls = .scal then part.has k = true else seg l k) ∧ yes k)) (fun _ => 1))) ∧
    (Ready s c (.matchv x) → x.d.cls = .vec → Completes s c (.matchv x) (withPred x) part false (fun t =>
      Receives c t x.d part (fun l v => ∀ k, k < 64 → (v.getLsbD k = true ↔ seg l k ∧ same l k ∧ (x.sub.getLsbD 0 = true → ∀ j, seg l j → same l j)))
        (fun _ => 1) ∧
      (x.mod.getLsbD 5 = true → x.mod &&& 31 ≠ 0 → ∀ l, part.has l = true →
        ((t.predOf c.w (x.mod &&& 31).toNat).has l = true ↔ ∀ j, seg l j → same l j)))) ∧
    (Ready s c (.elect x) → Completes s c (.elect x) [⟨.pred, x.d.num⟩] part false (fun t => x.d.num ≠ 0 → ∀ l, part.has l = true →
      ((t.predOf c.w x.d.num.toNat).has l = true ↔ ∀ k, part.has k = true → l ≤ k)))

/-- REDW and SCANW (R236): each element of D is the reduction tree over the contributions of the lane's segment, or its prefix, identity where
nothing contributes. -/
def Sys2Proof.Claims.reductionsAndScans : Prop :=
  ∀ (s : State) (c : Ctx) (x : ExtWord), Direct c x →
    let lanes := (c.part x).lanes
    let w := tagWidth x.tag
    let z := modeFTZ c.F.mode
    let base (l : Nat) : Nat := l / segWidth c.W x * segWidth c.W x
    let tree (l e : Nat) : Nat × FFlags := let r := redTree x z (c.contributions x (base l) e); (r.1.getD (redIdentity x), r.2)
    let raised (f : Nat → Nat → Nat × FFlags) (l : Nat) : FFlags := (List.range (64 / w)).foldl (fun fl e => fl ||| (f l e).2) 0 ||| c.readFlags x l
    ∀ p ∈ [(Instr.redw x, tree), (Instr.scanw x, c.scanAt x)], Ready s c p.1 →
      c.laneTagTrap lanes (src 1 x.a x.tag) (fun l => [l]) = none → c.fpTrap lanes (raised p.2) = none →
      Completes s c p.1 [x.d] (c.part x) true (fun t =>
        Receives c t x.d (c.part x) (fun l v => ∀ e, e < 64 / w → elem w v e = (p.2 l e).1 % 2 ^ w) (fun _ => x.fmt) ∧
        Raises c t (lanes.foldl (fun fl l => fl ||| raised p.2 l) 0))

/-- Votes, matches, reductions and scans over the lanes (R234 to R236). -/
def Obligations.LanesTogether : Prop := Claims.votesAndMatches ∧ Claims.reductionsAndScans

/-! ## Special registers and register blocks -/

/-- MFS and MTS (R169 to R171): a special register is read lane by lane, or once, and tagged I64; GANG, MODE (no reserved bit set, a class in PCL)
and, in a handler, the trap registers are written, and nothing else changes. -/
def Obligations.SpecialRegisters : Prop :=
  (∀ (s : State) (c : Ctx) (x : ExtWord), Ready s c (.mfs x) →
    Completes s c (.mfs x) [x.d] (c.part x) false (fun t => Receives c t x.d (c.part x) (fun l v => v = c.special s x.a.num.toNat l) (fun _ => 1))) ∧
  (∀ (s : State) (c : Ctx) (x : ExtWord), Ready s c (.mts x) → (x.d.num = 0x29 → modeWritable (c.count x x.a) = true) →
    ∃ t F, exec (.mts x) s = .next t ∧ t.frag? c.f = some F ∧ t.waves = s.waves ∧ (∀ a, t.byte a = s.byte a) ∧ F.scal = c.F.scal ∧ F.tmp = c.F.tmp ∧
      F.gang = (if x.d.num = 0x28 then c.count x x.a else c.F.gang) ∧ F.mode = (if x.d.num = 0x29 then c.count x x.a else c.F.mode) ∧
      F.tpc = (if x.d.num = 0x31 then c.count x x.a else c.F.tpc) ∧ F.tval = (if x.d.num = 0x32 then c.count x x.a else c.F.tval) ∧
      F.tmask = (if x.d.num = 0x33 then c.count x x.a else c.F.tmask) ∧
      F.tcause.extractLsb' 0 8 = (if x.d.num = 0x30 then (c.count x x.a).extractLsb' 0 8 else c.F.tcause.extractLsb' 0 8))

/-- RACQ, RREL and RGIVE (R165 to R167). An RACQ whose role has the quota gains its blocks, whose registers read zero, tagged RAW; an RREL gives its
blocks back; RGIVE moves at most the free quota of the wave's role and returns what it moved. -/
def Obligations.RegisterBlocks : Prop :=
  ∀ (s : State) (c : Ctx) (x : ExtWord),
    let v := c.count x x.a
    (Ready s c (.racq x) → blockRange c x.a 7 v = none → s.racqReady c.f c.W c.T (blockMask v) = true →
      ∃ t W, exec (.racq x) s = .next t ∧ t.wave? c.w = some W ∧ W.held = c.W.held ||| blockMask v ∧ (∀ a, t.byte a = s.byte a) ∧ W.preds = c.W.preds ∧
        (∀ l n, l < 64 → n < 256 → W.reg l n = if (blockMask v).getLsbD (n / 32) && !c.W.held.getLsbD (n / 32) then VReg.zero else c.W.reg l n)) ∧
    (Ready s c (.racq x) → blockRange c x.a 7 v = none → s.racqReady c.f c.W c.T (blockMask v) = false →
      ∃ t F, exec (.racq x) s = .next t ∧ t.frag? c.f = some F ∧ F.fstate = .blocked ∧ F.pc = c.F.pc ∧ t.waves = s.waves ∧
        ∃ T, t.team? c.t = some T ∧ c.f ∈ T.racq) ∧
    (Ready s c (.rrel x) → blockRange c x.a 7 v = none → Unawaited s c (blockMask v &&& c.W.held) →
      ∃ t W, exec (.rrel x) s = .next t ∧ t.wave? c.w = some W ∧ W.held = c.W.held &&& ~~~(blockMask v &&& c.W.held) ∧ (∀ a, t.byte a = s.byte a) ∧
        W.preds = c.W.preds ∧
        (∀ l n, l < 64 → n < 256 → W.reg l n = if (blockMask v).getLsbD (n / 32) && c.W.held.getLsbD (n / 32) then VReg.zero else c.W.reg l n)) ∧
    (Ready s c (.rgive x) → blockRange c x.a 16 v = none → x.x.toNat < c.T.task.roles.length →
      let g := if x.x.toNat = c.W.role then 0 else min v.toNat (c.T.quota c.W.role - s.heldBlocks c.t c.W.role)
      ∃ t T, exec (.rgive x) s = .next t ∧ t.team? c.t = some T ∧ t.waves = s.waves ∧ (∀ a, t.byte a = s.byte a) ∧
        (x.d.cls = .scal → t.scalarOf c.f x.d.num.toNat = BitVec.ofNat 64 g) ∧
        (∀ r, r < c.T.quotas.length → T.quota r = if r = c.W.role then c.T.quota r - g else if r = x.x.toNat then c.T.quota r + g else c.T.quota r))

/-! ## Control flow -/

/-- SEAM (R39): the temporaries become invalid, the run count is 0, the PC is the transfer's target or the next word, the next run awaits AWAIT; with
YIELD the fragment is the youngest, without it keeps its age; the seam is counted in RWC. -/
def Obligations.SeamClosesTheRun : Prop :=
  ∀ (s : State) (c : Ctx) (w : SeamWord), Ready s c (.seam w) →
    ∃ t F, exec (.seam w) s = .next t ∧ t.frag? c.f = some F ∧ F.tmpValid = 0 ∧ F.runCount = 0 ∧ F.pc = c.F.target.getD (c.F.pc + 4) ∧ F.target = none ∧
      F.await = w.await ∧ (F.fstate = .ready ↔ s.tokensDone c.W c.F w.await = true) ∧ F.age = (if w.yield then s.nextId else c.F.age) ∧ F.rwc = c.F.rwc + 1 ∧
      F.scal = c.F.scal ∧ F.active = c.F.active ∧ F.mode = c.F.mode ∧ t.waves = s.waves ∧ t.teams = s.teams ∧ t.pend = s.pend ∧ t.path = s.path ∧
      (∀ a, t.byte a = s.byte a)

/-- A transfer whose lanes all go one way (R198 to R200): BRA, BRX and RETN with every active lane taking part and one target, or with none taking
part, leave the target for the seam, and change nothing else but the PC. -/
def Sys2Proof.Claims.uniformTransfers : Prop :=
  ∀ (s : State) (c : Ctx) (x : ExtWord), ∀ p ∈ transfers c x, Ready s c p.1 → s.checkTargets c (c.part x).lanes p.2.1 p.2.2 = .ok →
    c.F.active ≠ 0 → ∀ goal : Word,
      (c.part x = c.F.active ∧ (∀ l, (c.part x).has l = true → p.2.1 l = goal)) ∨ (c.part x = 0 ∧ goal = c.F.pc + BitVec.ofNat 64 (c.len + 4)) →
      ∃ t F, exec p.1 s = .next t ∧ t.frag? c.f = some F ∧ F.target = some goal ∧ F.pc = c.F.pc + BitVec.ofNat 64 c.len ∧ F.active = c.F.active ∧
        F.scal = c.F.scal ∧ F.mode = c.F.mode ∧ t.waves = s.waves ∧ (∀ a, t.byte a = s.byte a) ∧ (∀ f, f ≠ c.f → t.frag? f = s.frag? f)

/-- A divergent transfer (R201): the fragment keeps the first group, the lanes that fall through before the others; later groups become fragments while
there is room, and the rest become PENDING entries of its stack, the first of them on top. -/
def Sys2Proof.Claims.divergentTransfers : Prop :=
  ∀ (s : State) (c : Ctx) (x : ExtWord), ∀ p ∈ transfers c x, Ready s c p.1 → s.checkTargets c (c.part x).lanes p.2.1 p.2.2 = .ok →
    ∀ g g2 rest, groupsOf (c.F.active &&& ~~~(c.part x)) c.nextPc (c.part x).lanes p.2.1 = g :: g2 :: rest →
      let r := s.splitGroups c (s.seamAwait c) (g2 :: rest)
      c.W.stack.length + r.2.length ≤ 32 →
      exec p.1 s = .next (Retired c p.1 ((r.1.adjWave c.w (fun W => { W with
        stack := r.2.map (fun g => (⟨c.F.num, false, g.1, g.2, s.seamAwait c⟩ : StackEntry)) ++ W.stack })).adjFrag c.f
          (fun F => { F with active := g.1, target := some g.2 })))

/-- Transfers (R198 to R202): with lanes that all go one way, and with lanes that part. -/
def Obligations.Transfers : Prop := Claims.uniformTransfers ∧ Claims.divergentTransfers

/-- Reconvergence Stack Overflow (R203): a transfer that would need more than 32 entries is not executed; the whole fragment traps at it, before any
entry is pushed or fragment split off. -/
def Obligations.StackOverflow : Prop :=
  ∀ (s : State) (c : Ctx) (x : ExtWord), ∀ p ∈ transfers c x, Ready s c p.1 → s.checkTargets c (c.part x).lanes p.2.1 p.2.2 = .ok →
    c.F.save = none → c.T.task.handler ≠ 0 →
    ∀ g g2 rest, groupsOf (c.F.active &&& ~~~(c.part x)) c.nextPc (c.part x).lanes p.2.1 = g :: g2 :: rest →
      32 < c.W.stack.length + (s.splitGroups c (s.seamAwait c) (g2 :: rest)).2.length →
      ∃ t, exec p.1 s = .next t ∧ Entered c t 0x17 c.F.pc 0 c.F.active c.F.runCount ∧ t.waves = s.waves ∧ (∀ a, t.byte a = s.byte a)

/-- CALL and LOOP (R200): CALL writes the next run's address to D and goes to its target, read before D is written; LOOP takes 1 from D and goes while
it is not 0. -/
def Obligations.CallsAndLoops : Prop :=
  ∀ (s : State) (c : Ctx) (x : ExtWord),
    let dest := if x.a.cls = .imm then c.F.pc + c.bits x x.a 0 0 else c.F.scalar x.a.num.toNat
    (Ready s c (.call x) → s.checkTarget c dest = .ok →
      ∃ t F, exec (.call x) s = .next t ∧ t.frag? c.f = some F ∧ F.target = some dest ∧ F.pc = c.F.pc + BitVec.ofNat 64 c.len ∧ F.active = c.F.active ∧
        (∀ n, F.scalar n = if n = x.d.num.toNat then c.F.pc + BitVec.ofNat 64 (c.len + 4) else c.F.scalar n) ∧ t.waves = s.waves ∧
        (∀ a, t.byte a = s.byte a)) ∧
    (Ready s c (.loop x) → s.checkTarget c (c.F.pc + c.bits x x.a 0 0) = .ok →
      ∃ t F, exec (.loop x) s = .next t ∧ t.frag? c.f = some F ∧ F.pc = c.F.pc + BitVec.ofNat 64 c.len ∧ F.active = c.F.active ∧
        F.target = (if c.F.scalar x.d.num.toNat = 1 then none else some (c.F.pc + c.bits x x.a 0 0)) ∧
        (∀ n, F.scalar n = if n = x.d.num.toNat then c.F.scalar n - 1 else c.F.scalar n) ∧ t.waves = s.waves ∧ (∀ a, t.byte a = s.byte a))

/-- RCV and FUSE (R202, R205, R354): in a handler, or as the wave's only fragment with no stack entry of its own, the fragment goes on at once, its
temporaries invalid but in a handler; a PENDING entry on top of its stack is served first, and its own lanes are PARKED; otherwise it waits. -/
def Obligations.MeetingPoints : Prop :=
  ∀ (s : State) (c : Ctx) (x : ExtWord) (i : Instr), i ∈ [Instr.rcv x, Instr.fuse x] → Ready s c i →
    let mine := c.W.stack.find? (fun e => e.owner == c.F.num)
    (mine = none → c.F.save.isSome = true →
      ∃ t F, exec i s = .next t ∧ t.frag? c.f = some F ∧ F.pc = c.F.pc + BitVec.ofNat 64 c.len ∧ F.fstate = .running ∧ F.active = c.F.active ∧
        F.scal = c.F.scal ∧ (∀ a, t.byte a = s.byte a)) ∧
    (mine = none → c.F.save = none → s.fragsOf c.w = [(c.f, c.F)] → c.F.active ≠ 0 →
      ∃ t F, exec i s = .next t ∧ t.frag? c.f = some F ∧ F.pc = c.F.pc + BitVec.ofNat 64 c.len ∧ F.fstate = .running ∧ F.active = c.F.active ∧
        F.tmpValid = 0 ∧ F.late = [] ∧ F.scal = c.F.scal ∧ (∀ a, t.byte a = s.byte a) ∧
        (i = .fuse x → x.d.cls = .pred → x.d.num ≠ 0 → ∀ l, c.F.active.has l = true →
          (t.predOf c.w x.d.num.toNat).has l = decide (c.F.active = c.W.live))) ∧
    (∀ e, mine = some e → e.parked = false →
      ∃ t F, exec i s = .next t ∧ t.frag? c.f = some F ∧ F.pc = e.pc ∧ F.active = e.lanes ∧ F.await = e.await ∧ F.runCount = 0 ∧ F.tmpValid = 0 ∧
        (∃ W, t.wave? c.w = some W ∧ (⟨c.F.num, true, c.F.active, c.F.pc, 0⟩ : StackEntry) ∈ W.stack) ∧ (∀ a, t.byte a = s.byte a)) ∧
    (∀ e, mine = some e → e.parked = true → e.pc = c.F.pc → c.F.save = none → (∃ y ∈ s.fragsOf c.w, y.1 ≠ c.f ∧ y.2.fstate ≠ .meeting) →
      ∃ t F, exec i s = .next t ∧ t.frag? c.f = some F ∧ F.fstate = .meeting ∧ F.pc = c.F.pc ∧ F.active = c.F.active ||| e.lanes) ∧
    (mine = none → c.F.save = none → (∃ e ∈ s.fragsOf c.w, e.1 ≠ c.f ∧ e.2.fstate ≠ .meeting) →
      ∃ t F, exec i s = .next t ∧ t.frag? c.f = some F ∧ F.fstate = .meeting ∧ F.pc = c.F.pc ∧ F.active = c.F.active ∧ t.waves = s.waves)

/-- EXIT (R208, R202): the participating lanes leave ACTIVE, and LIVE for good; the team's barrier objects stop counting them, and no outstanding
instruction serves them any more. Active lanes that remain go on at the next run; where none remains the fragment takes up its own topmost stack entry, or
ends. The team ends with its last wave. -/
def Sys2Proof.Claims.exitEndsLanes : Prop :=
  ∀ (s : State) (c : Ctx) (x : ExtWord), Ready s c (.exit x) →
    let out := c.part x
    let rest := c.F.active &&& ~~~out
    let stack := (c.W.stack.map (fun e => { e with lanes := e.lanes &&& ~~~out })).filter (fun e => e.lanes != 0)
    let T := out.lanes.foldl (fun T l => T.killLane c.W.role (tliBase c.T c.W + l)) c.T
    ∃ t W, exec (.exit x) s = .next t ∧ t.wave? c.w = some W ∧ W.live = c.W.live &&& ~~~out ∧ W.preds = c.W.preds ∧ W.vregs = c.W.vregs ∧
      W.storeq = c.W.storeq ∧ (∀ a, t.byte a = s.byte a) ∧ t.eng = s.eng ∧ (∀ e ∈ t.pend, e.2.wave = c.w → e.2.lanes &&& out = 0) ∧
      (W.live ≠ 0 → ∃ V, t.team? c.t = some V ∧ V.barriers = T.barriers ∧ V.scratch = T.scratch) ∧
      (rest ≠ 0 → W.stack = stack ∧ ∃ F, t.frag? c.f = some F ∧ F.active = rest ∧ F.pc = c.F.pc + BitVec.ofNat 64 (c.len + 4) ∧ F.fstate = .ready ∧
        F.runCount = 0 ∧ F.tmpValid = 0 ∧ F.await = 0 ∧ F.scal = c.F.scal ∧ F.mode = c.F.mode) ∧
      (∀ e, rest = 0 → stack.find? (fun e => e.owner == c.F.num) = some e → ∃ F, t.frag? c.f = some F ∧ F.active = e.lanes ∧ F.pc = e.pc ∧
        F.fstate = .ready ∧ F.save = none ∧ F.scal = c.F.scal) ∧
      (rest = 0 → stack.find? (fun e => e.owner == c.F.num) = none → t.frag? c.f = none) ∧
      (rest = 0 → (∀ e ∈ t.waves, e.2.team = c.t → e.2.live = 0) → Tbl.get 0 s.sched.ended c.t = 0 →
        Tbl.get 0 t.sched.ended c.t = if c.T.lost then 5 else 2)

/-- The team of the fragment has become the successor's (R210): its task and quotas are the header's, and its scratchpad, barriers, operand memory,
accumulators and places are what they were; no outstanding instruction of its waves serves a lane, and copy commands go on. The role's first waves start
in the places of the old ones, with their admitted stores kept; the others have ended. Every fragment of the team is a wave's fragment 0 at the entry, with
MODE from the header, s0 to s7 of the executing fragment, and zero in the other scalar registers. -/
def Sys2Proof.Claims.Succeeded (s : State) (c : Ctx) (h : Header) (t : State) : Prop :=
  let starts (W : Wave) (d : RoleDesc) : Prop := h.roles[W.role]? = some d ∧ W.roleIdx < d.count
  let mine (w : Nat) : Bool := (s.wavesOf c.t).any (fun e => e.1 == w)
  (∃ T, t.team? c.t = some T ∧ T.task = h ∧ T.quotas = (List.range 4).map (fun r => match h.roles[r]? with | some d => d.pool | none => 0) ∧
    { T with task := c.T.task, quotas := c.T.quotas, gate := c.T.gate, racq := c.T.racq, om := c.T.om } = c.T ∧
    T.om.map (fun o => { o with waiters := [] }) = c.T.om.map (fun o => { o with waiters := [] })) ∧
  (∀ a, t.byte a = s.byte a) ∧ t.eng = s.eng ∧ t.sched.ended = s.sched.ended ∧ (∀ e ∈ t.pend, mine e.2.wave = true → e.2.lanes = 0) ∧
  ((s.waves.map Prod.fst).Nodup → ∀ w W, s.wave? w = some W → W.team = c.t →
    (∀ d, starts W d → t.wave? w = some (succWave W (waveIndex h W.role W.roleIdx) d.base) ∧
      (((s.inQuadrant W.core W.quadrant).filter (fun e => !mine e.2.wave)).length +
        ((s.wavesOf c.t).filter (fun e => e.2.core == W.core && e.2.quadrant == W.quadrant)).length ≤ 128 → ∃ e ∈ t.frags, e.2.wave = w)) ∧
    ((∀ d, ¬starts W d) → ∃ V, t.wave? w = some V ∧ V.live = 0) ∧
    (∀ e ∈ t.frags, e.2.wave = w → e.2.num = 0 ∧ e.2.pc = h.entry ∧ e.2.mode = modeOfHeader h ∧ e.2.active = Mask.first W.width ∧
      ∀ n, n < 64 → e.2.scalar n = if n < 8 then c.F.scalar n else 0))

/-- EXIT.SUCC (R68, R78, R209, R210): where the 64 bytes before the entry, in local memory or in a peer or host window, hold a valid header that fits what
the team holds, the team's task becomes the successor's. While its page waits for a walker, or bytes of a window are not there, it waits in place. An entry that is no multiple of
64, a header with poison, one that is not valid or does not fit, and any in a shader wave, raise Illegal Run 0x03. A read that faults is the instruction's
own fault, which names the header's address, or parks the team for its host. -/
def Sys2Proof.Claims.successorTask : Prop :=
  ∀ (s : State) (c : Ctx) (x : ExtWord), Ready s c (.exitSucc x) →
    let entry := c.F.scalar x.a.num.toNat
    let access := s.access (.core c.W.core) c.T.asid c.T.table (entry - 64) 1 .read .none
    let closed := entry.toNat % 64 ≠ 0 ∨ c.T.shader = true
    let walks := s.walkBusy (.core c.W.core) c.T.asid (entry - 64) = true
    let open_ := ¬closed ∧ ¬walks
    let refused := exec (.exitSucc x) s = .next (s.trapFrag c.f ⟨0x02, tvalSub 3 entry.toNat, c.F.active, none, false, []⟩ c.len)
    let fits (bs : List Byte) (h : Header) : Prop := parseHeader bs entry = some h ∧ successorFits c.T h = true
    let halves (p : Piece) : List Piece := [{ p with len := 32 }, { p with addr := p.addr + 32, len := 32 }]
    (closed → refused) ∧
    (¬closed → walks → exec (.exitSucc x) s = .next (s.awaitWalk c.W.core c.T.asid c.T.table (entry - 64))) ∧
    (∀ p, open_ → access = .ok [p] → p.region = .loc → s.memPoisoned p.addr 64 = false →
      (∀ h, fits (readBytes s.mem p.addr 64) h → ∃ t, exec (.exitSucc x) s = .next t ∧ Succeeded s c h t) ∧
      ((∀ h, ¬fits (readBytes s.mem p.addr 64) h) → refused)) ∧
    (∀ p, open_ → access = .ok [p] → p.region = .loc → s.memPoisoned p.addr 64 = true → refused) ∧
    (∀ p q₁ q₂ b₁ b₂ y₁ y₂, open_ → access = .ok [p] → p.away = true → (halves p).map (s.unitAnswer (heldKey c.f)) = [some q₁, some q₂] →
      q₁.result = some (.ok b₁ y₁) → q₂.result = some (.ok b₂ y₂) →
      (∀ h, y₁ = false → y₂ = false → fits (b₁ ++ b₂) h → ∃ t, exec (.exitSucc x) s = .next t ∧ Succeeded s c h t) ∧
      ((y₁ = true ∨ y₂ = true ∨ ∀ h, ¬fits (b₁ ++ b₂) h) → refused)) ∧
    (∀ p, open_ → access = .ok [p] → p.away = true → (∃ q ∈ halves p, s.unitAnswer (heldKey c.f) q = none) →
      ∃ t, exec (.exitSucc x) s = .next t ∧ t.frags = s.frags ∧ t.waves = s.waves ∧ t.teams = s.teams ∧ (∀ a, t.byte a = s.byte a) ∧
        ∀ q ∈ halves p, s.unitAnswer (heldKey c.f) q = none → (t.unitAnswer (heldKey c.f) q).isSome = true) ∧
    (∀ e, open_ → access = .error e → e.x.host = false → c.F.save = none → c.T.task.handler ≠ 0 →
      ∃ t, exec (.exitSucc x) s = .next t ∧ Entered c t e.x.cause c.F.pc (tvalSub e.x.sub (entry - 64).toNat) c.F.active c.F.runCount ∧
        ∃ T, t.team? c.t = some T ∧ T.task = c.T.task) ∧
    (∀ e, open_ → access = .error e → e.x.host = true →
      ∃ t T k, exec (.exitSucc x) s = .next t ∧ t.team? c.t = some T ∧ T.where_ = .image k ∧ T.task = c.T.task ∧ ∃ m, Tbl.find t.saves.images k = some m ∧
        m.pages = [⟨vaPage (entry - 64), 0⟩])

/-- EXIT and EXIT.SUCC (R208 to R210). -/
def Obligations.ExitsAndSuccessors : Prop := Claims.exitEndsLanes ∧ Claims.successorTask

/-! ## Memory -/

/-- Loads issue (R112, R113, R121): with no lane they have no effect; where every lane's access is good and no quad is to leave, one record is outstanding
that will bring each lane its bytes; where far quads leave, the near lanes and the far ones have a record each. No register changes at issue. -/
def Sys2Proof.Claims.loadsIssue : Prop :=
  ∀ (s : State) (c : Ctx) (x : ExtWord), ∀ p ∈ loads x, Ready s c p.1 →
    (c.accessLanes x = [] → Completes s c p.1 [] 0 false (fun t => t.pend = s.pend)) ∧
    (∀ r, c.accessLanes x ≠ [] → Unprofiled s c → Tbl.find s.debug c.t = none →
      c.reachIn s p.2.1 (c.accessLanes x) (c.addr x true) (accessBytes x) .read x.d.isScalar = .ok r →
      let far := s.farLanes c x (accessBytes x) (some (loadKind x p.2.2)) r
      let near := r.filter (fun a => !far.has a.1)
      let away := r.filter (fun a => far.has a.1)
      let sent (q : Reached) : List Nat := if p.2.1 then [] else s.sentReads c.W p.2.2 (loadKind x p.2.2).bypass q
      ((p.2.1 = true ∨ x.d.isScalar = true ∨ far = 0) →
        ∃ t id, exec p.1 s = .next t ∧ PassedUnchanged c s t ∧ Tbl.find t.pend id = some (loadPend x p.2.1 p.2.2 c id r (sent r)) ∧
          (∀ k, k ≠ id → Tbl.find t.pend k = Tbl.find s.pend k)) ∧
      (p.2.1 = false → x.d.isScalar = false → far ≠ 0 →
        ∃ t id k, exec p.1 s = .next t ∧ (∀ a, t.byte a = s.byte a) ∧ (∀ w l n, t.vreg w l n = s.vreg w l n) ∧
          (near ≠ [] → Tbl.find t.pend id = some (loadPend x false p.2.2 c id near (sent near))) ∧
          Tbl.find t.pend k = some (loadPend x false p.2.2 c id away ((sent away).filter (fun e => !(sent near).contains e)))))

/-- Stores issue (R110 to R113, R122): with no lane they have no effect; where every lane's access is good, no quad is to leave and the queue has room, an
entry of the wave's queue holds each lane's address and its bytes of D, in lane order, and no byte of memory changes before it is performed; while the
queue is full and the store cannot merge, it waits in place. -/
def Sys2Proof.Claims.storesIssue : Prop :=
  ∀ (s : State) (c : Ctx) (x : ExtWord), ∀ p ∈ [(Instr.st x, false), (Instr.sts x, true)], Ready s c p.1 →
    (c.accessLanes x = [] → Completes s c p.1 [] 0 false (fun t => t.pend = s.pend)) ∧
    (∀ r, c.accessLanes x ≠ [] → Unprofiled s c → Tbl.find s.debug c.t = none →
      c.reachIn s p.2 (c.accessLanes x) (c.addr x true) (accessBytes x) .write x.d.isScalar = .ok r →
      (accessOrder x = 2 → accessScope x = 5 → RemoteQuiet s c) →
      (p.2 = true ∨ x.d.isScalar = true ∨ s.farLanes c x (accessBytes x) none r = 0) → c.W.storeq.length < 16 →
        ∃ t id W e P, exec p.1 s = .next t ∧ PassedUnchanged c s t ∧ t.wave? c.w = some W ∧ e ∈ W.storeq ∧ id ∈ e.pends ∧
          e.accs = r.map (fun a => (⟨a.1, a.2.1, a.2.2, c.storeBytes x (accessBytes x) a.1, 0, 0⟩ : LaneAcc)) ∧ e.op = .st ∧ e.scratch = p.2 ∧
          Tbl.find t.pend id = some P ∧ P.kind = .store (accessScope x) (accessOrder x == 2) ∧ P.tok = x.tok.toNat) ∧
    (∀ r, c.accessLanes x ≠ [] → c.reachIn s p.2 (c.accessLanes x) (c.addr x true) (accessBytes x) .write x.d.isScalar = .ok r →
      (p.2 = true ∨ x.d.isScalar = true ∨ s.farLanes c x (accessBytes x) none r = 0) → accessOrder x = 2 → accessScope x ≠ 5 →
      c.W.storeq.length = 16 → exec p.1 s = .next s)

/-- Loads, stores and prefetches issue (R118 to R124, R128). -/
def Obligations.AccessesIssue : Prop := Claims.loadsIssue ∧ Claims.storesIssue

/-- Faults of a load's or store's lanes (R89 to R91, R106): where a lane of a vector form faults and the host services none of the faults, the faulting
fragment or the whole one takes the first faulting lane's cause, and no access is outstanding. -/
def Obligations.AccessFaultsTrap : Prop :=
  ∀ (s : State) (c : Ctx) (x : ExtWord) (p : Instr × Acc × Bool), p ∈ [(Instr.lds x, Acc.read, true), (Instr.sts x, Acc.write, true)] → Ready s c p.1 →
    c.accessLanes x ≠ [] → c.F.save = none → c.T.task.handler ≠ 0 →
    (∀ l ∈ c.accessLanes x, (scratchFault c.T (c.addr x true l) (accessBytes x) false).isSome = true) → c.F.active &&& ~~~(Mask.ofList (c.accessLanes x)) = 0 →
    ∃ t, exec p.1 s = .next t ∧ t.pend = s.pend ∧ t.waves = s.waves ∧ (∀ a, t.byte a = s.byte a) ∧
      ∃ F e, t.frag? c.f = some F ∧ scratchFault c.T (c.addr x true ((c.accessLanes x).headD 0)) (accessBytes x) false = some e ∧
        F.tcause = BitVec.ofNat 64 e.cause ∧ F.tpc = c.F.pc ∧ F.tval = tvalSub e.sub (c.addr x true ((c.accessLanes x).headD 0)).toNat ∧
        F.pc = c.T.task.entry + c.T.task.handler.signExtend 64

/-- ATOM, ATOMS, RED and REDS issue (R315 to R318): where the sources' tags are right, every access is good and the queue has room, an entry of the wave's
queue holds the operation and each lane's operand and compare value; a returning form has a record that awaits the old values. -/
def Obligations.AtomicsIssue : Prop :=
  ∀ (s : State) (c : Ctx) (x : ExtWord),
    ∀ p ∈ [(Instr.atom x, false, true), (Instr.atoms x, true, true), (Instr.red x, false, false), (Instr.reds x, true, false)], Ready s c p.1 →
    (c.accessLanes x = [] → Completes s c p.1 [] 0 false (fun t => t.pend = s.pend)) ∧
    (∀ r, c.accessLanes x ≠ [] → Unprofiled s c → Tbl.find s.debug c.t = none → c.tagTrap (c.accessLanes x) (atomSrcs x) = none →
      (∀ l, (c.values x (atomSrcs x) l).2 = 0) →
      c.reachIn s p.2.1 (c.accessLanes x) (c.addr x false) (atomBytes x) .atomic x.d.isScalar = .ok r →
      (2 ≤ atomOrder x → atomScope x = 5 → RemoteQuiet s c) → c.W.storeq.length < 16 →
        ∃ t id W e P, exec p.1 s = .next t ∧ PassedUnchanged c s t ∧ t.wave? c.w = some W ∧ W.storeq = c.W.storeq ++ [e] ∧ e.pends = [id] ∧
          e.accs.map (fun a => (a.lane, a.va, a.pieces, a.operand, a.compare)) = r.map (fun a => (a.1, a.2.1, a.2.2,
            BitVec.ofNat 64 (elem (tagWidth x.tag) (nth (c.values x (atomSrcs x) a.1).1 0) 0),
            BitVec.ofNat 64 (elem (tagWidth x.tag) (nth (c.values x (atomSrcs x) a.1).1 1) 0))) ∧
          e.op = .rmw x.sub.toNat x.tag (x.mod.getLsbD 0) (modeFTZ c.F.mode) p.2.2 (p.2.1 || p.2.2 || x.x.getLsbD 2) (atomBytes x) ∧ e.scratch = p.2.1 ∧
          Tbl.find t.pend id = some P ∧ P.tok = x.tok.toNat ∧
          P.dst = (if p.2.2 = false then .none else if x.d.isScalar then .scal x.d.num.toNat 1 else .vec x.d.num.toNat 1))

/-- PREF (R128, R86): with no lane it has no effect. While the die has no room for its misses it waits in place; else it passes, and no register or byte
of memory changes: each lane whose page misses waits for a walker, in lane order, and the instruction is outstanding for it. A lane alone whose page is
at hand is dropped, and counted, where it may not be read, is of type UC, or would need more request entries than are free, and only there. -/
def Sys2Proof.Claims.prefetches : Prop :=
  ∀ (s : State) (c : Ctx) (x : ExtWord), Ready s c (.pref x) →
    let core := c.W.core
    let level := (x.x >>> 2).toNat
    let missing := (c.part x).lanes.filter (fun l => s.tlbMiss (.core core) c.T.asid (c.addr x true l))
    let pages := ((missing.map (fun l => (c.T.asid, vaPage (c.addr x true l)))).eraseDups).filter (fun k => !(s.dieWalks (dieOf core)).contains k)
    (c.part x = 0 → Completes s c (.pref x) [] 0 false (fun t => t.pend = s.pend)) ∧
    (c.part x ≠ 0 → s.walkRoom (dieOf core) < pages.length → exec (.pref x) s = .next s) ∧
    (c.part x ≠ 0 → pages.length ≤ s.walkRoom (dieOf core) → Unprofiled s c → s.rel.rot = [] →
      ∃ t id, exec (.pref x) s = .next t ∧ PassedUnchanged c s t ∧
        t.path.walkq = s.path.walkq ++ missing.map (fun l => (⟨dieOf core, core, c.T.asid, c.T.table, c.addr x true l, some id, l, level⟩ : WalkRequest)) ∧
        (∀ l ∈ missing, ∃ P, Tbl.find t.pend id = some P ∧ P.lanes.has l = true ∧ P.tok = x.tok.toNat) ∧
        (∀ k, k ≠ id → Tbl.find t.pend k = Tbl.find s.pend k) ∧
        (∀ l, c.part x = Mask.one l → missing = [] →
          let access := s.access (.core core) c.T.asid c.T.table (c.addr x true l) 1 .read .none
          let beyond (p : Piece) : Nat :=
            ((lineSecs (p.addr / 128)).filter (fun k => prefType level p.mt != 0 || (s.l1Find core k).isNone)).length
          let drops := Tbl.get 0 s.rel.counters (core * 16 + ctrPREFDROP)
          let dropped := (∃ e, access = .error e) ∨ ∃ p, access = .ok [p] ∧ (p.mt = 2 ∨ (level ≠ 2 ∧ s.freeEntries core < beyond p))
          (dropped → Tbl.find t.pend id = none ∧ Tbl.get 0 t.rel.counters (core * 16 + ctrPREFDROP) = min (drops + 1) (2 ^ 48 - 1)) ∧
          (¬dropped → Tbl.get 0 t.rel.counters (core * 16 + ctrPREFDROP) = drops ∧ (level = 2 → Tbl.find t.pend id = none))))

/-- The copies that CCTL.IVL1, .IVRDC and .IVCC name (R129): whether the core's L1, its die's RDC or its cluster's constant cache holds a sector. -/
def Sys2Proof.Claims.holdsCopy (s : State) (core op sec : Nat) : Bool :=
  if op = 0 then (s.l1Find core sec).isSome
  else if op = 1 then (s.rdcLine (dieOf core) (sec / 4)).isSome
  else (Tbl.find (Tbl.get [] s.path.const (clusterOf core)) sec).isSome

/-- CCTL (R129). An invalidation drops the copies of the lines that its lanes name, or under .ALL of all, and of no others; a lane whose address does not
translate, and .IVRDC of a line homed on the die, drop none. .ZL with room in the queue is a store of 128 zeros to each lane's line; while the queue is
full it waits in place. With no lane CCTL has no effect. No register and no byte of memory changes at issue. -/
def Sys2Proof.Claims.cacheControl : Prop :=
  ∀ (s : State) (c : Ctx) (x : ExtWord), Ready s c (.cctl x) →
    let op := (x.sub &&& 7).toNat
    let core := c.W.core
    let named (sec : Nat) : Prop := x.sub.getLsbD 3 = true ∨
      ((∃ l ∈ (c.part x).lanes, s.lineOf c (c.addr x true l) = some (sec / 4)) ∧ (op = 1 → homeOf (128 * (sec / 4)) ≠ dieOf core))
    (c.part x = 0 → Completes s c (.cctl x) [] 0 false (fun t => t.pend = s.pend)) ∧
    (op < 3 → c.part x ≠ 0 → ∃ t, exec (.cctl x) s = .next t ∧ PassedUnchanged c s t ∧ t.pend = s.pend ∧
      ∀ sec, (named sec → holdsCopy t core op sec = false) ∧ (¬named sec → holdsCopy t core op sec = holdsCopy s core op sec)) ∧
    (∀ r, op = 3 → c.part x ≠ 0 → c.reach s (c.part x).lanes (fun l => c.addr x true l &&& ~~~(127 : Word)) 128 .write .none false = .ok r →
      (c.W.storeq.length < 16 →
        ∃ t id W e P, exec (.cctl x) s = .next t ∧ PassedUnchanged c s t ∧ t.wave? c.w = some W ∧ W.storeq = c.W.storeq ++ [e] ∧ e.pends = [id] ∧
          e.accs = r.map (fun a => (⟨a.1, a.2.1, a.2.2, List.replicate 128 0, 0, 0⟩ : LaneAcc)) ∧ e.op = .st ∧ e.release = false ∧
          Tbl.find t.pend id = some P ∧ P.kind = .store 0 false ∧ P.tok = x.tok.toNat) ∧
      (c.W.storeq.length = 16 → exec (.cctl x) s = .next s))

/-- FENCE (R130, R325): it passes at once, outstanding on its token for the lanes of the fragment, with its kind and scope; at SYSTEM scope, and as FENCE.XQ,
it reports a remote store that has failed first, as a trap. -/
def Sys2Proof.Claims.fences : Prop :=
  ∀ (s : State) (c : Ctx) (x : ExtWord), Ready s c (.fence x) →
    let reports := (x.mod &&& 7) = 5 ∨ (x.sub &&& 3) = 3
    ((reports → c.W.failed = []) →
      ∃ t id P, exec (.fence x) s = .next t ∧ PassedUnchanged c s t ∧ Tbl.find t.pend id = some P ∧
        P.kind = .fence (x.sub &&& 3).toNat (x.mod &&& 7).toNat ∧ P.wave = c.w ∧ P.tok = x.tok.toNat ∧ P.lanes = heldLanes c.W c.F ∧
        P.own = heldLanes c.W c.F ∧ (∀ k, k ≠ id → Tbl.find t.pend k = Tbl.find s.pend k)) ∧
    (∀ e rest, reports → c.W.failed = e :: rest → c.F.save = none → c.T.task.handler ≠ 0 →
      ∃ t W, exec (.fence x) s = .next t ∧ t.wave? c.w = some W ∧ W.failed = rest ∧
        Entered c t 0x16 c.F.pc (tvalSub (if e.indeterminate then 1 else 2) e.va.toNat) c.F.active c.F.runCount)

/-- PREF, CCTL and FENCE (R128 to R130) complete, and what they do at issue. -/
def Obligations.CacheAndFence : Prop := Claims.prefetches ∧ Claims.cacheControl ∧ Claims.fences

/-! ## Barriers and waits -/

/-- BINIT and BQRY (R154, R157) on a barrier object in bounds: BINIT writes a fresh object and registers it, or unregisters one; BQRY reads the object, and
.CLRP clears its POISON. -/
def Sys2Proof.Claims.barrierObjects : Prop :=
  ∀ (s : State) (c : Ctx) (x : ExtWord),
    let a := c.F.scalar x.a.num.toNat
    barrierFault c a = none →
    (Ready s c (.binit x) → x.sub.getLsbD 1 = false → 0 ≤ c.amount x → c.amount x ≤ 8191 → x.x.toNat < 2 ^ c.T.task.roles.length →
      ((c.T.bar? a.toNat).isSome = true ∨ (c.T.barriers.filter (fun b => b.addr / 2 ^ 19 == a.toNat / 2 ^ 19)).length < 32) →
      ∃ t T, exec (.binit x) s = .next t ∧ PassedUnchanged c s t ∧ t.team? c.t = some T ∧
        T.barRead a.toNat = 2 * (c.amount x).toNat ∧ T.bar? a.toNat = some ⟨a.toNat, if x.x = 0 then 15 else x.x, []⟩ ∧
        (∀ k, k < a.toNat ∨ a.toNat + 16 ≤ k → Tbl.get 0 T.scratch k = Tbl.get 0 c.T.scratch k)) ∧
    (Ready s c (.binit x) → x.sub.getLsbD 1 = true → (c.T.bar? a.toNat).isSome = true →
      ∃ t T, exec (.binit x) s = .next t ∧ PassedUnchanged c s t ∧ t.team? c.t = some T ∧ T.bar? a.toNat = none ∧ T.scratch = c.T.scratch) ∧
    (Ready s c (.bqry x) → (c.T.bar? a.toNat).isSome = true →
      ∃ t F T, exec (.bqry x) s = .next t ∧ t.frag? c.f = some F ∧ t.team? c.t = some T ∧ F.pc = c.F.pc + BitVec.ofNat 64 c.len ∧
        (∀ n, F.scalar n = if n = x.d.num.toNat then
            (if x.sub.getLsbD 1 then BitVec.ofInt 64 (toSigned 48 (barBytes (c.T.barRead a.toNat))) else BitVec.ofNat 64 (c.T.barRead a.toNat))
          else c.F.scalar n) ∧
        (x.sub.getLsbD 2 = false → T = c.T) ∧ (x.sub.getLsbD 2 = true → barPoison (T.barRead a.toNat) = 0) ∧ t.waves = s.waves ∧
        (∀ b, t.byte b = s.byte b))

/-- BARV and BEXP (R156 to R158) on a registered object: with nothing earlier outstanding at its scope BARV arrives for its lanes at once; else it stands
behind the release; BEXP adds to the bytes and tests the phase. -/
def Sys2Proof.Claims.barrierUpdates : Prop :=
  ∀ (s : State) (c : Ctx) (x : ExtWord), arriveFault c x = none →
    let a := (c.F.scalar x.a.num.toNat).toNat
    let tlis := (c.part x).lanes.map (fun l => tliBase c.T c.W + l)
    (Ready s c (.bexp x) → ∃ t T, exec (.bexp x) s = .next t ∧ PassedUnchanged c s t ∧ t.team? c.t = some T ∧ T = c.T.barAdd a (c.amount x) false) ∧
    (Ready s c (.barv x) → c.part x = 0 → Completes s c (.barv x) [] 0 false (fun t => t.teams = s.teams)) ∧
    (Ready s c (.barv x) → c.part x ≠ 0 → ((x.mod &&& 7) = 5 → RemoteQuiet s c) →
      s.releaseReady c.w s.nextId (heldLanes c.W c.F) (x.mod &&& 7).toNat = true → c.T.gate ≤ s.nextId →
      ∃ t T, exec (.barv x) s = .next t ∧ PassedUnchanged c s t ∧ t.team? c.t = some T ∧ T = (c.T.barArrive a tlis (c.amount x)).1) ∧
    (Ready s c (.barv x) → c.part x ≠ 0 → ((x.mod &&& 7) = 5 → RemoteQuiet s c) →
      s.releaseReady c.w s.nextId (heldLanes c.W c.F) (x.mod &&& 7).toNat = false →
      ∃ t id P, exec (.barv x) s = .next t ∧ PassedUnchanged c s t ∧ t.teams = s.teams ∧ Tbl.find t.pend id = some P ∧
        P.kind = .release (x.mod &&& 7).toNat (.barv a tlis (c.amount x)) ∧ P.lanes = c.part x)

/-- A phase completes in the test of a barrier object exactly when every expected lane has arrived and no byte is pending; the phase then flips, the count of
arrivals is 0 and POISON stays (R156). -/
def Sys2Proof.Claims.barrierPhase : Prop :=
  ∀ (T : Team) (a : Nat),
    let o := T.barRead a
    (barExpect o ≤ barArrived o ∧ barBytes o = 0 →
      (T.barTest a).barRead a = barPack (1 - barPhase o) (barExpect o) 0 (barPoison o) 0 ∧
      ∀ b ∈ (T.barTest a).barriers, b.addr = a → b.arrived = []) ∧
    (¬(barExpect o ≤ barArrived o ∧ barBytes o = 0) → T.barTest a = T)

/-- Barrier objects (R154 to R158): they are set up and read, updated, and complete their phase. -/
def Obligations.BarriersCount : Prop := Claims.barrierObjects ∧ Claims.barrierUpdates ∧ Claims.barrierPhase

/-- The waits (R159 to R161, R326). WAIT.B goes on when its object's phase is not the parity, and D says whether it is poisoned; WAIT.K goes on when its
tokens are complete; WAIT.A goes on at once when its location does not hold the value, else it registers at the location's home; each waits BLOCKED
otherwise. -/
def Sys2Proof.Claims.waiting : Prop :=
  ∀ (s : State) (c : Ctx) (x : ExtWord),
    let a := c.F.scalar x.a.num.toNat
    let o := c.T.barRead a.toNat
    (Ready s c (.waitB x) → barrierFault c a = none → (c.T.bar? a.toNat).isSome = true → barPhase o ≠ (c.count x x.b).toNat % 2 →
      ∃ t F, exec (.waitB x) s = .next t ∧ t.frag? c.f = some F ∧ F.pc = c.F.pc + BitVec.ofNat 64 c.len ∧ F.scal = c.F.scal ∧
        (∀ l n, t.vreg c.w l n = s.vreg c.w l n) ∧ (∀ b, t.byte b = s.byte b) ∧
        (x.d.cls = .pred → x.d.num ≠ 0 → ∀ l, c.F.active.has l = true → (t.predOf c.w x.d.num.toNat).has l = decide (barPoison o = 1))) ∧
    (Ready s c (.waitB x) → barrierFault c a = none → (c.T.bar? a.toNat).isSome = true → barPhase o = (c.count x x.b).toNat % 2 →
      ∃ t, exec (.waitB x) s = .next t ∧ Waits c s t) ∧
    (Ready s c (.waitK x) → s.tokensDone c.W c.F (waitMask x) = true → ∃ t, exec (.waitK x) s = .next t ∧ PassedUnchanged c s t ∧ t.pend = s.pend) ∧
    (Ready s c (.waitK x) → s.tokensDone c.W c.F (waitMask x) = false → ∃ t, exec (.waitK x) s = .next t ∧ Waits c s t) ∧
    (∀ ps, Ready s c (.waitA x) → s.waiter c.f = none →
      let n := if x.sub.getLsbD 2 then 4 else 8
      let pa := (ps.map Piece.addr).headD 0
      let want := if x.sub.getLsbD 2 then (c.count x x.b).toNat % 2 ^ 32 else (c.count x x.b).toNat
      let s1 := s.fillAccess (.core c.W.core) c.T.asid c.T.table a n
      a.toNat % n = 0 → c.reach s [0] (fun _ => a) n .read .wait true = .ok [(0, a, ps)] → s1.homeBusy c.W pa n = false →
      s1.acquiring c.w s1.nextId (heldLanes c.W c.F) = false → s1.memPoisoned pa n = false →
      (s1.memNat pa n ≠ want → ∃ t, exec (.waitA x) s = .next t ∧ PassedUnchanged c s t ∧ t.path.waits = s.path.waits) ∧
      (s1.memNat pa n = want → ∃ t w F, exec (.waitA x) s = .next t ∧ w ∈ t.path.waits.map Prod.snd ∧ w.frag = c.f ∧ w.pa = pa ∧ w.die = homeOf pa ∧
        w.value.toNat = want % 2 ^ 64 ∧ w.done = false ∧ t.frag? c.f = some F ∧ F.fstate = .blocked ∧ F.pc = c.F.pc ∧ ∀ b, t.byte b = s.byte b)) ∧
    (∀ id w, Ready s c (.waitA x) → s.waiter c.f = some (id, w) → w.done = true →
      ∃ t, exec (.waitA x) s = .next t ∧ PassedUnchanged c s t ∧ Tbl.find t.path.waits id = none)

/-- WAKE (R328) with nothing earlier outstanding at its scope: the oldest waits of the address's 8 bytes, at most as many as it asks for and all for 0, are
done, and a scalar D receives their number. -/
def Sys2Proof.Claims.wakeServesOldest : Prop :=
  ∀ (s : State) (c : Ctx) (x : ExtWord) (ps : List Piece), Ready s c (.wake x) →
    let va := c.F.scalar x.a.num.toNat
    let pa := (ps.map Piece.addr).headD 0
    let n := (c.count x x.b).toNat
    let s1 := s.fillAccess (.core c.W.core) c.T.asid c.T.table va 4
    va.toNat % 4 = 0 → c.reach s [0] (fun _ => va) 4 .read .wait true = .ok [(0, va, ps)] → ((x.mod &&& 7) = 5 → RemoteQuiet s1 c) →
    s1.releaseReady c.w s1.nextId (heldLanes c.W c.F) (x.mod &&& 7).toNat = true →
    let here := (s.path.waits.filter (fun e => e.2.listed && !e.2.done && e.2.pa / 8 == pa / 8)).map Prod.fst
    let woken := if n = 0 then here else here.take n
    ∃ t F, exec (.wake x) s = .next t ∧ t.frag? c.f = some F ∧ F.pc = c.F.pc + BitVec.ofNat 64 c.len ∧ (∀ a, t.byte a = s.byte a) ∧
      (∀ e ∈ t.path.waits, e.1 ∈ woken → e.2.done = true) ∧ t.path.waits.map Prod.fst = s.path.waits.map Prod.fst ∧
      (x.d.cls = .scal → heldLanes c.W c.F ≠ 0 → F.scalar x.d.num.toNat = BitVec.ofNat 64 woken.length)

/-- Waiting and waking (R161, R326 to R329): the hold instructions, and WAKE's order. -/
def Obligations.WaitingAndWaking : Prop := Claims.waiting ∧ Claims.wakeServesOldest

/-! ## Copies -/

/-- CPY, CPYT, CPYM, CPYR, CPYG and QFENCE (R131, R134 to R138, R150): a queue that cannot take the instruction traps; a full one makes it wait; then the
first failed check of R137 traps; else the command stands in the queue with what the registers held, and its token counts it. -/
def Obligations.CopiesPush : Prop :=
  ∀ (s : State) (c : Ctx) (x : ExtWord),
    let q := x.d.num.toNat
    let held := heldLanes c.W c.F
    (∀ p ∈ copies x, Ready s c p.1 →
      let u := pushOf p.2 x c
      (takesPush p.2 q = false → exec p.1 s = .next (s.trapFrag c.f (queueFault c 1 q) c.len)) ∧
      (takesPush p.2 q = true → s.canPush c q = false → ∃ t, exec p.1 s = .next t ∧ Waits c s t) ∧
      (∀ e, takesPush p.2 q = true → s.canPush c q = true → s.pushFault c u.1 u.2 = some e → exec p.1 s = .next (s.trapFrag c.f e c.len)) ∧
      (takesPush p.2 q = true → s.canPush c q = true → s.pushFault c u.1 u.2 = none →
        (u.2 = true → (sectorsOf (u.1.reg 1).toNat 64).any c.T.spoison.contains = false) →
        ∃ t id k, exec p.1 s = .next t ∧ PassedUnchanged c s t ∧ t.teams = s.teams ∧ Tbl.find t.eng.cmds id = some k ∧ k.kind = p.2 ∧ k.queue = q ∧
          k.team = c.t ∧ k.wave = c.w ∧ k.regs = u.1.regs ∧ k.signal = u.1.sig ∧ k.tile = u.1.tile ∧ k.src = u.1.src ∧ k.dst = u.1.dst ∧
          k.bytes = u.1.bytes ∧ k.to_ = (s.receivers c u.1).map Prod.fst ∧ k.started = false ∧ k.srd = 0 ∧ k.gv = 0 ∧
          Outstanding c t k.pend x.tok.toNat .none held)) ∧
    (Ready s c (.qfence x) →
      (takesPush 0x9D q = false → exec (.qfence x) s = .next (s.trapFrag c.f (queueFault c 1 q) c.len)) ∧
      (takesPush 0x9D q = true → s.canPush c q = false → ∃ t, exec (.qfence x) s = .next t ∧ Waits c s t) ∧
      (takesPush 0x9D q = true → s.canPush c q = true →
        ∃ t id k, exec (.qfence x) s = .next t ∧ PassedUnchanged c s t ∧ Tbl.find t.eng.cmds id = some k ∧ k.kind = 0x9D ∧ k.queue = q ∧ k.wave = c.w ∧
          k.op = x.sub.toNat % 2 ∧ Outstanding c t k.pend x.tok.toNat .none held))

/-! ## The matrix engine -/

/-- OMCLAIM and OMREL (R255). A claim of 1 to 8 slots within the team's takes the lowest free ones as soon as no older claim waits, and D names them, 0xFF
for none; else it waits in order. A release gives its slots back and is outstanding until nothing uses them. -/
def Sys2Proof.Claims.operandSlots : Prop :=
  ∀ (s : State) (c : Ctx) (x : ExtWord), Direct c x →
    let k := coreIndex c.T c.W.core
    let n := (c.count x x.a).toNat
    let free := s.freeSlots c.t c.T c.W.core
    (Ready s c (.omclaim x) → (n = 0 ∨ 8 < n ∨ c.T.task.slots < n) → exec (.omclaim x) s = .next (s.trapFrag c.f (operandSlot c 5 n) c.len)) ∧
    (Ready s c (.omclaim x) → 1 ≤ n → n ≤ 8 → n ≤ c.T.task.slots → n ≤ free.length → claimFirst (c.T.omAt k) c.f = true → k < c.T.om.length →
      ∃ t T, exec (.omclaim x) s = .next t ∧ PassesWith c s t x.d.num.toNat (slotList (free.take n)) ∧ t.team? c.t = some T ∧
        (∀ m, m ∈ (T.omAt k).held ↔ m ∈ (c.T.omAt k).held ∨ m ∈ free.take n) ∧ (T.omAt k).bytes = (c.T.omAt k).bytes) ∧
    (Ready s c (.omclaim x) → 1 ≤ n → n ≤ 8 → n ≤ c.T.task.slots → (free.length < n ∨ claimFirst (c.T.omAt k) c.f = false) → k < c.T.om.length →
      ∃ t T F, exec (.omclaim x) s = .next t ∧ t.team? c.t = some T ∧ c.f ∈ (T.omAt k).waiters ∧ (T.omAt k).held = (c.T.omAt k).held ∧
        t.frag? c.f = some F ∧ F.fstate = .blocked ∧ F.pc = c.F.pc ∧ t.waves = s.waves) ∧
    (Ready s c (.omrel x) → (∀ v ∈ omrelSlots c x, v ≤ 63 ∧ c.T.holdsSlot k v = true) → k < c.T.om.length →
      ∃ t T id P, exec (.omrel x) s = .next t ∧ PassedUnchanged c s t ∧ t.team? c.t = some T ∧
        (T.omAt k).held = (c.T.omAt k).held.filter (fun m => !(omrelSlots c x).contains m) ∧ Tbl.find t.pend id = some P ∧
        P.kind = .omrel c.W.core (omrelSlots c x) ∧ P.tok = x.tok.toNat) ∧
    (∀ v rest, Ready s c (.omrel x) → omrelSlots c x = v :: rest → 63 < v → exec (.omrel x) s = .next (s.trapFrag c.f (operandSlot c 3 v) c.len)) ∧
    (∀ v rest, Ready s c (.omrel x) → omrelSlots c x = v :: rest → v ≤ 63 → c.T.holdsSlot k v = false →
      exec (.omrel x) s = .next (s.trapFrag c.f (operandSlot c 1 v) c.len))

/-- OMFILL, OMREAD, ACCZ, ACCRD, ACCRED, ACCWR, ACCSC and ACCST take their place in the matrix order (R27, R248, R249, R256 to R261). With no lane they have
no effect; a bad slot or region traps; a conflict before a poison test, or a full context, makes them wait; poison they would read traps; else an entry
holds the rows and the captured registers, and the instruction is outstanding. -/
def Sys2Proof.Claims.matrixEntries : Prop :=
  (∀ (s : State) (c : Ctx) (x : ExtWord), Direct c x → ∀ p ∈ soloOps c x, Ready s c p.instr →
    (c.part x = 0 → Completes s c p.instr [] 0 false (fun t => t.mx = s.mx ∧ t.pend = s.pend)) ∧
    (∀ t, c.part x ≠ 0 → p.place = .error t → exec p.instr s = .next (s.trapFrag c.f t c.len)) ∧
    (∀ ctx slots region, c.part x ≠ 0 → p.place = .ok (ctx, slots, region) → c.tagTrap (c.part x).lanes p.srcs = none →
      (∀ l, (c.values x p.srcs l).2 = 0) →
      let e := { soloEntry c p.instr x ctx slots region with data := captured c x p.srcs (c.part x) }
      (p.clean = true → s.orderWaits e = true → ∃ t, exec p.instr s = .next t ∧ Waits c s t) ∧
      (∀ q, p.clean = true → s.orderWaits e = false → s.entryPoison c c.T e = some q → exec p.instr s = .next (s.trapFrag c.f q c.len)) ∧
      ((p.clean = true → s.orderWaits e = false ∧ s.entryPoison c c.T e = none) → s.contextRoom c.W.core ctx = false →
        ∃ t, exec p.instr s = .next t ∧ Waits c s t) ∧
      ((p.clean = true → s.orderWaits e = false ∧ s.entryPoison c c.T e = none) → s.contextRoom c.W.core ctx = true →
        ∃ t id k, exec p.instr s = .next t ∧ PassedUnchanged c s t ∧ t.teams = s.teams ∧ Tbl.find t.mx.entries k = some { e with pends := [id] } ∧
          Outstanding c t id x.tok.toNat p.dst p.lanes))) ∧
  (∀ (s : State) (c : Ctx) (x : ExtWord), Direct c x → Ready s c (.accst x) →
    (c.part x = 0 → Completes s c (.accst x) [] 0 false (fun t => t.mx = s.mx ∧ t.pend = s.pend)) ∧
    (∀ t, c.part x ≠ 0 → regionOperand c x x.d = .error t → exec (.accst x) s = .next (s.trapFrag c.f t c.len)) ∧
    (∀ r accs, c.part x ≠ 0 → regionOperand c x x.d = .ok r → s.accstWalks c x = [] → Unprofiled s c → Tbl.find s.debug c.t = none →
      (c.part x).lanes.mapM (s.accstRow c x) = .ok accs →
      let e := { soloEntry c (.accst x) x (contextOf r) [] r with accs := accs }
      s.orderWaits e = false → s.entryPoison c c.T e = none → s.contextRoom c.W.core (contextOf r) = true →
      ∃ t id k, exec (.accst x) s = .next t ∧ PassedUnchanged c s t ∧ t.teams = s.teams ∧ Tbl.find t.mx.entries k = some { e with pends := [id] } ∧
        Outstanding c t id x.tok.toNat .none (heldLanes c.W c.F)))

/-- Operand slots are claimed and given back, and the engine's instructions queue their entries (R238 to R259). -/
def Obligations.MatrixMemories : Prop := Claims.operandSlots ∧ Claims.matrixEntries

/-- MMA and MMAS of a fragment that finds no rendezvous of its gang (R27, R246, R247, R249, R260, R261). A wave alone whose lanes all take no part has no
effect. A gang that names a wave which is not there, and WIN with a gang of several, trap. A wave alone with a free rendezvous closes its clasp at once: a bad
operand or poison traps, and with room in its context an entry covers its rows and its instruction is outstanding. The first of several, and one
that finds no free rendezvous or no room, stands at the clasp. -/
def Sys2Proof.Claims.multiplyFirst : Prop :=
  ∀ (s : State) (c : Ctx) (x : ExtWord) (i : Instr), i ∈ [Instr.mma x, Instr.mmas x] → Ready s c i → Direct c x → s.resides c.t c.W.core = true →
    (∀ e ∈ s.mx.clasps, joins s c e.2 = false) →
    let gang := gangOf c.F.gang c.W.idx
    let idle := c.part x = 0 ∧ gang = [c.W.idx]
    let free := s.openClasps c.W.core < 16
    let alone := gang = [c.W.idx] ∧ c.part x ≠ 0 ∧ c.W.idx < 2 ^ 16
    let e (o : Nat × Nat × Nat) : MatrixEntry := soloEntry c i x (contextOf o.2.2) [o.1, o.2.1] o.2.2
    let left (t : State) : Prop := ∀ k ∈ t.mx.clasps, ∀ m ∈ k.2.arrived, m.2 ≠ c.f
    (idle → Completes s c i [] 0 false (fun t => t.mx = s.mx ∧ t.pend = s.pend)) ∧
    (∀ n, ¬idle → s.gangFault c = some n → exec i s = .next (s.trapFrag c.f (gangMismatch 1 n c.F.active) c.len)) ∧
    (s.gangFault c = none → x.win = true → 1 < gang.length → exec i s = .next (s.trapFrag c.f (gangMismatch 4 c.W.idx c.F.active) c.len)) ∧
    (s.gangFault c = none → alone → free → c.F.save = none → c.T.task.handler ≠ 0 →
      (∀ q, mmaOperands c x = .error q →
        ∃ t, exec i s = .next t ∧ Entered c t q.cause c.F.pc q.tval c.F.active c.F.runCount ∧ t.waves = s.waves ∧ left t) ∧
      (∀ o q, mmaOperands c x = .ok o → s.poisonOpen c (e o) = false → s.entryPoison c c.T (e o) = some q →
        ∃ t, exec i s = .next t ∧ Entered c t q.cause c.F.pc q.tval c.F.active c.F.runCount ∧ t.waves = s.waves ∧ left t)) ∧
    (∀ o, s.gangFault c = none → alone → free → mmaOperands c x = .ok o → s.poisonOpen c (e o) = false → s.entryPoison c c.T (e o) = none →
      s.contextRoom c.W.core (contextOf o.2.2) = true →
      ∃ t id k, exec i s = .next t ∧ PassedUnchanged c s t ∧ (∀ y ∈ t.mx.clasps, y ∈ s.mx.clasps) ∧ Tbl.find t.mx.entries k = some { e o with pends := [id] } ∧
        Outstanding c t id x.tok.toNat .none (heldLanes c.W c.F)) ∧
    (s.gangFault c = none → ((x.win = false ∧ 1 < gang.length) ∨ (alone ∧ (¬free ∨ ∃ o, mmaOperands c x = .ok o ∧ (s.poisonOpen c (e o) = true ∨
        (s.entryPoison c c.T (e o) = none ∧ s.contextRoom c.W.core (contextOf o.2.2) = false))))) →
      ∃ t n k, exec i s = .next t ∧ Meets c s t ∧ Tbl.find t.mx.clasps n = some k ∧ k.core = c.W.core ∧ k.team = c.t ∧ k.gang = c.F.gang ∧ k.instr = i ∧
        k.arrived = [(c.w, c.f)] ∧ (k.opened = true ↔ free))

/-- MMA and MMAS of a fragment that joins a rendezvous of its gang (R246, R247, R249, R260, R261). With the same instruction, class, class-1 values and
gang it waits there while another member is missing; as the last one it closes the clasp: every member takes the trap of a bad operand or of poison;
or, with room, one entry covers the rows of the wave with the lowest index, every member goes on past its instruction with a record of its own on its
token, and the rendezvous is gone. One that differs has every member trap. -/
def Sys2Proof.Claims.multiplyJoins : Prop :=
  ∀ (s : State) (c : Ctx) (x : ExtWord) (i : Instr) (n : Nat) (k : Clasp), i ∈ [Instr.mma x, Instr.mmas x] → Ready s c i → Direct c x →
    s.resides c.t c.W.core = true → s.mx.clasps.find? (fun e => joins s c e.2) = some (n, k) → Tbl.find s.mx.clasps n = some k →
    ¬(c.part x = 0 ∧ gangOf c.F.gang c.W.idx = [c.W.idx]) →
    let gang := gangOf c.F.gang c.W.idx
    let all := k.arrived ++ [(c.w, c.f)]
    let alike := k.instr = i ∧ k.cls = classOf c.F.mode (pclOf i) ∧ k.vals = gangVals c x ∧ k.gang = c.F.gang
    let there (j : Nat) : Prop := j = c.W.idx ∨ s.claspHas k j = true
    let gone (t : State) : Prop := ∀ y ∈ t.mx.clasps, y.1 ≠ n
    (all.map Prod.snd).Nodup → (∀ m ∈ all, ∃ d, s.ctxOf m.2 i = some d ∧ d.w = m.1 ∧ d.t = c.t) → c.T.task.handler ≠ 0 →
    (¬alike → ∃ t, exec i s = .next t ∧ gone t ∧ ∀ m ∈ all, GangTrapped c s t m.2 0x0B (tvalSub 2 (c.W.idx % 2 ^ 16))) ∧
    (alike → (∃ j ∈ gang, ¬there j) → (∀ j ∈ gang, ¬there j → (s.waveAt c.t j).isSome = true) → gangOf k.gang (s.indexOf ((k.arrived.headD (0, 0)).1)) = gang →
      ∃ t, exec i s = .next t ∧ Meets c s t ∧ Tbl.find t.mx.clasps n = some { k with arrived := all }) ∧
    (∀ m r, alike → (∀ j ∈ gang, there j) → k.opened = true → gangOf k.gang (s.indexOf ((k.arrived.headD (0, 0)).1)) = gang →
      all.find? (fun m => s.indexOf m.1 == gang.foldl min 0xFFFF) = some m → s.ctxOf m.2 i = some r →
      let e (o : Nat × Nat × Nat) : MatrixEntry := { soloEntry r i x (contextOf o.2.2) [o.1, o.2.1] o.2.2 with first := k.first }
      let passed (t : State) (y : Nat × Nat) : Prop := ∀ F, s.frag? y.2 = some F → ∃ G, t.frag? y.2 = some G ∧ G.pc = F.pc + BitVec.ofNat 64 c.len ∧
        G.rwc = F.rwc + 1 ∧ G.fstate ≠ .meeting ∧ G.scal = F.scal ∧ G.active = F.active ∧ G.mode = F.mode
      (∀ q, r.part x ≠ 0 → mmaOperands r x = .error q → ∃ t, exec i s = .next t ∧ gone t ∧ ∀ y ∈ all, GangTrapped c s t y.2 q.cause q.tval) ∧
      (∀ o q, r.part x ≠ 0 → mmaOperands r x = .ok o → s.poisonOpen r (e o) = false → s.entryPoison r r.T (e o) = some q →
        ∃ t, exec i s = .next t ∧ gone t ∧ ∀ y ∈ all, GangTrapped c s t y.2 q.cause q.tval) ∧
      (∀ o, r.part x ≠ 0 → mmaOperands r x = .ok o → s.poisonOpen r (e o) = false → s.entryPoison r r.T (e o) = none →
        s.contextRoom r.W.core (contextOf o.2.2) = true →
        ∃ t z ids, exec i s = .next t ∧ gone t ∧ (∀ a, t.byte a = s.byte a) ∧ t.waves = s.waves ∧ t.teams = s.teams ∧
          Tbl.find t.mx.entries z = some { e o with pends := ids } ∧ ids.length = all.length ∧
          ∀ y ∈ all, passed t y ∧ ∃ id ∈ ids, ∃ P, Tbl.find t.pend id = some P ∧ P.wave = y.1 ∧ P.tok = x.tok.toNat ∧ P.dst = .none) ∧
      (r.part x = 0 → ∃ t, exec i s = .next t ∧ gone t ∧ t.mx.entries = s.mx.entries ∧ t.pend = s.pend ∧ ∀ y ∈ all, passed t y))

/-- MMA and MMAS (R246, R247, R249). -/
def Obligations.MatrixMultiply : Prop := Claims.multiplyFirst ∧ Claims.multiplyJoins

/-! ## The radiance cache -/

/-- RCQ (R272, R273, R279, R282). With no lane it has no effect. It waits for what its loads wait for and for the unit to reach the generation that the
fragment has read; then it is outstanding with the unit's generation and each lane's inputs, and it is counted. An unheld register that the instance's
record has it read raises Register Block; an instance that is not open, or of another address space, Access. -/
def Sys2Proof.Claims.cacheQueries : Prop :=
  ∀ (s : State) (c : Ctx) (x : ExtWord), Ready s c (.rcq x) →
    let k := instOf x
    let g (i : Instance) : Nat := i.genAt (clusterOf c.W.core)
    (∀ r, (s.recordUses (.rcq x)).find? (fun r => !c.W.holds r.1) = some r →
      exec (.rcq x) s = .next (s.trapFrag c.f ⟨0x0C, tvalSub 1 r.1, c.F.active, none, false, []⟩ c.len)) ∧
    (Holding s c (.rcq x) → c.part x = 0 → Completes s c (.rcq x) [] 0 false (fun t => t.pend = s.pend)) ∧
    (Holding s c (.rcq x) → c.part x ≠ 0 → s.acquiring c.w s.nextId (heldLanes c.W c.F) = true → exec (.rcq x) s = .next s) ∧
    (∀ e, InstanceFault s c x false e → exec (.rcq x) s = .next (s.trapFrag c.f e c.len)) ∧
    (∀ i, CacheReady s c x i false → g i < Tbl.get 0 c.F.gens k → exec (.rcq x) s = .next s) ∧
    (∀ i, CacheReady s c x i false → Tbl.get 0 c.F.gens k ≤ g i →
      ∃ t id F, exec (.rcq x) s = .next t ∧ Passed c s t (readMode c x i false) ∧ t.frag? c.f = some F ∧ Tbl.get 0 F.gens k = g i ∧
        Outstanding c t id x.tok.toNat (.vec x.d.num.toNat 2) (c.part x) ∧ (Tbl.find t.pend id).map Pend.kind = some (.query k (g i)
          ((c.part x).lanes.map (fun l => (l, rcInput i.cfg.naux (c.values x (cacheSources x i false) l).1)))) ∧
        t.inst? k = some { i with queries := i.queries + (c.part x).lanes.length })

/-- RCT (R133, R272, R274, R275, R282). With no lane it has no effect. Behind FENCE.XQ it waits BLOCKED. With room in q3 the entry holds, in lane order,
each lane's inputs, targets, weight and key but for the rejected ones, which are counted; without room all are dropped and counted. Either way the
lanes' numbers go on. Faults as of RCQ; another queue than q3 raises Queue Fault. -/
def Sys2Proof.Claims.cacheSamples : Prop :=
  ∀ (s : State) (c : Ctx) (x : ExtWord), Ready s c (.rct x) →
    let k := instOf x
    let full := 8 ≤ (c.W.queues.q3.filter (fun e => c.T.gate ≤ e.pend)).length
    let numbered (W : Wave) : Prop := ∀ l, l < 64 → Tbl.get 0 W.samples (k * 64 + l) = Tbl.get 0 c.W.samples (k * 64 + l) + if (c.part x).has l then 1 else 0
    (∀ r, (s.recordUses (.rct x)).find? (fun r => !c.W.holds r.1) = some r →
      exec (.rct x) s = .next (s.trapFrag c.f ⟨0x0C, tvalSub 1 r.1, c.F.active, none, false, []⟩ c.len)) ∧
    (Holding s c (.rct x) → x.d.num ≠ 3 → exec (.rct x) s = .next (s.trapFrag c.f (queueFault c 1 x.d.num.toNat) c.len)) ∧
    (Holding s c (.rct x) → x.d.num = 3 → c.part x = 0 → Completes s c (.rct x) [] 0 false (fun t => t.pend = s.pend)) ∧
    (Holding s c (.rct x) → x.d.num = 3 → c.part x ≠ 0 → s.pushHeld c.w = true → ∃ t, exec (.rct x) s = .next t ∧ Waits c s t) ∧
    (x.d.num = 3 → s.pushHeld c.w = false →
      (Holding s c (.rct x) → c.part x ≠ 0 → s.acquiring c.w s.nextId (heldLanes c.W c.F) = true → exec (.rct x) s = .next s) ∧
      (∀ e, InstanceFault s c x true e → exec (.rct x) s = .next (s.trapFrag c.f e c.len)) ∧
      (∀ i, CacheReady s c x i true → (c.W.queues.q3.filter (fun e => c.T.gate ≤ e.pend)).length < 8 →
        ∃ t W e, exec (.rct x) s = .next t ∧ Passed c s t (readMode c x i true) ∧ t.wave? c.w = some W ∧ numbered W ∧
          W.queues.q3 = c.W.queues.q3 ++ [e] ∧ e.inst = k ∧ Outstanding c t e.pend x.tok.toNat .none (c.part x) ∧
          ∃ t2 : Nat → BitVec 32, let all := (c.part x).lanes.map (fun l => cacheSample s c x i (t2 l) l)
            e.samples = all.filter (fun y => !y.rejected) ∧
            t.inst? k = some { i with rejected := i.rejected + (all.filter Sample.rejected).length }) ∧
      (∀ i, CacheReady s c x i true → full →
        ∃ t W, exec (.rct x) s = .next t ∧ Passed c s t (readMode c x i true) ∧ t.wave? c.w = some W ∧ numbered W ∧ W.queues = c.W.queues ∧
          t.pend = s.pend ∧ t.inst? k = some { i with dropped := i.dropped + (c.part x).lanes.length }))

/-- RCGEN, RCCFG and RCSTAT at issue (R277, R280, R281): they wait for an acquire; with nothing earlier outstanding an operation of the instance is at its
optimiser; else a releasing one stands behind its release. No register changes before the answer. -/
def Sys2Proof.Claims.instanceOperations : Prop :=
  ∀ (s : State) (c : Ctx) (x : ExtWord), ∀ p ∈ instanceOps c x, Ready s c p.1 →
    let own := heldLanes c.W c.F
    let dst : Dest := .scal x.d.num.toNat 1
    (s.acquiring c.w s.nextId own = true → exec p.1 s = .next s) ∧
    (s.acquiring c.w s.nextId own = false → (p.2.1 = 5 ∨ s.releaseReady c.w s.nextId own 4 = true) →
      ∃ t k o, exec p.1 s = .next t ∧ PassedUnchanged c s t ∧ t.rc.insts = s.rc.insts ∧ Tbl.find t.rc.ops k = some o ∧ o.op = p.2.1 ∧
        o.inst = instOf x ∧ o.arg = p.2.2 ∧ o.wave = c.w ∧ o.asid = c.T.asid ∧ o.table = c.T.table ∧ o.core = c.W.core ∧ o.stage = 0 ∧
        Outstanding c t o.pend x.tok.toNat dst own) ∧
    (s.acquiring c.w s.nextId own = false → p.2.1 ≠ 5 → s.releaseReady c.w s.nextId own 4 = false →
      ∃ t id, exec p.1 s = .next t ∧ PassedUnchanged c s t ∧ t.rc = s.rc ∧ Outstanding c t id x.tok.toNat dst own ∧
        (Tbl.find t.pend id).map Pend.kind = some (.release 4 (.radiance p.2.1 (instOf x) c.T.table p.2.2)))

/-- The answers of an instance's optimiser to the operation that comes first there (R277, R280, R281). RCSTAT: the counter, or all ones of an instance that is
not open. The others: status 4 of one that is not open, 5 to another address space, 6 of one that is FAILED, in this order, to a RCGEN with the
generation beside it. PAUSE, once no write of a step is on its way, and RUN answer 0. An accepted DROP closes the instance, which goes, with an answer,
when no query is outstanding. -/
def Sys2Proof.Claims.instanceAnswers : Prop :=
  (∀ (s : State) (k id d n : Nat) (o : RcOp) (P : Pend), (∀ e ∈ s.rc.ops, ¬(e.2.inst = k ∧ e.2.op = 1 ∧ e.2.stage = 1)) → s.headOp k = some (id, o) →
    Tbl.find s.pend o.pend = some P → P.dst = .scal d n →
    let t := s.serveInst k
    (o.op = 5 → Answered s t o id P d (match s.openInst k with | some i => i.counter o.arg | none => 2 ^ 64 - 1)) ∧
    (1 ≤ o.op → o.op ≤ 4 → o.stage = 0 → s.openInst k = none → Answered s t o id P d 4) ∧
    (∀ i, 1 ≤ o.op → o.op ≤ 4 → o.stage = 0 → s.openInst k = some i →
      let gen := if o.op = 4 then i.gen.toNat * 2 ^ 32 else 0
      (i.asid ≠ o.asid → Answered s t o id P d (5 + gen)) ∧
      (i.asid = o.asid → i.failed = true → o.op ≠ 1 → Answered s t o id P d (6 + gen)) ∧
      (i.asid = o.asid → o.op = 1 → t.openInst k = none ∧ t.inst? k = some { i with dropping := true }) ∧
      (i.asid = o.asid → i.failed = false → o.op = 2 → t.inst? k = some { i with paused := true } ∧ (s.optimiserBusy k = false → Answered s t o id P d 0)) ∧
      (i.asid = o.asid → i.failed = false → o.op = 3 → t.inst? k = some { i with paused := false } ∧ Answered s t o id P d 0))) ∧
  (∀ (s : State) (k id d n : Nat) (o : RcOp) (P : Pend) (i : Instance),
    s.rc.ops.find? (fun e => e.2.inst == k && e.2.op == 1 && e.2.stage == 1) = some (id, o) → s.headOp k = none → s.inst? k = some i →
    Tbl.find s.pend o.pend = some P → P.dst = .scal d n →
    (s.querying k none = true → s.serveInst k = s) ∧
    (s.querying k none = false → (∀ e ∈ s.waves, ∀ q ∈ e.2.queues.q3, q.pend ≠ o.pend) →
      let t := s.serveInst k
      t.inst? k = none ∧ Answered s t o id P d (if i.failed then 6 else 0) ∧ (∀ e ∈ t.waves, ∀ q ∈ e.2.queues.q3, q.inst ≠ k)))

/-- The radiance-cache instructions (R272 to R281). -/
def Obligations.RadianceInstructions : Prop := Claims.cacheQueries ∧ Claims.cacheSamples ∧ Claims.instanceOperations ∧ Claims.instanceAnswers

/-! ## Rays, meshes and textures -/

/-- TRACE and RQINIT (R294, R296, R297, R302). With no lane they have no effect; they wait for an acquire, and RQINIT for its lanes' queries; a ray register
of another tag traps. Else one ray or query for each lane is on its way with the lane's registers, and one record awaits them all; a query replaces the
lane's old one. TRACE in a shader wave is an illegal instruction. -/
def Sys2Proof.Claims.raysStart : Prop :=
  ∀ (s : State) (c : Ctx) (x : ExtWord),
    let wait (i : Instr) : Prop := s.acquiring c.w s.nextId (heldLanes c.W c.F) = true ∨ (i = .rqinit x ∧ s.queryBusy c.w (c.part x) = true)
    (∀ i ∈ [Instr.trace x, Instr.rqinit x], Ready s c i →
      (c.part x = 0 → Completes s c i [] 0 false (fun t => t.gfx = s.gfx ∧ t.pend = s.pend)) ∧
      (c.part x ≠ 0 → wait i → exec i s = .next s) ∧
      (∀ e, c.part x ≠ 0 → ¬wait i → c.tagTrap (c.part x).lanes (raySources x) = some e →
        exec i s = .next (s.trapFrag c.f { e with lanes := none } c.len))) ∧
    (Ready s c (.trace x) → c.part x ≠ 0 → ¬wait (.trace x) → c.tagTrap (c.part x).lanes (raySources x) = none →
      ∃ t id, exec (.trace x) s = .next t ∧ PassedUnchanged c s t ∧ Outstanding c t id x.tok.toNat (traceDest x) (c.part x) ∧
        (∀ l, (c.part x).has l = true → ∃ k j, t.ray? k = some j ∧ started c x false id l j ∧
          j.payload = (List.range x.x.toNat).map (fun i => c.W.reg l (x.d.num.toNat + i)))) ∧
    (Ready s c (.rqinit x) → c.part x ≠ 0 → ¬wait (.rqinit x) → c.tagTrap (c.part x).lanes (raySources x) = none →
      ∃ t id, exec (.rqinit x) s = .next t ∧ PassedUnchanged c s t ∧ Outstanding c t id x.tok.toNat .none (c.part x) ∧
        (∀ l, (c.part x).has l = true → ∃ k j, t.ray? k = some j ∧ started c x true id l j) ∧
        (∀ e ∈ t.gfx.rays, e.2.inline = true → e.2.wave = c.w → (c.part x).has e.2.lane = true → e.2.pend = id)) ∧
    (s.cur = some c.f → s.ctxOf c.f (.trace x) = some c → firstOffence (.trace x) = none → c.T.shader = true →
      exec (.trace x) s = .next (s.trapFrag c.f (illegal c (Instr.trace x).word0 4) c.len))

/-- RQSTEP (R302). It waits for an acquire and for its lanes' query instructions. Lanes with an open query go on, a candidate still undecided is ignored,
and one record awaits D for them; D is false at once in the other lanes. -/
def Sys2Proof.Claims.queriesStep : Prop :=
  ∀ (s : State) (c : Ctx) (x : ExtWord), Ready s c (.rqstep x) →
    let going := Mask.ofList ((c.part x).lanes.filter (openQuery s c))
    let wait := s.acquiring c.w s.nextId (heldLanes c.W c.F) = true ∨ s.queryBusy c.w (c.part x) = true
    (c.part x = 0 → Completes s c (.rqstep x) [] 0 false (fun t => t.gfx = s.gfx ∧ t.pend = s.pend)) ∧
    (c.part x ≠ 0 → wait → exec (.rqstep x) s = .next s) ∧
    (c.part x ≠ 0 → ¬wait → going = 0 → Completes s c (.rqstep x) [x.d] (c.part x) false (fun t => t.gfx = s.gfx ∧ t.pend = s.pend ∧
      ReceivesPred c t x.d.num.toNat (c.part x) (fun _ => false))) ∧
    (¬wait → going ≠ 0 →
      ∃ t id F, exec (.rqstep x) s = .next t ∧ (∀ a, t.byte a = s.byte a) ∧ (∀ w l n, t.vreg w l n = s.vreg w l n) ∧
        (∀ p l, l < 64 → (t.predOf c.w p).has l = ((c.W.pred p).has l && !(p == x.d.num.toNat && p != 0 && (c.part x).has l && !going.has l))) ∧
        t.frag? c.f = some F ∧ F.pc = c.F.pc + BitVec.ofNat 64 c.len ∧ F.scal = c.F.scal ∧ F.active = c.F.active ∧ F.mode = c.F.mode ∧
        Outstanding c t id x.tok.toNat (.pred x.d.num.toNat) going ∧
        ∀ e ∈ s.gfx.rays, (e.1, if e.2.inline = true ∧ e.2.wave = c.w ∧ going.has e.2.lane = true
          then { e.2 with stage := .walking, cand := none, pend := id, ord := id, own := heldLanes c.W c.F } else e.2) ∈ t.gfx.rays)

/-- HITGET (R303): while a query instruction of its lanes is outstanding it waits; then each lane of D receives the attribute of its context's hit: the
committed one, under .CAND the candidate; a failed query has KIND 3; zero tagged RAW where there is no context or no such hit. That a miss lane has its
ray beside KIND 0, and that a shader lane's own query does not count, is the model's choice (log entry 100). -/
def Sys2Proof.Claims.hitAttributes : Prop :=
  ∀ (s : State) (c : Ctx) (x : ExtWord), Ready s c (.hitget x) →
    let sel := x.x.toNat
    let cand := x.sub.getLsbD 0
    let shown (h : Option Hit) (r : Ray) : VReg := match h with | some h => hitValue h r sel | none => VReg.zero
    (s.queryBusy c.w (c.part x) = true → exec (.hitget x) s = .next s) ∧
    (s.queryBusy c.w (c.part x) = false → Completes s c (.hitget x) [x.d] (c.part x) false (fun t => ∀ l, (c.part x).has l = true →
      let v := t.vreg c.w l x.d.num.toNat
      (s.shaded? c.w l = none → s.query? c.w l = none → v = VReg.zero) ∧
      (∀ id j, s.shaded? c.w l = none → s.query? c.w l = some (id, j) →
        v = if cand then shown j.cand j.ray else if j.failed = true ∧ sel = 4 then ⟨3, 2⟩ else shown j.hit j.ray) ∧
      (∀ id j, s.shaded? c.w l = some (id, .closest, j) → j.failed = false → v = if cand then VReg.zero else shown j.hit j.ray) ∧
      (∀ id j, s.shaded? c.w l = some (id, .anyHit, j) → j.failed = false → v = shown (if cand then j.cand else j.hit) j.ray) ∧
      (∀ id j, s.shaded? c.w l = some (id, .miss, j) → j.failed = false → j.hit = none →
        v = if cand then VReg.zero else if sel = 4 then ⟨0, 2⟩ else if 5 ≤ sel then rayRegister j.ray (sel - 5) else VReg.zero)))

/-- HITACC and HITIGN (R299, R304): while a query instruction of their lanes is outstanding they wait; then the ray of each any-hit lane has its decision,
each lane's pending candidate of an inline query is accepted or discarded, and no other ray or query changes. -/
def Sys2Proof.Claims.hitDecisions : Prop :=
  ∀ (s : State) (c : Ctx) (x : ExtWord), ∀ p ∈ [(Instr.hitacc x, if x.mod.getLsbD 0 then 2 else 1), (Instr.hitign x, 3)], Ready s c p.1 →
    (s.queryBusy c.w (c.part x) = true → exec p.1 s = .next s) ∧
    (s.queryBusy c.w (c.part x) = false → RaysApart s →
      ∃ t, exec p.1 s = .next t ∧ PassedUnchanged c s t ∧ t.pend = s.pend ∧
        let decides (id l : Nat) : Prop := (c.part x).has l = true ∧ ∃ j, s.shaded? c.w l = some (id, .anyHit, j)
        let ends (id l : Nat) : Prop := (c.part x).has l = true ∧ ∃ j, s.query? c.w l = some (id, j) ∧ j.cand ≠ none
        (∀ l id j, (c.part x).has l = true → s.shaded? c.w l = some (id, .anyHit, j) → t.ray? id = some { j with decision := p.2 }) ∧
        (∀ l id j h, (c.part x).has l = true → s.query? c.w l = some (id, j) → j.cand = some h →
          t.ray? id = some { (if p.2 = 3 then j else j.accept h (p.2 = 2)) with cand := none }) ∧
        (∀ id, (∀ l, ¬decides id l ∧ ¬ends id l) → t.ray? id = s.ray? id))

/-- The ray instructions (R294 to R304). -/
def Obligations.RayInstructions : Prop := Claims.raysStart ∧ Claims.queriesStep ∧ Claims.hitAttributes ∧ Claims.hitDecisions

/-- REFIT, VBLD, MSHEMIT and MSHDONE (R305, R308 to R310) with no acquire outstanding. A refit or a pass is queued at the die's unit with its descriptor's
address, and D awaits its status; VBLD of an open slot answers 4 at once. Triangles and arrivals go to the pass in the slot, and a slot without one
raises an Access fault. -/
def Sys2Proof.Claims.meshesAndRefits : Prop :=
  ∀ (s : State) (c : Ctx) (x : ExtWord), s.acquiring c.w s.nextId (heldLanes c.W c.F) = false →
    let die := dieOf c.W.core
    let slot := x.x.toNat
    (Ready s c (.refit x) → ∃ t k q, exec (.refit x) s = .next t ∧ PassedUnchanged c s t ∧ Tbl.find t.gfx.refits k = some q ∧ q.die = die ∧
      q.desc = c.F.scalar x.a.num.toNat ∧ q.stage = 0 ∧ Outstanding c t q.pend x.tok.toNat (.scal x.d.num.toNat 1) (heldLanes c.W c.F)) ∧
    (Ready s c (.vbld x) → s.passAt die slot = none → ∃ t k p, exec (.vbld x) s = .next t ∧ PassedUnchanged c s t ∧ Tbl.find t.gfx.passes k = some p ∧
      p.die = die ∧ p.slot = slot ∧ p.desc = c.F.scalar x.a.num.toNat ∧ p.stage = 0 ∧ p.tris = [] ∧
      Outstanding c t p.pend x.tok.toNat (.scal x.d.num.toNat 1) (heldLanes c.W c.F)) ∧
    (Ready s c (.vbld x) → (s.passAt die slot).isSome = true → ∃ t, exec (.vbld x) s = .next t ∧ PassesWith c s t x.d.num.toNat 4 ∧ t.gfx = s.gfx) ∧
    (Ready s c (.mshemit x) → c.part x = 0 → Completes s c (.mshemit x) [] 0 false (fun t => t.gfx = s.gfx)) ∧
    (∀ id p, c.part x ≠ 0 → Ready s c (.mshemit x) → c.tagTrap (c.part x).lanes (meshSources x) = none → (∀ l, (c.values x (meshSources x) l).2 = 0) →
      s.passAt die slot = some (id, p) →
      ∃ t, exec (.mshemit x) s = .next t ∧ PassedUnchanged c s t ∧
        Tbl.find t.gfx.passes id = some { p with tris := p.tris ++ (c.part x).lanes.map (emitted c x) }) ∧
    (∀ id p, Ready s c (.mshdone x) → s.passAt die slot = some (id, p) →
      ∃ t, exec (.mshdone x) s = .next t ∧ PassedUnchanged c s t ∧ Tbl.find t.gfx.passes id = some { p with arrived := p.arrived + 1 }) ∧
    (Ready s c (.mshdone x) → s.passAt die slot = none → exec (.mshdone x) s = .next (s.trapFrag c.f (trapWhole c 0x07 (tvalSub 0x0A slot)) c.len)) ∧
    (c.part x ≠ 0 → Ready s c (.mshemit x) → c.tagTrap (c.part x).lanes (meshSources x) = none → (∀ l, (c.values x (meshSources x) l).2 = 0) →
      s.passAt die slot = none →
      exec (.mshemit x) s = .next (s.trapFrag c.f ⟨0x07, tvalSub 0x0A slot, c.part x, none, false, []⟩ c.len))

/-- TEX and TEXFB (R311, R312). With no lane they have no effect. A descriptor that reads as poison ends the participating lanes, and where the first lane's
sample is the only one its colour is what the texture's texels blend to: two registers of a vector D, and pS says whether the tile was away. -/
def Sys2Proof.Claims.textures : Prop :=
  ∀ (s : State) (c : Ctx) (x : ExtWord), ∀ p ∈ [(Instr.tex x, true), (Instr.texfb x, false)], Ready s c p.1 →
    (c.part x = 0 → Completes s c p.1 [] 0 false (fun t => t.pend = s.pend)) ∧
    (∀ s1 bs t l s2 r, c.part x = Mask.one l → l < 64 → s.acquiring c.w s.nextId (heldLanes c.W c.F) = false → c.tagTrap [l] (texSources x) = none →
      (c.values x (texSources x) l).2 = 0 → s.coreRead c (c.F.scalar x.b.num.toNat) 64 = .ok s1 bs false → parseTex bs = some t → t.fbmap = 0 →
      s1.sampleLane c t (x.x.getLsbD 0) (x.x.getLsbD 1) (texLevel c x t l)
        (BitVec.ofNat 32 (elem 32 ((c.values x (texSources x) l).1.getD 0 0) 0)) (BitVec.ofNat 32 (elem 32 ((c.values x (texSources x) l).1.getD 0 0) 1)) = .ok s2 r →
      r.dead = none → x.d.num.toNat < 255 →
      ∃ u F, exec p.1 s = .next u ∧ u.frag? c.f = some F ∧ F.pc = c.F.pc + BitVec.ofNat 64 c.len ∧
        (p.2 = true → u.vreg c.w l x.d.num.toNat = ⟨pairWord (r.vals.getD 0 0) (r.vals.getD 1 0), 6⟩ ∧
          u.vreg c.w l (x.d.num.toNat + 1) = ⟨pairWord (r.vals.getD 2 0) (r.vals.getD 3 0), 6⟩) ∧
        (p.2 = true → ∀ n, predOfMod x = some n → n ≠ 0 → (u.predOf c.w n).has l = r.away) ∧
        (p.2 = false → ∀ n, u.vreg c.w l n = s.vreg c.w l n))

/-- Meshes, refits and textures (R305 to R312). -/
def Obligations.MeshesTexturesAndRefits : Prop := Claims.meshesAndRefits ∧ Claims.textures

/-! ## Launching -/

/-- LAUNCH (R375): with nothing earlier outstanding at DEVICE scope it takes 1 from the PRED of a node that is not 0 already, starts the node with its last
decrement, and D says which it was; else it stands behind its release. While the home holds the node's line (R340) it waits in place. -/
def Sys2Proof.Claims.launchCountsDown : Prop :=
  ∀ (s : State) (c : Ctx) (x : ExtWord) (ps : List Piece), Ready s c (.launch x) →
    let va := c.F.scalar x.a.num.toNat
    let pa := (ps.map Piece.addr).headD 0
    let s1 := s.fillAccess (.core c.W.core) c.T.asid c.T.table va 4
    let old := s.memNat (pa + 4) 4
    va.toNat % 128 = 0 → c.reach s [0] (fun _ => va) 4 .write .launch true = .ok [(0, va, ps)] →
    (s.nodeFree pa = false → exec (.launch x) s = .next s) ∧
    (s.nodeFree pa = true → s1.releaseReady c.w s1.nextId (heldLanes c.W c.F) 4 = true → s.rel.rot = [] → s.memPoisoned pa 128 = false →
      nodeAddr pa = true → NoWaitAt s pa → heldLanes c.W c.F ≠ 0 →
      ∃ t, exec (.launch x) s = .next t ∧
        PassesStoring c s t (if x.d.cls = .scal then some (x.d.num.toNat, if old = 0 then 2 else if old = 1 then 0 else 1) else none)
          (fun a => if old ≠ 0 ∧ pa + 4 ≤ a ∧ a < pa + 8 then (natBytes 4 (old - 1))[a - (pa + 4)]? else none) ∧
        Tbl.get [] t.sched.tasks (homeOf pa) = Tbl.get [] s.sched.tasks (homeOf pa) ++ (if old = 1 then [WalkTask.start pa] else [])) ∧
    (s.nodeFree pa = true → s1.releaseReady c.w s1.nextId (heldLanes c.W c.F) 4 = false →
      ∃ t id P, exec (.launch x) s = .next t ∧ PassedUnchanged c s t ∧ t.sched = s.sched ∧ Tbl.find t.pend id = some P ∧
        P.kind = .release 4 (.launch pa va) ∧ P.tok = x.tok.toNat)

/-- Tile flags and drains (R161, R372, R376, R377). WAIT.F waits while its flag is clear and goes on when it is set; TREADY sets the flag when the wave's
earlier stores to the tile are performed, and stands behind them else; TREADY.CLR clears it; a malformed descriptor traps. DRAIN takes its number from the
slot that its destination names, and a destination or number that is none traps. -/
def Sys2Proof.Claims.flagsAndDrains : Prop :=
  (∀ (s : State) (c : Ctx) (x : ExtWord) (ps : List Piece),
    let va := c.F.scalar x.a.num.toNat
    let pa := (ps.map Piece.addr).headD 0
    let flag := parseFlag (readBytes s.mem pa 32)
    let own := heldLanes c.W c.F
    let tile := s.tileRanges (.core c.W.core) c.T.asid c.T.table flag
    va.toNat % 32 = 0 → s.homeBusy c.W pa 32 = false → s.memPoisoned pa 32 = false → s.acquiring c.w s.nextId own = false →
    (Ready s c (.waitF x) → c.reach s [0] (fun _ => va) 4 .read .launch true = .ok [(0, va, ps)] →
      (flag.set = true → ∃ t, exec (.waitF x) s = .next t ∧ PassedUnchanged c s t ∧ t.pend = s.pend) ∧
      (flag.set = false → ∃ t, exec (.waitF x) s = .next t ∧ Waits c s t)) ∧
    (Ready s c (.tready x) → c.reach s [0] (fun _ => va) 4 .write .launch true = .ok [(0, va, ps)] →
      (flag.ok = false → exec (.tready x) s = .next (s.trapFrag c.f (queueFault c 2 0xFF) c.len)) ∧
      (flag.ok = true → s.rel.rot = [] → NoWaitAt s pa → (x.sub.getLsbD 0 = true ∨ s.tileReady c.w s.nextId tile = true) →
        ∃ t, exec (.tready x) s = .next t ∧ PassesStoring c s t none
          (fun a => if a = pa then some (BitVec.ofNat 8 (s.memNat pa 1 / 2 * 2 + (if x.sub.getLsbD 0 then 0 else 1))) else none)) ∧
      (flag.ok = true → x.sub.getLsbD 0 = false → s.tileReady c.w s.nextId tile = false →
        ∃ t id P, exec (.tready x) s = .next t ∧ PassedUnchanged c s t ∧ Tbl.find t.pend id = some P ∧ P.kind = .release 4 (.tready pa va tile) ∧
          P.tok = x.tok.toNat))) ∧
  (∀ (s : State) (c : Ctx) (x : ExtWord), Ready s c (.drain x) →
    let n := if x.b.cls = .scal then (c.F.scalar x.b.num.toNat).toNat % 2 ^ 32 else (c.count x x.b).toNat % 2 ^ 32
    (s.drainDest (c.F.scalar x.a.num.toNat) = none → exec (.drain x) s = .next (s.trapFrag c.f (queueFault c 2 x.a.num.toNat) c.len)) ∧
    (∀ key, s.drainDest (c.F.scalar x.a.num.toNat) = some key → 2 ^ 31 ≤ n → ∃ r, exec (.drain x) s = .next (s.trapFrag c.f (queueFault c 2 r) c.len)) ∧
    (∀ key, s.drainDest (c.F.scalar x.a.num.toNat) = some key → n < 2 ^ 31 → s.releaseReady c.w s.nextId (heldLanes c.W c.F) 4 = true →
      s.sched.joins = [] →
      ∃ t, exec (.drain x) s = .next t ∧ PassedUnchanged c s t ∧
        Tbl.get ⟨0, false⟩ t.sched.drains key = { Tbl.get ⟨0, false⟩ s.sched.drains key with
          count := (Tbl.get ⟨0, false⟩ s.sched.drains key).count - BitVec.ofNat 32 n } ∧
        ∀ k, k ≠ key → Tbl.get ⟨0, false⟩ t.sched.drains k = Tbl.get ⟨0, false⟩ s.sched.drains k))

/-- ECHK and ICLR (R402, R411): ECHK reads the sequence counter, or copies the record of a sequence number to the scratchpad with status 0, or gives status 1
or 2 without one, or 3 while it is disabled; ICLR drops instruction lines and changes nothing else. -/
def Sys2Proof.Claims.errorsAndCode : Prop :=
  ∀ (s : State) (c : Ctx) (x : ExtWord), s.acquiring c.w s.nextId (heldLanes c.W c.F) = false →
    let a := c.F.scalar x.a.num.toNat
    (Ready s c (.echk x) → x.sub.getLsbD 0 = false →
      ∃ t, exec (.echk x) s = .next t ∧ PassesWith c s t x.d.num.toNat (s.rel.seq.zeroExtend 64) ∧ t.teams = s.teams) ∧
    (Ready s c (.echk x) → x.sub.getLsbD 0 = true → a.toNat % 16 = 0 → rangeFault c c.T a 64 = none → s.scratchBusy c.w c.W a.toNat 64 = false →
      (s.rel.echkOff = true → ∃ t, exec (.echk x) s = .next t ∧ PassesWith c s t x.d.num.toNat 3 ∧ t.teams = s.teams) ∧
      (∀ st, s.rel.echkOff = false → s.record ((c.F.scalar x.b.num.toNat).extractLsb' 0 32) = .error st →
        ∃ t, exec (.echk x) s = .next t ∧ PassesWith c s t x.d.num.toNat (BitVec.ofNat 64 st) ∧ t.teams = s.teams) ∧
      (∀ r, s.rel.echkOff = false → s.record ((c.F.scalar x.b.num.toNat).extractLsb' 0 32) = .ok r →
        ∃ t T, exec (.echk x) s = .next t ∧ PassesWith c s t x.d.num.toNat 0 ∧ t.team? c.t = some T ∧
          ∀ k, Tbl.get 0 T.scratch k = if a.toNat ≤ k then (r.bytes[k - a.toNat]?).getD (Tbl.get 0 c.T.scratch k) else Tbl.get 0 c.T.scratch k)) ∧
    (Ready s c (.echk x) → x.sub.getLsbD 0 = true → a.toNat % 16 ≠ 0 →
      exec (.echk x) s = .next (s.trapFrag c.f ⟨0x05, tvalSub 0x04 a.toNat, c.F.active, none, false, []⟩ c.len)) ∧
    (Ready s c (.iclr x) → ∃ t, exec (.iclr x) s = .next t ∧ PassedUnchanged c s t ∧ t.teams = s.teams ∧
      (x.sub.getLsbD 0 = true → Tbl.get [] t.path.icore c.W.core = [] ∧ Tbl.get [] t.path.iclus (clusterOf c.W.core) = []))

/-- LAUNCH, tile flags, drains, the error ring and ICLR (R372 to R377, R402, R411). -/
def Obligations.LaunchingAndErrors : Prop := Claims.launchCountsDown ∧ Claims.flagsAndDrains ∧ Claims.errorsAndCode

/-- Forced fuse (R358, R359, R361): while a fragment that holds lanes of a segment it needs is not at the instruction, the fragment waits there in MEETING,
with MODE's timeout code for a window; the only fragment of its wave goes on as it would alone, its temporaries invalid. -/
def Obligations.ForcedFuse : Prop :=
  ∀ (s : State) (c : Ctx) (x : ExtWord), (s.frags.map Prod.fst).Nodup → (s.fragsOf c.w).length ≤ 16 → x.minw ≠ 0 → c.F.save = none →
    c.F.gathered = false → (x.win = true → c.F.lateAt c.F.pc = false) →
    let m := minwLanes x.minw
    (∀ i ∈ gathering x, ∀ e ∈ s.frags, Ready s c i → e.1 ≠ c.f → e.2.wave = c.w → e.2.fstate ≠ .meeting →
      heldLanes c.W e.2 &&& segmentLanes m c.F.active ≠ 0 → (x.win = true → e.2.lateAt c.F.pc = false) →
      ∃ t F, exec i s = .next t ∧ Meets c s t ∧ t.mx = s.mx ∧ t.frag? c.f = some F ∧
        F.meet = some ⟨.forced c.F.pc m x.win, modeFTO c.F.mode, 0, none, c.len, false⟩) ∧
    (Ready s c (.elect x) → s.fragsOf c.w = [(c.f, c.F)] → c.F.active ≠ 0 →
      ∃ t F, exec (.elect x) s = .next t ∧ t.frag? c.f = some F ∧ F.pc = c.F.pc + BitVec.ofNat 64 c.len ∧ F.fstate = .running ∧ F.meet = none ∧
        F.active = c.F.active ∧ F.scal = c.F.scal ∧ F.mode = c.F.mode ∧ F.tmpValid = 0 ∧ (∀ a, t.byte a = s.byte a) ∧
        ReceivesPred c t x.d.num.toNat (c.part x) (fun l => l == (c.part x).lanes.headD 0))

/-! ## Runs and meetings: the events of a core -/

/-- RUN_SELECT and INSTRUCTION_FETCH (R41, R151, R167, R381): where a quadrant holds one READY fragment, it starts its run if it is eligible and its core's
clock is not withheld, and what it awaited is served, with the cache actions of an acquire where a marked token was awaited; it waits BLOCKED if it is not
eligible, in its place of the order of its RACQ or OMCLAIM. A fetch changes nothing but caches. -/
def Sys2Proof.Claims.runsStart : Prop :=
  (∀ (s : State) (c : Ctx) (core quadrant : Nat), s.inQuadrant core quadrant = [(c.f, c.F)] → s.ctxOf c.f .instructionFetch = some c →
    c.F.fstate = .ready → s.issues c = true →
    (s.eligible c = true → s.startClock core = true → (∀ x, s.nextInstr c ≠ some (.racq x)) →
      ∃ t F, exec (.runSelect core quadrant) s = .next t ∧ t.mem = s.mem ∧ t.poison = s.poison ∧ t.teams = s.teams ∧ t.pend = s.pend ∧
        (∀ w l n, t.vreg w l n = s.vreg w l n) ∧ (∀ k, k ≠ c.f → t.frag? k = s.frag? k) ∧ t.frag? c.f = some F ∧
        F = { c.F with fstate := .running, await := 0, boost := F.boost, marks := c.F.marks &&& ~~~c.F.await } ∧
        (c.F.marks &&& c.F.await = 0 → t.waves = s.waves) ∧ (c.F.marks &&& c.F.await ≠ 0 → Tbl.get [] t.path.l1 core = [])) ∧
    (s.eligible c = true → s.startClock core = false → exec (.runSelect core quadrant) s = .next s) ∧
    (s.eligible c = false → (∀ x, s.nextInstr c ≠ some (.racq x)) → (∀ x, s.nextInstr c ≠ some (.omclaim x)) →
      exec (.runSelect core quadrant) s = .next (s.adjFrag c.f (fun F => { F with fstate := .blocked }))) ∧
    (∀ x, s.eligible c = false → s.atRun c = true → s.nextInstr c = some (.racq x) →
      ∃ t T, exec (.runSelect core quadrant) s = .next t ∧ t.frag? c.f = some { c.F with fstate := .blocked } ∧ t.team? c.t = some T ∧ c.f ∈ T.racq)) ∧
  (∀ (s s1 : State) (i : Instr) (e : Nat × Frag), s.rel.rot = [] → s.frags.find? (fun e => e.2.fstate == .running) = some e → s.fetchFor e.1 = .go i s1 →
    ∃ t, exec .instructionFetch s = .next t ∧ Still e.1 s t ∧ t.cur = s.cur ∧ ((s.frag? e.1).map Frag.stop = some none → t.frags = s.frags))

/-- The end of waiting in a meeting (R205, R206, R360, R361, R423): when the timer of a member at RCV or FUSE has run out, the members there fuse into the one
with the lowest lane, which goes on behind the instruction; when a window's timer has run out, its absent members are marked late and the gathered one goes
on; before, nothing changes. A stepped fragment that cannot go on in 2^20 clocks is passed over. -/
def Sys2Proof.Claims.meetingsTimeOut : Prop :=
  (∀ (s : State) (w : Nat) (W : Wave) (k : MeetKind) (p : Nat × Frag) (m : Meet), s.wave? w = some W → s.waveResides w = true → s.meetKinds w = [k] →
    (k = .fuse ∨ ∃ n, k = .rcv n) → primaryOf (s.waiting w k) = some p → p.2.meet = some m → (s.frags.map Prod.fst).Nodup →
    ((∃ e ∈ s.waiting w k, ∃ q, e.2.meet = some q ∧ q.tmo < 15 ∧ 64 * 2 ^ q.tmo ≤ q.counted / 20) →
      ∃ t F, exec (.fuseTimeout w) s = .next t ∧ t.frag? p.1 = some F ∧ F.active = (s.waiting w k).foldl (fun a e => a ||| e.2.active) 0 ∧
        F.pc = p.2.pc + BitVec.ofNat 64 m.len ∧ F.fstate = .ready ∧ F.scal = p.2.scal ∧ F.tmpValid = 0 ∧ F.late = [] ∧
        (∀ e ∈ s.waiting w k, e.1 ≠ p.1 → t.frag? e.1 = none) ∧ (∀ a, t.byte a = s.byte a)) ∧
    ((∀ e ∈ s.waiting w k, ∀ q, e.2.meet = some q → 15 ≤ q.tmo ∨ q.counted / 20 < 64 * 2 ^ q.tmo) → exec (.fuseTimeout w) s = .next s)) ∧
  (∀ (s : State) (f : Nat) (F : Frag) (W : Wave) (a : Word) (n : Nat) (m : Meet), (s.frags.map Prod.fst).Nodup → s.frag? f = some F →
    s.wave? F.wave = some W → s.waveResides F.wave = true → F.active ≠ 0 → F.meet = some m → m.kind = .forced a n true → s.waiting F.wave m.kind = [(f, F)] →
    (m.tmo < 15 → 64 * 2 ^ m.tmo ≤ m.counted / 20 →
      ∃ t G, exec (.windowTimeout f) s = .next t ∧ t.frag? f = some G ∧ G.fstate = .ready ∧ G.gathered = true ∧ G.meet = none ∧ G.pc = F.pc ∧
        G.active = F.active ∧ G.tmpValid = 0 ∧ G.scal = F.scal ∧
        (∀ e ∈ s.needed W a n true [(f, F)], e.1 ≠ f → t.frag? e.1 = some { e.2 with late := addLate e.2.late (a, s.ticks) }) ∧ ∀ b, t.byte b = s.byte b) ∧
    (15 ≤ m.tmo ∨ m.counted / 20 < 64 * 2 ^ m.tmo → exec (.windowTimeout f) s = .next s)) ∧
  (∀ (s : State) (f t : Nat) (d : Debug) (x : Stepping), s.debug = [(t, d)] → d.stepping = some x → x.focus = f → x.all = false → s.turnOver x = false →
    Timed s (.stepBlockedTimeout f) (2 ^ 20 ≤ s.clocksSince x.since) (fun u => Tbl.find u.debug t = some { d with stepping := none, status := 1 } ∧
      AllHalted u (s.teamFrags t) ∧ ∀ a, u.byte a = s.byte a))

/-- The watchdog (R424): a watched meeting that has lasted longer than its team's threshold is reported once, in an event that names the node, team, wave,
fragment, kind, PC and the absent; nothing else changes, and a meeting within its threshold or told of is not reported. -/
def Sys2Proof.Claims.watchdogReports : Prop :=
  ∀ (s : State) (c : Ctx) (m : Meet) (kind : Nat), s.fragsOf c.w = [(c.f, c.F)] → s.ctxOf c.f .instructionFetch = some c → c.F.meet = some m →
    m.watched = some kind → c.F.fstate = .meeting →
    (m.told = false → s.dogOf c.t < m.counted / 20 →
      ∃ body, body.length = 32 ∧ bytesNat (body.take 8) = s.nodeOf c.T % 2 ^ 64 ∧ bytesNat ((body.drop 8).take 2) = c.T.id % 2 ^ 16 ∧
        bytesNat ((body.drop 10).take 2) = c.W.idx % 2 ^ 16 ∧ bytesNat ((body.drop 12).take 1) = c.F.num % 2 ^ 8 ∧
        bytesNat ((body.drop 13).take 1) = kind ∧ bytesNat ((body.drop 16).take 8) = c.F.pc.toNat ∧
        bytesNat ((body.drop 24).take 8) = s.absentees c.f c.F c.W m % 2 ^ 64 ∧
        exec (.watchdogExpiry c.w) s = .next ((s.adjFrag c.f (fun F => { F with meet := some { m with told := true } })).raise 3 body)) ∧
    (m.told = true ∨ m.counted / 20 ≤ s.dogOf c.t → exec (.watchdogExpiry c.w) s = .next s)

/-- Runs start, meetings end, and the watchdog tells of those that last (R205, R206, R360, R361, R381, R423, R424). -/
def Obligations.RunsAndMeetings : Prop := Claims.runsStart ∧ Claims.meetingsTimeOut ∧ Claims.watchdogReports

/-! ## The memory system on its own -/

/-- STORE_QUEUE_DRAIN, HOME_WRITE_ACCEPT, RDC_INVALIDATION and INVALIDATION_ACK (R97, R99, R105, R110, R115): the oldest entry of a queue leaves it when
nothing earlier holds it: a scratchpad store is performed then, a local one goes on its way line by line and memory changes when its home accepts it, in each
die's order; its other sharers are sent invalidations, each drops its copy, and the write is performed for all when they have acknowledged. -/
def Sys2Proof.Claims.storesReachMemory : Prop :=
  (∀ (s : State) (w : Nat) (W : Wave) (e : StoreEntry) (rest : List StoreEntry), s.wave? w = some W → W.storeq = e :: rest → W.admits = [] → e.op = .st →
    (s.drainReady w W e = false → exec (.storeQueueDrain w) s = .next s) ∧
    (∀ T, s.drainReady w W e = true → e.scratch = true → s.team? W.team = some T →
      ∃ t V, exec (.storeQueueDrain w) s = .next t ∧ t.wave? w = some { W with storeq := rest } ∧ t.team? W.team = some V ∧
        (∀ k, Tbl.get 0 V.scratch k = (e.byte k).getD (Tbl.get 0 T.scratch k)) ∧ (∀ a, t.byte a = s.byte a) ∧
        ∀ id ∈ e.pends, (∃ P n, Tbl.find s.pend id = some P ∧ P.kind = .store n false) → Tbl.find t.pend id = none) ∧
    (∀ T, s.drainReady w W e = true → e.scratch = false → s.team? W.team = some T → s.prof.grids.contains T.grid = false →
      (∀ a ∈ e.accs, ∀ p ∈ a.pieces, p.region = .loc) →
      ∃ t, exec (.storeQueueDrain w) s = .next t ∧ t.wave? w = some { W with storeq := rest } ∧ (∀ a, t.byte a = s.byte a) ∧
        ∀ a ∈ e.accs, ∀ p ∈ a.pieces, ∃ id r, Tbl.find t.path.writes id = some r ∧ r.line = p.addr / 128 ∧ r.source = .wave w e.ord ∧
          r.accepted = false ∧ r.cells = e.bytes.filter (fun c => c.1 / 128 == r.line))) ∧
  (∀ (s : State) (id : Nat) (r : WriteRec), Tbl.find s.path.writes id = some r → s.rel.rot = [] →
    let others := (s.l2Line r.line).sharers.filter (fun d => d != r.die)
    (r.accepted = false → r.region = .loc → r.op = .st → s.frontWrite id r = true → (∀ c ∈ r.cells, NoWaitAt s c.1) →
      ∃ t, exec (.homeWriteAccept id) s = .next t ∧ t.mem = writeCells s.mem r.cells ∧ t.poison = poisonAfter s.poison r.cells r.bad ∧
        t.frags = s.frags ∧ t.waves = s.waves ∧
        Tbl.find t.path.writes id = (if others = [] then none else some { r with accepted := true, invals := others })) ∧
    (s.frontWrite id r = false → exec (.homeWriteAccept id) s = .next s) ∧
    (∀ d, d ∈ r.invals → ∃ t q, exec (.rdcInvalidation id d) s = .next t ∧ t.rdcLine d r.line = none ∧ t.mem = s.mem ∧ t.pend = s.pend ∧
      d ∉ (t.l2Line r.line).sharers ∧ Tbl.find t.path.writes id = some q ∧ d ∉ q.invals ∧ d ∈ q.acks ∧ (∀ k, k ≠ d → (k ∈ q.invals ↔ k ∈ r.invals)) ∧
      ∀ k l, (k, l) ≠ (d, r.line) → t.rdcLine k l = s.rdcLine k l) ∧
    (∀ d, d ∉ r.invals → exec (.rdcInvalidation id d) s = .next s) ∧
    ((∀ e ∈ s.path.waits, e.2.pa / 128 ≠ r.line) → ∃ t, exec (.invalidationAck id) s = .next t ∧ t.mem = s.mem ∧ t.pend = s.pend ∧
      Tbl.find t.path.writes id = (if r.accepted = false then some r else if r.invals = [] then none else some { r with acks := [] })))

/-- LOAD_DATA_RETURN, ATOMIC_PERFORM and ATOMIC_RESPONSE (R116, R121, R315, R316, R317, R320): data of a load from the scratchpad return for some of its
lanes, each with its bytes and the load's tag, but not while an earlier acquire or load of its bytes is outstanding; an atomic at its home reads, computes
and writes in one step that leaves every other byte alone; its old values reach D with the tag. -/
def Sys2Proof.Claims.resultsReturn : Prop :=
  (∀ (s : State) (id : Nat) (p : Pend) (W : Wave) (T : Team) (d n ord scope : Nat) (na sext : Bool) (tag : Tag) (accs : List LaneAcc),
    Tbl.find s.pend id = some p → s.wave? p.wave = some W → s.team? W.team = some T → p.dst = .vec d 1 → d < 256 → n ≤ 8 →
    p.kind = .load true false na n sext tag ord scope accs [] [] → p.reads = [] → (∀ a ∈ accs, ∃ k, a.pieces = [⟨.scratch, k, n, 0⟩]) → (accs.map LaneAcc.lane).Nodup →
    (∀ l, l < 64 → (p.lanes.has l = true ↔ l ∈ accs.map LaneAcc.lane)) → p.lanes ≠ 0 → s.path.remote = [] → W.storeq = [] → T.spoison = [] →
    (s.loadWaits p = true → exec (.loadDataReturn id) s = .next s) ∧
    (s.loadWaits p = false → ∃ t R, exec (.loadDataReturn id) s = .next t ∧ R ≠ 0 ∧ R &&& p.lanes = R ∧ (∀ a, t.byte a = s.byte a) ∧ t.teams = s.teams ∧
      (∀ a ∈ accs, R.has a.lane = true → ∀ b, a.pieces.map Piece.addr = [b] →
        t.vreg p.wave a.lane d = ⟨(loadWords n sext (readBytes T.scratch b n)).headD 0, tag⟩) ∧
      (∀ l k, l < 64 → k < 256 → (k ≠ d ∨ R.has l = false) → t.vreg p.wave l k = s.vreg p.wave l k) ∧
      (Tbl.find t.pend id).map Pend.lanes = if p.lanes &&& ~~~R = 0 then none else some (p.lanes &&& ~~~R))) ∧
  (∀ (s : State) (id : Nat) (r : WriteRec) (a : LaneAcc) (o f n : Nat) (sg ftz ret ord : Bool), Tbl.find s.path.writes id = some r → r.accepted = false →
    r.region = .loc → r.op = .rmw o f sg ftz ret ord n → s.frontWrite id r = true → s.homeHolds r.line = false → r.steps = [a] → r.bad = [] →
    s.rel.rot = [] → s.poison.contains (a.place / 32) = false → (∀ e ∈ s.path.writes, e.2.merges = true → e.1 = id) → NoWaitAt s a.place →
    n ≤ 32 - a.place % 32 →
    let old := s.memNat a.place n
    let bytes := natBytes n (atomOp o f sg ftz old a.operand.toNat a.compare.toNat)
    ∃ t, exec (.atomicPerform id) s = .next t ∧ t.waves = s.waves ∧ t.frags = s.frags ∧
      (∀ b, t.byte b = if a.place ≤ b then (bytes[b - a.place]?).getD (s.byte b) else s.byte b) ∧
      ∀ w P order scope tag sc accs olds bad, ret = true → r.source = .wave w P → (Tbl.find s.pend P).map Pend.kind = some (.atom order scope tag sc accs olds bad) →
        (Tbl.find t.pend P).map Pend.kind = some (.atom order scope tag sc accs (Tbl.put olds a.lane (BitVec.ofNat 64 old)) bad)) ∧
  (∀ (s : State) (id : Nat) (p : Pend) (W : Wave) (d order scope : Nat) (tag : Tag) (sc : Bool) (accs : List LaneAcc) (olds : Tbl Word),
    Tbl.find s.pend id = some p → p.kind = .atom order scope tag sc accs olds 0 → p.dst = .vec d 1 → d < 256 → s.wave? p.wave = some W →
    s.path.remote = [] →
    ∃ t, exec (.atomicResponse id) s = .next t ∧ (∀ b, t.byte b = s.byte b) ∧ t.teams = s.teams ∧
      (∀ a ∈ accs, a.lane < 64 → p.lanes.has a.lane = true → (Tbl.find olds a.lane).isSome = true → t.vreg p.wave a.lane d = ⟨Tbl.get 0 olds a.lane, tag⟩) ∧
      ((∀ l, l < 64 → p.lanes.has l = true → ∃ a ∈ accs, a.lane = l ∧ (Tbl.find olds l).isSome = true) → Tbl.find t.pend id = none))

/-- Stores reach memory and results come back (R97 to R121, R315 to R320). -/
def Obligations.AccessesComplete : Prop := Claims.storesReachMemory ∧ Claims.resultsReturn

/-- L2_EVICTION, DETACH_NOTICE, DETACHED_LINE_DROP, TABLE_WALK and WAIT_TABLE_POLL (R86, R96, R100, R327): where no error lies at rest (R73) none changes a byte of
memory or a register. An evicted line leaves the L2 and its sharers are sent notices; a notice detaches a die's copy, and a detached copy may go; a walk serves every miss of its page;
a wait without an entry reads again after 1,024 clocks and takes an entry where there is room. -/
def Sys2Proof.Claims.cachesMove : Prop :=
  (∀ (s : State) (line : Nat), s.rel.rot = [] → ∃ t, exec (.l2Eviction line) s = .next t ∧ t.mem = s.mem ∧ t.poison = s.poison ∧ t.waves = s.waves ∧
    t.frags = s.frags ∧ t.l2Line line = ⟨[], [], []⟩ ∧ t.path.detach = s.path.detach ++ (s.l2Line line).sharers.map (fun d => (d, line)) ∧
    ∀ l, l ≠ line → t.l2Line l = s.l2Line l) ∧
  (∀ (s : State) (d line : Nat), (d, line) ∈ s.path.detach → ∃ t, exec (.detachNotice d line) s = .next t ∧ t.mem = s.mem ∧ t.waves = s.waves ∧
    t.path.detach = s.path.detach.erase (d, line) ∧ t.rdcLine d line = (s.rdcLine d line).map (fun l => { l with detached := some s.ticks })) ∧
  (∀ (s : State) (d line : Nat), (d, line) ∉ s.path.detach → exec (.detachNotice d line) s = .next s) ∧
  (∀ (s : State) (d line : Nat), ((∃ l, s.rdcLine d line = some l ∧ l.detached.isSome = true) →
      ∃ t, exec (.detachedLineDrop d line) s = .next t ∧ t.rdcLine d line = none ∧ t.mem = s.mem ∧ t.waves = s.waves) ∧
    ((∀ l, s.rdcLine d line = some l → l.detached = none) → exec (.detachedLineDrop d line) s = .next s)) ∧
  (∀ (s : State) (d : Nat) (r : WalkRequest), s.path.walkq.find? (fun q => q.die == d) = some r → s.prof.rings = [] → s.rel.rot = [] →
    let served (q : WalkRequest) : Prop := q.die = d ∧ q.asid = r.asid ∧ vaPage q.va = vaPage r.va
    ∃ t, exec (.tableWalk d) s = .next t ∧ (∀ q, q ∈ t.path.walkq ↔ q ∈ s.path.walkq ∧ ¬served q) ∧ t.mem = s.mem ∧ t.waves = s.waves ∧ t.frags = s.frags) ∧
  (∀ (s : State) (id : Nat) (w : Waiter), Tbl.find s.path.waits id = some w → w.listed = false → w.done = false → s.rel.rot = [] → s.memPoisoned w.pa 4 = false →
    s.homeHolds (w.pa / 128) = false →
    (s.memNat w.pa (if w.wide then 8 else 4) ≠ w.value.toNat →
      Timed s (.waitTablePoll id) (1024 ≤ s.clocksSince w.since) (fun t =>
        Tbl.find t.path.waits id = some { w with done := true } ∧ t.mem = s.mem ∧ t.frags = s.frags)) ∧
    (s.memNat w.pa (if w.wide then 8 else 4) = w.value.toNat → s.tableRoom w.die = true →
      Timed s (.waitTablePoll id) (1024 ≤ s.clocksSince w.since) (fun t => t.mem = s.mem ∧ t.frags = s.frags ∧
        ∃ k, Tbl.find t.path.waits k = some { w with listed := true, since := s.ticks })))

/-- Requests to peers and host windows, and from peers (R324, R325, R440). A response with data ends its request: a store is performed, a load has its bytes, and
the answer to a unit's write is kept for the unit. Without one in 2 ms the request is sent again with the same id, 3 times at most, and then it ends; a failed
store is kept against its wave. A peer's request is performed once: a repeat is answered from the kept response, which goes after 10 ms; a retry that was
first sent under another state epoch is not performed. -/
def Sys2Proof.Claims.remoteRequests : Prop :=
  (∀ (s : State) (r : RemoteResponse) (id : Nat) (q : RemoteReq),
    s.path.remote.find? (fun e => BitVec.ofNat 32 e.1 == r.id && e.2.result.isNone) = some (id, q) → Tbl.find s.path.remote id = some q → id < s.nextId →
    ∀ i ∈ [Instr.ualinkResponse r, Instr.hostWindowResponse r],
      (∀ k j, r.ok = true → q.pend = none → q.write = some k → (Tbl.find s.path.writes k).map WriteRec.source = some (.op j) →
        ∃ t, exec i s = .next t ∧ Tbl.find t.path.remote id = some { q with result := some (.ok r.data r.poison) } ∧ t.path.writes = s.path.writes ∧
          t.mem = s.mem ∧ t.waves = s.waves) ∧
      (r.ok = true → (q.pend.isSome = true ∨ q.write = none) →
        ∃ t, exec i s = .next t ∧ Tbl.find t.path.remote id = some { q with result := some (.ok r.data r.poison) } ∧ t.mem = s.mem ∧ t.waves = s.waves ∧
          t.frags = s.frags ∧ t.rel = s.rel) ∧
      (∀ k, r.ok = true → q.pend = none → q.write = some k → (∀ j, (Tbl.find s.path.writes k).map WriteRec.source ≠ some (.op j)) →
        ∃ t, exec i s = .next t ∧ Tbl.find t.path.remote id = none ∧ Tbl.find t.path.writes k = none ∧ t.mem = s.mem ∧ t.waves = s.waves ∧ t.rel = s.rel) ∧
      (∀ k rec_ w o W, r.ok = false → q.pend = none → q.write = some k → Tbl.find s.path.writes k = some rec_ → rec_.source = .wave w o → s.wave? w = some W →
        ∃ t, exec i s = .next t ∧ Tbl.find t.path.writes k = none ∧ t.wave? w = some { W with failed := W.failed ++ [⟨W.live, q.va, q.delivered⟩] } ∧
          t.mem = s.mem)) ∧
  (∀ (s : State) (id : Nat) (r : RemoteReq), Tbl.find s.path.remote id = some r → r.result = none → ∀ i ∈ [Instr.ualinkRetryTimeout id, Instr.hostWindowRetryTimeout id],
    (r.tries ≤ 3 → Timed s i (2000000 * 17 ≤ s.time - timeAt r.since) (fun t => t.mem = s.mem ∧ t.waves = s.waves ∧
      ∃ q, Tbl.find t.path.remote id = some q ∧ q.tries = r.tries + 1 ∧ q.op = r.op ∧ q.addr = r.addr ∧ q.since = s.ticks)) ∧
    (3 < r.tries → r.write = none → Timed s i (2000000 * 17 ≤ s.time - timeAt r.since) (fun t => t.mem = s.mem ∧
      ∃ q, Tbl.find t.path.remote id = some q ∧ q.result = some (if r.delivered then .indeterminate else .unreachable)))) ∧
  (∀ (s : State) (r : PeerRequest), s.ready = true → (r.retry = true → r.epoch = s.links.epoch) →
    (∀ c, s.path.cached.find? (fun c => c.peer == r.peer && c.id == r.id) = some c →
      exec (.ualinkInboundRequest r) s = .next (s.say (.peer r.peer r.id s.links.epoch (some (c.data, c.poison))))) ∧
    (s.path.cached.find? (fun c => c.peer == r.peer && c.id == r.id) = none → s.mgmt.due = [] → s.rel.rot = [] →
      let a := r.pa % 2 ^ 38
      (∀ n, r.op = .read n → s.heldRange a n = false →
        ∃ t, exec (.ualinkInboundRequest r) s = .next t ∧ t.mem = s.mem ∧ t.waves = s.waves ∧ t.frags = s.frags ∧
          t.mgmt.out = .peer r.peer r.id s.links.epoch (some (readBytes s.mem a n, s.memPoisoned a n)) :: s.mgmt.out) ∧
      (∀ cells, r.op = .write cells → r.poison = false → s.path.waits = [] →
        ∃ t, exec (.ualinkInboundRequest r) s = .next t ∧ t.waves = s.waves ∧ t.frags = s.frags ∧
          ∀ b, t.byte b = ((cells.reverse.find? (fun c => a + c.1 == b)).map Prod.snd).getD (s.byte b)) ∧
      (∀ o f sg ftz ret x y n, r.op = .atomic o f sg ftz ret x y n → r.poison = false → s.path.waits = [] → s.heldRange a n = false →
        s.memPoisoned a n = false →
        ∃ t, exec (.ualinkInboundRequest r) s = .next t ∧ t.waves = s.waves ∧ t.frags = s.frags ∧
          ∀ b, t.byte b = if a ≤ b then ((natBytes n (atomOp o.toNat f.toNat sg ftz (s.memNat a n) x.toNat y.toNat))[b - a]?).getD (s.byte b) else s.byte b))) ∧
  (∀ (s : State) (r : PeerRequest), (s.ready = false ∨ (r.retry = true ∧ r.epoch ≠ s.links.epoch)) →
    exec (.ualinkInboundRequest r) s = .next (s.say (.peer r.peer r.id s.links.epoch none))) ∧
  (∀ (s : State) (peer id : Nat), ∃ t, exec (.peerResponseCacheExpiry peer id) s = .next t ∧ t.mem = s.mem ∧ t.waves = s.waves ∧
    ∀ c, c ∈ t.path.cached ↔ c ∈ s.path.cached ∧ ¬(c.peer = peer ∧ c.id = BitVec.ofNat 32 id ∧ 10000000 * 17 ≤ s.time - timeAt c.since))

/-- Caches, translations and requests to peers and hosts move on their own (R86, R99, R100, R324, R438, R440). -/
def Obligations.CachesAndRemotes : Prop := Claims.cachesMove ∧ Claims.remoteRequests

/-! ## The engines and units on their own -/

/-- COPY_CHUNK_START and COPY_CHUNK_DONE (R144, R146): an idle engine takes the next chunk of a started command, else the first command whose turn it is; a
chunk from the scratchpad reads its bytes, with the poison of their sectors; one that has read its bytes writes them to each receiver's scratchpad; one whose
writes are performed is over and counts them as globally visible, unless one of its writes has failed; the engines of a disabled cluster take none. -/
def Obligations.ChunksMove : Prop :=
  (∀ (s : State) (cl e id : Nat) (k : Command), cl < 320 → e < 8 → s.enginesEnabled cl = true → (∀ h ∈ s.eng.chunks, h.2.engine ≠ cl * 8 + e) →
    Tbl.find s.eng.cmds id = some k → s.aborted k = false →
    (s.openCommand cl = some (id, k) →
      ∃ t c h, exec (.copyChunkStart cl e) s = .next t ∧ Tbl.find t.eng.cmds id = some { k with next := k.next + 1 } ∧ Tbl.find t.eng.chunks c = some h ∧
        h.cmd = id ∧ h.index = k.next ∧ h.engine = cl * 8 + e ∧ h.read = false ∧ t.mem = s.mem ∧ t.teams = s.teams ∧ t.waves = s.waves) ∧
    (s.openCommand cl = none → s.nextCommand cl = some (id, k) → k.chunks ≠ 0 →
      ∃ t c h, exec (.copyChunkStart cl e) s = .next t ∧ Tbl.find t.eng.cmds id = some { k with started := true, abort := false, next := k.next + 1 } ∧
        Tbl.get 0 t.eng.turn cl = k.wave ∧ Tbl.find t.eng.chunks c = some h ∧ h.cmd = id ∧ h.index = k.next ∧ t.mem = s.mem ∧ t.teams = s.teams)) ∧
  (∀ (s : State) (cl e : Nat), ((∃ h ∈ s.eng.chunks, h.2.engine = cl * 8 + e) ∨ s.enginesEnabled (min cl 320) = false) → exec (.copyChunkStart cl e) s = .next s) ∧
  (∀ (s : State) (id : Nat) (h : Chunk) (k : Command) (T : Team), Tbl.find s.eng.chunks id = some h → Tbl.find s.eng.cmds h.cmd = some k →
    s.team? k.team = some T → s.aborted k = false →
    let lo := k.from h.index
    let hi := k.upto h.index
    (∀ o n a d, h.read = false → k.struck = false → k.moves T lo hi = [⟨o, n, .scr a, d⟩] → s.path.remote = [] →
      ∃ t, exec (.copyChunkDone id) s = .next t ∧ t.mem = s.mem ∧ t.waves = s.waves ∧ Tbl.find t.eng.chunks id = some { h with
          read := true, data := (List.range n).map (fun i => taintedByte s.free (o + i) (Tbl.get 0 T.scratch (a + i)) (T.spoison.contains ((a + i) / 32))) } ∧
        (Tbl.find t.eng.cmds h.cmd).map Command.srd = some (k.srd + (hi - lo))) ∧
    (∀ n a src u V, h.read = true → h.sent = false → k.moves T lo hi = [⟨lo, n, src, .scr a⟩] → h.data.length = n → (∀ b ∈ h.data, b.2 = .clean) →
      k.to_ = [u] → s.team? u = some V → s.ordWaits h.cmd k = false →
      ∃ t Z, exec (.copyChunkDone id) s = .next t ∧ t.mem = s.mem ∧ t.team? u = some Z ∧ Tbl.find t.eng.chunks id = some { h with sent := true, data := [], writes := [] } ∧
        ∀ b, Tbl.get 0 Z.scratch b = if a ≤ b then ((h.data.map Prod.fst)[b - a]?).getD (Tbl.get 0 V.scratch b) else Tbl.get 0 V.scratch b) ∧
    (h.read = true → h.sent = true → (∃ w ∈ h.writes, (Tbl.find s.path.writes w).isSome = true) → exec (.copyChunkDone id) s = .next s) ∧
    (h.read = true → h.sent = true → (∀ w ∈ h.writes, Tbl.find s.path.writes w = none) → k.fault = none → k.abort = false → k.ending = false → k.next < k.chunks →
      ∃ t, exec (.copyChunkDone id) s = .next t ∧ t.mem = s.mem ∧ Tbl.find t.eng.chunks id = none ∧
        (Tbl.find t.eng.cmds h.cmd).map Command.gv = some (if h.failed then k.gv else k.gv + (hi - lo))))

/-- MATRIX_OP_START and MATRIX_OP_COMPLETE (R248 to R251, R256, R259, R450): a context starts its oldest queued operation in a clock that the throttle leaves
it; the first that no earlier one conflicts with has its effect: ACCZ zeroes its rows, MMA gives each of its rows the product's elements, OMREAD brings each
lane its row; then its entry goes and its instructions are complete. -/
def Obligations.MatrixWorks : Prop :=
  (∀ (s : State) (core ctx : Nat), ctx < 2 →
    (∀ id e, s.startClock core = true → s.startableEntry core ctx = some (id, e) → s.startableEntry core (1 - ctx) = none →
      ∃ t, exec (.matrixOpStart core ctx) s = .next t ∧ Tbl.find t.mx.entries id = some { e with started := true } ∧ Tbl.get 2 t.mx.last core = ctx ∧
        t.teams = s.teams ∧ t.waves = s.waves ∧ t.mem = s.mem) ∧
    (s.startClock core = false ∨ s.startableEntry core ctx = none → exec (.matrixOpStart core ctx) s = .next s)) ∧
  (∀ (s : State) (core ctx id : Nat) (e : MatrixEntry) (T : Team) (W : Wave), s.completable core ctx = some (id, e) → s.team? e.team = some T →
    s.wave? e.wave = some W → coreIndex T e.core < T.acc.length →
    let k := coreIndex T e.core
    let gone (t : State) : Prop := Tbl.find t.mx.entries id = none ∧ (∀ p ∈ e.pends, Tbl.find t.pend p = none) ∧ t.mem = s.mem
    (∀ x, e.instr = .accz x → ∃ t V, exec (.matrixOpComplete core ctx) s = .next t ∧ gone t ∧ t.waves = s.waves ∧ t.team? e.team = some V ∧
      ∀ r i j, i < 64 → j < 64 → (V.accAt k).word r i j = if r = e.region ∧ e.rows.has i = true then 0 else (T.accAt k).word r i j) ∧
    (∀ x, e.instr = .mma x → ∃ t V, exec (.matrixOpComplete core ctx) s = .next t ∧ gone t ∧ t.waves = s.waves ∧ t.team? e.team = some V ∧
      (∀ i j, i < 64 → j < 64 → e.rows.has i = true → (mmaSectors false (e.slots.getD 0 0) (e.slots.getD 1 0) i).any (T.omAt k).poison.contains = false →
        (V.accAt k).word e.region i j = mmaElem (T.omAt k) e.word false (e.slots.getD 0 0) (e.slots.getD 1 0) true
          (if e.word.mod.getLsbD 2 then 0 else (T.accAt k).word e.region i j) i j) ∧
      ∀ r i j, i < 64 → j < 64 → r ≠ e.region → (V.accAt k).word r i j = (T.accAt k).word r i j) ∧
    (∀ x p P, e.instr = .omread x → e.pends = [p] → Tbl.find s.pend p = some P → e.word.d.num.toNat + e.word.sub.toNat < 256 →
      ∃ t, exec (.matrixOpComplete core ctx) s = .next t ∧ gone t ∧ ∀ l n, e.rows.has l = true → P.lanes.has l = true → n ≤ e.word.sub.toNat →
        t.vreg e.wave l (e.word.d.num.toNat + n) = ⟨BitVec.ofNat 64 (readNat (T.omAt k).bytes
          (e.slots.headD 0 * 8704 + (if e.word.mod.getLsbD 0 then 8192 + 8 * l else 128 * l + 8 * (e.word.x.toNat + n))) 8), e.word.fmt⟩)) ∧
  (∀ (s : State) (core ctx : Nat), s.completable core ctx = none → exec (.matrixOpComplete core ctx) s = .next s)

/-- RCQ_COMPLETE, RCT_SAMPLE_DRAIN and OPTIMISER_STEP (R273 to R276, R282): a query brings its lane the outputs of its generation's image; an entry of samples
reaches the instance's ring in order; a step drops what is poisoned, takes its batch, counts it and advances the decays, or is skipped where a gradient is not finite. -/
def Sys2Proof.Claims.cacheWorks : Prop :=
  (∀ (s : State) (id lane k g d n : Nat) (p : Pend) (i : Instance) (W : Wave) (inputs : List (Nat × RcInput)) (x : RcInput), Tbl.find s.pend id = some p →
    p.kind = .query k g inputs → p.dst = .vec d n → p.lanes.has lane = true → s.inst? k = some i → Tbl.find inputs lane = some x → s.wave? p.wave = some W →
    i.bad0 = [] → i.bad1 = [] → d + 1 < 256 →
    let y := (i.cfg.forward (i.weights g) x).2
    ∃ t, exec (.rcqComplete id lane) s = .next t ∧ t.mem = s.mem ∧ t.vreg p.wave lane d = ⟨BitVec.ofNat 64 (y.getD 0 0 + y.getD 1 0 * 2 ^ 32), 6⟩ ∧
      t.vreg p.wave lane (d + 1) = ⟨BitVec.ofNat 64 (y.getD 2 0 + y.getD 3 0 * 2 ^ 32), 6⟩ ∧
      (Tbl.find t.pend id).map Pend.lanes = if p.lanes &&& ~~~(Mask.one lane) = 0 then none else some (p.lanes &&& ~~~(Mask.one lane))) ∧
  (∀ (s : State) (w : Nat) (W : Wave) (e : SampleEntry) (rest : List SampleEntry) (i : Instance), s.wave? w = some W → W.queues.q3 = e :: rest →
    s.inst? e.inst = some i → i.ring.length + e.samples.length ≤ 65536 → (∀ x ∈ e.samples, x.poison = false) →
    ∃ t, exec (.rctSampleDrain w) s = .next t ∧ t.mem = s.mem ∧ t.wave? w = some { W with queues := { W.queues with q3 := rest } } ∧
      t.inst? e.inst = some { i with ring := i.ring ++ e.samples } ∧ Tbl.find t.pend e.pend = none) ∧
  (∀ (s0 : State) (k : Nat) (i : Instance),
    let s := s0.adjInst k Instance.sound
    s.inst? k = some i →
    ((s.optimiserWriting k = true ∨ s.nextBatch k i = none) → exec (.optimiserStep k) s0 = .next s) ∧
    (∀ batch own s1 pages, s.path.waits = [] → s.rel.rot = [] → s.optimiserWriting k = false → s.nextBatch k i = some (batch, own) →
      let P := i.cfg.params
      let nums := (batch.flatMap (fun x => (List.range i.cfg.levels).flatMap (fun l => (i.cfg.corners (i.cfg.axes x.input) l).flatMap (fun c => [c.1, c.1 + 1])))).dedup ++
        (List.range (P - i.cfg.layerBase 0)).map (fun n => i.cfg.layerBase 0 + n)
      let offs := nums.flatMap (fun n => [4 * n, 4 * (P + n), 4 * (2 * P + n)])
      s.paramPages i.unit i.cfg offs true = .ok s1 pages → s1.rc = s.rc → (∀ p ∈ pages, goodPage i.cfg p.2 = true) →
      (∀ o ∈ offs, s1.memPoisoned (paramAddr pages o) 4 = false) →
      let ts := batch.map (i.cfg.trace (fun n => round16 (s1.memNat (paramAddr pages (4 * n)) 4)))
      let finite := ∀ e ∈ i.cfg.gradients ts, finite32 e.2 = true
      ∃ t j, exec (.optimiserStep k) s0 = .next t ∧ t.inst? k = some j ∧ j.samples = i.samples + batch.length ∧
        (own = false → j.ring = i.ring.drop batch.length) ∧ (own = true → j.epoch = i.epoch.drop batch.length) ∧
        (finite → j.steps = i.steps + 1 ∧ j.skipped = i.skipped ∧ j.p1 = BitVec.ofNat 32 (mul32 i.p1.toNat beta1) ∧
          j.p2 = BitVec.ofNat 32 (mul32 i.p2.toNat beta2)) ∧
        (¬finite → j.skipped = i.skipped + 1 ∧ j.steps = i.steps ∧ j.p1 = i.p1 ∧ j.p2 = i.p2 ∧ ∀ a, t.byte a = s1.byte a)))

/-- RCCFG_LOAD_DONE, RCGEN_IMAGE_WRITE and RCU_GENERATION_SWITCH (R277, R278, R280): a good record opens its instance at generation 0; a misaligned one gives
status 1; the image of the next generation is written once no query reads it; a cluster switches, and the last one publishes the generation, which S[D]
receives. -/
def Sys2Proof.Claims.generationsPublish : Prop :=
  ∀ (s : State) (k id : Nat) (o : RcOp), s.headOp k = some (id, o) →
    let said (t : State) (v : Nat) : Prop := Tbl.find t.rc.ops id = none ∧ Tbl.find t.pend o.pend = none ∧
      ∀ p d n W f F, Tbl.find s.pend o.pend = some p → p.dst = .scal d n → s.wave? p.wave = some W → s.frag? f = some F → F.wave = p.wave →
        heldLanes W F &&& p.own ≠ 0 → ∃ G, t.frag? f = some G ∧ G.scalar d = BitVec.ofNat 64 v ∧ G.pc = F.pc ∧ ∀ m, m ≠ d → G.scalar m = F.scalar m
    (o.op = 0 → o.arg % 64 ≠ 0 → ∃ t, exec (.rccfgLoadDone k) s = .next t ∧ said t 1 ∧ t.mem = s.mem ∧ t.rc.insts = s.rc.insts) ∧
    (∀ s1 bs g s2 pages s3 tab, o.op = 0 → o.arg % 64 = 0 → o.inst = k → s.path.waits = [] → s.rel.rot = [] →
      s.unitRead { who := .die (dieOf o.core), unit := 4, asid := o.asid, table := o.table } o.pend (BitVec.ofNat 64 o.arg) 256 = .ok s1 (bs, false) →
      parseRecord bs = some g → s1.inst? k = none → s1.pinned g.home + 2 * g.imageBytes ≤ 2 ^ 28 →
      let u : UnitCtx := { who := .die g.home, unit := 4, asid := o.asid, table := o.table }
      s1.paramPages u g ((List.range ((12 * g.params + 65535) / 65536)).map (fun p => p * 65536)) true = .ok s2 pages →
      (∀ e ∈ s2.path.writes, e.2.region = .loc → e.2.die = g.home → e.2.accepted = true) →
      (∀ p ∈ pages, goodPage g p.2 = true) → s2.makeImage k u g = .ok s3 (some tab) →
      ∃ t i, exec (.rccfgLoadDone k) s = .next t ∧ said t 0 ∧ t.inst? k = some i ∧ i.cfg = g ∧ i.asid = o.asid ∧ i.gen = 0 ∧ i.img0 = tab ∧ i.steps = 0 ∧
        i.p1 = BitVec.ofNat 32 one32 ∧ i.p2 = BitVec.ofNat 32 one32 ∧ i.paused = false ∧ i.failed = false ∧ i.ring = [] ∧
        (∀ n, n < 7 → i.counter n = 0)) ∧
    (∀ i s1 tab, o.op = 4 → o.stage = 2 → s.inst? k = some i → s.querying k (some ((i.gen + 1).toNat % 2)) = false → s.makeImage k i.unit i.cfg = .ok s1 (some tab) →
      s1.rc = s.rc →
      ∃ t, exec (.rcgenImageWrite k) s = .next t ∧ t.inst? k = some (i.setImage (i.gen + 1).toNat tab) ∧ (t.headOp k).map (fun e => e.2.stage) = some 3 ∧
        t.waves = s1.waves ∧ t.frags = s1.frags) ∧
    (∀ i, o.op = 4 → o.stage = 2 → s.inst? k = some i → s.querying k (some ((i.gen + 1).toNat % 2)) = true → exec (.rcgenImageWrite k) s = .next s) ∧
    (∀ i c, o.op = 4 → o.stage = 3 → s.inst? k = some i →
      (s.enabledClusters.all (NSet.insert i.switched c).contains = false →
        ∃ t, exec (.rcuGenerationSwitch k c) s = .next t ∧ t.inst? k = some { i with switched := NSet.insert i.switched c } ∧ t.frags = s.frags ∧ t.mem = s.mem) ∧
      (s.enabledClusters.all (NSet.insert i.switched c).contains = true →
        ∃ t, exec (.rcuGenerationSwitch k c) s = .next t ∧ t.inst? k = some { i with gen := i.gen + 1, switched := [] } ∧ said t ((i.gen + 1).toNat * 2 ^ 32) ∧
          t.mem = s.mem))

/-- The radiance cache on its own: queries, samples, steps, records and generations (R273 to R280). -/
def Obligations.RadianceWorks : Prop := Claims.cacheWorks ∧ Claims.generationsPublish

/-- RAY_NODE_VISIT, SHADER_WAVE_PLACE, REFIT_NODE_PROCESS and TRIANGLE_RASTERISE (R291, R294, R298, R299, R304 to R310): a triangle that the ray meets in its
range becomes its hit; a shader's decision counts when its stores are performed; a ray that wants a shader gets a lane of a new wave; a refit takes a valid
descriptor, leaves a node with inner children to them and ends after the last node; a pixel takes the smaller of its depth and the triangle's. -/
def Obligations.GraphicsWork : Prop :=
  (∀ (s : State) (id : Nat) (j : RayJob), s.ray? id = some j →
    (∀ k w ord, j.stage = .exited k w ord → s.exitDone w ord = false → exec (.rayNodeVisit id) s = .next s) ∧
    (∀ w ord, j.stage = .exited .anyHit w ord → s.exitDone w ord = true →
      ∃ t, exec (.rayNodeVisit id) s = .next t ∧ t.ray? id = some j.decided ∧ t.mem = s.mem ∧ t.waves = s.waves ∧ t.frags = s.frags) ∧
    (∀ d i a s1 bs, j.stage = .walking → j.info = some d → j.todo = [.block i a] →
      ({ s with free := s.free + 1 } : State).unitRead j.unit id (BitVec.ofNat 64 a) 64 = .ok s1 (bs, false) →
      let met := triHit i.org i.dir ((List.range 9).map (fun k => BitVec.ofNat 32 (field bs (4 * k) 4)))
      (met = none → ∃ t, exec (.rayNodeVisit id) s = .next t ∧ t.ray? id = some { j with todo := [] }) ∧
      (∀ tt u v front, met = some (tt, u, v, front) → j.hit = none → j.seen = [] → (∀ n, 8 ≤ n → n ≤ 14 → ctlFlag j.ctl n = false) →
        (field bs 0x2A 2).testBit 0 = true → finite32 tt.toNat = true → fix149 j.ray.tmin ≤ fix149 tt → fix149 tt ≤ fix149 j.ray.tmax →
        ∃ t q h, exec (.rayNodeVisit id) s = .next t ∧ t.ray? id = some q ∧ q.hit = some h ∧ q.ray.tmax = tt ∧ h.t = tt ∧ h.u = u ∧ h.v = v ∧ h.front = front ∧
          h.prim = field bs 0x24 4 ∧ h.geom = field bs 0x28 2 ∧ h.inst = i.idx ∧ h.block = a ∧ q.stage = .walking ∧ q.todo = []))) ∧
  (∀ (s : State) (d : Nat), (∀ e ∈ s.gfx.rays, e.2.want = none ∨ dieOf e.2.core ≠ d) → exec (.shaderWavePlace d) s = .next s) ∧
  (∀ (s : State) (d id : Nat) (j : RayJob) (k : ShaderKind) (entry : Nat) (s1 : State) (bs : List Byte) (h : Header) (o : Occ) (held : Held) (p : Spot3),
    s.gfx.rays = [(id, j)] → j.want = some (k, entry) → dieOf j.core = d → (∀ e ∈ s1.waves, e.1 < s1.nextId ∧ e.2.team < s1.nextId) →
    ({ s with free := s.free + 1 } : State).unitRead { j.unit with who := .die d } id (BitVec.ofNat 64 entry - 64) 64 = .ok s1 (bs, false) →
    parseHeader bs (BitVec.ofNat 64 entry) = some h → shaderHeaderOk h = true → 1 ≤ h.lanes →
    s1.packOn [d] 1 (Config.freeNat s1.free) h h.waves s1.occ some = some o → o.getLast? = some held → held.spots = [p] →
    ∃ t w W, exec (.shaderWavePlace d) s = .next t ∧ t.ray? id = some { j with stage := .shading k w 0 } ∧ t.wave? w = some W ∧ W.live = 1 ∧
      W.core = p.core ∧ W.quadrant = p.quad ∧ W.col0 = p.col) ∧
  (∀ (s : State) (d id : Nat) (q : Refit), s.refitOf d = some (id, q) → s.path.remote = [] → s.unitAway (.op q.pend) = false →
    (q.stage = 0 → q.nodes = 0 → q.desc.toNat % 64 ≠ 0 →
      ∃ t, exec (.refitNodeProcess d) s = .next t ∧ Tbl.find t.gfx.refits id = some { q with stage := 2, status := 1 }) ∧
    (∀ s1 bs q1, q.stage = 0 → q.desc.toNat % 64 = 0 → s.unitRead q.unit id q.desc 64 = .ok s1 (bs, false) → parseRefit q bs = some q1 →
      ∃ t, exec (.refitNodeProcess d) s = .next t ∧ Tbl.find t.gfx.refits id = some q1 ∧ t.mem = s1.mem ∧ t.waves = s1.waves) ∧
    (q.stage = 1 → q.parent = none → q.chain = none → q.nodes ≤ q.next →
      ∃ t, exec (.refitNodeProcess d) s = .next t ∧ Tbl.find t.gfx.refits id = some { q with stage := 2, status := 0 } ∧ t.mem = s.mem) ∧
    (∀ s1 bs, q.stage = 1 → q.parent = none → q.chain = none → q.next < q.nodes → s.unitRead q.unit id (q.node q.next) 128 = .ok s1 (bs, false) → badNode true bs = false →
      (∃ w ∈ (parseNode bs).words, childType w = 1) →
      ∃ t, exec (.refitNodeProcess d) s = .next t ∧ Tbl.find t.gfx.refits id = some { q with next := q.next + 1 } ∧ t.mem = s1.mem)) ∧
  (∀ (s : State) (d slot id : Nat) (p : Pass) (tri : Tri) (rest : List Tri), s.passAt d slot = some (id, p) → Tbl.find s.gfx.passes id = some p → (∀ e ∈ s.gfx.passes, e.2.die = d → id ≤ e.1) →
    p.stage = 2 → p.status = 0 → p.tris = tri :: rest → p.die = d →
    (rasterise p tri = none → ∃ t, exec (.triangleRasterise d slot) s = .next t ∧ Tbl.find t.gfx.passes id = some { p with tris := rest } ∧ t.mem = s.mem ∧
      Tbl.get 0 t.rel.counters ((10000 + d) * 16 + ctrRASTDROP) = min (Tbl.get 0 s.rel.counters ((10000 + d) * 16 + ctrRASTDROP) + 1) (2 ^ 48 - 1)) ∧
    (∀ x y z (pc : Piece), rasterise p tri = some [(x, y, z)] →
      s.engineAccess p.unit.who p.unit.asid p.unit.table p.unit.unit (p.target + BitVec.ofNat 64 (p.pitch * y + 8 * x)) 8 .atomic .none = .ok [pc] →
      pc.region = .loc → pc.len = 8 → pc.addr % 8 = 0 → s.rel.rot = [] → s.memPoisoned pc.addr 8 = false → NoWaitAt s pc.addr →
      (∀ e ∈ s.path.writes, e.2.line ≠ pc.addr / 128) →
      let new := z.toNat * 2 ^ 32 + tri.id.toNat
      ∃ t, exec (.triangleRasterise d slot) s = .next t ∧ Tbl.find t.gfx.passes id = some { p with tris := rest } ∧ t.waves = s.waves ∧ t.frags = s.frags ∧
        ∀ b, t.byte b = if pc.addr ≤ b then ((natBytes 8 (min (s.memNat pc.addr 8) new))[b - pc.addr]?).getD (s.byte b) else s.byte b))

/-! ## Graphs, teams and saves -/

namespace Sys2Proof.Claims

open Sys2Proof.Machine

/-- NODE_START (R366 to R371): a walker that takes up a node writes STATUS 1 and reads a kernel node's header next, or completes it with status 9 where a
field is out of range, or at once where it is empty; completing writes STATUS; a successor's PRED is decremented, and at 1 it starts. -/
def nodesStart : Prop :=
  ∀ (s : State) (die : Nat),
    let ts := Tbl.get [] s.sched.tasks die
    let k := Config.freeNat s.free % ts.length
    let rest := ts.eraseIdx k
    let queued (t : State) (l : List WalkTask) : Prop := Tbl.get [] t.sched.tasks die = rest ++ l
    let stored (t : State) (a v : Nat) : Prop := ∀ b, t.byte b = if a ≤ b then ((natBytes 4 v)[b - a]?).getD (s.byte b) else s.byte b
    (ts = [] → exec (.nodeStart die) s = .next s) ∧
    let quiet (a : Nat) : Prop := ∀ e ∈ s.path.writes, e.2.line ≠ a / 128
    (s.path.waits = [] → s.rel.rot = [] →
      (∀ node, ts[k]? = some (.start node) → homeOf node = die → node % 128 = 0 → quiet node → s.memPoisoned node 128 = false →
        let b := readBytes s.mem node 128
        (nodeFieldsOk b = true → field b 0 1 = 0 → kernelOk b = true →
          ∃ t, exec (.nodeStart die) s = .next t ∧ stored t (node + 8) 1 ∧ queued t [.read node]) ∧
        (nodeFieldsOk b = true → field b 0 1 = 2 → (b.drop 0x50).all (· == 0) = true →
          ∃ t, exec (.nodeStart die) s = .next t ∧ stored t (node + 8) 1 ∧ queued t [.complete node 2 none]) ∧
        (nodeFieldsOk b = false → ∃ t, exec (.nodeStart die) s = .next t ∧ stored t (node + 8) 1 ∧ queued t [.complete node 9 none])) ∧
      (∀ node st, ts[k]? = some (.complete node st none) → homeOf node = die → node % 128 = 0 → quiet node → st < 2 ^ 32 →
        ∃ t id, exec (.nodeStart die) s = .next t ∧ stored t (node + 8) st ∧ queued t [.written node id]) ∧
      (∀ a as block, ts[k]? = some (.follow (a :: as) block) → nodeAddr a = true → quiet a → s.memPoisoned (a + 4) 4 = false →
        let old := s.memNat (a + 4) 4
        ∃ t, exec (.nodeStart die) s = .next t ∧ stored t (a + 4) (old - 1) ∧
          queued t ((if old = 1 ∧ homeOf a = die then [.start a] else []) ++ [.follow as block]) ∧
          (homeOf a ≠ die → Tbl.get [] t.sched.tasks (homeOf a) = Tbl.get [] s.sched.tasks (homeOf a) ++ if old = 1 then [.start a] else [])))

/-- TEAM_PLACE and PERSISTENT_GRID_PLACE (R370, R379, R380): the first pending team that fits becomes resident on the cores found for it, with its index,
coordinates and header; a persistent grid's teams do so together; nothing is placed before an image that is to be restored. -/
def teamsArrive : Prop :=
  ∀ (s : State),
    let q := s.scan
    let resident (g : Nat) (G : Grid) (i : Nat) (T : Team) : Prop :=
      T.grid = g ∧ T.id = i ∧ T.x = i % G.ex ∧ T.y = i / G.ex % G.ey ∧ T.z = i / (G.ex * G.ey) ∧ T.where_ = .live ∧ T.task = G.header ∧ T.placed = G.header ∧
      T.asid = G.asid ∧ T.table = G.table ∧ T.barriers = [] ∧ T.scratch = []
    (∀ die, s.restoreFirst = true → exec (.teamPlace die) s = .next s) ∧ (∀ g, s.restoreFirst = true → exec (.persistentGridPlace g) s = .next s) ∧
    (∀ die g i dies G k o h, s.restoreFirst = false → q.hit = some (g, some i, dies) → Tbl.find q.s.sched.grids g = some G → dies.getLsbD die = true →
      teamCores G.header = some k → q.s.packOn [die] k (Config.freeNat q.s.free) G.header G.header.waves q.s.occ some = some o → o.getLast? = some h →
      ∃ t id T H, exec (.teamPlace die) s = .next t ∧ t.team? id = some T ∧ resident g G i T ∧ T.cores = h.cores ∧ Tbl.find t.sched.grids g = some H ∧
        H.running = G.running + 1 ∧ ∀ p ∈ H.pending, p.index ≠ i) ∧
    (∀ g dies G k o, s.restoreFirst = false → q.hit = some (g, none, dies) → Tbl.find q.s.sched.grids g = some G → teamCores G.header = some k →
      q.s.packMany (diesOf dies) k (Config.freeNat q.s.free) G.header G.pending.length q.s.occ = some o → (o.drop q.s.occ.length).length = G.pending.length →
      ∃ t H, exec (.persistentGridPlace g) s = .next t ∧ Tbl.find t.sched.grids g = some H ∧ H.running = G.running + G.pending.length ∧ H.pending = [] ∧
        ∀ p ∈ G.pending, ∃ id T, t.team? id = some T ∧ resident g G p.index T)

/-- SWAP_COMPLETE, SPILL_COMPLETE, IMAGE_COMPLETE and RESTORE (R391, R392, R394 to R397): a swap ends after 2,560 clocks with the contexts of cores and slots
exchanged; a SPILLING slot's team goes into an image where its pool has room; an image is complete when the team's accesses have landed; the first complete
image that fits comes back to cores. -/
def savesMove : Prop :=
  (∀ (s : State) (id t0 : Nat) (x : Swap), Tbl.find s.saves.swaps id = some x → x.since = some t0 →
    (x.spare = none → (s.teams.map Prod.fst).Nodup → (∀ k, Weak.context k ∉ s.rel.weak) →
      let leaves (T : Team) : Prop := T.where_ = .live ∧ ∃ c ∈ x.cores, T.cores.contains c = true
      Timed s (.swapComplete id) (2560 ≤ s.clocksSince t0) (fun t => Tbl.find t.saves.swaps id = none ∧ t.mem = s.mem ∧ t.waves = s.waves ∧
        t.frags.map (fun e => (e.1, { e.2 with waitFrom := 0 })) = s.frags.map (fun e => (e.1, { e.2 with waitFrom := 0 })) ∧
        (∀ k T, s.team? k = some T → leaves T → t.team? k = some { T with where_ := .slot }) ∧
        (∀ k T, s.team? k = some T → ¬leaves T → (∃ c ∈ x.cores, k ∈ (s.slot c).teams) → t.team? k = some { T with where_ := .live }) ∧
        (∀ k T, s.team? k = some T → ¬leaves T → (∀ c ∈ x.cores, k ∉ (s.slot c).teams) → t.team? k = some T) ∧
        ∀ c ∈ x.cores, (∀ k, k ∈ (t.slot c).teams ↔ ∃ T, s.team? k = some T ∧ T.where_ = .live ∧ T.cores.contains c = true) ∧
          (x.keep = true → ∃ l, t.slot c = .held l) ∧ (x.keep = false → ∀ l, t.slot c ≠ .held l)))) ∧
  (∀ (s : State) (core k : Nat) (rest : List Nat) (T : Team), s.slot core = .spilling (k :: rest) → s.team? k = some T →
    (s.poolRoom (dieOf core) (2 ^ 33) (imageSize T) = false → exec (.spillComplete core) s = .next s) ∧
    (s.poolRoom (dieOf core) (2 ^ 33) (imageSize T) = true → T.cores.Nodup →
      ∃ t m, exec (.spillComplete core) s = .next t ∧ t.mem = s.mem ∧ t.team? k = some { T with where_ := .image s.saves.nextCtx } ∧
        Tbl.find t.saves.images s.saves.nextCtx = some m ∧ m.team = k ∧ m.kind = .spill ∧ m.complete = false ∧ m.die = dieOf (T.cores.headD 0) ∧
        m.size = imageSize T ∧ ∀ c ∈ T.cores, t.slot c = (s.slot c).without k)) ∧
  (∀ (s : State) (id : Nat) (m : Image), Tbl.find s.saves.images id = some m → m.complete = false →
    let room := m.kind ≠ .park ∨ s.poolRoom m.die id m.size = true
    (s.drained m.team = false ∨ ¬room → exec (.imageComplete id) s = .next s) ∧
    (s.drained m.team = true → room →
      ∃ t, exec (.imageComplete id) s = .next t ∧ t.mem = s.mem ∧ t.teams = s.teams ∧
        Tbl.find t.saves.images id = some { m with complete := true, pending := m.pending || m.kind == .spill, order := s.nextId })) ∧
  (∀ (s : State) (id : Nat) (m : Image) (T : Team) (o : Occ) (h : Held), Tbl.find s.saves.images id = some m → m.complete = true → m.pending = true →
    (∀ e ∈ s.restorable, e.2.order < m.order → s.packImage e.2 (Config.freeNat s.free) = none) → s.team? m.team = some T →
    s.packImage m (Config.freeNat s.free) = some o → o.getLast? = some h →
    let back (t : State) : Prop := t.mem = s.mem ∧ Tbl.find t.saves.images id = none ∧ t.team? m.team = some { T with cores := h.cores, where_ := .live }
    m.deliver = false →
    (Weak.context m.team ∉ s.rel.weak → (∀ p, Tbl.find s.saves.pools m.die = some p → s.memPoisoned p.1 p.2 = false) → ∃ t, exec (.restore id) s = .next t ∧ back t) ∧
    (∀ p, Tbl.find s.saves.pools m.die = some p → s.memPoisoned p.1 p.2 = true → Tbl.get 0 s.sched.ended m.team = 0 →
      ∃ t, exec (.restore id) s = .next t ∧ (back t ∨ (t.mem = s.mem ∧ Tbl.get 0 t.sched.ended m.team = 6 ∧ t.rel.seq = s.rel.seq + 1 ∧
        ∀ w W, s.wave? w = some W → W.team = m.team → ∃ V, t.wave? w = some V ∧ V.live = 0))))

end Sys2Proof.Claims

open Sys2Proof Sys2Proof.Machine Sys2Proof.Claims

/-- Nodes start, teams become resident, and contexts move to and from slots and images, as R366 to R371, R379, R380 and R391 to R397 say. -/
def Obligations.TeamsComeAndGo : Prop := Claims.nodesStart ∧ Claims.teamsArrive ∧ Claims.savesMove

namespace Sys2Proof.Claims

open Sys2Proof.Machine

/-- PATROL_SCRUB and AGING_CHECK (R73 to R75, R414 to R418): a corrected error is folded or logged and changes no data; an uncorrectable one, found by
the scrubber or there already, poisons the sectors of its codeword that are not dirty in the L2 and changes no other byte; a worn cluster or column asks for a swap, or is reported where the owner has disabled that. -/
def upkeepRuns : Prop :=
  (∀ (s : State) (sector : Nat),
    (s.rel.rot.contains (sector / 4) = false → exec (.patrolScrub sector .none) s = .next s) ∧
    (∀ u, 2 ^ 33 ≤ sector → exec (.patrolScrub sector u) s = .next s) ∧
    (sector < 2 ^ 33 → s.rel.rot.contains (sector / 4) = false →
      ∃ t, exec (.patrolScrub sector .corrected) s = .next t ∧ t.mem = s.mem ∧ t.poison = s.poison ∧ t.frags = s.frags ∧ t.waves = s.waves ∧
        ((∀ r ∈ s.rel.ring, r.kind.toNat % 256 = 1 → r.addr.toNat / 65536 ≠ 32 * sector / 65536) →
          t.rel.seq = s.rel.seq + 1 ∧ ∃ r, t.rel.ring.head? = some r ∧ r.kind.toNat % 256 = 1 ∧ r.addr = BitVec.ofNat 64 (32 * sector))) ∧
    (∀ u, sector < 2 ^ 33 → (u = .uncorrectable ∨ s.rel.rot.contains (sector / 4) = true) → (∀ e ∈ s.path.waits, e.2.pa / 128 ≠ sector / 4) →
      let lost (k : Nat) : Prop := k / 4 = sector / 4 ∧ k ∉ (s.l2Line (sector / 4)).dirty
      ∃ t r, exec (.patrolScrub sector u) s = .next t ∧ (∀ k, k ∈ t.poison ↔ lost k ∨ k ∈ s.poison) ∧
        (∀ a, ¬lost (a / 32) → t.byte a = s.byte a) ∧ sector / 4 ∉ t.rel.rot ∧ t.frags = s.frags ∧ t.waves = s.waves ∧
        r ∈ t.rel.ring ∧ r.kind.toNat % 256 = 2 ∧ r.addr = BitVec.ofNat 64 (128 * (sector / 4)))) ∧
  (∀ (s : State), s.rel.ring = [] →
    exec (.agingCheck .none) s = .next s ∧
    (∀ die cl, s.mgmt.autoSpare = true →
      ∃ t, exec (.agingCheck (.cluster die cl)) s = .next t ∧ t.mem = s.mem ∧ t.frags = s.frags ∧
        Tbl.find t.saves.swaps s.nextId = some ⟨(List.range 4).map (fun i => (40 * die + cl) * 4 + i), true, none, some (1, 40 * die + cl)⟩) ∧
    (∀ core quad col, s.mgmt.autoSpare = true → (s.usedColumns core quad).length < 2 →
      ∃ t, exec (.agingCheck (.column core quad col)) s = .next t ∧ t.mem = s.mem ∧ t.frags = s.frags ∧
        Tbl.find t.saves.swaps s.nextId = some ⟨[core], true, none, some (0, columnName core quad col)⟩) ∧
    (∀ die cl, s.mgmt.autoSpare = false →
      ∃ t r, exec (.agingCheck (.cluster die cl)) s = .next t ∧ t.mem = s.mem ∧ t.frags = s.frags ∧ t.saves = s.saves ∧ t.rel.seq = s.rel.seq + 1 ∧
        t.rel.ring = [r] ∧ r.kind.toNat % 256 = 0x11))

/-- PC_SAMPLE, SYNC_RECORD and POWER_MEASUREMENT (R428, R429, R432, R450): a sample is due once in 2^k clocks and a sync record once in 2^16; a due one takes its
place in the die's ring where there is room; the level that follows a measurement is no lower than the floor, and withholds clocks where 2,550 W are exceeded
(R15, R18). Nothing else of a core changes. -/
def samplesTaken : Prop :=
  (∀ (s : State) (core : Nat), s.path.waits = [] →
    let found := ((List.range 512).map (fun i => (Tbl.get 0 s.prof.next core + i) % 512)).findSome? (s.entryReport core)
    (s.coreEnabled core = false → exec (.pcSample core) s = .next s) ∧
    (s.coreEnabled core = true →
      Timed s (.pcSample core) (2 ^ s.prof.pcK ≤ s.clocksSince (Tbl.get 0 s.prof.pcAt core)) (fun t => t.frags = s.frags ∧ t.waves = s.waves ∧ t.teams = s.teams ∧ Tbl.get 0 t.prof.pcAt core = s.ticks ∧
        (Tbl.find s.prof.rings (dieOf core) = none ∨ found = none → t.mem = s.mem) ∧
        (∀ r, Tbl.find s.prof.rings (dieOf core) = some r → found ≠ none → r.lost = 0 → r.head - r.tail + 24 ≤ r.size →
          Tbl.find t.prof.rings (dieOf core) = some { r with head := r.head + 24 })))) ∧
  (∀ (s : State) (core : Nat), s.path.waits = [] →
    Timed s (.syncRecord core) (2 ^ 16 ≤ s.clocksSince (Tbl.get 0 s.prof.syncAt core)) (fun t => t.frags = s.frags ∧ t.waves = s.waves ∧ t.teams = s.teams ∧ Tbl.get 0 t.prof.syncAt core = s.ticks ∧
        (Tbl.find s.prof.rings (dieOf core) = none → t.mem = s.mem) ∧
        (∀ r, Tbl.find s.prof.rings (dieOf core) = some r → r.lost = 0 → r.head - r.tail + 24 ≤ r.size →
          Tbl.find t.prof.rings (dieOf core) = some { r with head := r.head + 24 }))) ∧
  (∀ (s : State) (mw : Nat), s.path.waits = [] →
    ∃ t, exec (.powerMeasurement mw) s = .next t ∧ t.frags = s.frags ∧ t.waves = s.waves ∧ t.teams = s.teams ∧ t.mgmt.power = mw ∧
      s.mgmt.floor ≤ t.mgmt.level ∧ t.mgmt.level ≤ max s.mgmt.floor 7 ∧ (2550000 < mw → 0 < t.mgmt.level) ∧ (s.prof.rings = [] → t.mem = s.mem))

/-- LEASE_EXPIRY and EVENT_RESEND (R443, R444): ownership ends when the lease has lapsed, and goes to the best pending claim; an unacknowledged event is said
again, with its number, after 250 ms. -/
def ownershipLapses : Prop :=
  (∀ (s : State),
    (s.winner = none →
        Timed s .leaseExpiry (s.lapsed = true) (fun t => { t with mgmt := s.mgmt } = s ∧ t.mgmt.owner = none ∧ t.mgmt.prio = 0 ∧ t.mgmt.unacked = [] ∧
          t.mgmt.queue = s.mgmt.unacked.map SentEvent.event ++ s.mgmt.queue)) ∧
    (∀ id x, s.winner = some (id, x) →
        Timed s .leaseExpiry (s.lapsed = true) (fun t => { t with mgmt := s.mgmt } = s ∧ t.mgmt.owner = some id ∧ t.mgmt.prio = x.claim.getD 0 ∧ t.mgmt.lease = s.ticks ∧
          (Tbl.find t.mgmt.sessions id).map Session.claim = some none))) ∧
  (∀ (s : State) (n id : Nat) (e : SentEvent) (x : Session), s.mgmt.owner = some id → Tbl.find s.mgmt.sessions id = some x →
    s.mgmt.unacked.find? (fun e => e.seq == n) = some e →
    Timed s (.eventResend n) (250 * 10 ^ 6 ≤ s.nsSince e.since) (fun t => { t with mgmt := s.mgmt } = s ∧ t.mgmt.out = .event x.port id e.seq e.event.kind e.event.body :: s.mgmt.out ∧
        (∀ y ∈ t.mgmt.unacked, y.seq = n → y.since = s.ticks) ∧ t.mgmt.unacked.map SentEvent.event = s.mgmt.unacked.map SentEvent.event))

/-- BRING_UP (R13, R447): the steps are done in order, each recorded; by the last every core has left reset, its CLK counting from the step at which it did so; the third zeroes memory and clears every poison bit, the last sets READY; a failing step sets
FAIL, and then nothing more happens. -/
def bringUpSteps : Prop :=
  ∀ (s : State),
    (s.ready = true ∨ s.mgmt.fail ≠ 0 → exec .bringUp s = .next s) ∧
    (s.ready = false → s.mgmt.fail = 0 →
      ∃ t, exec .bringUp s = .next t ∧ t.teams = s.teams ∧ t.waves = s.waves ∧ t.frags = s.frags ∧
        (t.mgmt.fail ≠ 0 → t.mgmt.stage = s.mgmt.stage ∧ t.ready = false ∧ t.mem = s.mem) ∧
        (t.mgmt.fail = 0 → t.mgmt.stage = min 5 (s.mgmt.stage + 1)) ∧
        (t.ready = true ↔ 4 ≤ s.mgmt.stage) ∧
        (s.mgmt.stage = 2 → t.mgmt.fail = 0 ∧ (∀ a, t.byte a = 0) ∧ t.poison = []) ∧
        (s.mgmt.stage ≠ 2 → t.mem = s.mem ∧ t.poison = s.poison) ∧
        (∀ c, c < 1280 → (4 ≤ s.mgmt.stage → (Tbl.find t.sched.started c).isSome = true) ∧
          ∀ u, (Tbl.find s.sched.started c = some u → Tbl.find t.sched.started c = some u) ∧
            (Tbl.find t.sched.started c = some u → Tbl.find s.sched.started c = some u ∨ u = s.ticks)))

/-- RoCEv2 and other traffic (R405, R434 to R437, R439): a WRITE into an open window is performed there, one outside is refused and changes nothing; a READ
answers with the bytes, or, where one is poisoned, with a NAK and a record; other operations are refused; other traffic is dropped; addresses are answered. -/
def portsServe : Prop :=
  (∀ (s : State) (q : RdmaRequest), s.rel.rot = [] →
    ((s.ready = false ∨ s.windowFor q q.data.length 1 = none) → exec (.rdmaWrite q) s = .next (s.say (.rdma q.port q.qp (some .accessError) []))) ∧
    (∀ k a, s.ready = true → s.windowFor q q.data.length 1 = some (k, a) → s.mgmt.due = [] → s.path.waits = [] →
      ∃ t ws, exec (.rdmaWrite q) s = .next t ∧ (∀ b, t.byte b = if a ≤ b then (q.data[b - a]?).getD (s.byte b) else s.byte b) ∧
        t.mgmt.due = [.write q.port q.qp k (cellsAt a q.data) true ws] ∧ t.mgmt.out = s.mgmt.out ∧ t.frags = s.frags ∧ t.waves = s.waves) ∧
    ((s.ready = false ∨ s.windowFor q q.bytes 0 = none) → exec (.rdmaRead q) s = .next (s.say (.rdma q.port q.qp (some .accessError) []))) ∧
    (∀ k a, s.ready = true → s.windowFor q q.bytes 0 = some (k, a) → s.mgmt.due = [] → s.heldRange a q.bytes = false →
      (s.memPoisoned a q.bytes = false →
        ∃ t, exec (.rdmaRead q) s = .next t ∧ t.mgmt.out = .rdma q.port q.qp none (readBytes s.mem a q.bytes) :: s.mgmt.out ∧ t.mem = s.mem ∧
          t.frags = s.frags ∧ t.waves = s.waves) ∧
      (s.memPoisoned a q.bytes = true →
        ∃ t r, exec (.rdmaRead q) s = .next t ∧ t.mgmt.out = .rdma q.port q.qp (some .operationalError) [] :: s.mgmt.out ∧ t.mem = s.mem ∧
          t.rel.ring.head? = some r ∧ r.kind.toNat % 256 = 2)) ∧
    exec (.roceUnsupportedOp q) s = .next (s.say (.rdma q.port q.qp (some .invalidRequest) []))) ∧
  (∀ (s : State) (port : Nat), exec (.otherTrafficDrop port) s = .next s ∧
    (Tbl.find s.links.addrs port = none → exec (.arpNeighbourDiscovery port) s = .next s) ∧
    (∀ a, Tbl.find s.links.addrs port = some a → exec (.arpNeighbourDiscovery port) s = .next (s.say (.address port a.1 a.2))))

end Sys2Proof.Claims

/-- The device's own upkeep: the scrubber and the monitors, samples and sync records, the lease and its events, as R73 to R75, R414 to R418, R428, R429, R432,
R443, R444 and R450 say. -/
def Obligations.DeviceKeepsUp : Prop := Claims.upkeepRuns ∧ Claims.samplesTaken ∧ Claims.ownershipLapses

/-- Bring-up and the ports, as R405, R434 to R437, R439 and R447 say. -/
def Obligations.BringUpAndPorts : Prop := Claims.bringUpSteps ∧ Claims.portsServe

/-- The management protocol (R441 to R443, R447): of a session's messages each SEQ acts once; a repeat is answered from the store, or dropped where its answer
is no longer there; an owner-only request of another session gets NOTOWNER, and, until READY is set, a request that does not act early gets NOTREADY; neither
changes anything else. -/
def Obligations.RequestProtocol : Prop :=
  ∀ (s : State) (q : EdjorRequest) (x : Session), ∀ r, Requested s q r → s.lapsed = false → Tbl.find s.mgmt.sessions q.session.toNat = some x →
    (q.seq.toNat ≤ x.top → ∀ e, x.stored.find? (fun e => e.1 == q.seq.toNat) = some e →
      exec r.1 s = .next (s.say (.edjor q.port e.2.1 q.session.toNat q.seq.toNat e.2.2.1 e.2.2.2))) ∧
    (q.seq.toNat ≤ x.top → x.stored.find? (fun e => e.1 == q.seq.toNat) = none → exec r.1 s = .next s) ∧
    (x.top < q.seq.toNat → r.2.2.1 = true → s.mgmt.owner ≠ some q.session.toNat →
      Answers s q r.1 r.2.1 1 (fun t p => p = [] ∧ { t with mgmt := s.mgmt } = s ∧ t.mgmt.owner = s.mgmt.owner ∧ t.mgmt.lease = s.mgmt.lease)) ∧
    (x.top < q.seq.toNat → (r.2.2.1 = true → s.mgmt.owner = some q.session.toNat) → s.ready = false → r.2.2.2 = false →
      Answers s q r.1 r.2.1 2 (fun t p => p = [] ∧ { t with mgmt := s.mgmt } = s ∧ t.mgmt.owner = s.mgmt.owner))

namespace Sys2Proof.Claims

open Sys2Proof.Machine

/-- NONCE and HELLO (R441): a nonce of 32 bytes is kept for its source, at most 64 of them; a HELLO with a nonce of its source that is at most 10 s old and a
signature of the master's key opens a session under a new id; without one of these it opens none. -/
def sessionsOpen : Prop :=
  ∀ (s : State) (q : EdjorRequest),
    (∃ t v, exec (.nonce q) s = .next t ∧ v.length = 32 ∧ t.mgmt.out = .edjor q.port 0x06 0 0 0 v :: s.mgmt.out ∧ OnlyManages s t ∧
      t.mgmt.nonces.getLast? = some ⟨v, q.source, s.ticks⟩ ∧ t.mgmt.nonces.length ≤ 64 ∧ t.mgmt.sessions = s.mgmt.sessions) ∧
    (let master := field q.body 0 8
     let nonce := (q.body.drop 8).take 32
     let fresh := ∃ n ∈ s.mgmt.nonces, n.value = nonce ∧ n.source = q.source ∧ s.nsSince n.since ≤ 10 * 10 ^ 9
     let signed := ∃ key, Config.masterKey master = some key ∧ Config.signed key (textBytes "EDJH" ++ nonce ++ natBytes 8 master) (q.body.drop 40) = true
     ∃ t, exec (.hello q) s = .next t ∧ OnlyManages s t ∧ (∀ n ∈ t.mgmt.nonces, n.value ≠ nonce) ∧
       ((fresh ∧ signed ∧ t.mgmt.nextSess = s.mgmt.nextSess + 1 ∧
          t.mgmt.out = .edjor q.port 0x01 s.mgmt.nextSess q.seq.toNat 0 (natBytes 8 s.mgmt.nextSess) :: s.mgmt.out ∧
          ∃ x, Tbl.find t.mgmt.sessions s.mgmt.nextSess = some x ∧ x.master = master ∧ x.port = q.port ∧ x.top = 0 ∧ x.stored = []) ∨
        (¬(fresh ∧ signed) ∧ t.mgmt.sessions = s.mgmt.sessions ∧ t.mgmt.out = .edjor q.port 0x01 0 q.seq.toNat 5 [] :: s.mgmt.out)))

/-- STATUS, READMEM, ATTEST, ERRRING and operations that are not assigned (R405, R411, R442, R445, R446, R449): they report, and change nothing else. -/
def deviceReports : Prop :=
  ∀ (s : State) (q : EdjorRequest), Asks s q →
    Answers s q (.status q) 0x02 0 (fun t p => p = s.statusBlock ∧ OnlyManages s t) ∧
    Answers s q (.edjorOtherOp q) q.op.toNat 3 (fun t p => p = [] ∧ OnlyManages s t) ∧
    (4 ≤ s.mgmt.stage → q.body.length = 32 →
      Answers s q (.attest q) 0x04 0 (fun t p => p = s.report q.body ++ exactly 3309 (Config.signature (s.report q.body)) ++ Config.certificate ∧ OnlyManages s t)) ∧
    (field q.body 0 1 = 0 →
      Answers s q (.errring q) 0x05 0 (fun t p => OnlyManages s t ∧ p = (List.range (min (field q.body 8 2) 4096)).flatMap (fun i =>
        match s.record (BitVec.ofNat 32 (field q.body 4 4) + BitVec.ofNat 32 i) with | .ok r => r.bytes | .error _ => []))) ∧
    (field q.body 0 1 = 1 → s.mgmt.owner = some q.session.toNat →
      Answers s q (.errring q) 0x05 0 (fun t p => p = [] ∧ t.rel = { s.rel with echkOff := field q.body 1 1 != 0 } ∧ t.mem = s.mem ∧ t.frags = s.frags)) ∧
    (s.ready = true → s.mgmt.due = [] → s.rel.rot = [] → field q.body 0 8 + field q.body 8 4 ≤ 2 ^ 38 →
      s.heldRange (field q.body 0 8) (field q.body 8 4) = false →
      Answers s q (.readmem q) 0x03 0 (fun t p => t.mem = s.mem ∧ t.poison = s.poison ∧ t.frags = s.frags ∧ t.waves = s.waves ∧ t.teams = s.teams ∧
        p = readBytes s.mem (field q.body 0 8) (field q.body 8 4) ++ poisonMask s (field q.body 0 8) (field q.body 8 4)))

/-- CLAIM, HEARTBEAT, RELEASE, HANDOVER and EVACK (R149, R443, R444): a claim wins a device without an owner and waits for one that has; the owner renews its lease,
gives up or hands over; an acknowledged event is sent no more. -/
def ownershipMoves : Prop :=
  ∀ (s : State) (q : EdjorRequest),
    let id := q.session.toNat
    (Asks s q → field q.body 0 1 = 0 → Answers s q (.claim q) 0x10 3 (fun t p => p = [] ∧ OnlyManages s t)) ∧
    (∀ o, Asks s q → field q.body 0 1 ≠ 0 → s.mgmt.owner = some o →
      Answers s q (.claim q) 0x10 0 (fun t p => p = [] ∧ OnlyManages s t ∧ (Tbl.find t.mgmt.sessions id).map Session.claim = some (some (field q.body 0 1)))) ∧
    (Asks s q → field q.body 0 1 ≠ 0 → s.mgmt.owner = none → (∀ e ∈ s.mgmt.sessions, e.1 ≠ id → e.2.claim = none) →
      (s.mgmt.sessions.map Prod.fst).Pairwise (· < ·) →
      Answers s q (.claim q) 0x10 0 (fun t p => p = [] ∧ { t with mgmt := s.mgmt } = s ∧ t.mgmt.owner = some id ∧ t.mgmt.prio = field q.body 0 1 ∧
        t.mgmt.lease = s.ticks)) ∧
    (Owns s q → Answers s q (.heartbeat q) 0x11 0 (fun t p => p = [] ∧ OnlyManages s t ∧ t.mgmt.lease = s.ticks)) ∧
    (Accepted s q → (∀ e ∈ s.mgmt.sessions, e.2.claim = none) →
      Answers s q (.release q) 0x12 0 (fun t p => p = [] ∧ { t with mgmt := s.mgmt } = s ∧ t.mgmt.owner = none ∧ t.mgmt.unacked = [] ∧
        t.mgmt.queue = s.mgmt.unacked.map SentEvent.event ++ s.mgmt.queue)) ∧
    (∀ y, Accepted s q → Tbl.find s.mgmt.sessions (field q.body 0 8) = some y →
      Answers s q (.handover q) 0x13 0 (fun t p => p = [] ∧ { t with mgmt := s.mgmt } = s ∧ t.mgmt.owner = some (field q.body 0 8) ∧ t.mgmt.lease = s.ticks)) ∧
    (Accepted s q → Tbl.find s.mgmt.sessions (field q.body 0 8) = none → Answers s q (.handover q) 0x13 3 (fun t p => p = [] ∧ OnlyManages s t)) ∧
    (∀ e, Accepted s q → s.mgmt.queue = [] → s.mgmt.unacked.find? (fun e => e.seq == field q.body 0 8) = some e →
      Answers s q (.evack q) 0x41 0 (fun t p => p = [] ∧ t.mgmt.owner = s.mgmt.owner ∧
        t.mgmt.unacked = s.mgmt.unacked.filter (fun y => y.seq != field q.body 0 8) ∧ t.mem = s.mem ∧ t.frags = s.frags ∧
        t.eng = if e.event.kind = 7 then { s.eng with waits := s.eng.waits.filter (fun w => w.body != e.event.body) } else s.eng))

/-- OPENDMW, CLOSEDMW, OPENHW, CLOSEHW, PEERMAP and INVAL (R88, R436, R438, R440): a window is opened under an rkey of its own and closed again; host windows
do not overlap; a peer id has its ports; every translation that matches leaves every cache. -/
def windowsOpen : Prop :=
  ∀ (s : State) (q : EdjorRequest), Accepted s q →
    let b := q.body
    (field b 0 4 < 256 → field b 8 8 % 65536 = 0 → field b 16 8 % 65536 = 0 → field b 16 8 ≠ 0 → field b 8 8 + field b 16 8 ≤ 2 ^ 38 → field b 24 1 ≠ 0 →
      field b 24 1 ≤ 3 →
      (Tbl.find s.mgmt.windows (field b 0 4) = none → s.mgmt.windows.length ≤ 256 →
        ∃ key : BitVec 32, Answers s q (.opendmw q) 0x21 0 (fun t p => p = natBytes 4 key.toNat ∧ t.mem = s.mem ∧ t.frags = s.frags ∧ t.waves = s.waves ∧
          Tbl.find t.mgmt.windows (field b 0 4) = some ⟨field b 8 8, field b 16 8, BitVec.ofNat 8 (field b 24 1), key⟩ ∧
          ∀ e ∈ s.mgmt.windows, e.2.rkey ≠ key)) ∧
      (Tbl.find s.mgmt.windows (field b 0 4) ≠ none → Answers s q (.opendmw q) 0x21 4 (fun t p => p = [] ∧ OnlyManages s t ∧ t.mgmt.windows = s.mgmt.windows))) ∧
    (Tbl.find s.mgmt.windows (field b 0 4) ≠ none → s.mgmt.due = [] →
      Answers s q (.closedmw q) 0x22 0 (fun t p => p = [] ∧ OnlyManages s t ∧ t.mgmt.windows = Tbl.drop s.mgmt.windows (field b 0 4))) ∧
    (∀ w, parseHostWindow (b.drop 8) = some w → field b 0 8 < 1024 →
      (∀ e ∈ s.links.windows, e.1 ≠ field b 0 8 → e.2.offset + e.2.size ≤ w.offset ∨ w.offset + w.size ≤ e.2.offset) →
      Answers s q (.openhw q) 0x23 0 (fun t p => p = [] ∧ Tbl.find t.links.windows (field b 0 8) = some w ∧ t.mem = s.mem ∧ t.frags = s.frags ∧
        ∀ k, k ≠ field b 0 8 → Tbl.find t.links.windows k = Tbl.find s.links.windows k)) ∧
    (Tbl.find s.links.windows (field b 0 8) ≠ none →
      Answers s q (.closehw q) 0x24 0 (fun t p => p = [] ∧ t.links = { s.links with windows := Tbl.drop s.links.windows (field b 0 8) } ∧ t.mem = s.mem ∧
        t.frags = s.frags)) ∧
    (field b 0 1 = 0 → field b 2 2 ≤ 1023 → field b 4 2 ≠ 0 →
      Answers s q (.peermap q) 0x2E 0 (fun t p => p = [] ∧ Tbl.find t.links.peers (field b 2 2) = some (field b 4 2) ∧ t.links.self = s.links.self ∧
        t.mem = s.mem ∧ t.frags = s.frags)) ∧
    (field b 0 1 = 1 → field b 2 2 ≤ 1023 →
      (s.anyResident = false → Answers s q (.peermap q) 0x2E 0 (fun t p => p = [] ∧ t.links = { s.links with self := field b 2 2 } ∧ t.mem = s.mem)) ∧
      (s.anyResident = true → Answers s q (.peermap q) 0x2E 4 (fun t p => p = [] ∧ OnlyManages s t))) ∧
    (let asid := if field b 2 1 = 0 then some (field b 0 2 % 2 ^ 12) else none
     let whole := field b 3 1 != 0
     let start := BitVec.ofNat 64 (field b 8 8)
     let lo := if whole then 0 else vaPage start
     let hi := if whole then 2 ^ 39 - 1 else vaPage (start + BitVec.ofNat 64 (field b 16 8 - 1))
     let left (old new : Tbl (List TlbEntry)) : Prop := ∀ k e, e ∈ Tbl.get [] new k ↔ e ∈ Tbl.get [] old k ∧ e.hit asid lo hi = false
     (whole = true ∨ field b 16 8 ≠ 0) → Tbl.wf [] s.path.tlbCore = true → Tbl.wf [] s.path.tlbClus = true → Tbl.wf [] s.path.tlbDie = true → s.mgmt.due = [] →
       (s.oldAccessesDone asid s.nextId = true →
         Answers s q (.inval q) 0x25 0 (fun t p => p = [] ∧ t.mem = s.mem ∧ t.frags = s.frags ∧ t.waves = s.waves ∧ left s.path.tlbCore t.path.tlbCore ∧
           left s.path.tlbClus t.path.tlbClus ∧ left s.path.tlbDie t.path.tlbDie)) ∧
       (s.oldAccessesDone asid s.nextId = false →
         ∃ t, exec (.inval q) s = .next t ∧ t.mgmt.out = s.mgmt.out ∧ t.mgmt.due = [.inval q.session.toNat q.seq.toNat asid s.nextId] ∧ t.mem = s.mem ∧
           t.frags = s.frags ∧ left s.path.tlbCore t.path.tlbCore ∧ left s.path.tlbClus t.path.tlbClus ∧ left s.path.tlbDie t.path.tlbDie))

/-- GRAPHGO, SWAP, SPILL, SAVEPOOL, PARKANS and ENDTEAM (R340, R368, R386, R389, R391, R392, R394): a node counts down, once its home does not hold it; a swap of cores is asked for; HELD slots spill; a die
has its save pool; a parked team's image is pending; a team ends LOST. -/
def ownerDirects : Prop :=
  ∀ (s : State) (q : EdjorRequest), Accepted s q →
    let b := q.body
    (nodeAddr (field b 0 8) = true → s.nodeFree (field b 0 8) = false →
      Answers s q (.graphgo q) 0x20 0 (fun t p => p = [] ∧ t.mem = s.mem ∧ t.frags = s.frags ∧ t.waves = s.waves ∧
        Tbl.get [] t.sched.tasks (homeOf (field b 0 8)) = Tbl.get [] s.sched.tasks (homeOf (field b 0 8)) ++ [.follow [field b 0 8] 0])) ∧
    (nodeAddr (field b 0 8) = true → (∀ e ∈ s.path.writes, e.2.line ≠ field b 0 8 / 128) → s.rel.rot = [] → s.memPoisoned (field b 0 8 + 4) 4 = false →
      s.path.waits = [] →
      let a := field b 0 8
      let old := s.memNat (a + 4) 4
      Answers s q (.graphgo q) 0x20 0 (fun t p => p = [] ∧ t.frags = s.frags ∧ t.waves = s.waves ∧
        (∀ x, t.byte x = if a + 4 ≤ x then ((natBytes 4 (old - 1))[x - (a + 4)]?).getD (s.byte x) else s.byte x) ∧
        Tbl.get [] t.sched.tasks (homeOf a) = Tbl.get [] s.sched.tasks (homeOf a) ++ if old = 1 then [.start a] else [])) ∧
    (coresIn b 2 ≠ [] → (∀ c ∈ coresIn b 2, c < 1280 ∧ s.coreEnabled c = true ∧ clusterOf c = clusterOf ((coresIn b 2).headD 0)) →
      (∀ e ∈ s.saves.swaps, e.1 ≠ s.nextId) →
      Answers s q (.swap q) 0x26 0 (fun t p => p = [] ∧ t.mem = s.mem ∧ t.waves = s.waves ∧ t.teams = s.teams ∧ ∃ y, Tbl.find t.saves.swaps s.nextId = some y ∧
        y.keep = (field b 0 1 != 0) ∧ y.spare = none ∧ ∀ c ∈ coresIn b 2, c ∈ y.cores)) ∧
    (coresIn b 0 ≠ [] → (∀ c ∈ coresIn b 0, ∃ ts, s.slot c = .held ts) →
      Answers s q (.spill q) 0x31 0 (fun t p => p = [] ∧ t.mem = s.mem ∧ t.waves = s.waves ∧ t.frags = s.frags ∧ t.teams = s.teams ∧
        ∀ c ∈ coresIn b 0, ∀ ts, s.slot c = .held ts → t.slot c = if ts.isEmpty then .empty else .spilling ts)) ∧
    (field b 0 1 ≤ 7 → field b 8 8 + field b 16 8 ≤ 2 ^ 38 →
      Answers s q (.savepool q) 0x27 0 (fun t p => p = [] ∧ t.saves = { s.saves with pools := Tbl.put s.saves.pools (field b 0 1) (field b 8 8, field b 16 8) } ∧
        t.mem = s.mem ∧ t.frags = s.frags)) ∧
    (∀ m, Tbl.find s.saves.images (field b 0 4) = some m → m.kind = .park → m.pending = false → m.pages ≠ [] →
      Answers s q (.parkansResolve q) 0x28 0 (fun t p => p = [] ∧ t.mem = s.mem ∧ t.frags = s.frags ∧
        Tbl.find t.saves.images (field b 0 4) = some { m with pending := true, deliver := false, order := s.nextId }) ∧
      Answers s q (.parkansDeliver q) 0x28 0 (fun t p => p = [] ∧ t.mem = s.mem ∧ t.frags = s.frags ∧
        Tbl.find t.saves.images (field b 0 4) = some { m with pending := true, deliver := true, order := s.nextId })) ∧
    (Tbl.find s.saves.images (field b 0 4) = none →
      Answers s q (.parkansResolve q) 0x28 3 (fun t p => p = [] ∧ OnlyManages s t) ∧ Answers s q (.parkansDeliver q) 0x28 3 (fun t p => p = [] ∧ OnlyManages s t)) ∧
    (∀ k, s.teamNamed b = some k →
      Answers s q (.endteam q) 0x29 0 (fun t p => p = [] ∧ t.mem = s.mem ∧ Tbl.get 0 t.sched.ended k = 5 ∧
        ∀ w W, s.wave? w = some W → W.team = k → ∃ V, t.wave? w = some V ∧ V.live = 0)) ∧
    (s.teamNamed b = none → Answers s q (.endteam q) 0x29 3 (fun t p => p = [] ∧ OnlyManages s t))

/-- PROFILE, THROTTLE, SPARE, FWLOAD and RESET (R415, R428 to R433, R447, R448, R450): counters are read, and cleared in the same step; the floor bounds the level; an image
with a good signature is staged; RESET ends everything that runs, starts bring-up again and changes the state epoch (R324). -/
def deviceIsSet : Prop :=
  ∀ (s : State) (q : EdjorRequest),
    let b := q.body
    (Accepted s q → field b 0 1 ≤ 7 →
      Answers s q (.profileRead q) 0x2B 0 (fun t p => p = wordBytes (s.dieReport (field b 0 1)) ∧ OnlyManages s t) ∧
      Answers s q (.profileReadClear q) 0x2B 0 (fun t p => p = wordBytes (s.dieReport (field b 0 1)) ∧ t.mem = s.mem ∧ t.frags = s.frags ∧
        ∀ k, Tbl.get 0 t.rel.counters k = if k / 16 = 10000 + field b 0 1 ∨ (k / 16 < 1280 ∧ k / 16 / 160 = field b 0 1) then 0 else Tbl.get 0 s.rel.counters k)) ∧
    (Accepted s q → field b 0 1 = 4 → 10 ≤ field b 8 8 → field b 8 8 ≤ 24 → 6 ≤ field b 16 8 → field b 16 8 ≤ 20 → s.prof.rings = [] →
      Answers s q (.profileFlush q) 0x2B 0 (fun t p => p = [] ∧ t.prof = { s.prof with pcK := field b 8 8, memK := field b 16 8 } ∧ t.mem = s.mem ∧ t.frags = s.frags)) ∧
    (Accepted s q → field b 0 1 ≤ 7 → s.path.waits = [] →
      Answers s q (.throttle q) 0x2C 0 (fun t p => p = [] ∧ t.mgmt.floor = field b 0 1 ∧ t.mgmt.level = max (field b 0 1) s.mgmt.level ∧ t.frags = s.frags ∧
        t.waves = s.waves)) ∧
    (Accepted s q → 7 < field b 0 1 → Answers s q (.throttle q) 0x2C 3 (fun t p => p = [] ∧ OnlyManages s t ∧ t.mgmt.floor = s.mgmt.floor)) ∧
    (Accepted s q → field b 0 1 ≤ 1 → Answers s q (.spare q) 0x2D 0 (fun t p => p = [] ∧ OnlyManages s t ∧ (t.mgmt.autoSpare = true ↔ field b 0 1 = 1))) ∧
    (Accepted s q →
      let n := b.length - 3309
      let good := Config.signed Config.firmwareKey (b.take n) (b.drop n)
      Answers s q (.fwload q) 0x2F (if good then 0 else 3) (fun t p => p = [] ∧ OnlyManages s t ∧
        t.mgmt.staged = if good then some (b.take n) else s.mgmt.staged)) ∧
    (Owns s q →
      Answers s q (.reset q) 0x30 0 (fun t p => p = [] ∧ t.ready = false ∧ t.mgmt.stage = 0 ∧ t.mgmt.fail = 0 ∧ t.teams = [] ∧ t.waves = [] ∧ t.frags = [] ∧
        t.saves.images = [] ∧ t.saves.slots = [] ∧ t.mgmt.windows = [] ∧ t.links.windows = [] ∧ t.rc.insts = [] ∧
        t.links.epoch = s.links.epoch + 1 ∧ ((∀ e ∈ s.mgmt.sessions, e.2.claim = none) → t.mgmt.owner = none)))

/-- DEBUG: attaching, stops, stop, STEP and STEP.ALL (R419 to R424): the debugger of a team stops every fragment, lets one go for one instruction, or each in turn. -/
def debuggerStops : Prop :=
  ∀ (s : State) (q : EdjorRequest) (k : Nat),
    let b := q.body.drop 16
    (Accepted s q → s.teamNamed q.body = some k → field q.body 16 1 = 0 → Tbl.find s.debug k = none →
      Answers s q (.debugAttach q) 0x2A 0 (fun t _ => Tbl.find t.debug k = some noDebug ∧ t.frags = s.frags ∧ t.mem = s.mem)) ∧
    (Accepted s q → s.teamNamed q.body = some k → field q.body 16 1 ≠ 0 →
      Answers s q (.debugAttach q) 0x2A 0 (fun t _ => Tbl.find t.debug k = none ∧ t.mem = s.mem ∧
        ∀ e ∈ s.teamFrags k, ∀ F, s.frag? e.1 = some F → F.fstate = .halted → F.stop ≠ some 0x18 →
          ∃ G, t.frag? e.1 = some G ∧ G.fstate = (if F.meet = none then .ready else .meeting))) ∧
    (∀ d ws, Debugs s q k d → field b 1 1 ≤ 4 → field b 2 1 ≤ 4 → (field b 8 8 = 0 ∨ 2 ^ 16 ≤ field b 8 8 ∧ field b 8 8 ≤ 2 ^ 40) →
      (List.range (field b 2 1)).mapM (fun i => watchOf (b.drop (16 + 8 * field b 1 1 + 16 * i))) = some ws →
      Answers s q (.debugSetStops q) 0x2A 0 (fun t _ => t.frags = s.frags ∧ t.mem = s.mem ∧ Tbl.find t.debug k =
        some { d with stops := field b 0 1 != 0, breaks := (List.range (field b 1 1)).map (fun i => BitVec.ofNat 64 (field b (16 + 8 * i) 8)), watches := ws,
                      dog := if field b 8 8 = 0 then d.dog else field b 8 8 })) ∧
    (∀ d, Debugs s q k d → field b 0 1 = 0 →
      Answers s q (.debugStop q) 0x2A 0 (fun t _ => AllHalted t (s.teamFrags k) ∧ t.mem = s.mem ∧ (Tbl.find t.debug k).map Debug.stepping = some none)) ∧
    (∀ d f F, Debugs s q k d → d.replay = none → s.fragNamed k b = some f → s.frag? f = some F → F.stop ≠ some 0x18 → (s.frags.map Prod.fst).Nodup →
      Answers s q (.debugStep q) 0x2A 0 (fun t _ => (∃ G, t.frag? f = some G ∧ G.fstate = (if F.meet = none then .ready else .meeting) ∧ G.pc = F.pc ∧ G.scal = F.scal ∧ G.active = F.active) ∧
        AllHalted t ((s.teamFrags k).filter (fun e => e.1 != f)) ∧ t.mem = s.mem ∧
        (Tbl.find t.debug k).map Debug.stepping = some (some ⟨false, f, [], F.rwc, F.save.isSome, s.ticks, s.waitsAt f⟩))) ∧
    (∀ d f F rest, Debugs s q k d → d.replay = none → s.teamFrags k = (f, F) :: rest → F.stop ≠ some 0x18 → (s.frags.map Prod.fst).Nodup →
      Answers s q (.debugStepAll q) 0x2A 0 (fun t _ => (∃ G, t.frag? f = some G ∧ G.fstate = (if F.meet = none then .ready else .meeting) ∧ G.pc = F.pc ∧ G.scal = F.scal ∧ G.active = F.active) ∧
        AllHalted t rest ∧ t.mem = s.mem ∧
        (Tbl.find t.debug k).map Debug.stepping = some (some ⟨true, f, rest.map Prod.fst, F.rwc, F.save.isSome, s.ticks, s.waitsAt f⟩)))

/-- DEBUG: replay mode, rollback and discarding the replay (R426, R427): entering the mode keeps a checkpoint and counts RWC from 0; a rollback keeps the live
team as an image and shows a copy where the log has the count; discarding lets the live team come back. -/
def debuggerReplays : Prop :=
  ∀ (s : State) (q : EdjorRequest) (k : Nat) (d : Debug) (T : Team), Debugs s q k d → s.team? k = some T →
    let b := q.body.drop 16
    (d.replay = none → field b 8 8 ≠ 0 → field b 0 8 + field b 8 8 ≤ 2 ^ 38 → T.where_ = .live →
      s.poolRoom (dieOf (T.cores.headD 0)) (2 ^ 33) (imageSize T) = true → (s.frags.map Prod.fst).Nodup →
      Answers s q (.debugReplayMode q) 0x2A 0 (fun t _ => t.mem = s.mem ∧ t.waves = s.waves ∧ (∀ e ∈ s.teamFrags k, (t.frag? e.1).map Frag.rwc = some 0) ∧
        (∃ m, Tbl.find t.saves.images s.saves.nextCtx = some m ∧ m.team = k ∧ m.kind = .checkpoint) ∧
        ∃ r, Tbl.find t.debug k = some { d with replay := some r } ∧ r.base = field b 0 8 ∧ r.size = field b 8 8 ∧ r.log.length = 1 ∧ r.copy = none ∧ r.live = none)) ∧
    (∀ r e c o h, d.replay = some r → r.copy = none → r.live = none → s.saves.images.find? (fun e => e.2.team == k && e.2.kind == .checkpoint) = some e →
      let n := BitVec.ofNat 64 (field b 8 8)
      let hit := reachedAt r.log (field b 0 2) (field b 2 1) n
      let pos := hit.getD (r.log.length - 1)
      s.replayContext r.log pos ((((r.log[pos]?).bind (fun c => c.fragNamed (field b 0 2) (field b 2 1))).map Prod.fst).getD 0) = some c →
      s.packImage e.2 (Config.freeNat s.free) = some o → o.getLast? = some h →
      Answers s q (.debugRollback q) 0x2A 0 (fun t _ => t.mem = s.mem ∧ ∃ g copy, Tbl.find t.debug k = some g ∧ g.status = (if hit.isSome then 0 else 2) ∧
        g.replay = some { r with copy := some copy, live := some s.saves.nextCtx, pos := pos } ∧ (t.team? copy).map Team.cores = some h.cores)) ∧
    (∀ r copy live m, d.replay = some r → r.copy = some copy → r.live = some live → Tbl.find s.saves.images live = some m →
      Answers s q (.debugDiscardReplay q) 0x2A 0 (fun t _ => t.mem = s.mem ∧ t.team? copy = none ∧
        Tbl.find t.debug k = some { d with replay := some { r with copy := none, live := none, pos := 0 } } ∧
        (Tbl.find t.saves.images live).map Image.pending = some true)) ∧
    (d.replay = none → Answers s q (.debugDiscardReplay q) 0x2A 3 (fun t p => p = [] ∧ OnlyManages s t))

end Sys2Proof.Claims

/-- The management side (R405, R411, R441 to R449): sessions open, reports are given, ownership moves. -/
def Obligations.ManagementAnswers : Prop := Claims.sessionsOpen ∧ Claims.deviceReports ∧ Claims.ownershipMoves

/-- What the owner directs (R88, R368, R386, R389, R391 to R394, R415, R428 to R440, R447, R448, R450): windows and maps, graphs, swaps and teams, profiles, throttling,
spares, firmware and RESET. -/
def Obligations.OwnerDirects : Prop := Claims.windowsOpen ∧ Claims.ownerDirects ∧ Claims.deviceIsSet

/-- What a debugger does (R419 to R427). -/
def Obligations.DebuggerDirects : Prop := Claims.debuggerStops ∧ Claims.debuggerReplays

/-! ## The machine as a whole -/

/-- After reset (R447, R391): the device is not READY and has completed no step, nothing runs, every shadow slot is EMPTY, no image, window, instance or owner is
left, no sector is poisoned, and the next thing that happens of itself is a step of bring-up. That memory lists no byte, and so reads zero, is the model's choice
(log entry 14). -/
def Obligations.ResetState : Prop :=
  State.reset.ready = false ∧ State.reset.mgmt.stage = 0 ∧ State.reset.mgmt.fail = 0 ∧ State.reset.teams = [] ∧ State.reset.waves = [] ∧ State.reset.frags = [] ∧
  State.reset.pend = [] ∧ (∀ core, State.reset.slot core = .empty) ∧ State.reset.saves.images = [] ∧ State.reset.mgmt.windows = [] ∧
  State.reset.links.windows = [] ∧ State.reset.rc.insts = [] ∧ State.reset.mgmt.owner = none ∧ State.reset.rel.ring = [] ∧ State.reset.poison = [] ∧
  (∀ a, State.reset.byte a = 0) ∧ State.reset.nextMove.1 = .event .bringUp

/-- A wave and its fragment 0 at the start (R164, R351): the held blocks are the role's base blocks; registers are zero, tagged RAW, predicates false but for p0; every
lane is live and active; scalars are the launch's, else zero; the temporaries are invalid; nothing is outstanding or late, and there is no parent. -/
def Obligations.WavesStartClean : Prop :=
  ∀ (w team idx role roleIdx core quadrant col width base entry age runs : Nat) (pc : Word) (scal : List Word) (h : Header), base ≤ 8 →
    let W := startWave team idx role roleIdx core quadrant col width base
    let F := startFrag w entry pc width scal h age runs
    (∀ l n, W.reg l n = VReg.zero) ∧ (∀ p, p ≠ 0 → W.pred p = 0) ∧ W.pred 0 = BitVec.allOnes 64 ∧ (∀ b, b < 8 → (W.held.getLsbD b = true ↔ b < base)) ∧
    W.live = Mask.first width ∧ F.active = W.live ∧ W.stack = [] ∧ W.storeq = [] ∧ W.failed = [] ∧ F.pc = pc ∧ F.num = 0 ∧ F.parent = none ∧ F.tmpValid = 0 ∧
    F.runCount = 0 ∧ F.mode = modeOfHeader h ∧ F.late = [] ∧ F.fstate = .ready ∧ F.save = none ∧ F.meet = none ∧
    (∀ n, n < 64 → scal.length ≤ 64 → F.scalar n = scal.getD n 0)

/-- A step runs what is decoded (R19, R20, R38): where a RUNNING fragment of a resident team is the next to issue, waits for no request entry or walk, and the bytes at its
PC decode to an instruction, the step is that instruction's meaning, for that fragment; only caches (and a stop that is over) have changed before it. An event that is next is run itself. What is next
stands in the agenda, or follows from the state (the model's choice, log entry 4). -/
def Obligations.StepRunsDecoded : Prop :=
  (∀ (s s1 : State) (i : Instr), s.nextMove = (.event i, s1) → step s = exec i s1) ∧
  (∀ (s s1 : State) (f : Nat) (c : Ctx) (bs tail : List Byte) (i : Instr), s.nextMove = (.issue f, s1) →
    s1.ctxOf f .instructionFetch = some c → c.F.fstate = .running → c.T.where_ = .live → s1.swapping c.W.core = false → s1.breakHere c = false →
    s1.awaitsEntries c = false → s1.walkBusy (.core c.W.core) c.T.asid c.F.pc = false → s1.rel.rot = [] →
    s1.fetchInstr c.W.core c.T.asid c.T.table c.F.pc = .ok bs → decode bs = .ok (i, tail) →
    ∃ s2, step s = exec i s2 ∧ s2.cur = some f ∧ { s2 with path := s1.path, frags := s1.frags, cur := s1.cur, free := s1.free } = s1 ∧
      (c.F.stop = none → s2.frags = s1.frags)) ∧
  (∀ (s : State) (m : Move) (rest : List Move), s.agenda = m :: rest → s.nextMove = (m, { s.begin with agenda := rest })) ∧
  (∀ (s : State), s.agenda = [] → s.nextMove = (s.begin.defaultMove, s.begin))

/-- Words that the spec spells out decode to the instructions they stand for: the examples of R39, R40, R167, R171, R189, R201, R206, R232, R273, R375, R387 and
R388. -/
def Obligations.SpecWordsDecode : Prop :=
  decode (bytesOfWords [0x10003010]) = .ok (.seam ⟨0, 3, true⟩, []) ∧
  decode (bytesOfWords [0x00000020]) = .ok (.nop ⟨0, 0, 0, 0⟩, []) ∧
  decode (bytesOfWords [0x004007A2, 0x00300000, 0]) = .ok (.racq { blankExt with a := ⟨.imm, 4⟩ }, []) ∧
  decode (bytesOfWords [0x02903782, 0x00290000, 0]) = .ok (.mfs { blankExt with d := ⟨.scal, 3⟩, a := ⟨.special, 0x29⟩ }, []) ∧
  decode (bytesOfWords [0x00402122, 0x1C000006, 0x08000000]) =
    .ok (.iaddc { blankExt with d := ⟨.vec, 2⟩, a := ⟨.vec, 4⟩, b := ⟨.vec, 6⟩, c := ⟨.imm, 0⟩, fmt := 1, mod := 2 }, []) ∧
  decode (bytesOfWords [0x02C00032, 0x00300000, 1]) = .ok (.bra { blankExt with a := ⟨.imm, 0x2C⟩, g := 1 }, []) ∧
  decode (bytesOfWords [0xF0300082, 0x00300000, 0]) = .ok (.rcv { blankExt with a := ⟨.imm, 3⟩, x := 15 }, []) ∧
  decode (bytesOfWords [0x00105702, 0x01800003, 0x98000000]) =
    .ok (.shfl { blankExt with d := ⟨.vec, 5⟩, a := ⟨.vec, 1⟩, b := ⟨.imm, 3⟩, mod := 0x26 }, []) ∧
  decode (bytesOfWords [0x20828B02, 0, 0x000004C0]) = .ok (.rcq { blankExt with d := ⟨.vec, 0x28⟩, a := ⟨.vec, 8⟩, x := 2, tok := 3, la := 1 }, []) ∧
  decode (bytesOfWords [0x00403C82, 0x00090000, 0x00000040]) = .ok (.launch { blankExt with d := ⟨.scal, 3⟩, a := ⟨.scal, 4⟩, tok := 1 }, []) ∧
  decode (bytesOfWords [0x02A00D02, 0x00300000, 3]) = .ok (.trap { blankExt with a := ⟨.imm, 0x2A⟩, g := 3 }, []) ∧
  decode (bytesOfWords [0x00000D12, 0, 0]) = .ok (.tret blankExt, [])

/-- Decoding is the inverse of encoding (R19, R21, R46, R47): the words of every well-formed instruction, with anything behind them, decode to that instruction
with every operand, and leave what is behind. -/
def Obligations.DecodeOfEncode : Prop :=
  ∀ (i : Instr) (bs rest : List Byte), WellFormed i → encode i = some bs → decode (bs ++ rest) = .ok (i, rest)

/-- Every step keeps memory and its poisoned sectors in canonical form, whatever runs and whatever arrives: an instruction, an event of the device, a request of its
host. -/
def Obligations.EveryStepKeepsCanonical : Prop := ∀ (s t : State), Canonical s → step s = .next t → Canonical t

/-- Memory after reset is in canonical form. -/
def Obligations.ResetIsCanonical : Prop := Canonical State.reset
end

