-- ==== Sys2Proof/Laws/Decode.lean ====
section
/-! SUPPORT. Laws/Decode.lean: the decoder on the layouts of R19 to R22, and what well-formedness says of one field. -/

namespace Sys2Proof.Laws

/-- Well-formed means that every static check holds. -/
theorem wf_checks (i : Instr) (h : WellFormed i) : ∀ c ∈ Machine.staticChecks i, c.2 = true := by
  intro c hc
  unfold WellFormed Machine.firstOffence at h
  rw [Option.map_eq_none_iff, List.find?_eq_none] at h
  simpa using h c hc

/-- The SUB check of a well-formed extended instruction holds. -/
theorem sub_of_wf (i : Instr) (w : ExtWord) (f : Machine.Form) (_ : Machine.extForm i = some (w, f)) (hc : Machine.staticChecks i = f.checks w)
    (hw : WellFormed i) : f.sub = true := by
  have := wf_checks i hw (Machine.posSub, f.sub) (by rw [hc]; simp [Machine.Form.checks])
  exact this

/-- A layout with an assigned opcode decodes to its well-formed instruction: an extended form. -/
theorem ext_instr (op : BitVec 8) (w : ExtWord) (i : Instr) (h0 : opAssigned op = true) (h1 : extInstr op w = some i) (hw : WellFormed i) :
    (Parts.ext op w).instr = .ok i := by
  unfold WellFormed at hw
  simp [Parts.instr, h0, h1, hw]

/-- A base form, but SEAM. -/
theorem base_instr (op : BitVec 8) (w : BaseWord) (lit : Option Word) (i : Instr) (h0 : opAssigned op = true) (h1 : baseInstr op w lit = some i)
    (h2 : op ≠ 0x01) (hw : WellFormed i) : (Parts.base op w lit).instr = .ok i := by
  unfold WellFormed at hw
  simp only [Parts.instr, h0, h1, h2, hw]
  rfl

/-- SEAM's fields out of its word, and back. -/
theorem seamOf_ofSeam (w : SeamWord) : seamOf (ofSeam w) = w := by
  obtain ⟨p, a, y⟩ := w
  simp only [seamOf, ofSeam, SeamWord.mk.injEq, true_and]
  refine ⟨?_, by cases y <;> rfl⟩
  apply BitVec.eq_of_getLsbD_eq
  intro i hi
  rw [BitVec.getLsbD_append]
  by_cases h : i < 8
  · simp [h]
  · have : i - 8 < 8 := by omega
    have e : 8 + (i - 8) = i := by omega
    simp [h, this, e]

theorem seam_instr (w : SeamWord) : (Parts.base 0x01 (ofSeam w) none).instr = .ok (.seam w) := by
  have h : ¬ 2 ≤ (ofSeam w).x.toNat := by cases hy : w.yield <;> simp [ofSeam, hy]
  have hf : Machine.firstOffence (.seam w) = none := rfl
  have hb : baseInstr 0x01 (ofSeam w) none = some (.seam (seamOf (ofSeam w))) := rfl
  have h0 : opAssigned 0x01 = true := rfl
  simp only [Parts.instr, h0, hb, seamOf_ofSeam, hf, h]
  rfl

end Sys2Proof.Laws
end

