-- ==== Sys2Proof/Laws/State.lean ====
section
/-! SUPPORT. Laws/State.lean: what each named update of the state leaves in each field, one lemma a field. -/

namespace Sys2Proof.Machine

/-! ## adjFrag -/

@[simp] theorem State.adjFrag_mem (s : State) (f : Nat) (g : Frag → Frag) : (s.adjFrag f g).mem = s.mem := rfl
@[simp] theorem State.adjFrag_poison (s : State) (f : Nat) (g : Frag → Frag) : (s.adjFrag f g).poison = s.poison := rfl
@[simp] theorem State.adjFrag_teams (s : State) (f : Nat) (g : Frag → Frag) : (s.adjFrag f g).teams = s.teams := rfl
@[simp] theorem State.adjFrag_waves (s : State) (f : Nat) (g : Frag → Frag) : (s.adjFrag f g).waves = s.waves := rfl
@[simp] theorem State.adjFrag_frags (s : State) (f : Nat) (g : Frag → Frag) : (s.adjFrag f g).frags = Tbl.adjust s.frags f g := rfl
@[simp] theorem State.adjFrag_pend (s : State) (f : Nat) (g : Frag → Frag) : (s.adjFrag f g).pend = s.pend := rfl
@[simp] theorem State.adjFrag_path (s : State) (f : Nat) (g : Frag → Frag) : (s.adjFrag f g).path = s.path := rfl
@[simp] theorem State.adjFrag_rel (s : State) (f : Nat) (g : Frag → Frag) : (s.adjFrag f g).rel = s.rel := rfl
@[simp] theorem State.adjFrag_sched (s : State) (f : Nat) (g : Frag → Frag) : (s.adjFrag f g).sched = s.sched := rfl
@[simp] theorem State.adjFrag_links (s : State) (f : Nat) (g : Frag → Frag) : (s.adjFrag f g).links = s.links := rfl
@[simp] theorem State.adjFrag_saves (s : State) (f : Nat) (g : Frag → Frag) : (s.adjFrag f g).saves = s.saves := rfl
@[simp] theorem State.adjFrag_mgmt (s : State) (f : Nat) (g : Frag → Frag) : (s.adjFrag f g).mgmt = s.mgmt := rfl
@[simp] theorem State.adjFrag_debug (s : State) (f : Nat) (g : Frag → Frag) : (s.adjFrag f g).debug = s.debug := rfl
@[simp] theorem State.adjFrag_prof (s : State) (f : Nat) (g : Frag → Frag) : (s.adjFrag f g).prof = s.prof := rfl
@[simp] theorem State.adjFrag_eng (s : State) (f : Nat) (g : Frag → Frag) : (s.adjFrag f g).eng = s.eng := rfl
@[simp] theorem State.adjFrag_mx (s : State) (f : Nat) (g : Frag → Frag) : (s.adjFrag f g).mx = s.mx := rfl
@[simp] theorem State.adjFrag_rc (s : State) (f : Nat) (g : Frag → Frag) : (s.adjFrag f g).rc = s.rc := rfl
@[simp] theorem State.adjFrag_gfx (s : State) (f : Nat) (g : Frag → Frag) : (s.adjFrag f g).gfx = s.gfx := rfl
@[simp] theorem State.adjFrag_nextId (s : State) (f : Nat) (g : Frag → Frag) : (s.adjFrag f g).nextId = s.nextId := rfl
@[simp] theorem State.adjFrag_cur (s : State) (f : Nat) (g : Frag → Frag) : (s.adjFrag f g).cur = s.cur := rfl
@[simp] theorem State.adjFrag_agenda (s : State) (f : Nat) (g : Frag → Frag) : (s.adjFrag f g).agenda = s.agenda := rfl
@[simp] theorem State.adjFrag_ticks (s : State) (f : Nat) (g : Frag → Frag) : (s.adjFrag f g).ticks = s.ticks := rfl
@[simp] theorem State.adjFrag_free (s : State) (f : Nat) (g : Frag → Frag) : (s.adjFrag f g).free = s.free := rfl
@[simp] theorem State.adjFrag_ready (s : State) (f : Nat) (g : Frag → Frag) : (s.adjFrag f g).ready = s.ready := rfl

/-! ## adjWave -/

@[simp] theorem State.adjWave_mem (s : State) (w : Nat) (g : Wave → Wave) : (s.adjWave w g).mem = s.mem := rfl
@[simp] theorem State.adjWave_poison (s : State) (w : Nat) (g : Wave → Wave) : (s.adjWave w g).poison = s.poison := rfl
@[simp] theorem State.adjWave_teams (s : State) (w : Nat) (g : Wave → Wave) : (s.adjWave w g).teams = s.teams := rfl
@[simp] theorem State.adjWave_waves (s : State) (w : Nat) (g : Wave → Wave) : (s.adjWave w g).waves = Tbl.adjust s.waves w g := rfl
@[simp] theorem State.adjWave_frags (s : State) (w : Nat) (g : Wave → Wave) : (s.adjWave w g).frags = s.frags := rfl
@[simp] theorem State.adjWave_pend (s : State) (w : Nat) (g : Wave → Wave) : (s.adjWave w g).pend = s.pend := rfl
@[simp] theorem State.adjWave_path (s : State) (w : Nat) (g : Wave → Wave) : (s.adjWave w g).path = s.path := rfl
@[simp] theorem State.adjWave_rel (s : State) (w : Nat) (g : Wave → Wave) : (s.adjWave w g).rel = s.rel := rfl
@[simp] theorem State.adjWave_sched (s : State) (w : Nat) (g : Wave → Wave) : (s.adjWave w g).sched = s.sched := rfl
@[simp] theorem State.adjWave_links (s : State) (w : Nat) (g : Wave → Wave) : (s.adjWave w g).links = s.links := rfl
@[simp] theorem State.adjWave_saves (s : State) (w : Nat) (g : Wave → Wave) : (s.adjWave w g).saves = s.saves := rfl
@[simp] theorem State.adjWave_mgmt (s : State) (w : Nat) (g : Wave → Wave) : (s.adjWave w g).mgmt = s.mgmt := rfl
@[simp] theorem State.adjWave_debug (s : State) (w : Nat) (g : Wave → Wave) : (s.adjWave w g).debug = s.debug := rfl
@[simp] theorem State.adjWave_prof (s : State) (w : Nat) (g : Wave → Wave) : (s.adjWave w g).prof = s.prof := rfl
@[simp] theorem State.adjWave_eng (s : State) (w : Nat) (g : Wave → Wave) : (s.adjWave w g).eng = s.eng := rfl
@[simp] theorem State.adjWave_mx (s : State) (w : Nat) (g : Wave → Wave) : (s.adjWave w g).mx = s.mx := rfl
@[simp] theorem State.adjWave_rc (s : State) (w : Nat) (g : Wave → Wave) : (s.adjWave w g).rc = s.rc := rfl
@[simp] theorem State.adjWave_gfx (s : State) (w : Nat) (g : Wave → Wave) : (s.adjWave w g).gfx = s.gfx := rfl
@[simp] theorem State.adjWave_nextId (s : State) (w : Nat) (g : Wave → Wave) : (s.adjWave w g).nextId = s.nextId := rfl
@[simp] theorem State.adjWave_cur (s : State) (w : Nat) (g : Wave → Wave) : (s.adjWave w g).cur = s.cur := rfl
@[simp] theorem State.adjWave_agenda (s : State) (w : Nat) (g : Wave → Wave) : (s.adjWave w g).agenda = s.agenda := rfl
@[simp] theorem State.adjWave_ticks (s : State) (w : Nat) (g : Wave → Wave) : (s.adjWave w g).ticks = s.ticks := rfl
@[simp] theorem State.adjWave_free (s : State) (w : Nat) (g : Wave → Wave) : (s.adjWave w g).free = s.free := rfl
@[simp] theorem State.adjWave_ready (s : State) (w : Nat) (g : Wave → Wave) : (s.adjWave w g).ready = s.ready := rfl

/-! ## adjTeam -/

@[simp] theorem State.adjTeam_mem (s : State) (t : Nat) (g : Team → Team) : (s.adjTeam t g).mem = s.mem := rfl
@[simp] theorem State.adjTeam_poison (s : State) (t : Nat) (g : Team → Team) : (s.adjTeam t g).poison = s.poison := rfl
@[simp] theorem State.adjTeam_teams (s : State) (t : Nat) (g : Team → Team) : (s.adjTeam t g).teams = Tbl.adjust s.teams t g := rfl
@[simp] theorem State.adjTeam_waves (s : State) (t : Nat) (g : Team → Team) : (s.adjTeam t g).waves = s.waves := rfl
@[simp] theorem State.adjTeam_frags (s : State) (t : Nat) (g : Team → Team) : (s.adjTeam t g).frags = s.frags := rfl
@[simp] theorem State.adjTeam_pend (s : State) (t : Nat) (g : Team → Team) : (s.adjTeam t g).pend = s.pend := rfl
@[simp] theorem State.adjTeam_path (s : State) (t : Nat) (g : Team → Team) : (s.adjTeam t g).path = s.path := rfl
@[simp] theorem State.adjTeam_rel (s : State) (t : Nat) (g : Team → Team) : (s.adjTeam t g).rel = s.rel := rfl
@[simp] theorem State.adjTeam_sched (s : State) (t : Nat) (g : Team → Team) : (s.adjTeam t g).sched = s.sched := rfl
@[simp] theorem State.adjTeam_links (s : State) (t : Nat) (g : Team → Team) : (s.adjTeam t g).links = s.links := rfl
@[simp] theorem State.adjTeam_saves (s : State) (t : Nat) (g : Team → Team) : (s.adjTeam t g).saves = s.saves := rfl
@[simp] theorem State.adjTeam_mgmt (s : State) (t : Nat) (g : Team → Team) : (s.adjTeam t g).mgmt = s.mgmt := rfl
@[simp] theorem State.adjTeam_debug (s : State) (t : Nat) (g : Team → Team) : (s.adjTeam t g).debug = s.debug := rfl
@[simp] theorem State.adjTeam_prof (s : State) (t : Nat) (g : Team → Team) : (s.adjTeam t g).prof = s.prof := rfl
@[simp] theorem State.adjTeam_eng (s : State) (t : Nat) (g : Team → Team) : (s.adjTeam t g).eng = s.eng := rfl
@[simp] theorem State.adjTeam_mx (s : State) (t : Nat) (g : Team → Team) : (s.adjTeam t g).mx = s.mx := rfl
@[simp] theorem State.adjTeam_rc (s : State) (t : Nat) (g : Team → Team) : (s.adjTeam t g).rc = s.rc := rfl
@[simp] theorem State.adjTeam_gfx (s : State) (t : Nat) (g : Team → Team) : (s.adjTeam t g).gfx = s.gfx := rfl
@[simp] theorem State.adjTeam_nextId (s : State) (t : Nat) (g : Team → Team) : (s.adjTeam t g).nextId = s.nextId := rfl
@[simp] theorem State.adjTeam_cur (s : State) (t : Nat) (g : Team → Team) : (s.adjTeam t g).cur = s.cur := rfl
@[simp] theorem State.adjTeam_agenda (s : State) (t : Nat) (g : Team → Team) : (s.adjTeam t g).agenda = s.agenda := rfl
@[simp] theorem State.adjTeam_ticks (s : State) (t : Nat) (g : Team → Team) : (s.adjTeam t g).ticks = s.ticks := rfl
@[simp] theorem State.adjTeam_free (s : State) (t : Nat) (g : Team → Team) : (s.adjTeam t g).free = s.free := rfl
@[simp] theorem State.adjTeam_ready (s : State) (t : Nat) (g : Team → Team) : (s.adjTeam t g).ready = s.ready := rfl

/-! ## setPred -/

@[simp] theorem State.setPred_mem (s : State) (w p : Nat) (m v : Mask) : (s.setPred w p m v).mem = s.mem := rfl
@[simp] theorem State.setPred_poison (s : State) (w p : Nat) (m v : Mask) : (s.setPred w p m v).poison = s.poison := rfl
@[simp] theorem State.setPred_teams (s : State) (w p : Nat) (m v : Mask) : (s.setPred w p m v).teams = s.teams := rfl
@[simp] theorem State.setPred_waves (s : State) (w p : Nat) (m v : Mask) : (s.setPred w p m v).waves = Tbl.adjust s.waves w (fun W => W.setPred p m v) := rfl
@[simp] theorem State.setPred_frags (s : State) (w p : Nat) (m v : Mask) : (s.setPred w p m v).frags = s.frags := rfl
@[simp] theorem State.setPred_pend (s : State) (w p : Nat) (m v : Mask) : (s.setPred w p m v).pend = s.pend := rfl
@[simp] theorem State.setPred_path (s : State) (w p : Nat) (m v : Mask) : (s.setPred w p m v).path = s.path := rfl
@[simp] theorem State.setPred_rel (s : State) (w p : Nat) (m v : Mask) : (s.setPred w p m v).rel = s.rel := rfl
@[simp] theorem State.setPred_sched (s : State) (w p : Nat) (m v : Mask) : (s.setPred w p m v).sched = s.sched := rfl
@[simp] theorem State.setPred_links (s : State) (w p : Nat) (m v : Mask) : (s.setPred w p m v).links = s.links := rfl
@[simp] theorem State.setPred_saves (s : State) (w p : Nat) (m v : Mask) : (s.setPred w p m v).saves = s.saves := rfl
@[simp] theorem State.setPred_mgmt (s : State) (w p : Nat) (m v : Mask) : (s.setPred w p m v).mgmt = s.mgmt := rfl
@[simp] theorem State.setPred_debug (s : State) (w p : Nat) (m v : Mask) : (s.setPred w p m v).debug = s.debug := rfl
@[simp] theorem State.setPred_prof (s : State) (w p : Nat) (m v : Mask) : (s.setPred w p m v).prof = s.prof := rfl
@[simp] theorem State.setPred_eng (s : State) (w p : Nat) (m v : Mask) : (s.setPred w p m v).eng = s.eng := rfl
@[simp] theorem State.setPred_mx (s : State) (w p : Nat) (m v : Mask) : (s.setPred w p m v).mx = s.mx := rfl
@[simp] theorem State.setPred_rc (s : State) (w p : Nat) (m v : Mask) : (s.setPred w p m v).rc = s.rc := rfl
@[simp] theorem State.setPred_gfx (s : State) (w p : Nat) (m v : Mask) : (s.setPred w p m v).gfx = s.gfx := rfl
@[simp] theorem State.setPred_nextId (s : State) (w p : Nat) (m v : Mask) : (s.setPred w p m v).nextId = s.nextId := rfl
@[simp] theorem State.setPred_cur (s : State) (w p : Nat) (m v : Mask) : (s.setPred w p m v).cur = s.cur := rfl
@[simp] theorem State.setPred_agenda (s : State) (w p : Nat) (m v : Mask) : (s.setPred w p m v).agenda = s.agenda := rfl
@[simp] theorem State.setPred_ticks (s : State) (w p : Nat) (m v : Mask) : (s.setPred w p m v).ticks = s.ticks := rfl
@[simp] theorem State.setPred_free (s : State) (w p : Nat) (m v : Mask) : (s.setPred w p m v).free = s.free := rfl
@[simp] theorem State.setPred_ready (s : State) (w p : Nat) (m v : Mask) : (s.setPred w p m v).ready = s.ready := rfl

/-! ## retire -/

@[simp] theorem State.retire_mem (s : State) (f n : Nat) : (s.retire f n).mem = s.mem := rfl
@[simp] theorem State.retire_poison (s : State) (f n : Nat) : (s.retire f n).poison = s.poison := rfl
@[simp] theorem State.retire_teams (s : State) (f n : Nat) : (s.retire f n).teams = s.teams := rfl
@[simp] theorem State.retire_waves (s : State) (f n : Nat) : (s.retire f n).waves = s.waves := rfl
@[simp] theorem State.retire_frags (s : State) (f n : Nat) : (s.retire f n).frags = Tbl.adjust s.frags f (fun F => F.pass n) := rfl
@[simp] theorem State.retire_pend (s : State) (f n : Nat) : (s.retire f n).pend = s.pend := rfl
@[simp] theorem State.retire_path (s : State) (f n : Nat) : (s.retire f n).path = s.path := rfl
@[simp] theorem State.retire_rel (s : State) (f n : Nat) : (s.retire f n).rel = s.rel := rfl
@[simp] theorem State.retire_sched (s : State) (f n : Nat) : (s.retire f n).sched = s.sched := rfl
@[simp] theorem State.retire_links (s : State) (f n : Nat) : (s.retire f n).links = s.links := rfl
@[simp] theorem State.retire_saves (s : State) (f n : Nat) : (s.retire f n).saves = s.saves := rfl
@[simp] theorem State.retire_mgmt (s : State) (f n : Nat) : (s.retire f n).mgmt = s.mgmt := rfl
@[simp] theorem State.retire_debug (s : State) (f n : Nat) : (s.retire f n).debug = s.debug := rfl
@[simp] theorem State.retire_prof (s : State) (f n : Nat) : (s.retire f n).prof = s.prof := rfl
@[simp] theorem State.retire_eng (s : State) (f n : Nat) : (s.retire f n).eng = s.eng := rfl
@[simp] theorem State.retire_mx (s : State) (f n : Nat) : (s.retire f n).mx = s.mx := rfl
@[simp] theorem State.retire_rc (s : State) (f n : Nat) : (s.retire f n).rc = s.rc := rfl
@[simp] theorem State.retire_gfx (s : State) (f n : Nat) : (s.retire f n).gfx = s.gfx := rfl
@[simp] theorem State.retire_nextId (s : State) (f n : Nat) : (s.retire f n).nextId = s.nextId := rfl
@[simp] theorem State.retire_cur (s : State) (f n : Nat) : (s.retire f n).cur = s.cur := rfl
@[simp] theorem State.retire_agenda (s : State) (f n : Nat) : (s.retire f n).agenda = s.agenda := rfl
@[simp] theorem State.retire_ticks (s : State) (f n : Nat) : (s.retire f n).ticks = s.ticks := rfl
@[simp] theorem State.retire_free (s : State) (f n : Nat) : (s.retire f n).free = s.free := rfl
@[simp] theorem State.retire_ready (s : State) (f n : Nat) : (s.retire f n).ready = s.ready := rfl

/-! ## unselect -/

@[simp] theorem State.unselect_mem (s : State) (f : Nat) : (s.unselect f).mem = s.mem := rfl
@[simp] theorem State.unselect_poison (s : State) (f : Nat) : (s.unselect f).poison = s.poison := rfl
@[simp] theorem State.unselect_teams (s : State) (f : Nat) : (s.unselect f).teams = s.teams := rfl
@[simp] theorem State.unselect_waves (s : State) (f : Nat) : (s.unselect f).waves = s.waves := rfl
@[simp] theorem State.unselect_frags (s : State) (f : Nat) : (s.unselect f).frags = Tbl.adjust s.frags f (fun F => { F with fstate := .blocked }) := rfl
@[simp] theorem State.unselect_pend (s : State) (f : Nat) : (s.unselect f).pend = s.pend := rfl
@[simp] theorem State.unselect_path (s : State) (f : Nat) : (s.unselect f).path = s.path := rfl
@[simp] theorem State.unselect_rel (s : State) (f : Nat) : (s.unselect f).rel = s.rel := rfl
@[simp] theorem State.unselect_sched (s : State) (f : Nat) : (s.unselect f).sched = s.sched := rfl
@[simp] theorem State.unselect_links (s : State) (f : Nat) : (s.unselect f).links = s.links := rfl
@[simp] theorem State.unselect_saves (s : State) (f : Nat) : (s.unselect f).saves = s.saves := rfl
@[simp] theorem State.unselect_mgmt (s : State) (f : Nat) : (s.unselect f).mgmt = s.mgmt := rfl
@[simp] theorem State.unselect_debug (s : State) (f : Nat) : (s.unselect f).debug = s.debug := rfl
@[simp] theorem State.unselect_prof (s : State) (f : Nat) : (s.unselect f).prof = s.prof := rfl
@[simp] theorem State.unselect_eng (s : State) (f : Nat) : (s.unselect f).eng = s.eng := rfl
@[simp] theorem State.unselect_mx (s : State) (f : Nat) : (s.unselect f).mx = s.mx := rfl
@[simp] theorem State.unselect_rc (s : State) (f : Nat) : (s.unselect f).rc = s.rc := rfl
@[simp] theorem State.unselect_gfx (s : State) (f : Nat) : (s.unselect f).gfx = s.gfx := rfl
@[simp] theorem State.unselect_nextId (s : State) (f : Nat) : (s.unselect f).nextId = s.nextId := rfl
@[simp] theorem State.unselect_cur (s : State) (f : Nat) : (s.unselect f).cur = s.cur := rfl
@[simp] theorem State.unselect_agenda (s : State) (f : Nat) : (s.unselect f).agenda = s.agenda := rfl
@[simp] theorem State.unselect_ticks (s : State) (f : Nat) : (s.unselect f).ticks = s.ticks := rfl
@[simp] theorem State.unselect_free (s : State) (f : Nat) : (s.unselect f).free = s.free := rfl
@[simp] theorem State.unselect_ready (s : State) (f : Nat) : (s.unselect f).ready = s.ready := rfl

/-! ## halt -/

@[simp] theorem State.halt_mem (s : State) (f c : Nat) : (s.halt f c).mem = s.mem := rfl
@[simp] theorem State.halt_poison (s : State) (f c : Nat) : (s.halt f c).poison = s.poison := rfl
@[simp] theorem State.halt_teams (s : State) (f c : Nat) : (s.halt f c).teams = s.teams := rfl
@[simp] theorem State.halt_waves (s : State) (f c : Nat) : (s.halt f c).waves = s.waves := rfl
@[simp] theorem State.halt_frags (s : State) (f c : Nat) : (s.halt f c).frags = Tbl.adjust s.frags f (fun F => { F with fstate := .halted, stop := some c }) := rfl
@[simp] theorem State.halt_pend (s : State) (f c : Nat) : (s.halt f c).pend = s.pend := rfl
@[simp] theorem State.halt_path (s : State) (f c : Nat) : (s.halt f c).path = s.path := rfl
@[simp] theorem State.halt_rel (s : State) (f c : Nat) : (s.halt f c).rel = s.rel := rfl
@[simp] theorem State.halt_sched (s : State) (f c : Nat) : (s.halt f c).sched = s.sched := rfl
@[simp] theorem State.halt_links (s : State) (f c : Nat) : (s.halt f c).links = s.links := rfl
@[simp] theorem State.halt_saves (s : State) (f c : Nat) : (s.halt f c).saves = s.saves := rfl
@[simp] theorem State.halt_mgmt (s : State) (f c : Nat) : (s.halt f c).mgmt = s.mgmt := rfl
@[simp] theorem State.halt_debug (s : State) (f c : Nat) : (s.halt f c).debug = s.debug := rfl
@[simp] theorem State.halt_prof (s : State) (f c : Nat) : (s.halt f c).prof = s.prof := rfl
@[simp] theorem State.halt_eng (s : State) (f c : Nat) : (s.halt f c).eng = s.eng := rfl
@[simp] theorem State.halt_mx (s : State) (f c : Nat) : (s.halt f c).mx = s.mx := rfl
@[simp] theorem State.halt_rc (s : State) (f c : Nat) : (s.halt f c).rc = s.rc := rfl
@[simp] theorem State.halt_gfx (s : State) (f c : Nat) : (s.halt f c).gfx = s.gfx := rfl
@[simp] theorem State.halt_nextId (s : State) (f c : Nat) : (s.halt f c).nextId = s.nextId := rfl
@[simp] theorem State.halt_cur (s : State) (f c : Nat) : (s.halt f c).cur = s.cur := rfl
@[simp] theorem State.halt_agenda (s : State) (f c : Nat) : (s.halt f c).agenda = s.agenda := rfl
@[simp] theorem State.halt_ticks (s : State) (f c : Nat) : (s.halt f c).ticks = s.ticks := rfl
@[simp] theorem State.halt_free (s : State) (f c : Nat) : (s.halt f c).free = s.free := rfl
@[simp] theorem State.halt_ready (s : State) (f c : Nat) : (s.halt f c).ready = s.ready := rfl

/-! ## writeMem -/

@[simp] theorem State.writeMem_mem (s : State) (cs : List (Nat × Byte)) (bad : List Nat) : (s.writeMem cs bad).mem = writeCells s.mem cs := rfl
@[simp] theorem State.writeMem_poison (s : State) (cs : List (Nat × Byte)) (bad : List Nat) : (s.writeMem cs bad).poison = poisonAfter s.poison cs bad := rfl
@[simp] theorem State.writeMem_teams (s : State) (cs : List (Nat × Byte)) (bad : List Nat) : (s.writeMem cs bad).teams = s.teams := rfl
@[simp] theorem State.writeMem_waves (s : State) (cs : List (Nat × Byte)) (bad : List Nat) : (s.writeMem cs bad).waves = s.waves := rfl
@[simp] theorem State.writeMem_frags (s : State) (cs : List (Nat × Byte)) (bad : List Nat) : (s.writeMem cs bad).frags = s.frags := rfl
@[simp] theorem State.writeMem_pend (s : State) (cs : List (Nat × Byte)) (bad : List Nat) : (s.writeMem cs bad).pend = s.pend := rfl
@[simp] theorem State.writeMem_path (s : State) (cs : List (Nat × Byte)) (bad : List Nat) : (s.writeMem cs bad).path = s.path := rfl
@[simp] theorem State.writeMem_sched (s : State) (cs : List (Nat × Byte)) (bad : List Nat) : (s.writeMem cs bad).sched = s.sched := rfl
@[simp] theorem State.writeMem_links (s : State) (cs : List (Nat × Byte)) (bad : List Nat) : (s.writeMem cs bad).links = s.links := rfl
@[simp] theorem State.writeMem_saves (s : State) (cs : List (Nat × Byte)) (bad : List Nat) : (s.writeMem cs bad).saves = s.saves := rfl
@[simp] theorem State.writeMem_mgmt (s : State) (cs : List (Nat × Byte)) (bad : List Nat) : (s.writeMem cs bad).mgmt = s.mgmt := rfl
@[simp] theorem State.writeMem_debug (s : State) (cs : List (Nat × Byte)) (bad : List Nat) : (s.writeMem cs bad).debug = s.debug := rfl
@[simp] theorem State.writeMem_prof (s : State) (cs : List (Nat × Byte)) (bad : List Nat) : (s.writeMem cs bad).prof = s.prof := rfl
@[simp] theorem State.writeMem_eng (s : State) (cs : List (Nat × Byte)) (bad : List Nat) : (s.writeMem cs bad).eng = s.eng := rfl
@[simp] theorem State.writeMem_mx (s : State) (cs : List (Nat × Byte)) (bad : List Nat) : (s.writeMem cs bad).mx = s.mx := rfl
@[simp] theorem State.writeMem_rc (s : State) (cs : List (Nat × Byte)) (bad : List Nat) : (s.writeMem cs bad).rc = s.rc := rfl
@[simp] theorem State.writeMem_gfx (s : State) (cs : List (Nat × Byte)) (bad : List Nat) : (s.writeMem cs bad).gfx = s.gfx := rfl
@[simp] theorem State.writeMem_nextId (s : State) (cs : List (Nat × Byte)) (bad : List Nat) : (s.writeMem cs bad).nextId = s.nextId := rfl
@[simp] theorem State.writeMem_cur (s : State) (cs : List (Nat × Byte)) (bad : List Nat) : (s.writeMem cs bad).cur = s.cur := rfl
@[simp] theorem State.writeMem_agenda (s : State) (cs : List (Nat × Byte)) (bad : List Nat) : (s.writeMem cs bad).agenda = s.agenda := rfl
@[simp] theorem State.writeMem_ticks (s : State) (cs : List (Nat × Byte)) (bad : List Nat) : (s.writeMem cs bad).ticks = s.ticks := rfl
@[simp] theorem State.writeMem_free (s : State) (cs : List (Nat × Byte)) (bad : List Nat) : (s.writeMem cs bad).free = s.free := rfl
@[simp] theorem State.writeMem_ready (s : State) (cs : List (Nat × Byte)) (bad : List Nat) : (s.writeMem cs bad).ready = s.ready := rfl

/-! ## fresh -/

@[simp] theorem State.fresh_mem (s : State) : (s.fresh.2).mem = s.mem := rfl
@[simp] theorem State.fresh_poison (s : State) : (s.fresh.2).poison = s.poison := rfl
@[simp] theorem State.fresh_teams (s : State) : (s.fresh.2).teams = s.teams := rfl
@[simp] theorem State.fresh_waves (s : State) : (s.fresh.2).waves = s.waves := rfl
@[simp] theorem State.fresh_frags (s : State) : (s.fresh.2).frags = s.frags := rfl
@[simp] theorem State.fresh_pend (s : State) : (s.fresh.2).pend = s.pend := rfl
@[simp] theorem State.fresh_path (s : State) : (s.fresh.2).path = s.path := rfl
@[simp] theorem State.fresh_rel (s : State) : (s.fresh.2).rel = s.rel := rfl
@[simp] theorem State.fresh_sched (s : State) : (s.fresh.2).sched = s.sched := rfl
@[simp] theorem State.fresh_links (s : State) : (s.fresh.2).links = s.links := rfl
@[simp] theorem State.fresh_saves (s : State) : (s.fresh.2).saves = s.saves := rfl
@[simp] theorem State.fresh_mgmt (s : State) : (s.fresh.2).mgmt = s.mgmt := rfl
@[simp] theorem State.fresh_debug (s : State) : (s.fresh.2).debug = s.debug := rfl
@[simp] theorem State.fresh_prof (s : State) : (s.fresh.2).prof = s.prof := rfl
@[simp] theorem State.fresh_eng (s : State) : (s.fresh.2).eng = s.eng := rfl
@[simp] theorem State.fresh_mx (s : State) : (s.fresh.2).mx = s.mx := rfl
@[simp] theorem State.fresh_rc (s : State) : (s.fresh.2).rc = s.rc := rfl
@[simp] theorem State.fresh_gfx (s : State) : (s.fresh.2).gfx = s.gfx := rfl
@[simp] theorem State.fresh_nextId (s : State) : (s.fresh.2).nextId = s.nextId := rfl
@[simp] theorem State.fresh_cur (s : State) : (s.fresh.2).cur = s.cur := rfl
@[simp] theorem State.fresh_agenda (s : State) : (s.fresh.2).agenda = s.agenda := rfl
@[simp] theorem State.fresh_ticks (s : State) : (s.fresh.2).ticks = s.ticks := rfl
@[simp] theorem State.fresh_free (s : State) : (s.fresh.2).free = s.free + 1 := rfl
@[simp] theorem State.fresh_ready (s : State) : (s.fresh.2).ready = s.ready := rfl

/-! ## addPend -/

@[simp] theorem State.addPend_mem (s : State) (p : Pend) : ((s.addPend p).2).mem = s.mem := rfl
@[simp] theorem State.addPend_poison (s : State) (p : Pend) : ((s.addPend p).2).poison = s.poison := rfl
@[simp] theorem State.addPend_teams (s : State) (p : Pend) : ((s.addPend p).2).teams = s.teams := rfl
@[simp] theorem State.addPend_waves (s : State) (p : Pend) : ((s.addPend p).2).waves = s.waves := rfl
@[simp] theorem State.addPend_frags (s : State) (p : Pend) : ((s.addPend p).2).frags = s.frags := rfl
@[simp] theorem State.addPend_pend (s : State) (p : Pend) : ((s.addPend p).2).pend = Tbl.put s.pend s.nextId p := rfl
@[simp] theorem State.addPend_path (s : State) (p : Pend) : ((s.addPend p).2).path = s.path := rfl
@[simp] theorem State.addPend_rel (s : State) (p : Pend) : ((s.addPend p).2).rel = s.rel := rfl
@[simp] theorem State.addPend_sched (s : State) (p : Pend) : ((s.addPend p).2).sched = s.sched := rfl
@[simp] theorem State.addPend_links (s : State) (p : Pend) : ((s.addPend p).2).links = s.links := rfl
@[simp] theorem State.addPend_saves (s : State) (p : Pend) : ((s.addPend p).2).saves = s.saves := rfl
@[simp] theorem State.addPend_mgmt (s : State) (p : Pend) : ((s.addPend p).2).mgmt = s.mgmt := rfl
@[simp] theorem State.addPend_debug (s : State) (p : Pend) : ((s.addPend p).2).debug = s.debug := rfl
@[simp] theorem State.addPend_prof (s : State) (p : Pend) : ((s.addPend p).2).prof = s.prof := rfl
@[simp] theorem State.addPend_eng (s : State) (p : Pend) : ((s.addPend p).2).eng = s.eng := rfl
@[simp] theorem State.addPend_mx (s : State) (p : Pend) : ((s.addPend p).2).mx = s.mx := rfl
@[simp] theorem State.addPend_rc (s : State) (p : Pend) : ((s.addPend p).2).rc = s.rc := rfl
@[simp] theorem State.addPend_gfx (s : State) (p : Pend) : ((s.addPend p).2).gfx = s.gfx := rfl
@[simp] theorem State.addPend_nextId (s : State) (p : Pend) : ((s.addPend p).2).nextId = s.nextId + 1 := rfl
@[simp] theorem State.addPend_cur (s : State) (p : Pend) : ((s.addPend p).2).cur = s.cur := rfl
@[simp] theorem State.addPend_agenda (s : State) (p : Pend) : ((s.addPend p).2).agenda = s.agenda := rfl
@[simp] theorem State.addPend_ticks (s : State) (p : Pend) : ((s.addPend p).2).ticks = s.ticks := rfl
@[simp] theorem State.addPend_free (s : State) (p : Pend) : ((s.addPend p).2).free = s.free := rfl
@[simp] theorem State.addPend_ready (s : State) (p : Pend) : ((s.addPend p).2).ready = s.ready := rfl

/-! ## completeAll -/

@[simp] theorem State.completeAll_mem (s : State) (id : Nat) : (s.completeAll id).mem = s.mem := rfl
@[simp] theorem State.completeAll_poison (s : State) (id : Nat) : (s.completeAll id).poison = s.poison := rfl
@[simp] theorem State.completeAll_teams (s : State) (id : Nat) : (s.completeAll id).teams = s.teams := rfl
@[simp] theorem State.completeAll_waves (s : State) (id : Nat) : (s.completeAll id).waves = s.waves := rfl
@[simp] theorem State.completeAll_frags (s : State) (id : Nat) : (s.completeAll id).frags = s.frags := rfl
@[simp] theorem State.completeAll_pend (s : State) (id : Nat) : (s.completeAll id).pend = Tbl.drop s.pend id := rfl
@[simp] theorem State.completeAll_path (s : State) (id : Nat) : (s.completeAll id).path = s.path := rfl
@[simp] theorem State.completeAll_rel (s : State) (id : Nat) : (s.completeAll id).rel = s.rel := rfl
@[simp] theorem State.completeAll_sched (s : State) (id : Nat) : (s.completeAll id).sched = s.sched := rfl
@[simp] theorem State.completeAll_links (s : State) (id : Nat) : (s.completeAll id).links = s.links := rfl
@[simp] theorem State.completeAll_saves (s : State) (id : Nat) : (s.completeAll id).saves = s.saves := rfl
@[simp] theorem State.completeAll_mgmt (s : State) (id : Nat) : (s.completeAll id).mgmt = s.mgmt := rfl
@[simp] theorem State.completeAll_debug (s : State) (id : Nat) : (s.completeAll id).debug = s.debug := rfl
@[simp] theorem State.completeAll_prof (s : State) (id : Nat) : (s.completeAll id).prof = s.prof := rfl
@[simp] theorem State.completeAll_eng (s : State) (id : Nat) : (s.completeAll id).eng = s.eng := rfl
@[simp] theorem State.completeAll_mx (s : State) (id : Nat) : (s.completeAll id).mx = s.mx := rfl
@[simp] theorem State.completeAll_rc (s : State) (id : Nat) : (s.completeAll id).rc = s.rc := rfl
@[simp] theorem State.completeAll_gfx (s : State) (id : Nat) : (s.completeAll id).gfx = s.gfx := rfl
@[simp] theorem State.completeAll_nextId (s : State) (id : Nat) : (s.completeAll id).nextId = s.nextId := rfl
@[simp] theorem State.completeAll_cur (s : State) (id : Nat) : (s.completeAll id).cur = s.cur := rfl
@[simp] theorem State.completeAll_agenda (s : State) (id : Nat) : (s.completeAll id).agenda = s.agenda := rfl
@[simp] theorem State.completeAll_ticks (s : State) (id : Nat) : (s.completeAll id).ticks = s.ticks := rfl
@[simp] theorem State.completeAll_free (s : State) (id : Nat) : (s.completeAll id).free = s.free := rfl
@[simp] theorem State.completeAll_ready (s : State) (id : Nat) : (s.completeAll id).ready = s.ready := rfl

/-! ## count -/

@[simp] theorem State.count_mem (s : State) (k p n : Nat) : (s.count k p n).mem = s.mem := rfl
@[simp] theorem State.count_poison (s : State) (k p n : Nat) : (s.count k p n).poison = s.poison := rfl
@[simp] theorem State.count_teams (s : State) (k p n : Nat) : (s.count k p n).teams = s.teams := rfl
@[simp] theorem State.count_waves (s : State) (k p n : Nat) : (s.count k p n).waves = s.waves := rfl
@[simp] theorem State.count_frags (s : State) (k p n : Nat) : (s.count k p n).frags = s.frags := rfl
@[simp] theorem State.count_pend (s : State) (k p n : Nat) : (s.count k p n).pend = s.pend := rfl
@[simp] theorem State.count_path (s : State) (k p n : Nat) : (s.count k p n).path = s.path := rfl
@[simp] theorem State.count_sched (s : State) (k p n : Nat) : (s.count k p n).sched = s.sched := rfl
@[simp] theorem State.count_links (s : State) (k p n : Nat) : (s.count k p n).links = s.links := rfl
@[simp] theorem State.count_saves (s : State) (k p n : Nat) : (s.count k p n).saves = s.saves := rfl
@[simp] theorem State.count_mgmt (s : State) (k p n : Nat) : (s.count k p n).mgmt = s.mgmt := rfl
@[simp] theorem State.count_debug (s : State) (k p n : Nat) : (s.count k p n).debug = s.debug := rfl
@[simp] theorem State.count_prof (s : State) (k p n : Nat) : (s.count k p n).prof = s.prof := rfl
@[simp] theorem State.count_eng (s : State) (k p n : Nat) : (s.count k p n).eng = s.eng := rfl
@[simp] theorem State.count_mx (s : State) (k p n : Nat) : (s.count k p n).mx = s.mx := rfl
@[simp] theorem State.count_rc (s : State) (k p n : Nat) : (s.count k p n).rc = s.rc := rfl
@[simp] theorem State.count_gfx (s : State) (k p n : Nat) : (s.count k p n).gfx = s.gfx := rfl
@[simp] theorem State.count_nextId (s : State) (k p n : Nat) : (s.count k p n).nextId = s.nextId := rfl
@[simp] theorem State.count_cur (s : State) (k p n : Nat) : (s.count k p n).cur = s.cur := rfl
@[simp] theorem State.count_agenda (s : State) (k p n : Nat) : (s.count k p n).agenda = s.agenda := rfl
@[simp] theorem State.count_ticks (s : State) (k p n : Nat) : (s.count k p n).ticks = s.ticks := rfl
@[simp] theorem State.count_free (s : State) (k p n : Nat) : (s.count k p n).free = s.free := rfl
@[simp] theorem State.count_ready (s : State) (k p n : Nat) : (s.count k p n).ready = s.ready := rfl

/-! ## log -/

@[simp] theorem State.log_mem (s : State) (r : ErrorRecord) : (s.log r).mem = s.mem := rfl
@[simp] theorem State.log_poison (s : State) (r : ErrorRecord) : (s.log r).poison = s.poison := rfl
@[simp] theorem State.log_teams (s : State) (r : ErrorRecord) : (s.log r).teams = s.teams := rfl
@[simp] theorem State.log_waves (s : State) (r : ErrorRecord) : (s.log r).waves = s.waves := rfl
@[simp] theorem State.log_frags (s : State) (r : ErrorRecord) : (s.log r).frags = s.frags := rfl
@[simp] theorem State.log_pend (s : State) (r : ErrorRecord) : (s.log r).pend = s.pend := rfl
@[simp] theorem State.log_path (s : State) (r : ErrorRecord) : (s.log r).path = s.path := rfl
@[simp] theorem State.log_sched (s : State) (r : ErrorRecord) : (s.log r).sched = s.sched := rfl
@[simp] theorem State.log_links (s : State) (r : ErrorRecord) : (s.log r).links = s.links := rfl
@[simp] theorem State.log_saves (s : State) (r : ErrorRecord) : (s.log r).saves = s.saves := rfl
@[simp] theorem State.log_mgmt (s : State) (r : ErrorRecord) : (s.log r).mgmt = s.mgmt := rfl
@[simp] theorem State.log_debug (s : State) (r : ErrorRecord) : (s.log r).debug = s.debug := rfl
@[simp] theorem State.log_prof (s : State) (r : ErrorRecord) : (s.log r).prof = s.prof := rfl
@[simp] theorem State.log_eng (s : State) (r : ErrorRecord) : (s.log r).eng = s.eng := rfl
@[simp] theorem State.log_mx (s : State) (r : ErrorRecord) : (s.log r).mx = s.mx := rfl
@[simp] theorem State.log_rc (s : State) (r : ErrorRecord) : (s.log r).rc = s.rc := rfl
@[simp] theorem State.log_gfx (s : State) (r : ErrorRecord) : (s.log r).gfx = s.gfx := rfl
@[simp] theorem State.log_nextId (s : State) (r : ErrorRecord) : (s.log r).nextId = s.nextId := rfl
@[simp] theorem State.log_cur (s : State) (r : ErrorRecord) : (s.log r).cur = s.cur := rfl
@[simp] theorem State.log_agenda (s : State) (r : ErrorRecord) : (s.log r).agenda = s.agenda := rfl
@[simp] theorem State.log_ticks (s : State) (r : ErrorRecord) : (s.log r).ticks = s.ticks := rfl
@[simp] theorem State.log_free (s : State) (r : ErrorRecord) : (s.log r).free = s.free := rfl
@[simp] theorem State.log_ready (s : State) (r : ErrorRecord) : (s.log r).ready = s.ready := rfl

/-! ## runDone -/

@[simp] theorem State.runDone_mem (s : State) (W : Wave) : (s.runDone W).mem = s.mem := rfl
@[simp] theorem State.runDone_poison (s : State) (W : Wave) : (s.runDone W).poison = s.poison := rfl
@[simp] theorem State.runDone_teams (s : State) (W : Wave) : (s.runDone W).teams = s.teams := rfl
@[simp] theorem State.runDone_waves (s : State) (W : Wave) : (s.runDone W).waves = s.waves := rfl
@[simp] theorem State.runDone_frags (s : State) (W : Wave) : (s.runDone W).frags = s.frags := rfl
@[simp] theorem State.runDone_pend (s : State) (W : Wave) : (s.runDone W).pend = s.pend := rfl
@[simp] theorem State.runDone_path (s : State) (W : Wave) : (s.runDone W).path = s.path := rfl
@[simp] theorem State.runDone_rel (s : State) (W : Wave) : (s.runDone W).rel = s.rel := rfl
@[simp] theorem State.runDone_links (s : State) (W : Wave) : (s.runDone W).links = s.links := rfl
@[simp] theorem State.runDone_saves (s : State) (W : Wave) : (s.runDone W).saves = s.saves := rfl
@[simp] theorem State.runDone_mgmt (s : State) (W : Wave) : (s.runDone W).mgmt = s.mgmt := rfl
@[simp] theorem State.runDone_debug (s : State) (W : Wave) : (s.runDone W).debug = s.debug := rfl
@[simp] theorem State.runDone_prof (s : State) (W : Wave) : (s.runDone W).prof = s.prof := rfl
@[simp] theorem State.runDone_eng (s : State) (W : Wave) : (s.runDone W).eng = s.eng := rfl
@[simp] theorem State.runDone_mx (s : State) (W : Wave) : (s.runDone W).mx = s.mx := rfl
@[simp] theorem State.runDone_rc (s : State) (W : Wave) : (s.runDone W).rc = s.rc := rfl
@[simp] theorem State.runDone_gfx (s : State) (W : Wave) : (s.runDone W).gfx = s.gfx := rfl
@[simp] theorem State.runDone_nextId (s : State) (W : Wave) : (s.runDone W).nextId = s.nextId := rfl
@[simp] theorem State.runDone_cur (s : State) (W : Wave) : (s.runDone W).cur = s.cur := rfl
@[simp] theorem State.runDone_agenda (s : State) (W : Wave) : (s.runDone W).agenda = s.agenda := rfl
@[simp] theorem State.runDone_ticks (s : State) (W : Wave) : (s.runDone W).ticks = s.ticks := rfl
@[simp] theorem State.runDone_free (s : State) (W : Wave) : (s.runDone W).free = s.free := rfl
@[simp] theorem State.runDone_ready (s : State) (W : Wave) : (s.runDone W).ready = s.ready := rfl

/-! ## forget -/

@[simp] theorem State.forget_mem (s : State) (f : Nat) : (s.forget f).mem = s.mem := rfl
@[simp] theorem State.forget_poison (s : State) (f : Nat) : (s.forget f).poison = s.poison := rfl
@[simp] theorem State.forget_waves (s : State) (f : Nat) : (s.forget f).waves = s.waves := rfl
@[simp] theorem State.forget_frags (s : State) (f : Nat) : (s.forget f).frags = s.frags := rfl
@[simp] theorem State.forget_pend (s : State) (f : Nat) : (s.forget f).pend = s.pend := rfl
@[simp] theorem State.forget_rel (s : State) (f : Nat) : (s.forget f).rel = s.rel := rfl
@[simp] theorem State.forget_sched (s : State) (f : Nat) : (s.forget f).sched = s.sched := rfl
@[simp] theorem State.forget_links (s : State) (f : Nat) : (s.forget f).links = s.links := rfl
@[simp] theorem State.forget_saves (s : State) (f : Nat) : (s.forget f).saves = s.saves := rfl
@[simp] theorem State.forget_mgmt (s : State) (f : Nat) : (s.forget f).mgmt = s.mgmt := rfl
@[simp] theorem State.forget_debug (s : State) (f : Nat) : (s.forget f).debug = s.debug := rfl
@[simp] theorem State.forget_prof (s : State) (f : Nat) : (s.forget f).prof = s.prof := rfl
@[simp] theorem State.forget_eng (s : State) (f : Nat) : (s.forget f).eng = s.eng := rfl
@[simp] theorem State.forget_rc (s : State) (f : Nat) : (s.forget f).rc = s.rc := rfl
@[simp] theorem State.forget_gfx (s : State) (f : Nat) : (s.forget f).gfx = s.gfx := rfl
@[simp] theorem State.forget_nextId (s : State) (f : Nat) : (s.forget f).nextId = s.nextId := rfl
@[simp] theorem State.forget_cur (s : State) (f : Nat) : (s.forget f).cur = s.cur := rfl
@[simp] theorem State.forget_agenda (s : State) (f : Nat) : (s.forget f).agenda = s.agenda := rfl
@[simp] theorem State.forget_ticks (s : State) (f : Nat) : (s.forget f).ticks = s.ticks := rfl
@[simp] theorem State.forget_free (s : State) (f : Nat) : (s.forget f).free = s.free := rfl
@[simp] theorem State.forget_ready (s : State) (f : Nat) : (s.forget f).ready = s.ready := rfl

end Sys2Proof.Machine
end

