-- ==== Sys2Proof/Laws/Table.lean ====
section
/-! SUPPORT. Laws/Table.lean: reading and writing the sparse tables, and their canonical form. -/

namespace Sys2Proof.Machine

variable {α : Type}

/-! ## Tables with a default -/

/-- The canonical form, entry by entry: no default, and every later key is larger. -/
theorem Tbl.wf_cons [DecidableEq α] (d : α) (k : Nat) (v : α) (t : Tbl α) :
    Tbl.wf d ((k, v) :: t) = true ↔ v ≠ d ∧ Tbl.wf d t = true ∧ ∀ e ∈ t, k < e.1 := by
  induction t generalizing k v with
  | nil => simp [Tbl.wf]
  | cons e t ih =>
    obtain ⟨k', v'⟩ := e
    rw [Tbl.wf]
    simp only [Bool.and_eq_true, decide_eq_true_eq, bne_iff_ne, ne_eq, List.mem_cons, forall_eq_or_imp]
    constructor
    · rintro ⟨⟨h1, h2⟩, h3⟩
      exact ⟨h2, h3, h1, fun e he => lt_trans h1 (((ih k' v').1 h3).2.2 e he)⟩
    · rintro ⟨h1, h2, h3, _⟩
      exact ⟨⟨h3, h1⟩, h2⟩

theorem Tbl.get_of_lt (d : α) (t : Tbl α) (k : Nat) (h : ∀ e ∈ t, k < e.1) : Tbl.get d t k = d := by
  induction t with
  | nil => rfl
  | cons e t ih =>
    obtain ⟨k', v⟩ := e
    have h1 : k < k' := h (k', v) (by simp)
    rw [Tbl.get, if_neg (by omega)]
    exact ih fun e he => h e (List.mem_cons_of_mem _ he)

/-- Taking entries away keeps the canonical form. -/
theorem Tbl.filter_wf [DecidableEq α] (d : α) (t : Tbl α) (p : Nat × α → Bool) (h : Tbl.wf d t = true) :
    Tbl.wf d (List.filter p t) = true := by
  induction t with
  | nil => rfl
  | cons a t ih =>
    obtain ⟨k, v⟩ := a
    obtain ⟨h1, h2, h3⟩ := (Tbl.wf_cons d k v t).1 h
    rw [List.filter_cons]
    split_ifs
    · exact (Tbl.wf_cons d k v _).2 ⟨h1, ih h2, fun e he => h3 e (List.mem_filter.1 he).1⟩
    · exact ih h2

/-- Every key that a write leaves is the key written or an old one. -/
theorem Tbl.mem_put (t : Tbl α) (k : Nat) (v : α) (e : Nat × α) (h : e ∈ Tbl.put t k v) : e = (k, v) ∨ e ∈ t := by
  induction t with
  | nil => simpa [Tbl.put] using h
  | cons a t ih =>
    obtain ⟨k', v'⟩ := a
    unfold Tbl.put at h
    split_ifs at h <;> simp_all <;> tauto

/-- A write keeps the canonical form. -/
theorem Tbl.put_wf [DecidableEq α] (d : α) (t : Tbl α) (k : Nat) (v : α) (hv : v ≠ d) (h : Tbl.wf d t = true) :
    Tbl.wf d (Tbl.put t k v) = true := by
  induction t with
  | nil => simp [Tbl.put, hv, Tbl.wf]
  | cons a t ih =>
    obtain ⟨k', v'⟩ := a
    obtain ⟨h1, h2, h3⟩ := (Tbl.wf_cons d k' v' t).1 h
    unfold Tbl.put
    split_ifs with c1 c2
    · refine (Tbl.wf_cons d k v _).2 ⟨hv, h, fun e he => ?_⟩
      rcases List.mem_cons.1 he with rfl | he
      · exact c1
      · exact lt_trans c1 (h3 e he)
    · subst c2; exact (Tbl.wf_cons d k v t).2 ⟨hv, h2, h3⟩
    · refine (Tbl.wf_cons d k' v' _).2 ⟨h1, ih h2, fun e he => ?_⟩
      rcases Tbl.mem_put t k v e he with rfl | he
      · show k' < k; omega
      · exact h3 e he

theorem Tbl.set_wf [DecidableEq α] (d : α) (t : Tbl α) (k : Nat) (v : α) (h : Tbl.wf d t = true) :
    Tbl.wf d (Tbl.set d t k v) = true := by
  unfold Tbl.set
  split_ifs with hv
  · exact Tbl.filter_wf d t _ h
  · exact Tbl.put_wf d t k v hv h

/-- What is written is read back. -/
theorem Tbl.get_set_same [DecidableEq α] (d : α) (t : Tbl α) (k : Nat) (v : α) : Tbl.get d (Tbl.set d t k v) k = v := by
  unfold Tbl.set
  split_ifs with hv
  · subst hv
    induction t with
    | nil => rfl
    | cons a t ih =>
      obtain ⟨k', v'⟩ := a
      unfold Tbl.drop at ih ⊢
      rw [List.filter_cons]
      by_cases hk : k' = k
      · subst hk; simpa using ih
      · simpa [hk, Tbl.get, Ne.symm hk] using ih
  · induction t with
    | nil => simp [Tbl.put, Tbl.get]
    | cons a t ih =>
      obtain ⟨k', v'⟩ := a
      unfold Tbl.put
      split_ifs with c1 c2
      · simp [Tbl.get]
      · simp [Tbl.get]
      · rw [Tbl.get, if_neg c2]; exact ih

/-- A write leaves every other key alone. -/
theorem Tbl.get_set_ne [DecidableEq α] (d : α) (t : Tbl α) (k j : Nat) (v : α) (h : j ≠ k) :
    Tbl.get d (Tbl.set d t k v) j = Tbl.get d t j := by
  unfold Tbl.set
  split_ifs with hv
  · induction t with
    | nil => rfl
    | cons a t ih =>
      obtain ⟨k', v'⟩ := a
      unfold Tbl.drop at ih ⊢
      rw [List.filter_cons]
      by_cases hk : k' = k
      · subst hk; simpa [Tbl.get, h] using ih
      · simp only [hk, bne_iff_ne, ne_eq, not_false_eq_true, ↓reduceIte, Tbl.get]
        rw [ih]
  · induction t with
    | nil => simp [Tbl.put, Tbl.get, h]
    | cons a t ih =>
      obtain ⟨k', v'⟩ := a
      unfold Tbl.put
      split_ifs with c1 c2 <;> simp_all [Tbl.get]

/-- Both at once. -/
theorem Tbl.get_set [DecidableEq α] (d : α) (t : Tbl α) (k j : Nat) (v : α) :
    Tbl.get d (Tbl.set d t k v) j = if j = k then v else Tbl.get d t j := by
  split_ifs with hj
  · rw [hj]; exact Tbl.get_set_same d t k v
  · exact Tbl.get_set_ne d t k j v hj

/-- A listed value is read. -/
theorem Tbl.get_of_mem [DecidableEq α] (d : α) (t : Tbl α) (h : Tbl.wf d t = true) (e : Nat × α) (he : e ∈ t) :
    Tbl.get d t e.1 = e.2 := by
  induction t with
  | nil => simp at he
  | cons a t ih =>
    obtain ⟨k, v⟩ := a
    obtain ⟨_, h2, h3⟩ := (Tbl.wf_cons d k v t).1 h
    rcases List.mem_cons.1 he with rfl | he
    · simp [Tbl.get]
    · have := h3 e he
      rw [Tbl.get, if_neg (by omega)]
      exact ih h2 he

/-- Tables in canonical form that read alike are equal. -/
theorem Tbl.ext_get [DecidableEq α] (d : α) (t u : Tbl α) (ht : Tbl.wf d t = true) (hu : Tbl.wf d u = true)
    (h : ∀ k, Tbl.get d t k = Tbl.get d u k) : t = u := by
  induction t generalizing u with
  | nil =>
    cases u with
    | nil => rfl
    | cons a u =>
      obtain ⟨k, v⟩ := a
      have := h k
      simp [Tbl.get] at this
      exact absurd this.symm ((Tbl.wf_cons d k v u).1 hu).1
  | cons a t ih =>
    obtain ⟨k, v⟩ := a
    obtain ⟨h1, h2, h3⟩ := (Tbl.wf_cons d k v t).1 ht
    cases u with
    | nil =>
      have := h k
      simp [Tbl.get] at this
      exact absurd this h1
    | cons b u =>
      obtain ⟨k', v'⟩ := b
      obtain ⟨g1, g2, g3⟩ := (Tbl.wf_cons d k' v' u).1 hu
      have hk : k = k' := by
        rcases lt_trichotomy k k' with c | c | c
        · have := h k
          rw [Tbl.get_of_lt d ((k', v') :: u) k (by
            intro e he
            rcases List.mem_cons.1 he with rfl | he
            · exact c
            · exact lt_trans c (g3 e he))] at this
          simp [Tbl.get] at this
          exact absurd this h1
        · exact c
        · have := h k'
          rw [Tbl.get_of_lt d ((k, v) :: t) k' (by
            intro e he
            rcases List.mem_cons.1 he with rfl | he
            · exact c
            · exact lt_trans c (h3 e he))] at this
          simp [Tbl.get] at this
          exact absurd this.symm g1
      subst hk
      have hv : v = v' := by simpa [Tbl.get] using h k
      subst hv
      have htu : t = u := ih u h2 g2 fun j => by
        by_cases hj : j = k
        · subst hj; rw [Tbl.get_of_lt d t j h3, Tbl.get_of_lt d u j g3]
        · simpa [Tbl.get, hj] using h j
      rw [htu]

/-! ## Tables of listed entries -/

@[simp] theorem Tbl.find_put_same (t : Tbl α) (k : Nat) (v : α) : Tbl.find (Tbl.put t k v) k = some v := by
  induction t with
  | nil => simp [Tbl.put, Tbl.find]
  | cons a t ih =>
    obtain ⟨k', v'⟩ := a
    unfold Tbl.put
    split_ifs with c1 c2
    · simp [Tbl.find]
    · simp [Tbl.find]
    · rw [Tbl.find, if_neg c2]; exact ih

theorem Tbl.find_put_ne (t : Tbl α) (k j : Nat) (v : α) (h : j ≠ k) : Tbl.find (Tbl.put t k v) j = Tbl.find t j := by
  induction t with
  | nil => simp [Tbl.put, Tbl.find, h]
  | cons a t ih =>
    obtain ⟨k', v'⟩ := a
    unfold Tbl.put
    split_ifs with c1 c2
    · simp [Tbl.find, h]
    · subst c2; simp [Tbl.find, h]
    · simp only [Tbl.find, ih]

@[simp] theorem Tbl.find_drop_same (t : Tbl α) (k : Nat) : Tbl.find (Tbl.drop t k) k = none := by
  induction t with
  | nil => rfl
  | cons a t ih =>
    obtain ⟨k', v'⟩ := a
    unfold Tbl.drop at ih ⊢
    by_cases c : k' = k
    · rw [List.filter_cons_of_neg (by simp [c])]; exact ih
    · rw [List.filter_cons_of_pos (by simp [c]), Tbl.find, if_neg (by omega)]; exact ih

theorem Tbl.find_drop_ne (t : Tbl α) (k j : Nat) (h : j ≠ k) : Tbl.find (Tbl.drop t k) j = Tbl.find t j := by
  induction t with
  | nil => rfl
  | cons a t ih =>
    obtain ⟨k', v'⟩ := a
    unfold Tbl.drop at ih ⊢
    by_cases c : k' = k
    · rw [List.filter_cons_of_neg (by simp [c]), ih, Tbl.find, if_neg (by omega)]
    · rw [List.filter_cons_of_pos (by simp [c])]
      simp only [Tbl.find, ih]

@[simp] theorem Tbl.find_adjust_same (t : Tbl α) (k : Nat) (f : α → α) : Tbl.find (Tbl.adjust t k f) k = (Tbl.find t k).map f := by
  induction t with
  | nil => rfl
  | cons a t ih =>
    obtain ⟨k', v'⟩ := a
    unfold Tbl.adjust at ih ⊢
    by_cases c : k' = k
    · subst c; simp [Tbl.find]
    · have c' : k ≠ k' := fun e => c e.symm
      simp only [List.map_cons, if_neg c, Tbl.find, if_neg c']; exact ih

theorem Tbl.find_adjust_ne (t : Tbl α) (k j : Nat) (f : α → α) (h : j ≠ k) : Tbl.find (Tbl.adjust t k f) j = Tbl.find t j := by
  induction t with
  | nil => rfl
  | cons a t ih =>
    obtain ⟨k', v'⟩ := a
    unfold Tbl.adjust at ih ⊢
    by_cases c : k' = k
    · subst c; simp only [List.map_cons, if_true, Tbl.find, if_neg h]; exact ih
    · simp only [List.map_cons, if_neg c, Tbl.find]
      by_cases hj : j = k'
      · simp [hj]
      · simp only [if_neg hj]; exact ih

/-! ## Sets of numbers -/

theorem NSet.wf_cons (k : Nat) (l : List Nat) : NSet.wf (k :: l) = true ↔ NSet.wf l = true ∧ ∀ j ∈ l, k < j := by
  induction l generalizing k with
  | nil => simp [NSet.wf]
  | cons a l ih =>
    rw [NSet.wf]
    simp only [Bool.and_eq_true, decide_eq_true_eq, List.mem_cons, forall_eq_or_imp]
    constructor
    · rintro ⟨h1, h2⟩
      exact ⟨h2, h1, fun j hj => lt_trans h1 (((ih a).1 h2).2 j hj)⟩
    · rintro ⟨h1, h2, _⟩
      exact ⟨h2, h1⟩

@[simp] theorem NSet.mem_insert (l : List Nat) (k j : Nat) : j ∈ NSet.insert l k ↔ j = k ∨ j ∈ l := by
  induction l with
  | nil => simp [NSet.insert]
  | cons a l ih =>
    unfold NSet.insert
    split_ifs with c1 c2
    · simp
    · subst c2; simp
    · simp only [List.mem_cons, ih]; tauto

@[simp] theorem NSet.mem_remove (l : List Nat) (k j : Nat) : j ∈ NSet.remove l k ↔ j ∈ l ∧ j ≠ k := by
  simp [NSet.remove]

theorem NSet.insert_wf (l : List Nat) (k : Nat) (h : NSet.wf l = true) : NSet.wf (NSet.insert l k) = true := by
  induction l with
  | nil => rfl
  | cons a l ih =>
    obtain ⟨h1, h2⟩ := (NSet.wf_cons a l).1 h
    unfold NSet.insert
    split_ifs with c1 c2
    · refine (NSet.wf_cons k _).2 ⟨h, fun j hj => ?_⟩
      rcases List.mem_cons.1 hj with rfl | hj
      · exact c1
      · exact lt_trans c1 (h2 j hj)
    · exact h
    · refine (NSet.wf_cons a _).2 ⟨ih h1, fun j hj => ?_⟩
      rcases (NSet.mem_insert l k j).1 hj with rfl | hj
      · omega
      · exact h2 j hj

theorem NSet.remove_wf (l : List Nat) (k : Nat) (h : NSet.wf l = true) : NSet.wf (NSet.remove l k) = true := by
  induction l with
  | nil => rfl
  | cons a l ih =>
    obtain ⟨h1, h2⟩ := (NSet.wf_cons a l).1 h
    unfold NSet.remove at ih ⊢
    rw [List.filter_cons]
    split_ifs
    · exact (NSet.wf_cons a _).2 ⟨ih h1, fun j hj => h2 j (List.mem_filter.1 hj).1⟩
    · exact ih h1

end Sys2Proof.Machine
end

