-- ==== Sys2Proof/Laws/Memory.lean ====
section
/-! SUPPORT. Laws/Memory.lean: reading after writing device memory, and that its operations keep the canonical form. -/

namespace Sys2Proof.Machine

/-! ## The canonical form -/

theorem writeCells_wf (m : Tbl Byte) (cs : List (Nat × Byte)) (h : Tbl.wf 0 m = true) : Tbl.wf 0 (writeCells m cs) = true := by
  induction cs generalizing m with
  | nil => exact h
  | cons c cs ih => exact ih _ (Tbl.set_wf 0 m c.1 c.2 h)

theorem writeBytes_wf (m : Tbl Byte) (a : Nat) (bs : List Byte) (h : Tbl.wf 0 m = true) : Tbl.wf 0 (writeBytes m a bs) = true := by
  induction bs generalizing m a with
  | nil => exact h
  | cons b bs ih => exact ih _ _ (Tbl.set_wf 0 m a b h)

theorem writeNat_wf (m : Tbl Byte) (a n v : Nat) (h : Tbl.wf 0 m = true) : Tbl.wf 0 (writeNat m a n v) = true :=
  writeBytes_wf m a _ h

theorem foldl_insert_wf (l p : List Nat) (h : NSet.wf p = true) : NSet.wf (l.foldl NSet.insert p) = true := by
  induction l generalizing p with
  | nil => exact h
  | cons k l ih => exact ih _ (NSet.insert_wf p k h)

theorem foldl_remove_wf (l p : List Nat) (h : NSet.wf p = true) : NSet.wf (l.foldl NSet.remove p) = true := by
  induction l generalizing p with
  | nil => exact h
  | cons k l ih => exact ih _ (NSet.remove_wf p k h)

theorem poisonAfter_wf (p : List Nat) (cs : List (Nat × Byte)) (bad : List Nat) (h : NSet.wf p = true) : NSet.wf (poisonAfter p cs bad) = true :=
  foldl_insert_wf bad _ (foldl_remove_wf _ p h)

/-- A write to device memory keeps the canonical form. -/
theorem State.writeMem_canonical (s : State) (cs : List (Nat × Byte)) (bad : List Nat) (h : Canonical s) : Canonical (s.writeMem cs bad) :=
  ⟨writeCells_wf s.mem cs h.1, poisonAfter_wf s.poison cs bad h.2⟩

/-- A step of an atomic at its home keeps the canonical form (R316). -/
theorem Stepped.step_wf (q : Stepped) (op fmt : Nat) (sg ftz : Bool) (n : Nat) (a : LaneAcc) (h : Tbl.wf 0 q.mem = true) :
    Tbl.wf 0 (q.step op fmt sg ftz n a).mem = true := by
  unfold Stepped.step
  split
  · exact h
  · exact writeNat_wf q.mem a.place n _ h

theorem Stepped.foldl_wf (l : List LaneAcc) (q : Stepped) (op fmt : Nat) (sg ftz : Bool) (n : Nat) (h : Tbl.wf 0 q.mem = true) :
    Tbl.wf 0 (l.foldl (fun q a => q.step op fmt sg ftz n a) q).mem = true := by
  induction l generalizing q with
  | nil => exact h
  | cons a l ih => exact ih _ (q.step_wf op fmt sg ftz n a h)

/-- The steps of one request keep the canonical form. -/
theorem runSteps_wf (op : StoreOp) (release : Bool) (free : Nat) (steps : List LaneAcc) (mem : Tbl Byte) (poison : List Nat)
    (h : Tbl.wf 0 mem = true) : Tbl.wf 0 (runSteps op release free steps mem poison).mem = true := by
  cases op with
  | st => exact h
  | rmw o f sg ftz r ord n => exact Stepped.foldl_wf _ _ _ _ _ _ _ h

/-- Memory that lists nothing is canonical, and so is the machine after reset. -/
theorem State.reset_canonical : Canonical State.reset := ⟨rfl, rfl⟩

/-! ## Reading after writing -/

/-- A byte that no cell names keeps its value. -/
theorem get_writeCells_ne (m : Tbl Byte) (cs : List (Nat × Byte)) (a : Nat) (h : ∀ c ∈ cs, c.1 ≠ a) :
    Tbl.get 0 (writeCells m cs) a = Tbl.get 0 m a := by
  induction cs generalizing m with
  | nil => rfl
  | cons c cs ih =>
    have h1 : a ≠ c.1 := fun e => h c (by simp) e.symm
    have h2 := ih (Tbl.set 0 m c.1 c.2) fun c' hc => h c' (List.mem_cons_of_mem _ hc)
    rw [Tbl.get_set_ne 0 m c.1 a c.2 h1] at h2
    exact h2

/-- The last cell that names a byte gives its value. -/
theorem get_writeCells_last (m : Tbl Byte) (cs : List (Nat × Byte)) (a : Nat) (b : Byte) (cs' : List (Nat × Byte))
    (h : ∀ c ∈ cs', c.1 ≠ a) : Tbl.get 0 (writeCells m (cs ++ (a, b) :: cs')) a = b := by
  have : writeCells m (cs ++ (a, b) :: cs') = writeCells (Tbl.set 0 (writeCells m cs) a b) cs' := by simp [writeCells, List.foldl_append]
  rw [this, get_writeCells_ne _ cs' a h, Tbl.get_set_same]

/-- Bytes written from an address on leave every byte outside them. -/
theorem get_writeBytes_out (m : Tbl Byte) (a : Nat) (bs : List Byte) (j : Nat) (h : j < a ∨ a + bs.length ≤ j) :
    Tbl.get 0 (writeBytes m a bs) j = Tbl.get 0 m j := by
  induction bs generalizing m a with
  | nil => rfl
  | cons b bs ih =>
    rw [writeBytes, ih, Tbl.get_set_ne]
    · rcases h with h | h
      · omega
      · simp at h; omega
    · rcases h with h | h
      · left; omega
      · right; simp at h; omega

/-- And each of them is read back. -/
theorem get_writeBytes_in (m : Tbl Byte) (a : Nat) (bs : List Byte) (i : Nat) (hi : i < bs.length) :
    Tbl.get 0 (writeBytes m a bs) (a + i) = bs[i] := by
  induction bs generalizing m a i with
  | nil => simp at hi
  | cons b bs ih =>
    cases i with
    | zero =>
      rw [writeBytes, get_writeBytes_out _ _ _ _ (by left; omega)]
      exact Tbl.get_set_same 0 m a b
    | succ i =>
      have := ih (Tbl.set 0 m a b) (a + 1) i (by simpa using hi)
      rw [writeBytes, show a + (i + 1) = a + 1 + i by omega, this]
      rfl

/-- A write to device memory leaves every byte that it does not name. -/
theorem State.writeMem_byte_ne (s : State) (cs : List (Nat × Byte)) (bad : List Nat) (a : Nat) (h : ∀ c ∈ cs, c.1 ≠ a) :
    (s.writeMem cs bad).byte a = s.byte a := get_writeCells_ne s.mem cs a h

/-- A sector written with poison is poisoned (R73). -/
theorem mem_poisonAfter_bad (p : List Nat) (cs : List (Nat × Byte)) (bad : List Nat) (k : Nat) (h : k ∈ bad) : k ∈ poisonAfter p cs bad := by
  have key : ∀ (l q : List Nat), k ∈ l ∨ k ∈ q → k ∈ l.foldl NSet.insert q := by
    intro l
    induction l with
    | nil => intro q hq; simpa using hq
    | cons a l ih =>
      intro q hq
      refine ih _ ?_
      rcases hq with hq | hq
      · rcases List.mem_cons.1 hq with rfl | hq
        · right; simp
        · left; exact hq
      · right; simp [hq]
  exact key bad _ (Or.inl h)

end Sys2Proof.Machine
end

