-- ==== Sys2Proof/Laws/Ops.lean ====
section
/-! SUPPORT. Laws/Ops.lean: what the shared operations of an instruction's meaning can do: its issue, the writing of its results, its
retirement. -/

namespace Sys2Proof.Machine

/-! ## Lookups after updates -/

theorem State.frag?_adjFrag_same (s : State) (f : Nat) (g : Frag → Frag) : (s.adjFrag f g).frag? f = (s.frag? f).map g :=
  Tbl.find_adjust_same s.frags f g

theorem State.frag?_adjFrag_ne (s : State) (f k : Nat) (g : Frag → Frag) (h : k ≠ f) : (s.adjFrag f g).frag? k = s.frag? k :=
  Tbl.find_adjust_ne s.frags f k g h

theorem State.wave?_adjWave_same (s : State) (w : Nat) (g : Wave → Wave) : (s.adjWave w g).wave? w = (s.wave? w).map g :=
  Tbl.find_adjust_same s.waves w g

theorem State.wave?_adjWave_ne (s : State) (w k : Nat) (g : Wave → Wave) (h : k ≠ w) : (s.adjWave w g).wave? k = s.wave? k :=
  Tbl.find_adjust_ne s.waves w k g h

/-- What a context says of the state it was taken from. -/
theorem State.ctxOf_spec (s : State) (c : Ctx) (f : Nat) (i : Instr) (h : s.ctxOf f i = some c) :
    c.f = f ∧ s.frag? f = some c.F ∧ c.w = c.F.wave ∧ s.wave? c.w = some c.W ∧ c.t = c.W.team ∧ s.team? c.t = some c.T ∧ c.len = i.length := by
  unfold State.ctxOf at h
  split at h
  · cases h
  · rename_i F hF
    split at h
    · cases h
    · rename_i W hW
      split at h
      · cases h
      · rename_i T hT
        cases h
        exact ⟨rfl, hF, rfl, hW, rfl, hT, rfl⟩

/-! ## Registers -/

/-- A vector register written in a lane is read back there, and nothing else has changed. -/
theorem Wave.reg_setReg (W : Wave) (l n k m : Nat) (v : VReg) (hn : n < 256) (hm : m < 256) :
    (W.setReg l n v).reg k m = if k = l ∧ m = n then v else W.reg k m := by
  unfold Wave.reg Wave.setReg
  rw [Tbl.get_set]
  congr 1
  rw [eq_iff_iff]
  constructor
  · intro h; omega
  · rintro ⟨rfl, rfl⟩; rfl

theorem Wave.reg_foldl (W : Wave) (ls : List Nat) (n k m : Nat) (v : Nat → VReg) (hn : n < 256) (hm : m < 256) :
    (ls.foldl (fun W l => W.setReg l n (v l)) W).reg k m = if k ∈ ls ∧ m = n then v k else W.reg k m := by
  induction ls generalizing W with
  | nil => simp
  | cons l ls ih =>
    rw [List.foldl_cons, ih, Wave.reg_setReg W l n k m (v l) hn hm]
    by_cases hk : k = l
    · subst hk; by_cases hmn : m = n <;> simp [hmn]
    · simp [hk]

/-- Writing vector registers leaves the rest of the wave. -/
theorem Wave.foldl_rest (W : Wave) (ls : List Nat) (n : Nat) (v : Nat → VReg) :
    { ls.foldl (fun W l => W.setReg l n (v l)) W with vregs := W.vregs } = W := by
  induction ls generalizing W with
  | nil => rfl
  | cons l ls ih =>
    have h := ih (W.setReg l n (v l))
    rw [List.foldl_cons]
    have h2 := congrArg (fun V : Wave => { V with vregs := W.vregs }) h
    exact h2

/-- A predicate written in some lanes is read back there, and nothing else has changed. -/
theorem Wave.pred_setPred (W : Wave) (p q : Nat) (lanes val : Mask) (l : Nat) (hl : l < 64) :
    ((W.setPred p lanes val).pred q).has l = if q = p ∧ p ≠ 0 ∧ lanes.has l = true then val.has l else (W.pred q).has l := by
  unfold Wave.setPred
  by_cases hp : p = 0
  · simp [hp]
  · simp only [hp, if_false, ne_eq, not_false_eq_true, true_and]
    by_cases hq : q = p
    · subst hq
      unfold Wave.pred Mask.has
      simp only [hp, if_false, Tbl.get_set_same, true_and]
      simp only [BitVec.getLsbD_or, BitVec.getLsbD_and, BitVec.getLsbD_not, hl, decide_true, Bool.true_and]
      cases lanes.getLsbD l <;> simp
    · unfold Wave.pred
      by_cases h0 : q = 0
      · simp [h0, Ne.symm hp]
      · simp [h0, hq, Tbl.get_set_ne _ _ _ _ _ hq]

theorem Wave.setPred_rest (W : Wave) (p : Nat) (lanes val : Mask) : { W.setPred p lanes val with preds := W.preds } = W := by
  unfold Wave.setPred; split <;> rfl

/-- p0 reads true in every lane (R24). -/
theorem Wave.pred_zero (W : Wave) : W.pred 0 = BitVec.allOnes 64 := rfl

theorem Mask.mem_lanes (m : Mask) (l : Nat) : l ∈ m.lanes ↔ m.has l = true := by
  unfold Mask.lanes Mask.has
  rw [List.mem_filter, List.mem_range]
  refine ⟨fun h => h.2, fun h => ⟨?_, h⟩⟩
  by_contra hl
  rw [BitVec.getLsbD_of_ge m l (by omega)] at h
  cases h

theorem Mask.has_one (l k : Nat) (hl : l < 64) : (Mask.one k).has l = decide (l = k) := by
  unfold Mask.one Mask.has
  rw [BitVec.getLsbD_ofNat, Nat.testBit_two_pow]
  simp [hl, eq_comm]

theorem Mask.has_ofList (ls : List Nat) (l : Nat) (hl : l < 64) : (Mask.ofList ls).has l = decide (l ∈ ls) := by
  have key : ∀ (ls : List Nat) (m : Mask), (ls.foldl (fun m l => m ||| Mask.one l) m).has l = (m.has l || decide (l ∈ ls)) := by
    intro ls
    induction ls with
    | nil => simp
    | cons k ls ih =>
      intro m
      rw [List.foldl_cons, ih]
      have : (m ||| Mask.one k).has l = (m.has l || decide (l = k)) := by
        rw [← Mask.has_one l k hl]; simp [Mask.has]
      rw [this, Bool.or_assoc]
      congr 1
      simp
  unfold Mask.ofList
  rw [key]
  simp [Mask.has]

/-! ## Elements (R172) -/

theorem tagWidth_dvd (t : Nat) : 0 < tagWidth t ∧ tagWidth t * (64 / tagWidth t) = 64 := by
  unfold tagWidth; split <;> decide

/-- The number that digits stand for. -/
theorem digits_lt (b n : Nat) (f : Nat → Nat) (hb : 0 < b) :
    (List.range n).foldl (fun k e => k + f e % b * b ^ e) 0 < b ^ n := by
  induction n with
  | zero => simp
  | succ n ih =>
    rw [List.range_succ, List.foldl_append, List.foldl_cons, List.foldl_nil, pow_succ]
    have h := Nat.mod_lt (f n) hb
    have : f n % b * b ^ n ≤ (b - 1) * b ^ n := Nat.mul_le_mul_right _ (by omega)
    have h2 : (b - 1) * b ^ n + b ^ n = b ^ n * b := by
      conv_lhs => rw [← Nat.succ_mul]
      rw [Nat.succ_eq_add_one, Nat.sub_add_cancel hb, Nat.mul_comm]
    omega

theorem digits_get (b n e : Nat) (f : Nat → Nat) (hb : 0 < b) (he : e < n) :
    (List.range n).foldl (fun k e => k + f e % b * b ^ e) 0 / b ^ e % b = f e % b := by
  induction n with
  | zero => omega
  | succ n ih =>
    rw [List.range_succ, List.foldl_append, List.foldl_cons, List.foldl_nil]
    by_cases h : e = n
    · subst h
      rw [Nat.add_mul_div_right _ _ (Nat.pow_pos hb), Nat.div_eq_of_lt (digits_lt b e f hb), Nat.zero_add, Nat.mod_mod]
    · have hlt : e < n := by omega
      have : b ^ n = b ^ (n - e - 1) * b * b ^ e := by
        rw [← pow_succ, ← pow_add]; congr 1; omega
      rw [this, ← Nat.mul_assoc, Nat.add_mul_div_right _ _ (Nat.pow_pos hb), ← Nat.mul_assoc, Nat.add_mul_mod_self_right]
      exact ih hlt

/-- Each element of a packed register is what was packed, modulo its width. -/
theorem elem_packWith (w e : Nat) (f : Nat → Nat) (hw : w * (64 / w) = 64) (he : e < 64 / w) : elem w (packWith w f) e = f e % 2 ^ w := by
  have hp : ∀ e, (2 : Nat) ^ (w * e) = (2 ^ w) ^ e := fun e => pow_mul 2 w e
  unfold elem packWith
  simp only [hp]
  have hlt := digits_lt (2 ^ w) (64 / w) f (Nat.pow_pos (by decide))
  rw [← pow_mul, hw] at hlt
  rw [BitVec.toNat_ofNat, Nat.mod_eq_of_lt hlt]
  exact digits_get (2 ^ w) (64 / w) e f (Nat.pow_pos (by decide)) he

theorem elem_pack (t e : Nat) (f : Nat → Nat) (he : e < 64 / tagWidth t) :
    elem (tagWidth t) (packWith (tagWidth t) f) e = f e % 2 ^ tagWidth t := elem_packWith _ e f (tagWidth_dvd t).2 he

/-! ## Lookahead -/

/-- Lookahead changes a fragment's windows and a counter, and nothing else. -/
theorem State.lookahead_rest (s : State) (c : Ctx) (i : Instr) :
    { s.lookahead c i with frags := s.frags, rel := { (s.lookahead c i).rel with counters := s.rel.counters } } = s := by
  unfold State.lookahead
  split
  · rfl
  · simp only
    split
    · rfl
    · split
      · rfl
      · split
        · rfl
        · split <;> rfl

theorem State.lookahead_waves (s : State) (c : Ctx) (i : Instr) : (s.lookahead c i).waves = s.waves := by
  have h := congrArg State.waves (s.lookahead_rest c i); exact h

theorem State.lookahead_counters (s : State) (c : Ctx) (i : Instr) (k : Nat) (h : k ≠ c.W.core * 16 + ctrLAVIOL) :
    Tbl.get 0 (s.lookahead c i).rel.counters k = Tbl.get 0 s.rel.counters k := by
  unfold State.lookahead
  split
  · rfl
  · simp only
    split
    · rfl
    · split
      · rfl
      · split
        · rfl
        · split
          · exact Tbl.get_set_ne 0 _ _ _ _ h
          · rfl

theorem State.lookahead_frag?_ne (s : State) (c : Ctx) (i : Instr) (f : Nat) (h : f ≠ c.f) : (s.lookahead c i).frag? f = s.frag? f := by
  unfold State.lookahead
  split
  · rfl
  · simp only
    split
    · rfl
    · split
      · rfl
      · split
        · rfl
        · rw [State.frag?_adjFrag_ne _ _ _ _ h]; split <;> rfl

theorem State.lookahead_frag?_same (s : State) (c : Ctx) (i : Instr) (F : Frag) (h : s.frag? c.f = some F) :
    ∃ a, (s.lookahead c i).frag? c.f = some { F with ahead := a } := by
  unfold State.lookahead
  split
  · exact ⟨F.ahead, h⟩
  · simp only
    split
    · exact ⟨F.ahead, h⟩
    · rw [h]
      simp only
      split
      · exact ⟨F.ahead, h⟩
      · rw [State.frag?_adjFrag_same]
        have : ∀ b : Bool, State.frag? (if b = true then s.count ctrLAVIOL c.W.core 1 else s) c.f = some F := by intro b; cases b <;> exact h
        rw [this]
        exact ⟨_, rfl⟩

/-! ## Issue -/

/-- Where no upset strikes, the liners agree. -/
theorem strike_calm (c : Ctx) (i : Instr) (s : State) (h : s.rel.upset = none) : strike c i s = .ok s := by
  unfold strike Ctx.struckAt
  rw [h]
  exact ite_self _

/-- Where no register holds an error, none is overwritten. -/
@[simp] theorem State.rewrite_nil (s : State) (c : Ctx) (i : Instr) : s.rewrite [] c i = s := rfl

/-- With every check passed, an instruction does what its body says. -/
theorem issueChecked_ready (i : Instr) (early : Ctx → State → Option Res) (body : Ctx → State → Res) (s : State) (c : Ctx) (h : Ready s c i)
    (he : early c s = none) : issueChecked i early body s = .next ((c.run i body s).lookahead c i) := by
  unfold issueChecked
  rw [h.current]
  simp only [h.context]
  unfold Ctx.issueWith State.consume
  simp [h.legal, h.allowed, h.order, h.blocks, h.results, h.tokens, strike_calm c i s h.calm, h.sound, he]

theorem issue_ready (i : Instr) (body : Ctx → State → Res) (s : State) (c : Ctx) (h : Ready s c i) :
    issue i body s = .next ((c.run i body s).lookahead c i) := issueChecked_ready i noEarly body s c h rfl

/-- Once its checks have failed, an instruction traps (R50). -/
theorem issue_illegal (i : Instr) (body : Ctx → State → Res) (s : State) (c : Ctx) (f b : Nat) (hc : s.cur = some f) (hx : s.ctxOf f i = some c)
    (h : offence c i = some b) : issue i body s = .next (s.trapFrag c.f (illegal c i.word0 b) c.len) := by
  unfold issue issueChecked
  rw [hc]
  simp only [hx]
  unfold Ctx.issueWith
  simp [h]

theorem Ctx.run_done (c : Ctx) (i : Instr) (body : Ctx → State → Res) (s s1 : State) (h : body c s = .done s1) :
    c.run i body s = s1.retire c.f c.len := by
  unfold Ctx.run; rw [h]; rfl

theorem Ctx.run_keep (c : Ctx) (i : Instr) (body : Ctx → State → Res) (s s1 : State) (h : body c s = .keep s1) : c.run i body s = s1 := by
  unfold Ctx.run; rw [h]; rfl

theorem Ctx.run_trap (c : Ctx) (i : Instr) (body : Ctx → State → Res) (s : State) (t : Trap) (h : body c s = .trap t) (ht : t.lanes = none) :
    c.run i body s = s.trapFrag c.f t c.len := by
  unfold Ctx.run; rw [h]; simp only [ht]; rfl

/-- An instruction whose body is done completes. -/
theorem issue_done (i : Instr) (body : Ctx → State → Res) (s : State) (c : Ctx) (s1 : State) (h : Ready s c i) (hb : body c s = .done s1) :
    issue i body s = .next (Retired c i s1) := by
  rw [issue_ready i body s c h, Ctx.run_done c i body s s1 hb]; rfl

/-! ## What an instruction that retires has left -/

/-- The fragment and the wave of an instruction that has changed them alone, and retires. -/
theorem retired_adj (s : State) (c : Ctx) (i : Instr) (gW : Wave → Wave) (gF : Frag → Frag) (hF : s.frag? c.f = some c.F)
    (hW : s.wave? c.w = some c.W) :
    (Retired c i ((s.adjWave c.w gW).adjFrag c.f gF)).wave? c.w = some (gW c.W) ∧
    ∃ a, (Retired c i ((s.adjWave c.w gW).adjFrag c.f gF)).frag? c.f = some { (gF c.F).pass c.len with ahead := a } := by
  constructor
  · unfold Retired State.wave?
    rw [State.lookahead_waves]
    show Tbl.find (Tbl.adjust s.waves c.w gW) c.w = _
    rw [Tbl.find_adjust_same]
    unfold State.wave? at hW
    rw [hW]; rfl
  · have h : (((s.adjWave c.w gW).adjFrag c.f gF).retire c.f c.len).frag? c.f = some ((gF c.F).pass c.len) := by
      unfold State.retire
      rw [State.frag?_adjFrag_same, State.frag?_adjFrag_same]
      have : (s.adjWave c.w gW).frag? c.f = s.frag? c.f := rfl
      rw [this, hF]; rfl
    exact State.lookahead_frag?_same _ c i _ h

/-- The rest of the state. -/
theorem retired_onlyWrites (s : State) (c : Ctx) (i : Instr) (gW : Wave → Wave) (gF : Frag → Frag) (ds : List Operand) (part : Mask) (flags : Bool)
    (hF : s.frag? c.f = some c.F) (hW : s.wave? c.w = some c.W)
    (kW : { gW c.W with vregs := c.W.vregs, preds := c.W.preds } = c.W)
    (kV : ∀ l n, l < 64 → n < 256 → (named ds .vec n && part.has l) = false → (gW c.W).reg l n = c.W.reg l n)
    (kP : ∀ p l, l < 64 → (named ds .pred p && part.has l) = false → ((gW c.W).pred p).has l = (c.W.pred p).has l)
    (kF : { gF c.F with scal := c.F.scal, tmp := c.F.tmp, tmpValid := c.F.tmpValid, mode := c.F.mode } = c.F)
    (kS : ∀ n, named ds .scal n = false → (gF c.F).scalar n = c.F.scalar n)
    (kT : ∀ n, n < 8 → named ds .tmp n = false → Tbl.get 0 (gF c.F).tmp n = Tbl.get 0 c.F.tmp n ∧ (gF c.F).tmpValid.getLsbD n = c.F.tmpValid.getLsbD n)
    (kM : (gF c.F).mode &&& ~~~(0x3E000 : Word) = c.F.mode &&& ~~~(0x3E000 : Word)) (kM2 : flags = false → (gF c.F).mode = c.F.mode) :
    OnlyWrites c s (Retired c i ((s.adjWave c.w gW).adjFrag c.f gF)) ds part flags := by
  obtain ⟨h1, a, h2⟩ := retired_adj s c i gW gF hF hW
  have hrest := State.lookahead_rest (((s.adjWave c.w gW).adjFrag c.f gF).retire c.f c.len) c i
  refine ⟨?_, ?_, ?_, ?_, ?_, ⟨_, h1, kW, kV, kP⟩, ⟨_, h2, ?_, ?_, kS, kT, kM, kM2⟩⟩
  · intro b
    have := congrArg State.mem hrest
    exact congrArg (fun m => Tbl.get 0 m b) this
  · intro k hk
    exact State.lookahead_counters _ c i k hk
  · have := congrArg (fun t : State => { t with waves := s.waves, frags := s.frags }) hrest
    exact this
  · intro w hw
    unfold Retired State.wave?
    rw [State.lookahead_waves]
    exact Tbl.find_adjust_ne s.waves c.w w gW hw
  · intro f hf
    unfold Retired
    rw [State.lookahead_frag?_ne _ c i f hf]
    unfold State.retire
    rw [State.frag?_adjFrag_ne _ _ _ _ hf, State.frag?_adjFrag_ne _ _ _ _ hf]
    rfl
  · exact congrArg (fun F : Frag => { F with pc := c.F.pc, runCount := c.F.runCount, rwc := c.F.rwc, gathered := c.F.gathered, ahead := c.F.ahead, late := c.F.late }) kF
  · have : (gF c.F).pc = c.F.pc := by have := congrArg Frag.pc kF; exact this
    show (gF c.F).pc + _ = _
    rw [this]

/-! ## The writing of results -/

theorem Tbl.adjust_id {α : Type} (t : Tbl α) (k : Nat) : Tbl.adjust t k id = t := by
  induction t with
  | nil => rfl
  | cons e t ih => unfold Tbl.adjust at ih ⊢; simp [ih]

theorem Tbl.adjust_adjust {α : Type} (t : Tbl α) (k : Nat) (f g : α → α) :
    Tbl.adjust (Tbl.adjust t k f) k g = Tbl.adjust t k (fun x => g (f x)) := by
  induction t with
  | nil => rfl
  | cons e t ih =>
    unfold Tbl.adjust at ih ⊢
    simp only [List.map_cons, List.map_map] at ih ⊢
    rw [ih]
    congr 1
    split <;> simp_all

theorem State.adjFrag_id (s : State) (f : Nat) : s.adjFrag f id = s := by
  unfold State.adjFrag; rw [Tbl.adjust_id]

theorem State.adjWave_id (s : State) (w : Nat) : s.adjWave w id = s := by
  unfold State.adjWave; rw [Tbl.adjust_id]

theorem State.adjFrag_adjFrag (s : State) (f : Nat) (g h : Frag → Frag) : (s.adjFrag f g).adjFrag f h = s.adjFrag f (fun F => h (g F)) := by
  unfold State.adjFrag; simp only; rw [Tbl.adjust_adjust]

theorem State.adjWave_adjWave (s : State) (w : Nat) (g h : Wave → Wave) : (s.adjWave w g).adjWave w h = s.adjWave w (fun W => h (g W)) := by
  unfold State.adjWave; simp only; rw [Tbl.adjust_adjust]

theorem State.adjFrag_adjWave (s : State) (f w : Nat) (g : Frag → Frag) (h : Wave → Wave) :
    (s.adjFrag f g).adjWave w h = (s.adjWave w h).adjFrag f g := rfl

/-- What a write of D does to the wave, and to the fragment. -/
def destOnWave (d : Operand) (part : Mask) (val : Nat → Word) (tag : Nat → Tag) (W : Wave) : Wave :=
  match d.cls with
  | .vec => part.lanes.foldl (fun W l => W.setReg l d.num.toNat ⟨val l, tag l⟩) W
  | _ => W

def destOnFrag (d : Operand) (val : Nat → Word) (F : Frag) : Frag :=
  match d.cls with
  | .scal => F.setScalar d.num.toNat (val 0)
  | .tmp => F.setTmp d.num.toNat (val 0)
  | _ => F

theorem Ctx.write_eq (c : Ctx) (d : Operand) (part : Mask) (val : Nat → Word) (tag : Nat → Tag) (s : State) :
    c.write d part val tag s = (s.adjWave c.w (destOnWave d part val tag)).adjFrag c.f (destOnFrag d val) := by
  obtain ⟨k, n⟩ := d
  cases k
  · exact (State.adjFrag_id _ c.f).symm
  · show s.adjFrag c.f _ = (s.adjWave c.w id).adjFrag c.f _
    rw [State.adjWave_id]; rfl
  · show s.adjFrag c.f _ = (s.adjWave c.w id).adjFrag c.f _
    rw [State.adjWave_id]; rfl
  all_goals
    show s = (s.adjWave c.w id).adjFrag c.f id
    rw [State.adjWave_id, State.adjFrag_id]

theorem destOnWave_rest (d : Operand) (part : Mask) (val : Nat → Word) (tag : Nat → Tag) (W : Wave) :
    { destOnWave d part val tag W with vregs := W.vregs } = W := by
  unfold destOnWave
  split
  · exact Wave.foldl_rest W _ _ _
  · rfl

theorem destOnWave_reg (d : Operand) (part : Mask) (val : Nat → Word) (tag : Nat → Tag) (W : Wave) (l n : Nat) (hn : n < 256) :
    (destOnWave d part val tag W).reg l n = if d.cls = .vec ∧ part.has l = true ∧ n = d.num.toNat then ⟨val l, tag l⟩ else W.reg l n := by
  unfold destOnWave
  split
  · rename_i h
    rw [Wave.reg_foldl W _ _ _ _ (fun l => ⟨val l, tag l⟩) d.num.isLt hn]
    simp [h, Mask.mem_lanes]
  · rename_i h
    rw [if_neg (fun e => h e.1)]

theorem destOnWave_pred (d : Operand) (part : Mask) (val : Nat → Word) (tag : Nat → Tag) (W : Wave) (p : Nat) :
    (destOnWave d part val tag W).pred p = W.pred p := by
  have h : (destOnWave d part val tag W).preds = W.preds := by
    have := congrArg Wave.preds (destOnWave_rest d part val tag W); exact this
  unfold Wave.pred; rw [h]

theorem destOnFrag_rest (d : Operand) (val : Nat → Word) (F : Frag) :
    { destOnFrag d val F with scal := F.scal, tmp := F.tmp, tmpValid := F.tmpValid } = F := by
  unfold destOnFrag
  split <;> rfl

theorem destOnFrag_scalar (d : Operand) (val : Nat → Word) (F : Frag) (n : Nat) :
    (destOnFrag d val F).scalar n = if d.cls = .scal ∧ n = d.num.toNat then val 0 else F.scalar n := by
  unfold destOnFrag
  split
  · rename_i h; simp [h, Frag.scalar, Frag.setScalar, Tbl.get_set]
  · rename_i h; simp [h, Frag.scalar, Frag.setTmp]
  · rename_i h1 h2; rw [if_neg (fun e => h1 e.1)]

theorem destOnFrag_tmp (d : Operand) (val : Nat → Word) (F : Frag) (n : Nat) :
    Tbl.get 0 (destOnFrag d val F).tmp n = if d.cls = .tmp ∧ n = d.num.toNat then val 0 else Tbl.get 0 F.tmp n := by
  unfold destOnFrag
  split
  · rename_i h; simp [h, Frag.setScalar]
  · rename_i h; simp [h, Frag.setTmp, Tbl.get_set]
  · rename_i h1 h2; rw [if_neg (fun e => h2 e.1)]

theorem destOnFrag_valid (d : Operand) (val : Nat → Word) (F : Frag) (n : Nat) (hn : n < 8) :
    (destOnFrag d val F).tmpValid.getLsbD n = if d.cls = .tmp ∧ n = d.num.toNat then true else F.tmpValid.getLsbD n := by
  unfold destOnFrag
  split
  · rename_i h; simp [h, Frag.setScalar]
  · rename_i h
    simp only [Frag.setTmp, BitVec.getLsbD_or, h, true_and, BitVec.getLsbD_ofNat, hn, decide_true, Bool.true_and, Nat.testBit_two_pow]
    by_cases hq : n = d.num.toNat
    · simp [hq]
    · simp [hq, Ne.symm hq]
  · rename_i h1 h2; rw [if_neg (fun e => h2 e.1)]

/-- MODE with more flags differs from MODE in its flags at most. -/
theorem modeOrFlags_rest (m : Word) (f : FFlags) : modeOrFlags m f &&& ~~~(0x3E000 : Word) = m &&& ~~~(0x3E000 : Word) := by
  unfold modeOrFlags
  apply BitVec.eq_of_getLsbD_eq
  intro k hk
  simp only [BitVec.getLsbD_and, BitVec.getLsbD_or, BitVec.getLsbD_not, BitVec.getLsbD_shiftLeft, BitVec.getLsbD_setWidth, BitVec.zeroExtend, hk, decide_true,
    Bool.true_and]
  by_cases h1 : k < 13
  · simp [h1]
  · by_cases h2 : k - 13 < 5
    · have : (0x3E000 : Word).getLsbD k = true := by
        have h3 : k = 13 ∨ k = 14 ∨ k = 15 ∨ k = 16 ∨ k = 17 := by omega
        rcases h3 with rfl | rfl | rfl | rfl | rfl <;> decide
      rw [this]; simp
    · have h4 : f.getLsbD (k - 13) = false := BitVec.getLsbD_of_ge f _ (by omega)
      simp [h4]

/-- The flags an instruction raises, in the fragment's MODE. -/
def raise (X : FFlags) (F : Frag) : Frag := { F with mode := modeOrFlags F.mode X }

/-- An instruction that writes D and raises flags: what D holds, and what is left alone. -/
theorem retired_write (s : State) (c : Ctx) (i : Instr) (d : Operand) (part : Mask) (val : Nat → Word) (tag : Nat → Tag) (X : FFlags)
    (hF : s.frag? c.f = some c.F) (hW : s.wave? c.w = some c.W) :
    OnlyWrites c s (Retired c i ((c.write d part val tag s).adjFrag c.f (raise X))) [d] part true ∧
    Receives c (Retired c i ((c.write d part val tag s).adjFrag c.f (raise X))) d part (fun l v => v = val l) tag ∧
    (X = 0 → OnlyWrites c s (Retired c i ((c.write d part val tag s).adjFrag c.f (raise X))) [d] part false) := by
  rw [Ctx.write_eq, State.adjFrag_adjFrag]
  have hrest := destOnFrag_rest d val c.F
  obtain ⟨h1, a, h2⟩ := retired_adj s c i (destOnWave d part val tag) (fun F => raise X (destOnFrag d val F)) hF hW
  have hmode : (destOnFrag d val c.F).mode = c.F.mode := by have := congrArg Frag.mode hrest; exact this
  have only : ∀ flags : Bool, (flags = false → X = 0) →
      OnlyWrites c s (Retired c i ((s.adjWave c.w (destOnWave d part val tag)).adjFrag c.f (fun F => raise X (destOnFrag d val F)))) [d] part flags := by
    intro flags hfl
    refine retired_onlyWrites s c i _ _ [d] part flags hF hW ?_ ?_ ?_ ?_ ?_ ?_ ?_ ?_
    · exact congrArg (fun W : Wave => { W with preds := c.W.preds }) (destOnWave_rest d part val tag c.W)
    · intro l n hl hn hd
      rw [destOnWave_reg d part val tag c.W l n hn, if_neg]
      rintro ⟨e1, e2, e3⟩
      simp [named, e1, e2, e3] at hd
    · intro p l _ _
      rw [destOnWave_pred]
    · have h := congrArg (fun F : Frag => { F with mode := c.F.mode }) hrest; exact h
    · intro n hd
      show (destOnFrag d val c.F).scalar n = _
      rw [destOnFrag_scalar, if_neg]
      rintro ⟨e1, e2⟩
      simp [named, e1, e2] at hd
    · intro n hn hd
      have hne : ¬(d.cls = .tmp ∧ n = d.num.toNat) := by
        rintro ⟨e1, e2⟩
        simp [named, e1, e2] at hd
      refine ⟨?_, ?_⟩
      · show Tbl.get 0 (destOnFrag d val c.F).tmp n = _
        rw [destOnFrag_tmp, if_neg hne]
      · show (destOnFrag d val c.F).tmpValid.getLsbD n = _
        rw [destOnFrag_valid d val c.F n hn, if_neg hne]
    · show modeOrFlags (destOnFrag d val c.F).mode X &&& _ = _
      rw [modeOrFlags_rest, hmode]
    · intro h0
      show modeOrFlags (destOnFrag d val c.F).mode X = _
      rw [hmode, hfl h0]
      simp [modeOrFlags]
  refine ⟨only true (by simp), ⟨?_, ?_, ?_⟩, fun h => only false (fun _ => h)⟩
  · intro hd l hl
    have : (Retired c i ((s.adjWave c.w (destOnWave d part val tag)).adjFrag c.f (fun F => raise X (destOnFrag d val F)))).vreg c.w l d.num.toNat
        = ⟨val l, tag l⟩ := by
      unfold State.vreg
      rw [h1]
      show (destOnWave d part val tag c.W).reg l d.num.toNat = _
      rw [destOnWave_reg d part val tag c.W l _ d.num.isLt, if_pos ⟨hd, hl, rfl⟩]
    rw [this]
    exact ⟨rfl, rfl⟩
  · intro hd
    unfold State.scalarOf
    rw [h2]
    show (destOnFrag d val c.F).scalar d.num.toNat = _
    rw [destOnFrag_scalar, if_pos ⟨hd, rfl⟩]
  · intro hd hn
    unfold State.tmpOf
    rw [h2]
    show Tbl.get 0 (destOnFrag d val c.F).tmp d.num.toNat = val 0 ∧ (destOnFrag d val c.F).tmpValid.getLsbD d.num.toNat = true
    rw [destOnFrag_tmp, destOnFrag_valid d val c.F _ hn, if_pos ⟨hd, rfl⟩, if_pos ⟨hd, rfl⟩]
    exact ⟨rfl, rfl⟩

theorem raise_zero : raise 0 = id := by
  funext F; unfold raise modeOrFlags; simp

/-- The same without flags. -/
theorem retired_write_int (s : State) (c : Ctx) (i : Instr) (d : Operand) (part : Mask) (val : Nat → Word) (tag : Nat → Tag)
    (hF : s.frag? c.f = some c.F) (hW : s.wave? c.w = some c.W) :
    OnlyWrites c s (Retired c i (c.write d part val tag s)) [d] part false ∧
    Receives c (Retired c i (c.write d part val tag s)) d part (fun l v => v = val l) tag := by
  have h := retired_write s c i d part val tag 0 hF hW
  rw [raise_zero, State.adjFrag_id] at h
  exact ⟨h.2.2 rfl, h.2.1⟩

theorem Ready.frag {s : State} {c : Ctx} {i : Instr} (h : Ready s c i) : s.frag? c.f = some c.F := by
  have := State.ctxOf_spec s c c.f i h.context; exact this.2.1

theorem Ready.wave {s : State} {c : Ctx} {i : Instr} (h : Ready s c i) : s.wave? c.w = some c.W := by
  have := State.ctxOf_spec s c c.f i h.context; exact this.2.2.2.1

/-- An integer instruction of the common form completes: D has its value, nothing else has changed. -/
theorem issue_compInt (i : Instr) (x : ExtWord) (srcs : List Src) (f : Ctx → List Word → Word) (tag : Ctx → Nat → Tag) (body : Ctx → State → Res)
    (s : State) (c : Ctx) (hb : body c s = c.compInt x srcs (f c) (tag c) s) (h : Ready s c i) (ht : c.tagTrap (c.lanesOf x) srcs = none) :
    ∃ t, issue i body s = .next t ∧ OnlyWrites c s t [x.d] (c.part x) false ∧
      Receives c t x.d (c.part x) (fun l v => v = f c (c.values x srcs l).1) (tag c) := by
  have hd : body c s = .done (c.write x.d (c.part x) (fun l => f c (c.values x srcs l).1) (tag c) s) := by
    rw [hb]; unfold Ctx.compInt; simp only [ht]
  exact ⟨_, issue_done i body s c _ h hd, retired_write_int s c i x.d (c.part x) _ _ h.frag h.wave⟩

theorem retired_raises (s : State) (c : Ctx) (i : Instr) (d : Operand) (part : Mask) (val : Nat → Word) (tag : Nat → Tag) (X : FFlags)
    (hF : s.frag? c.f = some c.F) (hW : s.wave? c.w = some c.W) :
    Raises c (Retired c i ((c.write d part val tag s).adjFrag c.f (raise X))) X := by
  rw [Ctx.write_eq, State.adjFrag_adjFrag]
  obtain ⟨_, a, h2⟩ := retired_adj s c i (destOnWave d part val tag) (fun F => raise X (destOnFrag d val F)) hF hW
  refine ⟨_, h2, ?_⟩
  have : (destOnFrag d val c.F).mode = c.F.mode := by have := congrArg Frag.mode (destOnFrag_rest d val c.F); exact this
  show modeOrFlags (destOnFrag d val c.F).mode X = _
  rw [this]

/-- The flags of all the lanes of an instruction. -/
def allFlags (lanes : List Nat) (flags : Nat → FFlags) : FFlags := lanes.foldl (fun fl l => fl ||| flags l) 0

/-- A floating-point instruction of the common form completes: D has its value, the flags are raised, nothing else has changed. -/
theorem issue_compute (i : Instr) (x : ExtWord) (srcs : List Src) (f : Ctx → Nat → List Word → Word × FFlags) (tag : Ctx → Nat → Tag)
    (body : Ctx → State → Res) (s : State) (c : Ctx) (hb : body c s = c.compute x srcs (f c) (tag c) s) (h : Ready s c i)
    (ht : c.tagTrap (c.lanesOf x) srcs = none) (hf : c.fpTrap (c.lanesOf x) (fun l => (c.result x srcs (f c) l).2) = none) :
    ∃ t, issue i body s = .next t ∧ OnlyWrites c s t [x.d] (c.part x) true ∧
      Receives c t x.d (c.part x) (fun l v => v = (c.result x srcs (f c) l).1) (tag c) ∧
      Raises c t (allFlags (c.lanesOf x) (fun l => (c.result x srcs (f c) l).2)) := by
  have hd : body c s = .done ((c.write x.d (c.part x) (fun l => (c.result x srcs (f c) l).1) (tag c) s).adjFrag c.f
      (raise (allFlags (c.lanesOf x) (fun l => (c.result x srcs (f c) l).2)))) := by
    rw [hb]; unfold Ctx.compute; simp only [ht, hf]; rfl
  have hw := retired_write s c i x.d (c.part x) (fun l => (c.result x srcs (f c) l).1) (tag c)
    (allFlags (c.lanesOf x) (fun l => (c.result x srcs (f c) l).2)) h.frag h.wave
  exact ⟨_, issue_done i body s c _ h hd, hw.1, hw.2.1, retired_raises s c i _ _ _ _ _ h.frag h.wave⟩

/-- An instruction that writes one predicate and may raise flags. -/
theorem retired_setPred (s : State) (c : Ctx) (i : Instr) (d : Operand) (part val : Mask) (X : FFlags) (hd : d.cls = .pred)
    (hF : s.frag? c.f = some c.F) (hW : s.wave? c.w = some c.W) :
    OnlyWrites c s (Retired c i ((s.setPred c.w d.num.toNat part val).adjFrag c.f (raise X))) [d] part true ∧
    (X = 0 → OnlyWrites c s (Retired c i ((s.setPred c.w d.num.toNat part val).adjFrag c.f (raise X))) [d] part false) ∧
    ReceivesPred c (Retired c i ((s.setPred c.w d.num.toNat part val).adjFrag c.f (raise X))) d.num.toNat part val.has ∧
    Raises c (Retired c i ((s.setPred c.w d.num.toNat part val).adjFrag c.f (raise X))) X := by
  obtain ⟨h1, a, h2⟩ := retired_adj s c i (fun W => W.setPred d.num.toNat part val) (raise X) hF hW
  have hr := Wave.setPred_rest c.W d.num.toNat part val
  have only : ∀ flags : Bool, (flags = false → X = 0) →
      OnlyWrites c s (Retired c i ((s.adjWave c.w (fun W => W.setPred d.num.toNat part val)).adjFrag c.f (raise X))) [d] part flags := by
    intro flags hfl
    refine retired_onlyWrites s c i _ _ [d] part flags hF hW ?_ ?_ ?_ rfl (fun _ _ => rfl) (fun _ _ _ => ⟨rfl, rfl⟩) (modeOrFlags_rest _ _) ?_
    · exact congrArg (fun W : Wave => { W with vregs := c.W.vregs }) hr
    · intro l n _ _ _
      have : (c.W.setPred d.num.toNat part val).vregs = c.W.vregs := by have := congrArg Wave.vregs hr; exact this
      unfold Wave.reg; rw [this]
    · intro p l hl hn
      rw [Wave.pred_setPred _ _ _ _ _ _ hl, if_neg]
      rintro ⟨e1, _, e3⟩
      subst e1
      simp [named, hd, e3] at hn
    · intro h0
      show modeOrFlags c.F.mode X = _
      rw [hfl h0]; simp [modeOrFlags]
  refine ⟨only true (by simp), fun h => only false (fun _ => h), ?_, ⟨_, h2, rfl⟩⟩
  intro hp l hl hpart
  have e : (Retired c i ((s.setPred c.w d.num.toNat part val).adjFrag c.f (raise X))).predOf c.w d.num.toNat
      = (c.W.setPred d.num.toNat part val).pred d.num.toNat := by
    unfold State.predOf
    rw [show (Retired c i ((s.setPred c.w d.num.toNat part val).adjFrag c.f (raise X))).wave? c.w = _ from h1]
  rw [e, Wave.pred_setPred _ _ _ _ _ _ hl, if_pos ⟨rfl, hp, hpart⟩]

theorem retired_setPred_int (s : State) (c : Ctx) (i : Instr) (d : Operand) (part val : Mask) (hd : d.cls = .pred)
    (hF : s.frag? c.f = some c.F) (hW : s.wave? c.w = some c.W) :
    OnlyWrites c s (Retired c i (s.setPred c.w d.num.toNat part val)) [d] part false ∧
    ReceivesPred c (Retired c i (s.setPred c.w d.num.toNat part val)) d.num.toNat part val.has := by
  have h := retired_setPred s c i d part val 0 hd hF hW
  rw [raise_zero, State.adjFrag_id] at h
  exact ⟨h.2.1 rfl, h.2.2.1⟩

end Sys2Proof.Machine
end

