-- ==== Sys2Proof/Laws/PerInstr.lean ====
section
/-! SUPPORT. Laws/PerInstr.lean: for every instruction that has words, the decoder gives it back from its layout (R46, R47, R48). -/

namespace Sys2Proof.Laws.Layout

/-- A well-formed instruction is the one that its opcode and fields decode to. -/
def Statement (i : Instr) : Prop := ∀ p, i.parts = some p → WellFormed i → p.instr = .ok i

theorem seam (w : SeamWord) : Statement (.seam w) := fun _ h hw => by cases h; exact seam_instr w
theorem nop (w : BaseWord) : Statement (.nop w) := fun _ h hw => by cases h; exact base_instr _ _ _ _ (by decide) rfl (by decide) hw
theorem nopLong (w : NopWord) : Statement (.nopLong w) := by
  cases w with
  | baseLit w v => exact fun _ h hw => by cases h; exact base_instr _ _ _ _ (by decide) rfl (by decide) hw
  | ext w => exact fun _ h hw => by cases h; exact ext_instr _ _ _ (by decide) rfl hw
theorem iaddBase (w : BaseWord) : Statement (.iaddBase w) := fun _ h hw => by cases h; exact base_instr _ _ _ _ (by decide) rfl (by decide) hw
theorem iaddBaseLit (w : BaseWord) (lit : Word) : Statement (.iaddBaseLit w lit) := fun _ h hw => by cases h; exact base_instr _ _ _ _ (by decide) rfl (by decide) hw
theorem isubBase (w : BaseWord) : Statement (.isubBase w) := fun _ h hw => by cases h; exact base_instr _ _ _ _ (by decide) rfl (by decide) hw
theorem isubBaseLit (w : BaseWord) (lit : Word) : Statement (.isubBaseLit w lit) := fun _ h hw => by cases h; exact base_instr _ _ _ _ (by decide) rfl (by decide) hw
theorem andBase (w : BaseWord) : Statement (.andBase w) := fun _ h hw => by cases h; exact base_instr _ _ _ _ (by decide) rfl (by decide) hw
theorem andBaseLit (w : BaseWord) (lit : Word) : Statement (.andBaseLit w lit) := fun _ h hw => by cases h; exact base_instr _ _ _ _ (by decide) rfl (by decide) hw
theorem orBase (w : BaseWord) : Statement (.orBase w) := fun _ h hw => by cases h; exact base_instr _ _ _ _ (by decide) rfl (by decide) hw
theorem orBaseLit (w : BaseWord) (lit : Word) : Statement (.orBaseLit w lit) := fun _ h hw => by cases h; exact base_instr _ _ _ _ (by decide) rfl (by decide) hw
theorem xorBase (w : BaseWord) : Statement (.xorBase w) := fun _ h hw => by cases h; exact base_instr _ _ _ _ (by decide) rfl (by decide) hw
theorem xorBaseLit (w : BaseWord) (lit : Word) : Statement (.xorBaseLit w lit) := fun _ h hw => by cases h; exact base_instr _ _ _ _ (by decide) rfl (by decide) hw
theorem shlBase (w : BaseWord) : Statement (.shlBase w) := fun _ h hw => by cases h; exact base_instr _ _ _ _ (by decide) rfl (by decide) hw
theorem shlBaseLit (w : BaseWord) (lit : Word) : Statement (.shlBaseLit w lit) := fun _ h hw => by cases h; exact base_instr _ _ _ _ (by decide) rfl (by decide) hw
theorem shrBase (w : BaseWord) : Statement (.shrBase w) := fun _ h hw => by cases h; exact base_instr _ _ _ _ (by decide) rfl (by decide) hw
theorem shrBaseLit (w : BaseWord) (lit : Word) : Statement (.shrBaseLit w lit) := fun _ h hw => by cases h; exact base_instr _ _ _ _ (by decide) rfl (by decide) hw
theorem sarBase (w : BaseWord) : Statement (.sarBase w) := fun _ h hw => by cases h; exact base_instr _ _ _ _ (by decide) rfl (by decide) hw
theorem sarBaseLit (w : BaseWord) (lit : Word) : Statement (.sarBaseLit w lit) := fun _ h hw => by cases h; exact base_instr _ _ _ _ (by decide) rfl (by decide) hw
theorem notBase (w : BaseWord) : Statement (.notBase w) := fun _ h hw => by cases h; exact base_instr _ _ _ _ (by decide) rfl (by decide) hw
theorem popcBase (w : BaseWord) : Statement (.popcBase w) := fun _ h hw => by cases h; exact base_instr _ _ _ _ (by decide) rfl (by decide) hw
theorem clzBase (w : BaseWord) : Statement (.clzBase w) := fun _ h hw => by cases h; exact base_instr _ _ _ _ (by decide) rfl (by decide) hw
theorem ctzBase (w : BaseWord) : Statement (.ctzBase w) := fun _ h hw => by cases h; exact base_instr _ _ _ _ (by decide) rfl (by decide) hw
theorem brevBase (w : BaseWord) : Statement (.brevBase w) := fun _ h hw => by cases h; exact base_instr _ _ _ _ (by decide) rfl (by decide) hw
theorem movBase (w : BaseWord) : Statement (.movBase w) := fun _ h hw => by cases h; exact base_instr _ _ _ _ (by decide) rfl (by decide) hw
theorem movlBaseLit (w : BaseWord) (lit : Word) : Statement (.movlBaseLit w lit) := fun _ h hw => by cases h; exact base_instr _ _ _ _ (by decide) rfl (by decide) hw
theorem pnotBase (w : BaseWord) : Statement (.pnotBase w) := fun _ h hw => by cases h; exact base_instr _ _ _ _ (by decide) rfl (by decide) hw
theorem pmovBase (w : BaseWord) : Statement (.pmovBase w) := fun _ h hw => by cases h; exact base_instr _ _ _ _ (by decide) rfl (by decide) hw
theorem emulationBase (w : BaseWord) (lit : Option Word) : Statement (.emulationBase w lit) := fun _ h hw => by cases h; exact base_instr _ _ _ _ (by decide) rfl (by decide) hw
theorem emulation (w : ExtWord) : Statement (.emulation w) := fun _ h hw => by cases h; exact ext_instr _ _ _ (by decide) rfl hw
theorem bra (w : ExtWord) : Statement (.bra w) := fun _ h hw => by cases h; exact ext_instr _ _ _ (by decide) rfl hw
theorem brx (w : ExtWord) : Statement (.brx w) := fun _ h hw => by cases h; exact ext_instr _ _ _ (by decide) rfl hw
theorem call (w : ExtWord) : Statement (.call w) := fun _ h hw => by cases h; exact ext_instr _ _ _ (by decide) rfl hw
theorem retn (w : ExtWord) : Statement (.retn w) := fun _ h hw => by cases h; exact ext_instr _ _ _ (by decide) rfl hw
theorem loop (w : ExtWord) : Statement (.loop w) := fun _ h hw => by cases h; exact ext_instr _ _ _ (by decide) rfl hw
theorem rcv (w : ExtWord) : Statement (.rcv w) := fun _ h hw => by cases h; exact ext_instr _ _ _ (by decide) rfl hw
theorem fuse (w : ExtWord) : Statement (.fuse w) := fun _ h hw => by cases h; exact ext_instr _ _ _ (by decide) rfl hw
theorem elect (w : ExtWord) : Statement (.elect w) := fun _ h hw => by cases h; exact ext_instr _ _ _ (by decide) rfl hw
theorem exit (w : ExtWord) : Statement (.exit w) := fun _ h hw => by
  cases h
  have key : ∀ u : BitVec 4, (u == 0) = true → u[0] = false := by decide
  exact ext_instr _ _ _ (by decide) (by simp [extInstr, key w.sub (sub_of_wf _ w _ rfl rfl hw)]) hw
theorem exitSucc (w : ExtWord) : Statement (.exitSucc w) := fun _ h hw => by
  cases h
  have key : ∀ u : BitVec 4, (u == 1) = true → u[0] = true := by decide
  exact ext_instr _ _ _ (by decide) (by simp [extInstr, key w.sub (sub_of_wf _ w _ rfl rfl hw)]) hw
theorem iadd (w : ExtWord) : Statement (.iadd w) := fun _ h hw => by cases h; exact ext_instr _ _ _ (by decide) rfl hw
theorem isub (w : ExtWord) : Statement (.isub w) := fun _ h hw => by cases h; exact ext_instr _ _ _ (by decide) rfl hw
theorem iaddc (w : ExtWord) : Statement (.iaddc w) := fun _ h hw => by cases h; exact ext_instr _ _ _ (by decide) rfl hw
theorem isubb (w : ExtWord) : Statement (.isubb w) := fun _ h hw => by cases h; exact ext_instr _ _ _ (by decide) rfl hw
theorem imul (w : ExtWord) : Statement (.imul w) := fun _ h hw => by cases h; exact ext_instr _ _ _ (by decide) rfl hw
theorem imulh (w : ExtWord) : Statement (.imulh w) := fun _ h hw => by cases h; exact ext_instr _ _ _ (by decide) rfl hw
theorem imad (w : ExtWord) : Statement (.imad w) := fun _ h hw => by cases h; exact ext_instr _ _ _ (by decide) rfl hw
theorem imadc (w : ExtWord) : Statement (.imadc w) := fun _ h hw => by cases h; exact ext_instr _ _ _ (by decide) rfl hw
theorem idiv (w : ExtWord) : Statement (.idiv w) := fun _ h hw => by cases h; exact ext_instr _ _ _ (by decide) rfl hw
theorem irem (w : ExtWord) : Statement (.irem w) := fun _ h hw => by cases h; exact ext_instr _ _ _ (by decide) rfl hw
theorem imin (w : ExtWord) : Statement (.imin w) := fun _ h hw => by cases h; exact ext_instr _ _ _ (by decide) rfl hw
theorem imax (w : ExtWord) : Statement (.imax w) := fun _ h hw => by cases h; exact ext_instr _ _ _ (by decide) rfl hw
theorem iabs (w : ExtWord) : Statement (.iabs w) := fun _ h hw => by cases h; exact ext_instr _ _ _ (by decide) rfl hw
theorem ineg (w : ExtWord) : Statement (.ineg w) := fun _ h hw => by cases h; exact ext_instr _ _ _ (by decide) rfl hw
theorem and (w : ExtWord) : Statement (.and w) := fun _ h hw => by cases h; exact ext_instr _ _ _ (by decide) rfl hw
theorem or (w : ExtWord) : Statement (.or w) := fun _ h hw => by cases h; exact ext_instr _ _ _ (by decide) rfl hw
theorem xor (w : ExtWord) : Statement (.xor w) := fun _ h hw => by cases h; exact ext_instr _ _ _ (by decide) rfl hw
theorem not (w : ExtWord) : Statement (.not w) := fun _ h hw => by cases h; exact ext_instr _ _ _ (by decide) rfl hw
theorem andn (w : ExtWord) : Statement (.andn w) := fun _ h hw => by cases h; exact ext_instr _ _ _ (by decide) rfl hw
theorem blut (w : ExtWord) : Statement (.blut w) := fun _ h hw => by cases h; exact ext_instr _ _ _ (by decide) rfl hw
theorem shl (w : ExtWord) : Statement (.shl w) := fun _ h hw => by cases h; exact ext_instr _ _ _ (by decide) rfl hw
theorem shr (w : ExtWord) : Statement (.shr w) := fun _ h hw => by cases h; exact ext_instr _ _ _ (by decide) rfl hw
theorem sar (w : ExtWord) : Statement (.sar w) := fun _ h hw => by cases h; exact ext_instr _ _ _ (by decide) rfl hw
theorem rot (w : ExtWord) : Statement (.rot w) := fun _ h hw => by cases h; exact ext_instr _ _ _ (by decide) rfl hw
theorem fshl (w : ExtWord) : Statement (.fshl w) := fun _ h hw => by cases h; exact ext_instr _ _ _ (by decide) rfl hw
theorem fshr (w : ExtWord) : Statement (.fshr w) := fun _ h hw => by cases h; exact ext_instr _ _ _ (by decide) rfl hw
theorem popc (w : ExtWord) : Statement (.popc w) := fun _ h hw => by cases h; exact ext_instr _ _ _ (by decide) rfl hw
theorem clz (w : ExtWord) : Statement (.clz w) := fun _ h hw => by cases h; exact ext_instr _ _ _ (by decide) rfl hw
theorem ctz (w : ExtWord) : Statement (.ctz w) := fun _ h hw => by cases h; exact ext_instr _ _ _ (by decide) rfl hw
theorem brev (w : ExtWord) : Statement (.brev w) := fun _ h hw => by cases h; exact ext_instr _ _ _ (by decide) rfl hw
theorem bfx (w : ExtWord) : Statement (.bfx w) := fun _ h hw => by cases h; exact ext_instr _ _ _ (by decide) rfl hw
theorem bfi (w : ExtWord) : Statement (.bfi w) := fun _ h hw => by cases h; exact ext_instr _ _ _ (by decide) rfl hw
theorem bswz (w : ExtWord) : Statement (.bswz w) := fun _ h hw => by cases h; exact ext_instr _ _ _ (by decide) rfl hw
theorem icmp (w : ExtWord) : Statement (.icmp w) := fun _ h hw => by cases h; exact ext_instr _ _ _ (by decide) rfl hw
theorem pick (w : ExtWord) : Statement (.pick w) := fun _ h hw => by cases h; exact ext_instr _ _ _ (by decide) rfl hw
theorem mov (w : ExtWord) : Statement (.mov w) := fun _ h hw => by cases h; exact ext_instr _ _ _ (by decide) rfl hw
theorem movl (w : ExtWord) : Statement (.movl w) := fun _ h hw => by cases h; exact ext_instr _ _ _ (by decide) rfl hw
theorem lea (w : ExtWord) : Statement (.lea w) := fun _ h hw => by cases h; exact ext_instr _ _ _ (by decide) rfl hw
theorem sad (w : ExtWord) : Statement (.sad w) := fun _ h hw => by cases h; exact ext_instr _ _ _ (by decide) rfl hw
theorem pand (w : ExtWord) : Statement (.pand w) := fun _ h hw => by cases h; exact ext_instr _ _ _ (by decide) rfl hw
theorem por (w : ExtWord) : Statement (.por w) := fun _ h hw => by cases h; exact ext_instr _ _ _ (by decide) rfl hw
theorem pxor (w : ExtWord) : Statement (.pxor w) := fun _ h hw => by cases h; exact ext_instr _ _ _ (by decide) rfl hw
theorem pnot (w : ExtWord) : Statement (.pnot w) := fun _ h hw => by cases h; exact ext_instr _ _ _ (by decide) rfl hw
theorem pset (w : ExtWord) : Statement (.pset w) := fun _ h hw => by cases h; exact ext_instr _ _ _ (by decide) rfl hw
theorem pmov (w : ExtWord) : Statement (.pmov w) := fun _ h hw => by cases h; exact ext_instr _ _ _ (by decide) rfl hw
theorem fadd (w : ExtWord) : Statement (.fadd w) := fun _ h hw => by cases h; exact ext_instr _ _ _ (by decide) rfl hw
theorem fsub (w : ExtWord) : Statement (.fsub w) := fun _ h hw => by cases h; exact ext_instr _ _ _ (by decide) rfl hw
theorem fmul (w : ExtWord) : Statement (.fmul w) := fun _ h hw => by cases h; exact ext_instr _ _ _ (by decide) rfl hw
theorem ffma (w : ExtWord) : Statement (.ffma w) := fun _ h hw => by cases h; exact ext_instr _ _ _ (by decide) rfl hw
theorem fmin (w : ExtWord) : Statement (.fmin w) := fun _ h hw => by cases h; exact ext_instr _ _ _ (by decide) rfl hw
theorem fmax (w : ExtWord) : Statement (.fmax w) := fun _ h hw => by cases h; exact ext_instr _ _ _ (by decide) rfl hw
theorem fset (w : ExtWord) : Statement (.fset w) := fun _ h hw => by cases h; exact ext_instr _ _ _ (by decide) rfl hw
theorem fclass (w : ExtWord) : Statement (.fclass w) := fun _ h hw => by cases h; exact ext_instr _ _ _ (by decide) rfl hw
theorem frnd (w : ExtWord) : Statement (.frnd w) := fun _ h hw => by cases h; exact ext_instr _ _ _ (by decide) rfl hw
theorem fexf (w : ExtWord) : Statement (.fexf w) := fun _ h hw => by cases h; exact ext_instr _ _ _ (by decide) rfl hw
theorem fxpi (w : ExtWord) : Statement (.fxpi w) := fun _ h hw => by cases h; exact ext_instr _ _ _ (by decide) rfl hw
theorem fgetx (w : ExtWord) : Statement (.fgetx w) := fun _ h hw => by cases h; exact ext_instr _ _ _ (by decide) rfl hw
theorem flog2 (w : ExtWord) : Statement (.flog2 w) := fun _ h hw => by cases h; exact ext_instr _ _ _ (by decide) rfl hw
theorem frcp (w : ExtWord) : Statement (.frcp w) := fun _ h hw => by cases h; exact ext_instr _ _ _ (by decide) rfl hw
theorem frsq (w : ExtWord) : Statement (.frsq w) := fun _ h hw => by cases h; exact ext_instr _ _ _ (by decide) rfl hw
theorem fsqrt (w : ExtWord) : Statement (.fsqrt w) := fun _ h hw => by cases h; exact ext_instr _ _ _ (by decide) rfl hw
theorem fsin (w : ExtWord) : Statement (.fsin w) := fun _ h hw => by cases h; exact ext_instr _ _ _ (by decide) rfl hw
theorem fcos (w : ExtWord) : Statement (.fcos w) := fun _ h hw => by cases h; exact ext_instr _ _ _ (by decide) rfl hw
theorem ftanh (w : ExtWord) : Statement (.ftanh w) := fun _ h hw => by cases h; exact ext_instr _ _ _ (by decide) rfl hw
theorem fdot2 (w : ExtWord) : Statement (.fdot2 w) := fun _ h hw => by cases h; exact ext_instr _ _ _ (by decide) rfl hw
theorem fdot4 (w : ExtWord) : Statement (.fdot4 w) := fun _ h hw => by cases h; exact ext_instr _ _ _ (by decide) rfl hw
theorem cvt (w : ExtWord) : Statement (.cvt w) := fun _ h hw => by cases h; exact ext_instr _ _ _ (by decide) rfl hw
theorem cvti (w : ExtWord) : Statement (.cvti w) := fun _ h hw => by cases h; exact ext_instr _ _ _ (by decide) rfl hw
theorem cvtf (w : ExtWord) : Statement (.cvtf w) := fun _ h hw => by cases h; exact ext_instr _ _ _ (by decide) rfl hw
theorem pack (w : ExtWord) : Statement (.pack w) := fun _ h hw => by cases h; exact ext_instr _ _ _ (by decide) rfl hw
theorem unpk (w : ExtWord) : Statement (.unpk w) := fun _ h hw => by cases h; exact ext_instr _ _ _ (by decide) rfl hw
theorem mxq (w : ExtWord) : Statement (.mxq w) := fun _ h hw => by cases h; exact ext_instr _ _ _ (by decide) rfl hw
theorem mxd (w : ExtWord) : Statement (.mxd w) := fun _ h hw => by cases h; exact ext_instr _ _ _ (by decide) rfl hw
theorem tagset (w : ExtWord) : Statement (.tagset w) := fun _ h hw => by cases h; exact ext_instr _ _ _ (by decide) rfl hw
theorem shfl (w : ExtWord) : Statement (.shfl w) := fun _ h hw => by cases h; exact ext_instr _ _ _ (by decide) rfl hw
theorem shflx (w : ExtWord) : Statement (.shflx w) := fun _ h hw => by cases h; exact ext_instr _ _ _ (by decide) rfl hw
theorem shup (w : ExtWord) : Statement (.shup w) := fun _ h hw => by
  cases h
  have key : ∀ u : BitVec 4, (u == 0) = true → u[0] = false := by decide
  exact ext_instr _ _ _ (by decide) (by simp [extInstr, key w.sub (sub_of_wf _ w _ rfl rfl hw)]) hw
theorem shdn (w : ExtWord) : Statement (.shdn w) := fun _ h hw => by
  cases h
  have key : ∀ u : BitVec 4, (u == 1) = true → u[0] = true := by decide
  exact ext_instr _ _ _ (by decide) (by simp [extInstr, key w.sub (sub_of_wf _ w _ rfl rfl hw)]) hw
theorem bcst (w : ExtWord) : Statement (.bcst w) := fun _ h hw => by cases h; exact ext_instr _ _ _ (by decide) rfl hw
theorem vote (w : ExtWord) : Statement (.vote w) := fun _ h hw => by cases h; exact ext_instr _ _ _ (by decide) rfl hw
theorem matchv (w : ExtWord) : Statement (.matchv w) := fun _ h hw => by cases h; exact ext_instr _ _ _ (by decide) rfl hw
theorem redw (w : ExtWord) : Statement (.redw w) := fun _ h hw => by cases h; exact ext_instr _ _ _ (by decide) rfl hw
theorem scanw (w : ExtWord) : Statement (.scanw w) := fun _ h hw => by cases h; exact ext_instr _ _ _ (by decide) rfl hw
theorem mfs (w : ExtWord) : Statement (.mfs w) := fun _ h hw => by cases h; exact ext_instr _ _ _ (by decide) rfl hw
theorem mts (w : ExtWord) : Statement (.mts w) := fun _ h hw => by cases h; exact ext_instr _ _ _ (by decide) rfl hw
theorem racq (w : ExtWord) : Statement (.racq w) := fun _ h hw => by cases h; exact ext_instr _ _ _ (by decide) rfl hw
theorem rrel (w : ExtWord) : Statement (.rrel w) := fun _ h hw => by cases h; exact ext_instr _ _ _ (by decide) rfl hw
theorem rgive (w : ExtWord) : Statement (.rgive w) := fun _ h hw => by cases h; exact ext_instr _ _ _ (by decide) rfl hw
theorem ld (w : ExtWord) : Statement (.ld w) := fun _ h hw => by cases h; exact ext_instr _ _ _ (by decide) rfl hw
theorem st (w : ExtWord) : Statement (.st w) := fun _ h hw => by cases h; exact ext_instr _ _ _ (by decide) rfl hw
theorem lds (w : ExtWord) : Statement (.lds w) := fun _ h hw => by cases h; exact ext_instr _ _ _ (by decide) rfl hw
theorem sts (w : ExtWord) : Statement (.sts w) := fun _ h hw => by cases h; exact ext_instr _ _ _ (by decide) rfl hw
theorem ldc (w : ExtWord) : Statement (.ldc w) := fun _ h hw => by cases h; exact ext_instr _ _ _ (by decide) rfl hw
theorem pref (w : ExtWord) : Statement (.pref w) := fun _ h hw => by cases h; exact ext_instr _ _ _ (by decide) rfl hw
theorem cctl (w : ExtWord) : Statement (.cctl w) := fun _ h hw => by cases h; exact ext_instr _ _ _ (by decide) rfl hw
theorem fence (w : ExtWord) : Statement (.fence w) := fun _ h hw => by cases h; exact ext_instr _ _ _ (by decide) rfl hw
theorem atom (w : ExtWord) : Statement (.atom w) := fun _ h hw => by cases h; exact ext_instr _ _ _ (by decide) rfl hw
theorem atoms (w : ExtWord) : Statement (.atoms w) := fun _ h hw => by cases h; exact ext_instr _ _ _ (by decide) rfl hw
theorem red (w : ExtWord) : Statement (.red w) := fun _ h hw => by cases h; exact ext_instr _ _ _ (by decide) rfl hw
theorem reds (w : ExtWord) : Statement (.reds w) := fun _ h hw => by cases h; exact ext_instr _ _ _ (by decide) rfl hw
theorem wake (w : ExtWord) : Statement (.wake w) := fun _ h hw => by cases h; exact ext_instr _ _ _ (by decide) rfl hw
theorem waitB (w : ExtWord) : Statement (.waitB w) := fun _ h hw => by
  cases h
  have key : ∀ u : BitVec 4, ((u &&& 3).toNat == 0 && !u.getLsbD 3 && (0 == 1 || !u.getLsbD 2)) = true → u[0] = false ∧ u[1] = false := by decide
  exact ext_instr _ _ _ (by decide) (by simp [extInstr, key w.sub (sub_of_wf _ w _ rfl rfl hw)]) hw
theorem waitA (w : ExtWord) : Statement (.waitA w) := fun _ h hw => by
  cases h
  have key : ∀ u : BitVec 4, ((u &&& 3).toNat == 1 && !u.getLsbD 3 && (1 == 1 || !u.getLsbD 2)) = true → u[0] = true ∧ u[1] = false := by decide
  exact ext_instr _ _ _ (by decide) (by simp [extInstr, key w.sub (sub_of_wf _ w _ rfl rfl hw)]) hw
theorem waitF (w : ExtWord) : Statement (.waitF w) := fun _ h hw => by
  cases h
  have key : ∀ u : BitVec 4, ((u &&& 3).toNat == 2 && !u.getLsbD 3 && (2 == 1 || !u.getLsbD 2)) = true → u[0] = false ∧ u[1] = true := by decide
  exact ext_instr _ _ _ (by decide) (by simp [extInstr, key w.sub (sub_of_wf _ w _ rfl rfl hw)]) hw
theorem waitK (w : ExtWord) : Statement (.waitK w) := fun _ h hw => by
  cases h
  have key : ∀ u : BitVec 4, ((u &&& 3).toNat == 3 && !u.getLsbD 3 && (3 == 1 || !u.getLsbD 2)) = true → u[0] = true ∧ u[1] = true := by decide
  exact ext_instr _ _ _ (by decide) (by simp [extInstr, key w.sub (sub_of_wf _ w _ rfl rfl hw)]) hw
theorem cpy (w : ExtWord) : Statement (.cpy w) := fun _ h hw => by cases h; exact ext_instr _ _ _ (by decide) rfl hw
theorem cpyt (w : ExtWord) : Statement (.cpyt w) := fun _ h hw => by cases h; exact ext_instr _ _ _ (by decide) rfl hw
theorem cpym (w : ExtWord) : Statement (.cpym w) := fun _ h hw => by cases h; exact ext_instr _ _ _ (by decide) rfl hw
theorem cpyr (w : ExtWord) : Statement (.cpyr w) := fun _ h hw => by cases h; exact ext_instr _ _ _ (by decide) rfl hw
theorem cpyg (w : ExtWord) : Statement (.cpyg w) := fun _ h hw => by cases h; exact ext_instr _ _ _ (by decide) rfl hw
theorem qfence (w : ExtWord) : Statement (.qfence w) := fun _ h hw => by cases h; exact ext_instr _ _ _ (by decide) rfl hw
theorem binit (w : ExtWord) : Statement (.binit w) := fun _ h hw => by
  cases h
  have key : ∀ u : BitVec 4, (u &&& (~~~2) == 0) = true → u[0] = false := by decide
  exact ext_instr _ _ _ (by decide) (by simp [extInstr, key w.sub (sub_of_wf _ w _ rfl rfl hw)]) hw
theorem bqry (w : ExtWord) : Statement (.bqry w) := fun _ h hw => by
  cases h
  have key : ∀ u : BitVec 4, (u.getLsbD 0 && !u.getLsbD 3) = true → u[0] = true := by decide
  exact ext_instr _ _ _ (by decide) (by simp [extInstr, key w.sub (sub_of_wf _ w _ rfl rfl hw)]) hw
theorem barv (w : ExtWord) : Statement (.barv w) := fun _ h hw => by
  cases h
  have key : ∀ u : BitVec 4, (u == 0) = true → u[0] = false := by decide
  exact ext_instr _ _ _ (by decide) (by simp [extInstr, key w.sub (sub_of_wf _ w _ rfl rfl hw)]) hw
theorem bexp (w : ExtWord) : Statement (.bexp w) := fun _ h hw => by
  cases h
  have key : ∀ u : BitVec 4, (u == 1) = true → u[0] = true := by decide
  exact ext_instr _ _ _ (by decide) (by simp [extInstr, key w.sub (sub_of_wf _ w _ rfl rfl hw)]) hw
theorem omclaim (w : ExtWord) : Statement (.omclaim w) := fun _ h hw => by cases h; exact ext_instr _ _ _ (by decide) rfl hw
theorem omrel (w : ExtWord) : Statement (.omrel w) := fun _ h hw => by cases h; exact ext_instr _ _ _ (by decide) rfl hw
theorem omfill (w : ExtWord) : Statement (.omfill w) := fun _ h hw => by cases h; exact ext_instr _ _ _ (by decide) rfl hw
theorem omread (w : ExtWord) : Statement (.omread w) := fun _ h hw => by cases h; exact ext_instr _ _ _ (by decide) rfl hw
theorem mma (w : ExtWord) : Statement (.mma w) := fun _ h hw => by cases h; exact ext_instr _ _ _ (by decide) rfl hw
theorem mmas (w : ExtWord) : Statement (.mmas w) := fun _ h hw => by cases h; exact ext_instr _ _ _ (by decide) rfl hw
theorem accz (w : ExtWord) : Statement (.accz w) := fun _ h hw => by cases h; exact ext_instr _ _ _ (by decide) rfl hw
theorem accrd (w : ExtWord) : Statement (.accrd w) := fun _ h hw => by cases h; exact ext_instr _ _ _ (by decide) rfl hw
theorem accwr (w : ExtWord) : Statement (.accwr w) := fun _ h hw => by cases h; exact ext_instr _ _ _ (by decide) rfl hw
theorem accst (w : ExtWord) : Statement (.accst w) := fun _ h hw => by cases h; exact ext_instr _ _ _ (by decide) rfl hw
theorem accsc (w : ExtWord) : Statement (.accsc w) := fun _ h hw => by cases h; exact ext_instr _ _ _ (by decide) rfl hw
theorem accred (w : ExtWord) : Statement (.accred w) := fun _ h hw => by cases h; exact ext_instr _ _ _ (by decide) rfl hw
theorem rcq (w : ExtWord) : Statement (.rcq w) := fun _ h hw => by cases h; exact ext_instr _ _ _ (by decide) rfl hw
theorem rct (w : ExtWord) : Statement (.rct w) := fun _ h hw => by cases h; exact ext_instr _ _ _ (by decide) rfl hw
theorem rcgen (w : ExtWord) : Statement (.rcgen w) := fun _ h hw => by cases h; exact ext_instr _ _ _ (by decide) rfl hw
theorem rccfgLoad (w : ExtWord) : Statement (.rccfgLoad w) := fun _ h hw => by
  cases h
  have key : ∀ u : BitVec 4, (u == 0) = true → u[0] = false ∧ u[1] = false := by decide
  exact ext_instr _ _ _ (by decide) (by simp [extInstr, key w.sub (sub_of_wf _ w _ rfl rfl hw)]) hw
theorem rccfgDrop (w : ExtWord) : Statement (.rccfgDrop w) := fun _ h hw => by
  cases h
  have key : ∀ u : BitVec 4, (u == 1) = true → u[0] = true ∧ u[1] = false := by decide
  exact ext_instr _ _ _ (by decide) (by simp [extInstr, key w.sub (sub_of_wf _ w _ rfl rfl hw)]) hw
theorem rccfgPause (w : ExtWord) : Statement (.rccfgPause w) := fun _ h hw => by
  cases h
  have key : ∀ u : BitVec 4, (u == 2) = true → u[0] = false ∧ u[1] = true := by decide
  exact ext_instr _ _ _ (by decide) (by simp [extInstr, key w.sub (sub_of_wf _ w _ rfl rfl hw)]) hw
theorem rccfgRun (w : ExtWord) : Statement (.rccfgRun w) := fun _ h hw => by
  cases h
  have key : ∀ u : BitVec 4, (u == 3) = true → u[0] = true ∧ u[1] = true := by decide
  exact ext_instr _ _ _ (by decide) (by simp [extInstr, key w.sub (sub_of_wf _ w _ rfl rfl hw)]) hw
theorem rcstat (w : ExtWord) : Statement (.rcstat w) := fun _ h hw => by cases h; exact ext_instr _ _ _ (by decide) rfl hw
theorem trace (w : ExtWord) : Statement (.trace w) := fun _ h hw => by cases h; exact ext_instr _ _ _ (by decide) rfl hw
theorem rqinit (w : ExtWord) : Statement (.rqinit w) := fun _ h hw => by cases h; exact ext_instr _ _ _ (by decide) rfl hw
theorem rqstep (w : ExtWord) : Statement (.rqstep w) := fun _ h hw => by cases h; exact ext_instr _ _ _ (by decide) rfl hw
theorem hitget (w : ExtWord) : Statement (.hitget w) := fun _ h hw => by cases h; exact ext_instr _ _ _ (by decide) rfl hw
theorem hitacc (w : ExtWord) : Statement (.hitacc w) := fun _ h hw => by cases h; exact ext_instr _ _ _ (by decide) rfl hw
theorem hitign (w : ExtWord) : Statement (.hitign w) := fun _ h hw => by cases h; exact ext_instr _ _ _ (by decide) rfl hw
theorem vbld (w : ExtWord) : Statement (.vbld w) := fun _ h hw => by cases h; exact ext_instr _ _ _ (by decide) rfl hw
theorem tex (w : ExtWord) : Statement (.tex w) := fun _ h hw => by cases h; exact ext_instr _ _ _ (by decide) rfl hw
theorem texfb (w : ExtWord) : Statement (.texfb w) := fun _ h hw => by cases h; exact ext_instr _ _ _ (by decide) rfl hw
theorem refit (w : ExtWord) : Statement (.refit w) := fun _ h hw => by cases h; exact ext_instr _ _ _ (by decide) rfl hw
theorem mshemit (w : ExtWord) : Statement (.mshemit w) := fun _ h hw => by cases h; exact ext_instr _ _ _ (by decide) rfl hw
theorem mshdone (w : ExtWord) : Statement (.mshdone w) := fun _ h hw => by cases h; exact ext_instr _ _ _ (by decide) rfl hw
theorem launch (w : ExtWord) : Statement (.launch w) := fun _ h hw => by cases h; exact ext_instr _ _ _ (by decide) rfl hw
theorem tready (w : ExtWord) : Statement (.tready w) := fun _ h hw => by cases h; exact ext_instr _ _ _ (by decide) rfl hw
theorem drain (w : ExtWord) : Statement (.drain w) := fun _ h hw => by cases h; exact ext_instr _ _ _ (by decide) rfl hw
theorem trap (w : ExtWord) : Statement (.trap w) := fun _ h hw => by cases h; exact ext_instr _ _ _ (by decide) rfl hw
theorem tret (w : ExtWord) : Statement (.tret w) := fun _ h hw => by cases h; exact ext_instr _ _ _ (by decide) rfl hw
theorem bkpt (w : ExtWord) : Statement (.bkpt w) := fun _ h hw => by cases h; exact ext_instr _ _ _ (by decide) rfl hw
theorem echk (w : ExtWord) : Statement (.echk w) := fun _ h hw => by cases h; exact ext_instr _ _ _ (by decide) rfl hw
theorem iclr (w : ExtWord) : Statement (.iclr w) := fun _ h hw => by cases h; exact ext_instr _ _ _ (by decide) rfl hw
theorem runSelect (core : Nat) (quadrant : Nat) : Statement (.runSelect core quadrant) := fun _ h => by cases h
theorem windowTimeout (meeting : Nat) : Statement (.windowTimeout meeting) := fun _ h => by cases h
theorem fuseTimeout (wave : Nat) : Statement (.fuseTimeout wave) := fun _ h => by cases h
theorem watchdogExpiry (wave : Nat) : Statement (.watchdogExpiry wave) := fun _ h => by cases h
theorem tableWalk (die : Nat) : Statement (.tableWalk die) := fun _ h => by cases h
theorem loadDataReturn (id : Nat) : Statement (.loadDataReturn id) := fun _ h => by cases h
theorem storeQueueDrain (wave : Nat) : Statement (.storeQueueDrain wave) := fun _ h => by cases h
theorem homeWriteAccept (id : Nat) : Statement (.homeWriteAccept id) := fun _ h => by cases h
theorem rdcInvalidation (id : Nat) (die : Nat) : Statement (.rdcInvalidation id die) := fun _ h => by cases h
theorem invalidationAck (id : Nat) : Statement (.invalidationAck id) := fun _ h => by cases h
theorem l2Eviction (line : Nat) : Statement (.l2Eviction line) := fun _ h => by cases h
theorem detachNotice (die : Nat) (line : Nat) : Statement (.detachNotice die line) := fun _ h => by cases h
theorem detachedLineDrop (die : Nat) (line : Nat) : Statement (.detachedLineDrop die line) := fun _ h => by cases h
theorem atomicPerform (id : Nat) : Statement (.atomicPerform id) := fun _ h => by cases h
theorem atomicResponse (id : Nat) : Statement (.atomicResponse id) := fun _ h => by cases h
theorem waitTablePoll (id : Nat) : Statement (.waitTablePoll id) := fun _ h => by cases h
theorem ualinkResponse (r : RemoteResponse) : Statement (.ualinkResponse r) := fun _ h => by cases h
theorem ualinkRetryTimeout (id : Nat) : Statement (.ualinkRetryTimeout id) := fun _ h => by cases h
theorem peerResponseCacheExpiry (peer : Nat) (id : Nat) : Statement (.peerResponseCacheExpiry peer id) := fun _ h => by cases h
theorem ualinkInboundRequest (r : PeerRequest) : Statement (.ualinkInboundRequest r) := fun _ h => by cases h
theorem copyChunkStart (cluster : Nat) (engine : Nat) : Statement (.copyChunkStart cluster engine) := fun _ h => by cases h
theorem copyChunkDone (id : Nat) : Statement (.copyChunkDone id) := fun _ h => by cases h
theorem matrixOpStart (core : Nat) (context : Nat) : Statement (.matrixOpStart core context) := fun _ h => by cases h
theorem matrixOpComplete (core : Nat) (context : Nat) : Statement (.matrixOpComplete core context) := fun _ h => by cases h
theorem rcqComplete (id : Nat) (lane : Nat) : Statement (.rcqComplete id lane) := fun _ h => by cases h
theorem rctSampleDrain (wave : Nat) : Statement (.rctSampleDrain wave) := fun _ h => by cases h
theorem optimiserStep (inst : Nat) : Statement (.optimiserStep inst) := fun _ h => by cases h
theorem rcgenImageWrite (inst : Nat) : Statement (.rcgenImageWrite inst) := fun _ h => by cases h
theorem rcuGenerationSwitch (inst : Nat) (cluster : Nat) : Statement (.rcuGenerationSwitch inst cluster) := fun _ h => by cases h
theorem rayNodeVisit (id : Nat) : Statement (.rayNodeVisit id) := fun _ h => by cases h
theorem shaderWavePlace (die : Nat) : Statement (.shaderWavePlace die) := fun _ h => by cases h
theorem refitNodeProcess (die : Nat) : Statement (.refitNodeProcess die) := fun _ h => by cases h
theorem triangleRasterise (die : Nat) (slot : Nat) : Statement (.triangleRasterise die slot) := fun _ h => by cases h
theorem nodeStart (die : Nat) : Statement (.nodeStart die) := fun _ h => by cases h
theorem teamPlace (die : Nat) : Statement (.teamPlace die) := fun _ h => by cases h
theorem persistentGridPlace (grid : Nat) : Statement (.persistentGridPlace grid) := fun _ h => by cases h
theorem swapComplete (swap : Nat) : Statement (.swapComplete swap) := fun _ h => by cases h
theorem spillComplete (id : Nat) : Statement (.spillComplete id) := fun _ h => by cases h
theorem imageComplete (id : Nat) : Statement (.imageComplete id) := fun _ h => by cases h
theorem restore (id : Nat) : Statement (.restore id) := fun _ h => by cases h
theorem patrolScrub (sector : Nat) (upset : SectorUpset) : Statement (.patrolScrub sector upset) := fun _ h => by cases h
theorem agingCheck (finding : AgingFinding) : Statement (.agingCheck finding) := fun _ h => by cases h
theorem eventResend (id : Nat) : Statement (.eventResend id) := fun _ h => by cases h
theorem pcSample (core : Nat) : Statement (.pcSample core) := fun _ h => by cases h
theorem syncRecord (core : Nat) : Statement (.syncRecord core) := fun _ h => by cases h
theorem powerMeasurement (milliwatt : Nat) : Statement (.powerMeasurement milliwatt) := fun _ h => by cases h
theorem rdmaWrite (q : RdmaRequest) : Statement (.rdmaWrite q) := fun _ h => by cases h
theorem rdmaRead (q : RdmaRequest) : Statement (.rdmaRead q) := fun _ h => by cases h
theorem roceUnsupportedOp (q : RdmaRequest) : Statement (.roceUnsupportedOp q) := fun _ h => by cases h
theorem otherTrafficDrop (port : Nat) : Statement (.otherTrafficDrop port) := fun _ h => by cases h
theorem nonce (q : EdjorRequest) : Statement (.nonce q) := fun _ h => by cases h
theorem hello (q : EdjorRequest) : Statement (.hello q) := fun _ h => by cases h
theorem status (q : EdjorRequest) : Statement (.status q) := fun _ h => by cases h
theorem readmem (q : EdjorRequest) : Statement (.readmem q) := fun _ h => by cases h
theorem attest (q : EdjorRequest) : Statement (.attest q) := fun _ h => by cases h
theorem errring (q : EdjorRequest) : Statement (.errring q) := fun _ h => by cases h
theorem claim (q : EdjorRequest) : Statement (.claim q) := fun _ h => by cases h
theorem heartbeat (q : EdjorRequest) : Statement (.heartbeat q) := fun _ h => by cases h
theorem release (q : EdjorRequest) : Statement (.release q) := fun _ h => by cases h
theorem handover (q : EdjorRequest) : Statement (.handover q) := fun _ h => by cases h
theorem leaseExpiry : Statement (.leaseExpiry) := fun _ h => by cases h
theorem graphgo (q : EdjorRequest) : Statement (.graphgo q) := fun _ h => by cases h
theorem opendmw (q : EdjorRequest) : Statement (.opendmw q) := fun _ h => by cases h
theorem closedmw (q : EdjorRequest) : Statement (.closedmw q) := fun _ h => by cases h
theorem openhw (q : EdjorRequest) : Statement (.openhw q) := fun _ h => by cases h
theorem closehw (q : EdjorRequest) : Statement (.closehw q) := fun _ h => by cases h
theorem inval (q : EdjorRequest) : Statement (.inval q) := fun _ h => by cases h
theorem swap (q : EdjorRequest) : Statement (.swap q) := fun _ h => by cases h
theorem savepool (q : EdjorRequest) : Statement (.savepool q) := fun _ h => by cases h
theorem parkansResolve (q : EdjorRequest) : Statement (.parkansResolve q) := fun _ h => by cases h
theorem parkansDeliver (q : EdjorRequest) : Statement (.parkansDeliver q) := fun _ h => by cases h
theorem endteam (q : EdjorRequest) : Statement (.endteam q) := fun _ h => by cases h
theorem debugAttach (q : EdjorRequest) : Statement (.debugAttach q) := fun _ h => by cases h
theorem debugSetStops (q : EdjorRequest) : Statement (.debugSetStops q) := fun _ h => by cases h
theorem debugStop (q : EdjorRequest) : Statement (.debugStop q) := fun _ h => by cases h
theorem debugStep (q : EdjorRequest) : Statement (.debugStep q) := fun _ h => by cases h
theorem debugStepAll (q : EdjorRequest) : Statement (.debugStepAll q) := fun _ h => by cases h
theorem debugReplayMode (q : EdjorRequest) : Statement (.debugReplayMode q) := fun _ h => by cases h
theorem debugRollback (q : EdjorRequest) : Statement (.debugRollback q) := fun _ h => by cases h
theorem debugDiscardReplay (q : EdjorRequest) : Statement (.debugDiscardReplay q) := fun _ h => by cases h
theorem profileRead (q : EdjorRequest) : Statement (.profileRead q) := fun _ h => by cases h
theorem profileReadClear (q : EdjorRequest) : Statement (.profileReadClear q) := fun _ h => by cases h
theorem profileFlush (q : EdjorRequest) : Statement (.profileFlush q) := fun _ h => by cases h
theorem throttle (q : EdjorRequest) : Statement (.throttle q) := fun _ h => by cases h
theorem spare (q : EdjorRequest) : Statement (.spare q) := fun _ h => by cases h
theorem peermap (q : EdjorRequest) : Statement (.peermap q) := fun _ h => by cases h
theorem fwload (q : EdjorRequest) : Statement (.fwload q) := fun _ h => by cases h
theorem reset (q : EdjorRequest) : Statement (.reset q) := fun _ h => by cases h
theorem spill (q : EdjorRequest) : Statement (.spill q) := fun _ h => by cases h
theorem evack (q : EdjorRequest) : Statement (.evack q) := fun _ h => by cases h
theorem bringUp : Statement (.bringUp) := fun _ h => by cases h
theorem reservedOpcode (word0 : BitVec 32) (bit : BitVec 8) : Statement (.reservedOpcode word0 bit) := fun _ h => by cases h
theorem instructionFetch : Statement (.instructionFetch) := fun _ h => by cases h
theorem hostWindowResponse (r : RemoteResponse) : Statement (.hostWindowResponse r) := fun _ h => by cases h
theorem hostWindowRetryTimeout (id : Nat) : Statement (.hostWindowRetryTimeout id) := fun _ h => by cases h
theorem edjorOtherOp (q : EdjorRequest) : Statement (.edjorOtherOp q) := fun _ h => by cases h
theorem arpNeighbourDiscovery (port : Nat) : Statement (.arpNeighbourDiscovery port) := fun _ h => by cases h
theorem stepBlockedTimeout (frag : Nat) : Statement (.stepBlockedTimeout frag) := fun _ h => by cases h
theorem rccfgLoadDone (inst : Nat) : Statement (.rccfgLoadDone inst) := fun _ h => by cases h

end Sys2Proof.Laws.Layout
end

