-- ==== Sys2Proof/Tests/Slice0.lean ====
section
/-! SUPPORT. Tests/Slice0.lean: the author's own tests: ill-formed terms that are refused, words of the spec that decode, and a witness for the
hypotheses of each statement. -/

namespace Sys2Proof.Tests

set_option Elab.async false

open Sys2Proof.Machine Sys2Proof.Claims

/-! ## Small states -/

/-- One wave of two live lanes, whose only fragment, 1, runs the bytes at its PC. -/
def codeState (bs : List Byte) : State :=
  (({ State.reset.withCode bs with cur := some 1, agenda := [] } : State).adjFrag 1 (fun F => { F with active := 3 })).adjWave 1 (fun W => { W with live := 3 })
def quiet : State := codeState []

/-- Every condition of `Ready` as a test. -/
def isReady (s : State) (c : Ctx) (i : Instr) : Bool :=
  decide (s.cur = some c.f) && decide (s.ctxOf c.f i = some c) && decide (offence c i = none) && decide (privilege c i = none) &&
  decide (runOffence c i (s.nextWord c) = none) && decide (blockOffence c i = none) && (!interlocked c i s) && (!tokenFull c i s) &&
  decide (s.rel.upset = none) && decide (s.rel.weak = [])

theorem ready_of_isReady {s : State} {c : Ctx} {i : Instr} (h : isReady s c i = true) : Ready s c i := by
  simp only [isReady, Bool.and_eq_true, decide_eq_true_eq, Bool.not_eq_true'] at h
  exact ⟨h.1.1.1.1.1.1.1.1.1, h.1.1.1.1.1.1.1.1.2, h.1.1.1.1.1.1.1.2, h.1.1.1.1.1.1.2, h.1.1.1.1.1.2, h.1.1.1.1.2, h.1.1.1.2, h.1.1.2, h.1.2, h.2⟩

def anyCtx : Ctx := ⟨1, startFrag 1 1 0x100 64 [] plainHeader 1 0, 1, startWave 1 0 0 0 0 0 0 64 8, 1, plainTeam, 12, 0, 1⟩

/-- The context of fragment 1 for an instruction. -/
def ctxAt (s : State) (i : Instr) : Ctx := match s.ctxOf 1 i with | some c => c | none => anyCtx

/-- The instruction is ready in fragment 1, and `P` holds of its context. -/
theorem ready_of {s : State} {i : Instr} {P : Ctx → Prop} (h : isReady s (ctxAt s i) i = true ∧ P (ctxAt s i)) : ∃ c, Ready s c i ∧ P c :=
  ⟨_, ready_of_isReady h.1, h.2⟩

theorem ready_plain {s : State} {i : Instr} (h : isReady s (ctxAt s i) i = true) : ∃ c, Ready s c i := ⟨_, ready_of_isReady h⟩

/-- The k-th entry of a list, for one of some operand words: its instruction is ready and its context passes. -/
def meetsNth {α β : Type} (s : State) (ws : List β) (l : β → Ctx → List α) (f : α → Instr) (P : β → Ctx → α → Bool) (k : Nat) : Bool :=
  ws.any (fun w => match (l w anyCtx)[k]? with
    | some a => match (l w (ctxAt s (f a)))[k]? with
      | some b => isReady s (ctxAt s (f a)) (f b) && P w (ctxAt s (f a)) b
      | none => false
    | none => false)

theorem ready_of_nth {α β : Type} {s : State} {ws : List β} {l : β → Ctx → List α} {f : α → Instr} {P : β → Ctx → α → Bool} {n : Nat}
    (h : (List.range n).all (meetsNth s ws l f P) = true) : ∀ k < n, ∃ w c b, (l w c)[k]? = some b ∧ Ready s c (f b) ∧ P w c b = true := by
  intro k hk
  obtain ⟨w, -, h1⟩ := List.any_eq_true.mp (List.all_eq_true.mp h k (List.mem_range.mpr hk))
  split at h1
  · split at h1
    · rename_i b hb
      exact ⟨w, _, b, hb, ready_of_isReady (Bool.and_eq_true_iff.mp h1).1, (Bool.and_eq_true_iff.mp h1).2⟩
    · exact absurd h1 (by simp)
  · exact absurd h1 (by simp)

/-- Vector operands v1, v2 and v4 with destination v6. -/
def vvv : ExtWord := { blankExt with d := ⟨.vec, 6⟩, a := ⟨.vec, 1⟩, b := ⟨.vec, 2⟩, c := ⟨.vec, 4⟩ }
def vv : ExtWord := { vvv with c := ⟨.vec, 0⟩ }

def shapes3 (x : ExtWord) (n : Nat) : ExtWord :=
  { x with b := if n < 2 then ⟨.vec, 0⟩ else x.b, c := if n < 3 then ⟨.vec, 0⟩ else x.c }

/-! ## Witnesses: checks, traps, arithmetic -/

def frag (s : State) (g : Frag → Frag) : State := s.adjFrag 1 g
def wave (s : State) (g : Wave → Wave) : State := s.adjWave 1 g
def team (s : State) (g : Team → Team) : State := s.adjTeam 1 g

/-- An outstanding instruction of wave 1 in lane 0, with a destination and a token. -/
def owed (dst : Dest) (tok : Nat) (kind : PendKind) : Pend := ⟨1, 1, 1, 0, tok, dst, 0, 0, kind, 0, 0, []⟩
def busy (dst : Dest) (n : Nat) : State := { quiet with pend := (List.range n).map (fun k => (k + 10, owed dst 2 .other)), nextId := 100 }
def trapped (s : State) : State := frag s (fun F => { F with save := some ⟨[], 0, 3, 0x80, none⟩, tpc := 0x100 })
def unheld : State := wave quiet (fun W => { W with held := 0x7F })
def tmpSource : Instr := .iadd { vv with fmt := 1, a := ⟨.tmp, 0⟩ }
def mtsTpc : Instr := .mts { blankExt with d := ⟨.special, 0x31⟩, a := ⟨.scal, 1⟩ }
def atRun (n : Nat) : State := frag quiet (fun F => { F with runCount := n })
def braHere : ExtWord := { blankExt with a := ⟨.imm, 0⟩ }
def rcv3 : ExtWord := { blankExt with a := ⟨.imm, 3⟩ }
def seamBytes : List Byte := bytesOfWords [0, 0, 0, 0x10]
/-- A seam stands behind an instruction of three words. -/
def seamed : State := codeState seamBytes

theorem witness_ChecksComeFirst_illegal :
    let i := Instr.iadd { vv with fmt := 15 }
    i.parts ≠ none ∧ quiet.cur = some (ctxAt quiet i).f ∧ quiet.ctxOf 1 i = some (ctxAt quiet i) ∧ offence (ctxAt quiet i) i = some 60 := by decide +kernel

theorem witness_ChecksComeFirst_privilege :
    let c := ctxAt quiet mtsTpc
    mtsTpc.parts ≠ none ∧ quiet.ctxOf c.f mtsTpc = some c ∧ offence c mtsTpc = none ∧ (privilege c mtsTpc).isSome = true := by decide +kernel

theorem witness_ChecksComeFirst_run :
    ∀ p ∈ [(atRun 24, Instr.nop ⟨0, 0, 0, 0⟩, 1), (quiet, .bra braHere, 2), (atRun 1, .rcv rcv3, 4), (quiet, tmpSource, 5)],
      let c := ctxAt p.1 p.2.1
      p.1.ctxOf c.f p.2.1 = some c ∧ offence c p.2.1 = none ∧ privilege c p.2.1 = none ∧ runSubcode c p.2.1 (p.1.nextWord c) = some p.2.2 := by decide +kernel

theorem witness_ChecksComeFirst_limit :
    let c := ctxAt (atRun 23) (.nop ⟨0, 0, 0, 0⟩)
    runSubcode c (.nop ⟨0, 0, 0, 0⟩) ((atRun 23).nextWord c) = none := by decide +kernel

theorem witness_ChecksComeFirst_blocks :
    let i := Instr.iadd { vv with fmt := 1, b := ⟨.vec, 255⟩ }
    let c := ctxAt unheld i
    unheld.ctxOf c.f i = some c ∧ offence c i = none ∧ privilege c i = none ∧ runSubcode c i (unheld.nextWord c) = none ∧ (blockOffence c i).isSome = true := by
  decide +kernel

theorem witness_ChecksComeFirst_waits :
    let i := Instr.iadd { vv with fmt := 1 }
    let j := Instr.fence { blankExt with tok := 2, mod := 1 }
    (let c := ctxAt (busy (.vec 1 1) 1) i; offence c i = none ∧ blockOffence c i = none ∧ interlocked c i (busy (.vec 1 1) 1) = true) ∧
    (let c := ctxAt (busy .none 63) j; offence c j = none ∧ blockOffence c j = none ∧ tokenFull c j (busy .none 63) = true) ∧
    tokenFull (ctxAt (busy .none 62) j) j (busy .none 62) = false := by decide +kernel

theorem witness_HandlerEntry :
    let c := ctxAt quiet (.iadd vv)
    let d := ctxAt (team quiet (fun T => { T with task := { T.task with handler := 0 } })) (.iadd vv)
    quiet.rel.rot = [] ∧ quiet.ctxOf c.f (.iadd vv) = some c ∧ c.F.save = none ∧ c.T.task.handler ≠ 0 ∧ d.F.save = none ∧ d.T.task.handler = 0 := by decide +kernel

theorem witness_doubleFault :
    let c := ctxAt (trapped quiet) (.iadd vv)
    (trapped quiet).rel.rot = [] ∧ (trapped quiet).ctxOf c.f (.iadd vv) = some c ∧ c.F.save.isSome = true := by decide +kernel

theorem witness_emulationAndReserved :
    (∀ i ∈ [Instr.emulationBase ⟨0, 0, 0, 0⟩ none, .emulation blankExt], isReady quiet (ctxAt quiet i) i = true ∧ (ctxAt quiet i).F.save = none) ∧
    (let i := Instr.reservedOpcode 0xFF000000 4; quiet.cur = some 1 ∧ quiet.ctxOf 1 i = some (ctxAt quiet i) ∧ (ctxAt quiet i).T.task.handler ≠ 0) := by
  decide +kernel

def trapWords (g : BitVec 5) : List Instr := [.trap { blankExt with a := ⟨.imm, 0x2A⟩, g := g }, .bkpt { blankExt with a := ⟨.imm, 0x2A⟩, g := g }]
def someLanes : State := wave quiet (fun W => { W with preds := [(3, 1)] })
def debugged : State := { quiet with debug := [(1, { noDebug with stops := true })] }

theorem witness_softwareTraps_none : ∀ i ∈ trapWords 4, isReady quiet (ctxAt quiet i) i = true ∧ (ctxAt quiet i).part { blankExt with g := 4 } = 0 := by
  decide +kernel

theorem witness_softwareTraps_all : ∀ i ∈ trapWords 0, isReady quiet (ctxAt quiet i) i = true ∧ (ctxAt quiet i).F.active &&& ~~~((ctxAt quiet i).part blankExt) = 0 ∧
    (ctxAt quiet i).part blankExt ≠ 0 ∧ Tbl.find quiet.debug 1 = none ∧ (ctxAt quiet i).T.task.handler ≠ 0 := by decide +kernel

theorem witness_softwareTraps_some : ∀ i ∈ trapWords 3,
    let c := ctxAt someLanes i
    isReady someLanes c i = true ∧ c.F.active &&& ~~~(c.part { blankExt with g := 3 }) ≠ 0 ∧ c.part { blankExt with g := 3 } ≠ 0 ∧
    ((someLanes.splitOff c.f (c.part { blankExt with g := 3 })).map (fun r => r.1)).any (fun n => n != c.f) = true := by decide +kernel

theorem witness_softwareTraps_handler : ∃ c, Ready (trapped quiet) c (.bkpt blankExt) ∧ Tbl.find (trapped quiet).debug c.t = none ∧ c.F.save.isSome = true :=
  ready_of (by decide +kernel)

theorem witness_softwareTraps_debugger : ∃ c, Ready debugged c (.bkpt blankExt) ∧ (∃ d, Tbl.find debugged.debug c.t = some d ∧ d.stops = true) ∧ c.part blankExt ≠ 0 ∧
    c.F.active &&& ~~~(c.part blankExt) = 0 :=
  ⟨_, ready_of_isReady (c := ctxAt debugged (.bkpt blankExt)) (by decide +kernel), ⟨{ noDebug with stops := true }, by decide +kernel, rfl⟩, by decide +kernel⟩

/-- The same instruction with a seam behind it, in a handler. -/
def tretState (tpc : Word) : State := frag (trapped seamed) (fun F => { F with tpc := tpc })
theorem witness_trapReturn : ∀ tpc ∈ [(0x100 : Word), 0x102], ∃ c, Ready (tretState tpc) c (.tret blankExt) ∧ c.F.save.isSome = true ∧ c.F.tpc = tpc := by
  intro tpc h
  rcases List.mem_cons.mp h with rfl | h
  · exact ready_of (by decide +kernel)
  · rcases List.mem_cons.mp h with rfl | h
    · exact ready_of (by decide +kernel)
    · exact absurd h (by simp)

theorem witness_trapReturn_outside : (ctxAt quiet (.tret blankExt)).F.save = none := by decide +kernel

theorem witness_NopOnlyAdvances : (∃ c, Ready quiet c (.nop ⟨0, 0, 0, 0⟩)) ∧ ∃ c, Ready quiet c (.nopLong (.ext blankExt)) :=
  ⟨ready_plain (by decide +kernel), ready_plain (by decide +kernel)⟩

def baseWords : List BaseWord := [⟨0, 6, 1, 3⟩, ⟨0, 6, 1, 0⟩, ⟨0, 6, 0, 1⟩]
theorem witness_BaseFormsCompute : ∀ k < 23, ∃ (w : BaseWord) (c : Ctx) (b : Instr × (VReg → VReg)), (baseForms w 5)[k]? = some b ∧ Ready quiet c b.1 ∧ true = true :=
  ready_of_nth (s := quiet) (ws := baseWords) (l := fun w _ => baseForms w 5) (f := Prod.fst) (P := fun _ _ _ => true) (by decide +kernel)
theorem witness_BaseFormsCompute_preds : ∀ i ∈ [Instr.pnotBase ⟨0, 3, 1, 0⟩, .pmovBase ⟨0, 3, 1, 0⟩], isReady quiet (ctxAt quiet i) i = true := by decide +kernel
theorem witness_BaseFormsCompute_movl : let i := Instr.movlBaseLit ⟨0, 3, 0, 15⟩ 5; quiet.ctxOf 1 i = some (ctxAt quiet i) ∧ (offence (ctxAt quiet i) i).isSome = true := by
  decide +kernel

/-- Operand words with one, two and three vector sources. -/
def byCount (x : ExtWord) : List ExtWord := [shapes3 x 1, shapes3 x 2, shapes3 x 3]
def i64 : ExtWord := { vvv with fmt := 1 }

theorem witness_IntegerArithmetic : ∀ k < 11, ∃ (x : ExtWord) (c : Ctx) (b : Instr × Nat × (Int → Int → Int → Int)), (intOps x)[k]? = some b ∧ Ready quiet c b.1 ∧
    decide (c.tagTrap (c.lanesOf x) (srcsIn x b.2.1 x.tag) = none) = true :=
  ready_of_nth (s := quiet) (ws := byCount i64 ++ byCount { i64 with mod := 1 }) (l := fun x _ => intOps x) (f := Prod.fst)
    (P := fun x c b => decide (c.tagTrap (c.lanesOf x) (srcsIn x b.2.1 x.tag) = none)) (by decide +kernel)
def i32 : ExtWord := { vvv with fmt := 2 }
theorem witness_IntegerArithmetic_sad : ∃ c, Ready quiet c (.sad i32) ∧ c.tagTrap (c.lanesOf i32) [src 1 i32.a i32.tag, src 2 i32.b i32.tag, src 3 i32.c 1] = none :=
  ready_of (by decide +kernel)

theorem witness_logicAndShifts : ∀ k < 18, ∃ (x : ExtWord) (c : Ctx) (b : Instr × Nat × (Nat → Nat → Nat → Nat)), (bitOps x)[k]? = some b ∧ Ready quiet c b.1 ∧
    decide (c.tagTrap (c.lanesOf x) (srcsIn x b.2.1 x.tag) = none) = true :=
  ready_of_nth (s := quiet) (ws := byCount i64) (l := fun x _ => bitOps x) (f := Prod.fst)
    (P := fun x c b => decide (c.tagTrap (c.lanesOf x) (srcsIn x b.2.1 x.tag) = none)) (by decide +kernel)

def carryWord : ExtWord := { vv with fmt := 1, c := ⟨.imm, 0⟩, mod := 2 }
theorem witness_carryChains : (∀ i ∈ [Instr.iaddc carryWord, .isubb carryWord],
      isReady quiet (ctxAt quiet i) i = true ∧ (ctxAt quiet i).tagTrap ((ctxAt quiet i).part carryWord).lanes [src 1 carryWord.a 1, src 2 carryWord.b 1] = none) ∧
    ∃ c, Ready quiet c (.imadc i64) ∧ i64.d.cls = .vec ∧ c.tagTrap (c.part i64).lanes (srcsIn i64 3 1) = none :=
  ⟨by decide +kernel, ready_of (by decide +kernel)⟩

def predWord : ExtWord := { blankExt with d := ⟨.pred, 3⟩, a := ⟨.pred, 1⟩, b := ⟨.pred, 2⟩ }
theorem witness_predicateInstructions : ∀ k < 6, ∃ (x : ExtWord) (c : Ctx) (b : Instr × (Nat → Bool)), (predOps c x)[k]? = some b ∧ Ready quiet c b.1 ∧ true = true :=
  ready_of_nth (s := quiet) (ws := [predWord, { predWord with b := ⟨.vec, 0⟩ }, { predWord with a := ⟨.vec, 1⟩, b := ⟨.vec, 0⟩ }]) (l := fun x c => predOps c x)
    (f := Prod.fst) (P := fun _ _ _ => true) (by decide +kernel)

theorem witness_integerCompare : ∀ x ∈ [{ vv with fmt := 1, d := ⟨.pred, 3⟩ }, { vv with fmt := 1, sub := 5 }],
    let c := ctxAt quiet (.icmp x)
    isReady quiet c (.icmp x) = true ∧ (x.sub &&& 7).toNat < 6 ∧ c.tagTrap (c.part x).lanes (srcsIn x 2 x.tag) = none ∧ c.tagTrap (c.lanesOf x) (srcsIn x 2 x.tag) = none := by
  decide +kernel

theorem witness_SwizzleAndAddress : (∃ c, Ready quiet c (.bswz vvv)) ∧ ∃ c, Ready quiet c (.lea i64) ∧ c.tagTrap (c.lanesOf i64) (srcsIn i64 3 1) = none :=
  ⟨ready_plain (by decide +kernel), ready_of (by decide +kernel)⟩

def popWord : ExtWord := { blankExt with d := ⟨.scal, 3⟩, a := ⟨.queue, 4⟩ }
def queuedWord : State := wave quiet (fun W => { W with queues := { W.queues with q4 := [7, 8] } })
theorem witness_copiesAndPops :
    (∃ c, Ready quiet c (.pick { vvv with c := ⟨.pred, 3⟩ })) ∧ (∃ c, Ready quiet c (.mov (shapes3 vvv 1))) ∧
    (∃ c, Ready quiet c (.movl { blankExt with d := ⟨.vec, 6⟩, a := ⟨.imm, 0x80⟩, lit := some 7 })) ∧
    (∃ c, Ready queuedWord c (.mov popWord) ∧ c.W.queues.records 4 = [7, 8]) ∧ ∃ c, Ready quiet c (.mov popWord) ∧ c.W.queues.records 4 = [] :=
  ⟨ready_plain (by decide +kernel), ready_plain (by decide +kernel), ready_plain (by decide +kernel), ready_of (by decide +kernel), ready_of (by decide +kernel)⟩

/-! ## Witnesses: floating point -/

def f32 : ExtWord := { vvv with fmt := 6 }
/-- The sources of an element-by-element instruction have their tags, and its exceptions are not enabled. -/
def untrapped (x : ExtWord) (c : Ctx) (p : Elementwise) : Bool :=
  decide (c.tagTrap (c.lanesOf x) p.srcs = none) && decide (c.fpTrap (c.lanesOf x) (p.flags c x) = none)

theorem witness_FloatArithmetic : ∀ k < 15, ∃ (x : ExtWord) (c : Ctx) (b : Elementwise), (floatOps c x)[k]? = some b ∧ Ready quiet c b.instr ∧ untrapped x c b = true :=
  ready_of_nth (s := quiet) (ws := byCount f32) (l := fun x c => floatOps c x) (f := Elementwise.instr) (P := untrapped) (by decide +kernel)

def convWords : List ExtWord :=
  [shapes3 f32 2, shapes3 f32 1, { shapes3 f32 1 with fmt := 5, sub := 5 }, { f32 with fmt := 7 }, { f32 with fmt := 9 }, { shapes3 f32 1 with fmt := 1, sub := 5 },
   { shapes3 f32 1 with fmt := 5, sub := 1 }, { shapes3 f32 1 with fmt := 2, sub := 1 }]
theorem witness_floatConversions : ∀ k < 9, ∃ (x : ExtWord) (c : Ctx) (b : Elementwise), (convertOps c x)[k]? = some b ∧ Ready quiet c b.instr ∧ untrapped x c b = true :=
  ready_of_nth (s := quiet) (ws := convWords) (l := fun x c => convertOps c x) (f := Elementwise.instr) (P := untrapped) (by decide +kernel)

def srWord : ExtWord := { shapes3 f32 1 with fmt := 7, sub := 6, rnd := 5 }
theorem witness_floatConversions_stochastic :
    let x := srWord
    let srcs : List Src := [src 1 x.a x.sub.toNat, rawSrc 0 x.d 0]
    ∃ c, Ready quiet c (.cvt x) ∧ c.tagTrap (c.lanesOf x) srcs = none ∧ c.fpTrap (c.lanesOf x) (fun l => (c.values x srcs l).2 |||
      (List.range (64 / tagWidth x.tag)).foldl (fun fl e => fl ||| (stochastic c x l (c.values x srcs l).1 e).2) 0) = none :=
  ready_of (by decide +kernel)

def fsetWord : ExtWord := { shapes3 f32 2 with d := ⟨.pred, 3⟩ }
def fclassWord : ExtWord := { shapes3 f32 1 with d := ⟨.pred, 3⟩, b := ⟨.imm, 5⟩ }
theorem witness_floatTests :
    (let x := fsetWord
     ∃ c, Ready quiet c (.fset x) ∧ c.tagTrap (c.part x).lanes (srcsIn x 2 x.tag) = none ∧ c.fpTrap (c.part x).lanes (fun l => (c.values x (srcsIn x 2 x.tag) l).2 |||
        (List.range (64 / (fmtAt x.tag).w)).foldl (fun fl e => fl ||| (fcond (x.sub &&& 7).toNat (elemVals (fmtAt x.tag) (modeFTZ c.F.mode) (c.values x (srcsIn x 2 x.tag) l).1 e 0)
          (elemVals (fmtAt x.tag) (modeFTZ c.F.mode) (c.values x (srcsIn x 2 x.tag) l).1 e 1)).2) 0) = none) ∧
    (let x := fclassWord
     ∃ c, Ready quiet c (.fclass x) ∧ (c.bits x x.b 1 0).toNat < 2 ^ 10 ∧ c.tagTrap (c.part x).lanes [src 1 x.a x.tag] = none) :=
  ⟨ready_of (by decide +kernel), ready_of (by decide +kernel)⟩
theorem witness_classElements : ∃ c, Ready quiet c (.fclass (shapes3 f32 1)) ∧ c.tagTrap (c.lanesOf (shapes3 f32 1)) [src 1 f32.a 6] = none :=
  ready_of (by decide +kernel)

def unpkWord : ExtWord := { shapes3 vvv 1 with fmt := 1, sub := 2 }
def mxqWord : ExtWord := { shapes3 vvv 1 with fmt := 9, sub := 7, d := ⟨.vec, 20⟩, c := ⟨.vec, 30⟩ }
def mxdWord : ExtWord := { shapes3 vvv 1 with fmt := 7, sub := 9, d := ⟨.vec, 20⟩, c := ⟨.vec, 30⟩ }
/-- While no exception is enabled, none of them traps: the statements' premises on `fpTrap` hold in every such context. -/
theorem no_fpTrap (c : Ctx) (lanes : List Nat) (f : Nat → FFlags) (h : modeEnables c.F.mode = 0) : c.fpTrap lanes f = none := by simp [Ctx.fpTrap, h]

theorem witness_RowConversions_unpk :
    let x := unpkWord
    ∃ c, Ready quiet c (.unpk x) ∧ x.d.num.toNat < 255 ∧ c.tagTrap (c.part x).lanes (srcsIn x 1 x.sub.toNat) = none ∧ modeEnables c.F.mode = 0 :=
  ready_of (by decide +kernel)
theorem witness_RowConversions_mxq :
    let x := mxqWord
    let srcs := srcRow 1 x.a 8 x.sub.toNat ++ [rawSrc 3 x.c 0]
    ∃ c, Ready quiet c (.mxq x) ∧ c.noFtz.tagTrap (c.part x).lanes srcs = none ∧
      c.noFtz.fpTrap (c.part x).lanes (fun l => (c.noFtz.values x srcs l).2 ||| (mxQuantise x (fmtAt x.tag) ((List.range 32).map (fun i =>
        (fmtAt x.sub.toNat).decode (elem 16 (nth (c.noFtz.values x srcs l).1 (i / 4)) (i % 4))))).2.2) = none ∧
      x.d.num.toNat + 32 / tagCount x.tag ≤ 256 ∧ ∀ k, k < 32 / tagCount x.tag → x.d.num.toNat + k ≠ x.c.num.toNat := ready_of (by decide +kernel)
theorem witness_RowConversions_mxd :
    let x := mxdWord
    let srcs := srcRow 1 x.a (32 / tagCount x.sub.toNat) x.sub.toNat ++ [src 3 x.c 14]
    ∃ c, Ready quiet c (.mxd x) ∧ c.noFtz.tagTrap (c.part x).lanes srcs = none ∧ modeEnables c.F.mode = 0 ∧ x.d.num.toNat + 8 ≤ 256 := ready_of (by decide +kernel)

theorem witness_tagInstructions : ∀ x ∈ [{ shapes3 vvv 2 with mod := 1 }, { shapes3 vvv 1 with sub := 1 }, { shapes3 vvv 1 with x := 14 }],
    let c := ctxAt quiet (.tagset x)
    isReady quiet c (.tagset x) = true ∧ ∀ l < 64, (c.bits x x.b 0 l).extractLsb' 0 4 ≠ 15 := by decide +kernel

/-! ## Witnesses: across lanes -/

def permWord : ExtWord := { shapes3 vvv 1 with fmt := 1, b := ⟨.imm, 3⟩, mod := 0x26 }
def bcstWord : ExtWord := { shapes3 vvv 1 with fmt := 1, sub := 1 }
/-- The hypotheses of a permutation that writes vectors. -/
def permutes (x : ExtWord) (c : Ctx) (p : Instr × (Ctx → Nat → Nat → Option (Nat × Nat))) : Bool :=
  decide (x.minw = 0) && decide (x.d.cls = .vec) &&
  decide (c.laneTagTrap (c.part x).lanes (src 1 x.a x.tag) (fun l => (List.range (tagCount x.tag)).filterMap (fun e => (p.2 c l e).map Prod.fst)) = none) &&
  decide (modeEnables c.F.mode = 0)
theorem witness_lanePermutations : ∀ k < 5, ∃ (x : ExtWord) (c : Ctx) (b : Instr × (Ctx → Nat → Nat → Option (Nat × Nat))),
    (permutations x)[k]? = some b ∧ Ready quiet c b.1 ∧ permutes x c b = true :=
  ready_of_nth (s := quiet) (ws := [{ permWord with fmt := 0 }, { permWord with b := ⟨.imm, 0⟩ }, permWord, { permWord with sub := 1 }, bcstWord])
    (l := fun x _ => permutations x) (f := Prod.fst) (P := permutes) (by decide +kernel)
theorem witness_scalarBroadcast :
    let x := { bcstWord with d := ⟨.scal, 6⟩ }
    ∃ c, Ready quiet c (.bcst x) ∧ Direct c x ∧ x.d.cls = .scal ∧ c.laneTagTrap (c.part x).lanes (src 1 x.a x.tag)
      (fun l => (List.range (tagCount x.tag)).filterMap (fun _ => (bcstPick x c l).map Prod.fst)) = none ∧ modeEnables c.F.mode = 0 :=
  let ⟨c, h, p⟩ := ready_of (s := quiet) (i := .bcst { bcstWord with d := ⟨.scal, 6⟩ })
    (P := fun c => c.laneTagTrap (c.part { bcstWord with d := ⟨.scal, 6⟩ }).lanes (src 1 bcstWord.a 1)
      (fun l => (List.range (tagCount 1)).filterMap (fun _ => (bcstPick { bcstWord with d := ⟨.scal, 6⟩ } c l).map Prod.fst)) = none ∧ modeEnables c.F.mode = 0)
    (by decide +kernel)
  ⟨c, h, .inl rfl, rfl, p.1, p.2⟩

def voteWord (sub : BitVec 4) : ExtWord := { blankExt with d := ⟨.pred, 3⟩, a := ⟨.pred, 1⟩, sub := sub }
theorem witness_votesAndMatches :
    ∀ i ∈ [Instr.vote (voteWord 0), .vote (voteWord 1), .vote (voteWord 2), .vote { voteWord 3 with d := ⟨.scal, 3⟩ }, .vote { voteWord 3 with d := ⟨.vec, 3⟩ },
      .matchv { shapes3 vvv 1 with fmt := 2, mod := 0x26 }, .elect { blankExt with d := ⟨.pred, 3⟩ }], isReady quiet (ctxAt quiet i) i = true := by decide +kernel

def redWord : ExtWord := { shapes3 vvv 1 with fmt := 1 }
theorem witness_reductionsAndScans :
    ∀ i ∈ [Instr.redw redWord, .scanw redWord], let c := ctxAt quiet i
      isReady quiet c i = true ∧ redWord.minw = 0 ∧ c.laneTagTrap (c.part redWord).lanes (src 1 redWord.a redWord.tag) (fun l => [l]) = none ∧ modeEnables c.F.mode = 0 := by
  decide +kernel

/-! ## Witnesses: special registers and blocks -/

def mtsWord (n : BitVec 8) : ExtWord := { blankExt with d := ⟨.special, n⟩, a := ⟨.scal, 1⟩ }
theorem witness_SpecialRegisters :
    (∃ c, Ready quiet c (.mfs { blankExt with d := ⟨.vec, 3⟩, a := ⟨.special, 0⟩ })) ∧
    (∀ n ∈ [(0x28 : BitVec 8), 0x30, 0x31, 0x32, 0x33], isReady (trapped quiet) (ctxAt (trapped quiet) (.mts (mtsWord n))) (.mts (mtsWord n)) = true) ∧
    (let s := frag quiet (fun F => F.setScalar 1 0x80)
     ∃ c, Ready s c (.mts (mtsWord 0x29)) ∧ modeWritable (c.count (mtsWord 0x29) (mtsWord 0x29).a) = true) :=
  ⟨ready_plain (by decide +kernel), by decide +kernel, ready_of (by decide +kernel)⟩

def racqWord : ExtWord := { blankExt with a := ⟨.imm, 0x80⟩ }
def countWord (n : BitVec 8) : ExtWord := { blankExt with a := ⟨.imm, n⟩ }
/-- A wave that holds five of its role's eight blocks. -/
def fewBlocks (quota : Nat) : State := team (wave quiet (fun W => { W with held := 0x1F })) (fun T => { T with quotas := [quota, 0, 0, 0] })
theorem witness_RegisterBlocks_racq :
    let x := countWord 0x20
    (∃ c, Ready (fewBlocks 6) c (.racq x) ∧ blockRange c x.a 7 (c.count x x.a) = none ∧ (fewBlocks 6).racqReady c.f c.W c.T (blockMask (c.count x x.a)) = true) ∧
    ∃ c, Ready (fewBlocks 5) c (.racq x) ∧ blockRange c x.a 7 (c.count x x.a) = none ∧ (fewBlocks 5).racqReady c.f c.W c.T (blockMask (c.count x x.a)) = false :=
  ⟨ready_of (by decide +kernel), ready_of (by decide +kernel)⟩
theorem quiet_pend : quiet.pend = [] := by decide +kernel
theorem witness_RegisterBlocks_rrel :
    let x := countWord 7
    ∃ c, Ready quiet c (.rrel x) ∧ blockRange c x.a 7 (c.count x x.a) = none ∧ Unawaited quiet c (blockMask (c.count x x.a) &&& c.W.held) :=
  let ⟨c, h, p⟩ := ready_of (s := quiet) (i := .rrel (countWord 7)) (P := fun c => blockRange c (countWord 7).a 7 (c.count (countWord 7) (countWord 7).a) = none)
    (by decide +kernel)
  ⟨c, h, p, fun e he => absurd (quiet_pend ▸ he) (by simp)⟩
theorem witness_RegisterBlocks_rgive :
    let x := { countWord 2 with d := ⟨.scal, 3⟩ }
    ∃ c, Ready quiet c (.rgive x) ∧ blockRange c x.a 16 (c.count x x.a) = none ∧ x.x.toNat < c.T.task.roles.length :=
  ready_of (by decide +kernel)

/-! ## Witnesses: control flow -/

theorem witness_SeamClosesTheRun : ∀ w ∈ [(⟨0, 3, true⟩ : SeamWord), ⟨0, 0, false⟩], isReady quiet (ctxAt quiet (.seam w)) (.seam w) = true := by decide +kernel

/-- Seams stand behind the instruction, before the instruction and before the targets 0x120 and 0x130. -/
def road : State :=
  { quiet with mem := writeNat (writeNat (writeNat (writeNat quiet.mem 0x400FC 4 0x10) 0x4010C 4 0x10) 0x4011C 4 0x10) 0x4012C 4 0x10 }
def goWord (n : BitVec 8) (g : BitVec 5) : ExtWord := { blankExt with a := ⟨.imm, n⟩, g := g }
def brxWord (g : BitVec 5) : ExtWord := { blankExt with a := ⟨.scal, 4⟩, g := g }
/-- Two active lanes, and a target in s4. -/
def roadTo (t : Word) : State := frag road (fun F => { F.setScalar 4 t with active := 3 })
/-- The transfers for offset 0x20 and for s4. -/
def anyTransfer (g : BitVec 5) : List ExtWord := [goWord 0x20 g, brxWord g]

theorem witness_uniformTransfers : ∀ k < 3, ∃ (x : ExtWord) (c : Ctx) (b : Instr × (Nat → Word) × Bool), (transfers c x)[k]? = some b ∧ Ready (roadTo 0x120) c b.1 ∧
    (decide ((roadTo 0x120).checkTargets c (c.part x).lanes b.2.1 b.2.2 = .ok) && decide (c.F.active ≠ 0) && decide (c.part x = c.F.active) &&
      (c.part x).lanes.all (fun l => b.2.1 l == 0x120)) = true :=
  ready_of_nth (s := roadTo 0x120) (ws := anyTransfer 0) (l := fun x c => transfers c x) (f := Prod.fst)
    (P := fun x c b => decide ((roadTo 0x120).checkTargets c (c.part x).lanes b.2.1 b.2.2 = .ok) && decide (c.F.active ≠ 0) && decide (c.part x = c.F.active) &&
      (c.part x).lanes.all (fun l => b.2.1 l == 0x120)) (by decide +kernel)
theorem witness_uniformTransfers_none : ∀ k < 3, ∃ (x : ExtWord) (c : Ctx) (b : Instr × (Nat → Word) × Bool), (transfers c x)[k]? = some b ∧ Ready (roadTo 0x120) c b.1 ∧
    (decide ((roadTo 0x120).checkTargets c (c.part x).lanes b.2.1 b.2.2 = .ok) && decide (c.F.active ≠ 0) && decide (c.part x = 0)) = true :=
  ready_of_nth (s := roadTo 0x120) (ws := anyTransfer 3) (l := fun x c => transfers c x) (f := Prod.fst)
    (P := fun x c b => decide ((roadTo 0x120).checkTargets c (c.part x).lanes b.2.1 b.2.2 = .ok) && decide (c.F.active ≠ 0) && decide (c.part x = 0)) (by decide +kernel)

/-- Lane 0 alone takes part under p3, and the stack holds `n` entries of others. -/
def parting (n : Nat) : State := wave (roadTo 0x120) (fun W => { W with preds := [(3, 1)], stack := List.replicate n ⟨9, false, 0, 0, 0⟩ })
/-- The lanes part, and the groups that leave the fragment need `m` entries or fewer beside those of the stack. -/
def parts (s : State) (c : Ctx) (x : ExtWord) (b : Instr × (Nat → Word) × Bool) : Bool :=
  decide (s.checkTargets c (c.part x).lanes b.2.1 b.2.2 = .ok) && decide (c.F.save = none) && decide (c.T.task.handler ≠ 0) &&
    decide (2 ≤ (groupsOf (c.F.active &&& ~~~(c.part x)) c.nextPc (c.part x).lanes b.2.1).length)
theorem witness_divergentTransfers : ∀ k < 3, ∃ (x : ExtWord) (c : Ctx) (b : Instr × (Nat → Word) × Bool), (transfers c x)[k]? = some b ∧ Ready (parting 0) c b.1 ∧
    (parts (parting 0) c x b && decide (c.W.stack.length + ((parting 0).splitGroups c ((parting 0).seamAwait c)
      ((groupsOf (c.F.active &&& ~~~(c.part x)) c.nextPc (c.part x).lanes b.2.1).drop 1)).2.length ≤ 32)) = true :=
  ready_of_nth (s := parting 0) (ws := anyTransfer 3) (l := fun x c => transfers c x) (f := Prod.fst)
    (P := fun x c b => parts (parting 0) c x b && decide (c.W.stack.length + ((parting 0).splitGroups c ((parting 0).seamAwait c)
      ((groupsOf (c.F.active &&& ~~~(c.part x)) c.nextPc (c.part x).lanes b.2.1).drop 1)).2.length ≤ 32)) (by decide +kernel)

/-- The quadrant's table of sixteen fragments is full. -/
def fullQuadrant : State := (List.range 15).foldl (fun s k => { s with frags := Tbl.put s.frags (k + 20) { startFrag 1 (k + 1) 0x100 64 [] plainHeader 1 0 with num := k + 1, active := 0, fstate := .blocked } }) (parting 32)
theorem witness_StackOverflow : ∀ k < 3, ∃ (x : ExtWord) (c : Ctx) (b : Instr × (Nat → Word) × Bool), (transfers c x)[k]? = some b ∧ Ready fullQuadrant c b.1 ∧
    (parts fullQuadrant c x b && decide (32 < c.W.stack.length + (fullQuadrant.splitGroups c (fullQuadrant.seamAwait c)
      ((groupsOf (c.F.active &&& ~~~(c.part x)) c.nextPc (c.part x).lanes b.2.1).drop 1)).2.length)) = true :=
  ready_of_nth (s := fullQuadrant) (ws := anyTransfer 3) (l := fun x c => transfers c x) (f := Prod.fst)
    (P := fun x c b => parts fullQuadrant c x b && decide (32 < c.W.stack.length + (fullQuadrant.splitGroups c (fullQuadrant.seamAwait c)
      ((groupsOf (c.F.active &&& ~~~(c.part x)) c.nextPc (c.part x).lanes b.2.1).drop 1)).2.length)) (by decide +kernel)

def callWord : ExtWord := { blankExt with d := ⟨.scal, 6⟩, a := ⟨.scal, 4⟩ }
def hereWord : ExtWord := { goWord 0x20 0 with d := ⟨.scal, 4⟩ }
theorem witness_CallsAndLoops_call : (∃ c, Ready (roadTo 0x120) c (.call callWord) ∧ (roadTo 0x120).checkTarget c (c.F.scalar 4) = .ok) :=
  ready_of (by decide +kernel)
theorem witness_CallsAndLoops_near : ∃ c, Ready (roadTo 1) c (.call hereWord) ∧ (roadTo 1).checkTarget c (c.F.pc + c.bits hereWord hereWord.a 0 0) = .ok :=
  ready_of (by decide +kernel)
theorem witness_CallsAndLoops_loop : (∃ c, Ready (roadTo 1) c (.loop hereWord) ∧ (roadTo 1).checkTarget c (c.F.pc + c.bits hereWord hereWord.a 0 0) = .ok) ∧
    ∃ c, Ready (roadTo 2) c (.loop hereWord) ∧ (roadTo 2).checkTarget c (c.F.pc + c.bits hereWord hereWord.a 0 0) = .ok :=
  ⟨ready_of (by decide +kernel), ready_of (by decide +kernel)⟩

def meets2 : List Instr := [.rcv rcv3, .fuse { blankExt with d := ⟨.pred, 3⟩ }]
/-- A second fragment of the wave, with lane 1, at the run's start. -/
def pair : State := { frag quiet (fun F => { F with active := 1 }) with
  frags := Tbl.put (frag quiet (fun F => { F with active := 1 })).frags 20 { startFrag 1 1 0x100 64 [] plainHeader 1 0 with num := 1, active := 2 } }
def ownEntry (s : State) (parked : Bool) (pc : Word) : State :=
  wave (frag s (fun F => { F with active := 1 })) (fun W => { W with live := 7, stack := [⟨0, parked, 4, pc, 0⟩] })
theorem witness_MeetingPoints : ∀ i ∈ meets2,
    (isReady (trapped quiet) (ctxAt (trapped quiet) i) i = true ∧ (ctxAt (trapped quiet) i).W.stack.find? (fun e => e.owner == (ctxAt (trapped quiet) i).F.num) = none) ∧
    (let c := ctxAt quiet i; isReady quiet c i = true ∧ quiet.fragsOf c.w = [(c.f, c.F)] ∧ c.F.active ≠ 0 ∧ c.W.stack.find? (fun e => e.owner == c.F.num) = none ∧
      c.F.save = none) ∧
    (let s := ownEntry quiet false 0x120; let c := ctxAt s i
     isReady s c i = true ∧ c.W.stack.find? (fun e => e.owner == c.F.num) = some ⟨0, false, 4, 0x120, 0⟩) ∧
    (let s := ownEntry pair true 0x100; let c := ctxAt s i
     isReady s c i = true ∧ c.W.stack.find? (fun e => e.owner == c.F.num) = some ⟨0, true, 4, 0x100, 0⟩ ∧ c.F.pc = 0x100 ∧ c.F.save = none ∧
       (s.fragsOf c.w).any (fun y => decide (y.1 ≠ c.f ∧ y.2.fstate ≠ .meeting)) = true) ∧
    (let c := ctxAt pair i
     isReady pair c i = true ∧ c.W.stack.find? (fun e => e.owner == c.F.num) = none ∧ (pair.fragsOf c.w).any (fun y => decide (y.1 ≠ c.f ∧ y.2.fstate ≠ .meeting)) = true) := by
  decide +kernel

theorem witness_exitEndsLanes : (∃ c, Ready seamed c (.exit blankExt) ∧ c.F.active &&& ~~~(c.part blankExt) = 0) ∧
    ∃ c, Ready (wave seamed (fun W => { W with preds := [(3, 1)] })) c (.exit { blankExt with g := 3 }) ∧ c.F.active &&& ~~~(c.part { blankExt with g := 3 }) ≠ 0 :=
  ⟨ready_of (by decide +kernel), ready_of (by decide +kernel)⟩

/-! ## Witnesses: the successor task -/

/-- Memory with 32-bit words from a physical address on. -/
def put32 (s : State) (pa : Nat) (ws : List Nat) : State := { s with mem := writeBytes s.mem pa (ws.flatMap (natBytes 4)) }
/-- A page of the address space mapped by a leaf. -/
def page (s : State) (n leaf : Nat) : State := { s with mem := writeNat s.mem (0x30000 + 8 * n) 8 leaf }
def scal (s : State) (n : Nat) (v : Word) : State := frag s (fun F => F.setScalar n v)
/-- The leaf of device 3's memory, of type UC, and of a host window's. -/
def peerLeaf : Nat := 2 ^ 48 + 3 * 2 ^ 38 + 0x1B
def hostLeaf : Nat := 2 * 2 ^ 48 + 0x1B
/-- The words of a header with the successor flag, of one 64-lane wave. -/
def headerWords : List Nat :=
  let ws := [0x31484D4B, 1 + 8 * 65536, 64 + 65536 + 16777216, 0x4000, 4 + 8 * 256 + 65536, 8, 0, 0, 0, 0, 0, 0, 0, 0, 0x1000]
  ws ++ [ws.foldl (· ^^^ ·) 0]
def succWord : ExtWord := { blankExt with a := ⟨.scal, 4⟩, sub := 1 }
/-- A run that stands before a seam, with the successor's entry in s4. -/
def toEntry (e : Word) : State := scal seamed 4 e
def good : State := put32 (toEntry 0x1C0) 0x40180 headerWords
def headerAt (s : State) (c : Ctx) : Except LaneFault (List Piece) := s.access (.core c.W.core) c.T.asid c.T.table (c.F.scalar 4 - 64) 1 .read .none
def isOpen (s : State) (c : Ctx) : Bool := decide ((c.F.scalar 4).toNat % 64 = 0) && !c.T.shader && !s.walkBusy (.core c.W.core) c.T.asid (c.F.scalar 4 - 64)

theorem witness_successorTask_closed : (∃ c, Ready (toEntry 0x1C4) c (.exitSucc succWord) ∧ (c.F.scalar 4).toNat % 64 ≠ 0) ∧
    ∃ c, Ready (team good (fun T => { T with shader := true })) c (.exitSucc succWord) ∧ c.T.shader = true :=
  ⟨ready_of (by decide +kernel), ready_of (by decide +kernel)⟩
def walked : State := { good with path := { good.path with walkq := [⟨0, 0, 0, 0x10000, 0x100, none, 0, 0⟩] } }
theorem witness_successorTask_walks : ∃ c, Ready walked c (.exitSucc succWord) ∧ (c.F.scalar 4).toNat % 64 = 0 ∧ c.T.shader = false ∧
    walked.walkBusy (.core c.W.core) c.T.asid (c.F.scalar 4 - 64) = true := ready_of (by decide +kernel)
theorem witness_successorTask_fits : ∃ c, Ready good c (.exitSucc succWord) ∧ isOpen good c = true ∧ headerAt good c = .ok [⟨.loc, 0x40180, 1, 0⟩] ∧
    good.memPoisoned 0x40180 64 = false ∧ ((parseHeader (readBytes good.mem 0x40180 64) (c.F.scalar 4)).map (successorFits c.T)) = some true := ready_of (by decide +kernel)
theorem witness_successorTask_unfit : ∃ c, Ready (toEntry 0x1C0) c (.exitSucc succWord) ∧ isOpen (toEntry 0x1C0) c = true ∧
    headerAt (toEntry 0x1C0) c = .ok [⟨.loc, 0x40180, 1, 0⟩] ∧ parseHeader (readBytes (toEntry 0x1C0).mem 0x40180 64) (c.F.scalar 4) = none := ready_of (by decide +kernel)
def poisonedHeader : State := { good with poison := [0x40180 / 32 + 1] }
theorem witness_successorTask_poisoned : ∃ c, Ready poisonedHeader c (.exitSucc succWord) ∧ isOpen poisonedHeader c = true ∧
    headerAt poisonedHeader c = .ok [⟨.loc, 0x40180, 1, 0⟩] ∧ poisonedHeader.memPoisoned 0x40180 64 = true := ready_of (by decide +kernel)
/-- The header lies in a peer's memory. -/
def far : State := { page (toEntry 0x10040) 1 peerLeaf with links := { quiet.links with peers := [(3, 0xFFFF)] } }
def farAnswered (a b : RemoteEnd) : State :=
  let r (off : Nat) (e : RemoteEnd) : RemoteReq := ⟨some (heldKey 1), none, 0, 0x10000, .peer 3, off, .read 32, false, 1, 0, false, some e⟩
  { far with path := { far.path with remote := [(50, r 0 a), (51, r 32 b)] } }
def halves (p : Piece) : List Piece := [{ p with len := 32 }, { p with addr := p.addr + 32, len := 32 }]
def farPiece : Piece := ⟨.peer 3, 0, 1, 2⟩
def headerBytes : List Byte := headerWords.flatMap (natBytes 4)
theorem witness_successorTask_away : ∀ p ∈ [(RemoteEnd.ok (headerBytes.take 32) false, RemoteEnd.ok (headerBytes.drop 32) false, true),
      (.ok (headerBytes.take 32) false, .ok (headerBytes.drop 32) true, true), (.ok (headerBytes.take 32) false, .ok (List.replicate 32 0) false, false)],
    let s := farAnswered p.1 p.2.1
    let c := ctxAt s (.exitSucc succWord)
    isReady s c (.exitSucc succWord) = true ∧ isOpen s c = true ∧ headerAt s c = .ok [farPiece] ∧ farPiece.away = true ∧
    ((halves farPiece).map (s.unitAnswer (heldKey c.f))).map (fun q => q.bind RemoteReq.result) = [some p.1, some p.2.1] ∧
    ((parseHeader (match p.1, p.2.1 with | .ok a _, .ok b _ => a ++ b | _, _ => []) (c.F.scalar 4)).map (successorFits c.T)) = (if p.2.2 then some true else none) := by
  decide +kernel
theorem witness_successorTask_asks : ∃ c, Ready far c (.exitSucc succWord) ∧ isOpen far c = true ∧ headerAt far c = .ok [farPiece] ∧
    ∃ q ∈ halves farPiece, far.unitAnswer (heldKey c.f) q = none := ready_of (by decide +kernel)
theorem witness_successorTask_faults : (∃ c, Ready (toEntry 0x20040) c (.exitSucc succWord) ∧ isOpen (toEntry 0x20040) c = true ∧
      (match headerAt (toEntry 0x20040) c with | .error e => !e.x.host | _ => false) = true ∧ c.F.save = none ∧ c.T.task.handler ≠ 0) ∧
    ∃ c, Ready (page (toEntry 0x20040) 2 0x40) c (.exitSucc succWord) ∧ isOpen (page (toEntry 0x20040) 2 0x40) c = true ∧
      (match headerAt (page (toEntry 0x20040) 2 0x40) c with | .error e => e.x.host | _ => false) = true :=
  ⟨ready_of (by decide +kernel), ready_of (by decide +kernel)⟩

/-! ## Witnesses: memory -/

/-- An access of 8 bytes at s4, indexed by 8 times v1 where the destination is a vector. -/
def laneWord : ExtWord := { blankExt with d := ⟨.vec, 6⟩, a := ⟨.scal, 4⟩, b := ⟨.vec, 1⟩, c := ⟨.imm, 0⟩, x := 3, sub := 3 }
def scalWord : ExtWord := { laneWord with d := ⟨.scal, 6⟩, b := ⟨.imm, 0⟩, x := 0 }
def offLanes (x : ExtWord) : ExtWord := { x with g := 4 }
/-- Lanes 0 and 1 access the same 8 bytes at an address. -/
def at4 (a : Word) : State := scal quiet 4 a
/-- Lane 4, in another quad, accesses 256 bytes further; the page is in the core's TLB and lane 0's sector in its caches. -/
def twoQuads : State :=
  let s := (wave (frag (at4 0x800) (fun F => { F with active := 0x11 })) (fun W => { W with live := 0x11, vregs := [(4 * 256 + 1, ⟨32, 1⟩)] })).fillAccess
    (.core 0) 0 0x10000 0x800 8
  let sec : Tbl (Tbl Sector) := [(0, [(0x40800 / 32, ⟨List.replicate 32 0, false⟩)])]
  { s with path := { s.path with l1 := sec, const := sec } }
/-- The access of every lane is good, and `P` holds of it. -/
def reaches (s : State) (c : Ctx) (scr : Bool) (x : ExtWord) (n : Nat) (kind : Acc) (P : Reached → Bool) : Bool :=
  (match c.reachIn s scr (c.accessLanes x) (c.addr x (kind != .atomic)) n kind x.d.isScalar with | .ok r => P r | .error _ => false) && !(c.accessLanes x).isEmpty &&
  !s.prof.traced.contains c.T.grid && !s.prof.grids.contains c.T.grid && (Tbl.find s.debug c.t).isNone

theorem witness_loadsIssue_none : ∀ p ∈ loads (offLanes laneWord), isReady quiet (ctxAt quiet p.1) p.1 = true ∧ (ctxAt quiet p.1).accessLanes (offLanes laneWord) = [] := by
  decide +kernel
theorem witness_loadsIssue_near : ∀ x ∈ [laneWord, scalWord], ∀ p ∈ loads x,
    let c := ctxAt (at4 0x800) p.1
    isReady (at4 0x800) c p.1 = true ∧ reaches (at4 0x800) c p.2.1 x 8 .read (fun r => p.2.1 || x.d.isScalar ||
      (at4 0x800).farLanes c x 8 (some (loadKind x p.2.2)) r == 0) = true := by decide +kernel
theorem witness_loadsIssue_far : ∀ p ∈ [(Instr.ld laneWord, false, false), (.ldc laneWord, false, true)],
    let c := ctxAt twoQuads p.1
    isReady twoQuads c p.1 = true ∧ reaches twoQuads c p.2.1 laneWord 8 .read (fun r => twoQuads.farLanes c laneWord 8 (some (loadKind laneWord p.2.2)) r != 0) = true := by
  decide +kernel

theorem witness_storesIssue : ∀ p ∈ [(Instr.st, false), (Instr.sts, true)],
    (isReady quiet (ctxAt quiet (p.1 (offLanes laneWord))) (p.1 (offLanes laneWord)) = true ∧ (ctxAt quiet (p.1 (offLanes laneWord))).accessLanes (offLanes laneWord) = []) ∧
    (∀ x ∈ [laneWord, scalWord], let c := ctxAt (at4 0x800) (p.1 x)
      isReady (at4 0x800) c (p.1 x) = true ∧ c.W.storeq.length < 16 ∧ accessOrder x = 0 ∧
        reaches (at4 0x800) c p.2 x 8 .write (fun r => p.2 || x.d.isScalar || (at4 0x800).farLanes c x 8 none r == 0) = true) := by decide +kernel
/-- A wave whose store queue holds n entries. -/
def held (n : Nat) (s : State) : State := wave s (fun W => { W with storeq := List.replicate n ⟨[90], 0, 0, 1, .st, true, 0, false, 0, [⟨0, 0, [⟨.scratch, 0, 8, 0⟩], List.replicate 8 0, 0, 0⟩], false⟩ })
theorem witness_storesIssue_full : ∀ p ∈ [(Instr.st, false), (Instr.sts, true)],
    let x := { laneWord with mod := 0x11 }
    let s := held 16 (at4 0x800)
    let c := ctxAt s (p.1 x)
    isReady s c (p.1 x) = true ∧ c.W.storeq.length = 16 ∧ accessOrder x = 2 ∧ accessScope x = 1 ∧
      reaches s c p.2 x 8 .write (fun r => p.2 || s.farLanes c x 8 none r == 0) = true := by decide +kernel

theorem witness_AccessFaultsTrap : ∀ a ∈ [0x3FF9, 0x80000, 0x200000], ∀ p ∈ [(Instr.lds laneWord, Acc.read), (Instr.sts laneWord, Acc.write)],
    let s := at4 (BitVec.ofNat 64 a)
    let c := ctxAt s p.1
    isReady s c p.1 = true ∧ c.accessLanes laneWord = [0, 1] ∧ c.F.save = none ∧ c.T.task.handler ≠ 0 ∧
      (∀ l ∈ c.accessLanes laneWord, (scratchFault c.T (c.addr laneWord true l) 8 false).isSome = true) ∧ c.F.active &&& ~~~(Mask.ofList (c.accessLanes laneWord)) = 0 := by
  decide +kernel

/-- A 64-bit addition of v2 by two lanes. -/
def atomWord : ExtWord := { laneWord with c := ⟨.vec, 2⟩, fmt := 1, sub := 0 }
def redsWord : ExtWord := { atomWord with d := ⟨.vec, 0⟩ }
theorem witness_AtomicsIssue : ∀ p ∈ [(Instr.atom, atomWord, false), (.atoms, atomWord, true), (.red, redsWord, false), (.reds, redsWord, true)],
    (isReady quiet (ctxAt quiet (p.1 (offLanes p.2.1))) (p.1 (offLanes p.2.1)) = true ∧ (ctxAt quiet (p.1 (offLanes p.2.1))).accessLanes (offLanes p.2.1) = []) ∧
    (let x := p.2.1
     let s := held 15 (at4 0x800)
     let c := ctxAt s (p.1 x)
     isReady s c (p.1 x) = true ∧ c.tagTrap (c.accessLanes x) (atomSrcs x) = none ∧ (∀ l < 64, (c.values x (atomSrcs x) l).2 = 0) ∧ c.W.storeq.length < 16 ∧
       atomOrder x = 0 ∧ reaches s c p.2.2 x 8 .atomic (fun _ => true) = true) := by decide +kernel

/-! ## Witnesses: prefetches, caches, fences -/

def prefWord : ExtWord := { laneWord with d := ⟨.vec, 0⟩, sub := 0 }
def warmPage : State := (at4 0x800).fillAccess (.core 0) 0 0x10000 0x800 8
/-- The die's walkers and queue hold n pages. -/
def walking (n : Nat) (s : State) : State := { s with path := { s.path with walkq := (List.range n).map (fun k => ⟨0, 1, 7, 0x10000, BitVec.ofNat 64 (65536 * k), none, 0, 0⟩) } }
def missing (s : State) (c : Ctx) (x : ExtWord) : List Nat := (c.part x).lanes.filter (fun l => s.tlbMiss (.core c.W.core) c.T.asid (c.addr x true l))
def missed (s : State) (c : Ctx) (x : ExtWord) : Nat :=
  ((((missing s c x).map (fun l => (c.T.asid, vaPage (c.addr x true l)))).eraseDups).filter (fun k => !(s.dieWalks 0).contains k)).length
theorem witness_prefetches :
    (∃ c, Ready quiet c (.pref (offLanes prefWord)) ∧ c.part (offLanes prefWord) = 0) ∧
    (∃ c, Ready (at4 0x800) c (.pref prefWord) ∧ c.part prefWord ≠ 0 ∧ missed (at4 0x800) c prefWord = 1 ∧ (at4 0x800).walkRoom 0 = 1152) ∧
    (∃ c, Ready warmPage c (.pref { prefWord with g := 0 }) ∧ missing warmPage c prefWord = []) :=
  ⟨ready_of (by decide +kernel), ready_of (by decide +kernel), ready_of (by decide +kernel)⟩
/-- One lane prefetches: what PREF asks for is at hand, of type UC, or not to be read; or no entry is free. -/
def oneLane (s : State) : State := wave s (fun W => { W with preds := [(3, 1)] })
def ucPage : State := oneLane ((page (at4 0x10800) 1 (0x40000 + 0x3B)).fillAccess (.core 0) 0 0x10000 0x10800 8)
def noEntries : State := { oneLane warmPage with pend := [(10, { owed .none 2 .other with reads := List.range 1024 })], nextId := 100 }
def pref1 (level : BitVec 4) : ExtWord := { prefWord with g := 3, x := 3 + 4 * level }
theorem witness_prefetches_one :
    (∃ c, Ready (oneLane warmPage) c (.pref (pref1 0)) ∧ c.part (pref1 0) = Mask.one 0 ∧ missing (oneLane warmPage) c (pref1 0) = [] ∧
      (oneLane warmPage).freeEntries c.W.core = 1024) ∧
    (∃ c, Ready (oneLane warmPage) c (.pref (pref1 2)) ∧ c.part (pref1 2) = Mask.one 0) ∧
    (∃ c, Ready ucPage c (.pref (pref1 0)) ∧ c.part (pref1 0) = Mask.one 0 ∧ missing ucPage c (pref1 0) = [] ∧
      (match ucPage.access (.core 0) c.T.asid c.T.table (c.addr (pref1 0) true 0) 1 .read .none with | .ok [p] => p.mt == 2 | _ => false) = true) ∧
    (∃ c, Ready noEntries c (.pref (pref1 0)) ∧ c.part (pref1 0) = Mask.one 0 ∧ missing noEntries c (pref1 0) = [] ∧ noEntries.freeEntries c.W.core = 0) :=
  ⟨ready_of (by decide +kernel), ready_of (by decide +kernel), ready_of (by decide +kernel), ready_of (by decide +kernel)⟩

def cctlWord (op : BitVec 4) : ExtWord := { laneWord with d := ⟨.vec, 0⟩, sub := op }
def cctlAll (op : BitVec 4) : ExtWord := { blankExt with sub := 8 + op }
theorem witness_cacheControl :
    (∃ c, Ready quiet c (.cctl (offLanes (cctlWord 3))) ∧ c.part (offLanes (cctlWord 3)) = 0) ∧
    (∀ x ∈ [cctlWord 0, cctlWord 1, cctlWord 2, cctlAll 0, cctlAll 1, cctlAll 2], isReady twoQuads (ctxAt twoQuads (.cctl x)) (.cctl x) = true ∧
      (ctxAt twoQuads (.cctl x)).part x ≠ 0) ∧
    (∀ n ∈ [15, 16], let s := held n (at4 0x800)
      let c := ctxAt s (.cctl (cctlWord 3))
      isReady s c (.cctl (cctlWord 3)) = true ∧ c.part (cctlWord 3) ≠ 0 ∧ c.W.storeq.length = n ∧
      (match c.reach s (c.part (cctlWord 3)).lanes (fun l => c.addr (cctlWord 3) true l &&& ~~~(127 : Word)) 128 .write .none false with
        | .ok _ => true | .error _ => false) = true) :=
  ⟨ready_of (by decide +kernel), by decide +kernel, by decide +kernel⟩

def fenceWord (kind : BitVec 4) (scope : BitVec 6) : ExtWord := { blankExt with sub := kind, mod := scope, tok := 2 }
def failedOnce : State := wave quiet (fun W => { W with failed := [⟨1, 0x20000, true⟩] })
theorem witness_fences :
    (∀ x ∈ [fenceWord 0 1, fenceWord 1 4, fenceWord 2 5, fenceWord 3 0], isReady quiet (ctxAt quiet (.fence x)) (.fence x) = true ∧
      (ctxAt quiet (.fence x)).W.failed = []) ∧
    (∀ x ∈ [fenceWord 0 5, fenceWord 3 0], let c := ctxAt failedOnce (.fence x)
      isReady failedOnce c (.fence x) = true ∧ c.W.failed ≠ [] ∧ c.F.save = none ∧ c.T.task.handler ≠ 0) := by decide +kernel

/-! ## Witnesses: barriers and waits -/

/-- Barrier objects registered at the first n multiples of 16 from 0x40 on. -/
def barred (n : Nat) (s : State) : State := team s (fun T => { T with barriers := (List.range n).map (fun k => ⟨0x40 + 16 * k, 15, []⟩) })
def barWord : ExtWord := { blankExt with a := ⟨.scal, 4⟩, b := ⟨.imm, 0⟩ }
def dropWord : ExtWord := { blankExt with a := ⟨.scal, 4⟩, sub := 2 }
def amountWord : ExtWord := { barWord with b := ⟨.scal, 5⟩, x := 1 }
theorem witness_barrierObjects :
    (∀ n ∈ [0, 8191], let s := scal (barred 31 (at4 0x3FF0)) 5 (BitVec.ofNat 64 n)
      let c := ctxAt s (.binit amountWord)
      isReady s c (.binit amountWord) = true ∧ barrierFault c (c.F.scalar 4) = none ∧ 0 ≤ c.amount amountWord ∧ c.amount amountWord ≤ 8191 ∧
        amountWord.x.toNat < 2 ^ c.T.task.roles.length ∧ (c.T.bar? 0x3FF0).isSome = false ∧ (c.T.barriers.filter (fun b => b.addr / 2 ^ 19 == 0)).length < 32) ∧
    (∃ c, Ready (barred 32 (at4 0x40)) c (.binit dropWord) ∧ barrierFault c (c.F.scalar 4) = none ∧ (c.T.bar? 0x40).isSome = true) ∧
    (∀ n < 3, let x := { blankExt with d := ⟨.scal, 6⟩, a := ⟨.scal, 4⟩, sub := BitVec.ofNat 4 (2 * n + 1) }
      let c := ctxAt (barred 1 (at4 0x40)) (.bqry x)
      isReady (barred 1 (at4 0x40)) c (.bqry x) = true ∧ barrierFault c (c.F.scalar 4) = none ∧ (c.T.bar? 0x40).isSome = true) :=
  ⟨by decide +kernel, ready_of (by decide +kernel), by decide +kernel⟩

def barvWord : ExtWord := { barWord with mod := 1 }
def oneBar : State := barred 1 (at4 0x40)
theorem witness_barrierUpdates :
    (∃ c, Ready oneBar c (.bexp { barWord with sub := 1 }) ∧ arriveFault c { barWord with sub := 1 } = none) ∧
    (∃ c, Ready oneBar c (.barv (offLanes barvWord)) ∧ arriveFault c (offLanes barvWord) = none ∧ c.part (offLanes barvWord) = 0) ∧
    (∃ c, Ready oneBar c (.barv barvWord) ∧ arriveFault c barvWord = none ∧ c.part barvWord ≠ 0 ∧
      oneBar.releaseReady c.w oneBar.nextId (heldLanes c.W c.F) 1 = true ∧ c.T.gate ≤ oneBar.nextId) ∧
    (∃ c, Ready (held 1 { oneBar with nextId := 100 }) c (.barv barvWord) ∧ arriveFault c barvWord = none ∧
      (held 1 { oneBar with nextId := 100 }).releaseReady c.w 100 (heldLanes c.W c.F) 1 = false) :=
  ⟨ready_of (by decide +kernel), ready_of (by decide +kernel), ready_of (by decide +kernel), ready_of (by decide +kernel)⟩

theorem witness_barrierPhase : (let o := plainTeam.barRead 0x40; barExpect o ≤ barArrived o ∧ barBytes o = 0) ∧
    (let T := plainTeam.barWrite 0x40 (barPack 0 1 0 0 0)
     let o := T.barRead 0x40
     ¬(barExpect o ≤ barArrived o ∧ barBytes o = 0)) := by decide +kernel

def waitBWord (parity : BitVec 8) : ExtWord := { blankExt with d := ⟨.pred, 3⟩, a := ⟨.scal, 4⟩, b := ⟨.imm, parity⟩, mod := 2 }
def waitKWord (ks : Word) : ExtWord := { blankExt with a := ⟨.imm, 0x80⟩, sub := 3, lit := some ks }
theorem witness_waiting :
    (∃ c, Ready oneBar c (.waitB (waitBWord 1)) ∧ barrierFault c (c.F.scalar 4) = none ∧ (c.T.bar? 0x40).isSome = true ∧ barPhase (c.T.barRead 0x40) = 0) ∧
    (∃ c, Ready oneBar c (.waitB (waitBWord 0))) ∧
    (∃ c, Ready (busy .none 1) c (.waitK (waitKWord 8)) ∧ (busy .none 1).tokensDone c.W c.F (waitMask (waitKWord 8)) = true) ∧
    (∃ c, Ready (busy .none 1) c (.waitK (waitKWord 4)) ∧ (busy .none 1).tokensDone c.W c.F (waitMask (waitKWord 4)) = false) :=
  ⟨ready_of (by decide +kernel), ready_plain (by decide +kernel), ready_of (by decide +kernel), ready_of (by decide +kernel)⟩

def waitAWord (narrow : BitVec 4) : ExtWord := { blankExt with a := ⟨.scal, 4⟩, b := ⟨.imm, 7⟩, sub := 1 + 4 * narrow, mod := 4 }
def localAt (s : State) (c : Ctx) (n : Nat) (kind : Acc) (lim : Limit) : List Nat :=
  match c.reach s [0] (fun _ => c.F.scalar 4) n kind lim true with | .ok r => r.flatMap (fun a => a.2.2.map Piece.addr) | .error _ => []
theorem witness_waitA : ∀ n ∈ [4, 8], ∀ v ∈ [6, 7],
    let x := waitAWord (if n = 4 then 1 else 0)
    let s := put32 (at4 0x1F8) 0x401F8 [v]
    let c := ctxAt s (.waitA x)
    let s1 := s.fillAccess (.core c.W.core) c.T.asid c.T.table 0x1F8 n
    isReady s c (.waitA x) = true ∧ s.waiter c.f = none ∧ localAt s c n .read .wait = [0x401F8] ∧ s1.homeBusy c.W 0x401F8 n = false ∧
      s1.acquiring c.w s1.nextId (heldLanes c.W c.F) = false ∧ s1.memPoisoned 0x401F8 n = false ∧ s1.memNat 0x401F8 n = v := by decide +kernel
def waiter7 (f : Nat) (done : Bool) : Waiter := ⟨f, 0x1F8, 0, 0x401F8, true, 7, 4, 0, true, done, 0⟩
def woken : State := { at4 0x1F8 with path := { quiet.path with waits := [(50, waiter7 1 true)] }, nextId := 100 }
theorem witness_waitA_done : ∃ c, Ready woken c (.waitA (waitAWord 0)) ∧ (woken.waiter c.f).map (fun w => w.2.done) = some true := ready_of (by decide +kernel)

def sleepers : State := { at4 0x1F8 with path := { quiet.path with waits := [(50, waiter7 30 false), (51, waiter7 31 false)] }, nextId := 100 }
def wakeWord (n : BitVec 8) : ExtWord := { blankExt with d := ⟨.scal, 6⟩, a := ⟨.scal, 4⟩, b := ⟨.imm, n⟩, mod := 4 }
theorem witness_wakeServesOldest : ∀ n ∈ [0, 1, 127], let x := wakeWord (BitVec.ofNat 8 n)
    let c := ctxAt sleepers (.wake x)
    let s1 := sleepers.fillAccess (.core c.W.core) c.T.asid c.T.table 0x1F8 4
    isReady sleepers c (.wake x) = true ∧ localAt sleepers c 4 .read .wait = [0x401F8] ∧ s1.releaseReady c.w s1.nextId (heldLanes c.W c.F) 4 = true := by decide +kernel

/-! ## Witnesses: copies -/

/-- 64 bytes go from the scratchpad to memory; CPYM's receiver is the issuing team, CPYG gathers one row. -/
def copyState (kind : Nat) : State :=
  let r : List Word := if kind = 0x99 then [0x100, 0x200] else if kind = 0x9C then [0x100, 0x1000, 64, 0x0000020000010040] else [0x100, 0x1000, 64, 0xFFFFFFFFFFFF0000]
  let s := r.zipIdx.foldl (fun s v => scal s (8 + v.2) v.1) quiet
  -- a tile of 64 bytes of memory
  let tile := natBytes 8 0x1000 ++ (List.range 4).flatMap (fun _ => natBytes 8 0) ++ [64, 0, 1, 0, 1, 0, 1, 0, 1, 0] ++ [0, 1] ++ [64, 0, 1, 0, 1, 0, 1, 0, 1, 0] ++ [0, 0]
  team s (fun T => { T with scratch := writeBytes T.scratch 0x200 tile })
/-- The space pairs: memory to scratchpad, and for CPYR scratchpad to memory. -/
def copyWord (q : BitVec 8) (kind : Nat) : ExtWord :=
  { blankExt with d := ⟨.queue, q⟩, a := ⟨.scal, 8⟩, b := ⟨.imm, 0⟩, x := if kind = 0x9B then 1 else 4, fmt := if kind = 0x9B then 1 else 0 }
def copyInstrs : List (Nat × (ExtWord → Instr)) := [(0x98, .cpy), (0x99, .cpyt), (0x9A, .cpym), (0x9B, .cpyr), (0x9C, .cpyg)]
theorem witness_CopiesPush_goes : ∀ p ∈ copyInstrs,
    let s := copyState p.1
    let x := copyWord 0 p.1
    let c := ctxAt s (p.2 x)
    let u := pushOf p.1 x c
    isReady s c (p.2 x) = true ∧ takesPush p.1 0 = true ∧ s.canPush c 0 = true ∧ s.pushFault c u.1 u.2 = none ∧
      (u.2 = true → (sectorsOf (u.1.reg 1).toNat 64).any c.T.spoison.contains = false) := by decide +kernel
/-- Commands of the wave's queue q that have not started. -/
def queuedCommands (n q : Nat) (s : State) : State :=
  { s with eng := { s.eng with cmds := (List.range n).map (fun k => (k + 10, newCommand (ctxAt s (.nop ⟨0, 0, 0, 0⟩)) q 0x98 (k + 50))) }, nextId := 100 }
theorem witness_CopiesPush_stops : ∀ p ∈ copyInstrs,
    (let i := p.2 (copyWord 3 p.1); isReady (copyState p.1) (ctxAt (copyState p.1) i) i = true ∧ takesPush p.1 3 = false) ∧
    (∀ q ∈ [0, 1], let x := copyWord (BitVec.ofNat 8 q) p.1
      let s := queuedCommands 16 q (copyState p.1)
      isReady s (ctxAt s (p.2 x)) (p.2 x) = true ∧ s.canPush (ctxAt s (p.2 x)) q = false) ∧
    (let x := { copyWord 0 p.1 with b := ⟨.scal, 20⟩ }
     let s := scal (copyState p.1) 20 1
     let c := ctxAt s (p.2 x)
     isReady s c (p.2 x) = true ∧ s.canPush c 0 = true ∧ (s.pushFault c (pushOf p.1 x c).1 (pushOf p.1 x c).2).isSome = true) := by decide +kernel
def qfWord (q : BitVec 8) : ExtWord := { blankExt with d := ⟨.queue, q⟩, sub := 1 }
theorem witness_CopiesPush_qfence :
    (isReady quiet (ctxAt quiet (.qfence (qfWord 3))) (.qfence (qfWord 3)) = true ∧ takesPush 0x9D 3 = false) ∧
    (let s := queuedCommands 8 2 quiet
     isReady s (ctxAt s (.qfence (qfWord 2))) (.qfence (qfWord 2)) = true ∧ takesPush 0x9D 2 = true ∧ s.canPush (ctxAt s (.qfence (qfWord 2))) 2 = false) ∧
    (let s := queuedCommands 7 2 quiet
     isReady s (ctxAt s (.qfence (qfWord 2))) (.qfence (qfWord 2)) = true ∧ s.canPush (ctxAt s (.qfence (qfWord 2))) 2 = true) := by decide +kernel

/-! ## Witnesses: the matrix engine -/

/-- A team with 8 operand slots, of which 0 and 1 are held, and 4 regions. -/
def engine (s : State) : State := team s (fun T => { T with
  task := { plainHeader with slots := 8, regions := 4 }, placed := { plainHeader with slots := 8, regions := 4 }
  om := [⟨List.range 8, [0, 1], [], [], []⟩], acc := [noAcc] })
/-- Its fragment has been gathered at its instruction. -/
def engineQuiet : State := frag (engine quiet) (fun F => { F with gathered := true })
def claimWord (n : BitVec 8) : ExtWord := { blankExt with d := ⟨.scal, 6⟩, a := ⟨.imm, n⟩, minw := 5 }
theorem free_engineQuiet : (engineQuiet.freeSlots 1 (ctxAt engineQuiet (.nop ⟨0, 0, 0, 0⟩)).T 0).length = 6 := by
  rw [State.freeSlots, List.length_mergeSort]; decide +kernel
theorem witness_operandSlots_claims :
    (∀ n ∈ [0, 9, 127], isReady engineQuiet (ctxAt engineQuiet (.omclaim (claimWord (BitVec.ofNat 8 n)))) (.omclaim (claimWord (BitVec.ofNat 8 n))) = true) ∧
    (∀ n ∈ [1, 6, 7, 8], let i := Instr.omclaim (claimWord (BitVec.ofNat 8 n)); let c := ctxAt engineQuiet i
      isReady engineQuiet c i = true ∧ n ≤ c.T.task.slots ∧ claimFirst (c.T.omAt (coreIndex c.T c.W.core)) c.f = true ∧ coreIndex c.T c.W.core < c.T.om.length ∧
        c.t = 1 ∧ c.W.core = 0) := by decide +kernel
def relWord (n : BitVec 8) : ExtWord := { blankExt with a := ⟨.imm, n⟩, minw := 5 }
theorem witness_operandSlots_releases : ∀ n ∈ [0, 2, 64], let i := Instr.omrel (relWord (BitVec.ofNat 8 n)); let c := ctxAt engineQuiet i
    isReady engineQuiet c i = true ∧ omrelSlots c (relWord (BitVec.ofNat 8 n)) = [n] ∧ c.T.holdsSlot 0 n = decide (n = 0) := by decide +kernel

/-- OMFILL, OMREAD and the instructions on a region, by their number in `soloOps`. -/
def soloWord (k slot region : Nat) : ExtWord :=
  { blankExt with d := if k = 1 ∨ k = 3 ∨ k = 4 then ⟨.vec, 40⟩ else ⟨.vec, 0⟩, a := if k = 0 ∨ k = 5 ∨ k = 6 then ⟨.vec, 1⟩ else ⟨.vec, 0⟩
                  b := if k < 2 then ⟨.imm, BitVec.ofNat 8 slot⟩ else ⟨.vec, 0⟩, c := if k < 2 then ⟨.vec, 0⟩ else ⟨.imm, BitVec.ofNat 8 region⟩
                  fmt := if k < 3 then 0 else 6, tok := 2, minw := 5 }
def soloReady (s : State) (x : ExtWord) (k : Nat) (P : Ctx → Solo → Bool) : Bool :=
  match (soloOps anyCtx x)[k]? with
  | some p =>
    let c := ctxAt s p.instr
    (match (soloOps c x)[k]? with | some q => isReady s c q.instr && c.F.gathered && P c q | none => false)
  | none => false
def entryOf (c : Ctx) (x : ExtWord) (p : Solo) : MatrixEntry :=
  match p.place with
  | .ok (ctx, slots, region) => { soloEntry c p.instr x ctx slots region with data := captured c x p.srcs (c.part x) }
  | .error _ => soloEntry c p.instr x 0 [] 0
def placed (x : ExtWord) (c : Ctx) (p : Solo) : Bool := c.part x != 0 && (match p.place with | .ok _ => true | .error _ => false) &&
  decide (c.tagTrap (c.part x).lanes p.srcs = none) && (List.range 64).all (fun l => decide ((c.values x p.srcs l).2 = 0))
theorem witness_matrixEntries_goes : (List.range 7).all (fun k => soloReady engineQuiet (soloWord k 0 0) k (fun c p =>
    placed (soloWord k 0 0) c p && !(engineQuiet.orderWaits (entryOf c (soloWord k 0 0) p)) && (engineQuiet.entryPoison c c.T (entryOf c (soloWord k 0 0) p)).isNone &&
      engineQuiet.contextRoom c.W.core (entryOf c (soloWord k 0 0) p).ctx)) = true := by decide +kernel
theorem witness_matrixEntries_none : (List.range 7).all (fun k => soloReady engineQuiet (offLanes (soloWord k 0 0)) k (fun c _ => c.part (offLanes (soloWord k 0 0)) == 0)) = true := by
  decide +kernel
theorem witness_matrixEntries_faults : (List.range 7).all (fun k => soloReady engineQuiet (soloWord k 2 4) k (fun c p =>
    c.part (soloWord k 2 4) != 0 && (match p.place with | .error _ => true | .ok _ => false))) = true := by decide +kernel
/-- Slot 0 and region 0 are poisoned; an unfinished OMFILL or ACCZ stands before; the context's queue holds eight. -/
def soiled : State := team engineQuiet (fun T => { T with om := [⟨List.range 8, [0, 1], [], [0], []⟩], acc := [⟨[], [0]⟩] })
def behind (region : Bool) (n : Nat) (s : State) : State :=
  let x := if region then soloWord 2 0 0 else soloWord 0 0 0
  let e := soloEntry (ctxAt engineQuiet (.accz x)) (if region then .accz x else .omfill x) x (if region then 0 else 2) (if region then [] else [0]) 0
  { s with mx := { s.mx with entries := (List.range n).map (fun k => (k + 10, e)) }, nextId := 100 }
theorem witness_matrixEntries_poison : ([1, 3, 4]).all (fun k => soloReady soiled (soloWord k 0 0) k (fun c p =>
    placed (soloWord k 0 0) c p && p.clean && !(soiled.orderWaits (entryOf c (soloWord k 0 0) p)) && (soiled.entryPoison c c.T (entryOf c (soloWord k 0 0) p)).isSome)) = true := by
  decide +kernel
theorem witness_matrixEntries_order : ([1, 3, 4]).all (fun k => let s := behind (k != 1) 1 engineQuiet
    soloReady s (soloWord k 0 0) k (fun c p => placed (soloWord k 0 0) c p && p.clean && s.orderWaits (entryOf c (soloWord k 0 0) p))) = true := by decide +kernel
theorem witness_matrixEntries_full : ([2, 5, 6]).all (fun k => [7, 8].all (fun n => let s := behind true n engineQuiet
    soloReady s (soloWord k 0 0) k (fun c p => placed (soloWord k 0 0) c p && !p.clean && s.contextRoom c.W.core 0 == decide (n < 8)))) = true := by decide +kernel

def accstWord : ExtWord := { blankExt with d := ⟨.scal, 6⟩, a := ⟨.scal, 4⟩, b := ⟨.imm, 0⟩, c := ⟨.imm, 0⟩, sub := 9, fmt := 6, tok := 2, minw := 5 }
theorem witness_matrixEntries_accst : ∀ side ∈ [(1 : Nat), 9],
    let x := { accstWord with sub := BitVec.ofNat 4 side }
    let s := frag (engine (at4 0x800)) (fun F => { F with gathered := true })
    (let c := ctxAt s (.accst x)
     isReady s c (.accst x) = true ∧ c.part x ≠ 0 ∧ (match regionOperand c x x.d with | .ok r => r == 0 | .error _ => false) = true ∧ s.accstWalks c x = [] ∧
       (match (c.part x).lanes.mapM (s.accstRow c x) with
        | .ok accs => let e := { soloEntry c (.accst x) x 0 [] 0 with accs := accs }; !s.orderWaits e && (s.entryPoison c c.T e).isNone && s.contextRoom c.W.core 0
        | .error _ => false) = true) ∧
    (let y := offLanes x; isReady s (ctxAt s (.accst y)) (.accst y) = true ∧ (ctxAt s (.accst y)).part y = 0) ∧
    (let u := scal s 6 4; let c := ctxAt u (.accst x)
     isReady u c (.accst x) = true ∧ (match regionOperand c x x.d with | .ok _ => false | .error _ => true) = true) := by decide +kernel

def mmaWord : ExtWord := { blankExt with a := ⟨.imm, 0⟩, b := ⟨.imm, 1⟩, c := ⟨.imm, 0⟩, fmt := 7, tok := 2, minw := 5 }
def mmasWord : ExtWord := { mmaWord with fmt := 9 }
def products : List Instr := [.mma mmaWord, .mmas mmasWord]
def wordOf (i : Instr) : ExtWord := (extWord i).getD blankExt
/-- Nothing of a gang stands at the clasp. -/
def first (s : State) (c : Ctx) : Bool := c.F.gathered && s.resides c.t c.W.core && s.mx.clasps.all (fun e => !joins s c e.2)
def alone (c : Ctx) (x : ExtWord) : Bool := gangOf c.F.gang c.W.idx == [c.W.idx] && c.part x != 0 && c.W.idx < 65536
def opens (s : State) (c : Ctx) (i : Instr) (P : MatrixEntry → Bool) : Bool :=
  match mmaOperands c (wordOf i) with | .ok o => P (soloEntry c i (wordOf i) (contextOf o.2.2) [o.1, o.2.1] o.2.2) | .error _ => false
theorem witness_multiplyFirst_goes : ∀ i ∈ products, let c := ctxAt engineQuiet i
    isReady engineQuiet c i = true ∧ first engineQuiet c = true ∧ engineQuiet.gangFault c = none ∧ alone c (wordOf i) = true ∧ engineQuiet.openClasps c.W.core < 16 ∧
      c.F.save = none ∧ c.T.task.handler ≠ 0 ∧
      opens engineQuiet c i (fun e => !engineQuiet.poisonOpen c e && (engineQuiet.entryPoison c c.T e).isNone && engineQuiet.contextRoom c.W.core e.ctx) = true := by decide +kernel
theorem witness_multiplyFirst_poison : ∀ i ∈ products, let c := ctxAt soiled i
    isReady soiled c i = true ∧ first soiled c = true ∧ alone c (wordOf i) = true ∧
      opens soiled c i (fun e => !soiled.poisonOpen c e && (soiled.entryPoison c c.T e).isSome) = true := by decide +kernel
theorem witness_multiplyFirst_bad : ∀ i ∈ [Instr.mma { mmaWord with b := ⟨.imm, 2⟩ }, .mmas { mmasWord with c := ⟨.imm, 4⟩ }], let c := ctxAt engineQuiet i
    isReady engineQuiet c i = true ∧ first engineQuiet c = true ∧ alone c (wordOf i) = true ∧ (match mmaOperands c (wordOf i) with | .error _ => true | .ok _ => false) = true := by
  decide +kernel
theorem witness_multiplyFirst_idle : ∀ i ∈ [Instr.mma (offLanes mmaWord), .mmas (offLanes mmasWord)], let c := ctxAt engineQuiet i
    isReady engineQuiet c i = true ∧ first engineQuiet c = true ∧ c.part (wordOf i) = 0 ∧ gangOf c.F.gang c.W.idx = [c.W.idx] := by decide +kernel
/-- A gang of this wave and wave 1, which stands beside it or is not there. -/
def ganged (s : State) : State := frag s (fun F => { F with gang := 0xFFFFFFFF00010000 })
def pairWaves : State :=
  let s := ganged engineQuiet
  { s with waves := Tbl.put s.waves 2 { startWave 1 1 0 1 0 1 0 64 8 with live := 3 },
           frags := Tbl.put s.frags 2 { startFrag 2 0 0x100 64 [] plainHeader 2 0 with active := 3, gang := 0xFFFFFFFF00010000, fstate := .meeting, meet := some ⟨.clasp, 0, 0, none, 12, false⟩ }
           nextId := 100 }
theorem witness_multiplyFirst_gang : ∀ i ∈ products,
    (let c := ctxAt (ganged engineQuiet) i
     isReady (ganged engineQuiet) c i = true ∧ first (ganged engineQuiet) c = true ∧ ¬(c.part (wordOf i) = 0) ∧ (ganged engineQuiet).gangFault c = some 1) ∧
    (let c := ctxAt pairWaves i
     isReady pairWaves c i = true ∧ first pairWaves c = true ∧ pairWaves.gangFault c = none ∧ (wordOf i).win = false ∧ 1 < (gangOf c.F.gang c.W.idx).length) := by decide +kernel
theorem witness_multiplyFirst_window : ∀ i ∈ [Instr.mma { mmaWord with win := true }, .mmas { mmasWord with win := true }], let c := ctxAt pairWaves i
    isReady pairWaves c i = true ∧ first pairWaves c = true ∧ pairWaves.gangFault c = none ∧ (wordOf i).win = true ∧ 1 < (gangOf c.F.gang c.W.idx).length := by decide +kernel
theorem witness_multiplyFirst_waits : ∀ i ∈ products, let s := behind true 8 engineQuiet; let c := ctxAt s i
    isReady s c i = true ∧ first s c = true ∧ s.gangFault c = none ∧ alone c (wordOf i) = true ∧ opens s c i (fun e => s.poisonOpen c e || !s.contextRoom c.W.core e.ctx) = true := by
  decide +kernel

/-- Wave 1 stands at the clasp already. -/
def meetsAt (i : Instr) (s : State) : State :=
  let c := ctxAt s i
  { s with mx := { s.mx with clasps := [(50, ⟨0, 1, 0xFFFFFFFF00010000, i, classOf c.F.mode (pclOf i), gangVals c (wordOf i), [(2, 2)], true, true⟩)] } }
def joinsThere (s : State) (c : Ctx) (i : Instr) : Bool :=
  isReady s c i && c.F.gathered && s.resides c.t c.W.core && decide ((s.mx.clasps.find? (fun e => joins s c e.2)).map Prod.fst = some 50) &&
  [(2, 2), (c.w, c.f)].all (fun m => match s.ctxOf m.2 i with | some d => d.w == m.1 && d.t == c.t | none => false)
theorem witness_multiplyJoins : ∀ i ∈ products,
    (let s := meetsAt i pairWaves; let c := ctxAt s i
     joinsThere s c i = true ∧ (gangOf c.F.gang c.W.idx).all (fun j => j == c.W.idx || s.mx.clasps.all (fun e => s.claspHas e.2 j)) = true ∧
       opens s c i (fun e => !s.poisonOpen c e && (s.entryPoison c c.T e).isNone && s.contextRoom c.W.core e.ctx) = true ∧
       [(2, 2), (c.w, c.f)].find? (fun m => s.indexOf m.1 == 0) = some (c.w, c.f)) ∧
    (let s := meetsAt (.mma { mmaWord with tok := 3 }) pairWaves; joinsThere s (ctxAt s i) i = true) := by decide +kernel

/-! ## Witnesses: the radiance cache -/

/-- An instance of one level, with two auxiliary inputs and three outputs. -/
def smallConfig : RcConfig := ⟨1, 4, 16, 1, 3, 2, false, false, 0x3C23D70A, [0, 0, 0], [0x3F800000, 0x3F800000, 0x3F800000], [2], 0, 0x1000⟩
def freshInstance (asid : Nat) : Instance :=
  { cfg := smallConfig, asid := asid, table := 0x10000, gen := 0, img0 := [], img1 := [], bad0 := [], bad1 := [], steps := 0, p1 := 0, p2 := 0
    paused := false, failed := false, dropping := false, queries := 0, samples := 0, dropped := 0, rejected := 0, skipped := 0, loss := 0
    ring := [], epoch := [], switched := [] }
def withInst (i : Instance) (s : State) : State := { s with rc := { s.rc with insts := [(2, i)] } }
def cached : State := withInst (freshInstance 0) quiet
def rcqWord : ExtWord := { blankExt with d := ⟨.vec, 0x28⟩, a := ⟨.vec, 8⟩, x := 2, tok := 3 }
def rctWord : ExtWord := { blankExt with d := ⟨.queue, 3⟩, a := ⟨.vec, 8⟩, b := ⟨.vec, 16⟩, c := ⟨.vec, 20⟩, x := 2, tok := 3 }
def cacheReady (s : State) (c : Ctx) (x : ExtWord) (i : Instance) (sample : Bool) : Bool :=
  c.part x != 0 && !s.acquiring c.w s.nextId (heldLanes c.W c.F) && decide (s.openInst (instOf x) = some i) && i.asid == c.T.asid &&
  (s.recordUses (if sample then .rct x else .rcq x)).all (fun r => c.W.holds r.1) && decide (c.tagTrap (c.part x).lanes (cacheSources x i sample) = none) &&
  decide (modeEnables c.F.mode = 0)
theorem cacheReady_ready {s : State} {c : Ctx} {x : ExtWord} {i : Instance} {sample : Bool} (h : cacheReady s c x i sample = true) : CacheReady s c x i sample := by
  simp only [cacheReady, Bool.and_eq_true, bne_iff_ne, ne_eq, Bool.not_eq_true', decide_eq_true_eq, beq_iff_eq, List.all_eq_true] at h
  exact ⟨h.1.1.1.1.1.1, h.1.1.1.1.1.2, h.1.1.1.1.2, h.1.1.1.2, h.1.1.2, h.1.2, no_fpTrap c _ _ h.2⟩
/-- An acquire of the fragment is outstanding. -/
def acquires (s : State) : State := { s with pend := [(10, owed .none 2 .sync)], nextId := 100 }
/-- The instance's record has v11 read, and the wave does not hold block 0. -/
def wideInst : Instance := { freshInstance 0 with cfg := { smallConfig with naux := 4 } }
def missingBlock : State := wave (withInst wideInst quiet) (fun W => { W with held := 0xFD })
def edgeWord : ExtWord := { rcqWord with a := ⟨.vec, 29⟩, d := ⟨.vec, 8⟩ }

theorem witness_cacheQueries_goes : ∃ c, Ready cached c (.rcq rcqWord) ∧ cacheReady cached c rcqWord (freshInstance 0) false = true ∧
    Tbl.get 0 c.F.gens (instOf rcqWord) ≤ (freshInstance 0).genAt (clusterOf c.W.core) := ready_of (by decide +kernel)
theorem witness_cacheQueries_waits : (∃ c, Ready (frag cached (fun F => { F with gens := [(2, 1)] })) c (.rcq rcqWord) ∧
      cacheReady (frag cached (fun F => { F with gens := [(2, 1)] })) c rcqWord (freshInstance 0) false = true ∧
      (freshInstance 0).genAt (clusterOf c.W.core) < Tbl.get 0 c.F.gens (instOf rcqWord)) ∧
    (∃ c, Ready (acquires cached) c (.rcq rcqWord) ∧ c.part rcqWord ≠ 0 ∧ (acquires cached).acquiring c.w 100 (heldLanes c.W c.F) = true ∧
      ∀ r ∈ (acquires cached).recordUses (.rcq rcqWord), c.W.holds r.1 = true) ∧
    ∃ c, Ready cached c (.rcq (offLanes rcqWord)) ∧ c.part (offLanes rcqWord) = 0 :=
  ⟨ready_of (by decide +kernel), ready_of (by decide +kernel), ready_of (by decide +kernel)⟩
theorem witness_cacheQueries_block : ∃ c, Ready missingBlock c (.rcq edgeWord) ∧
    ((missingBlock.recordUses (.rcq edgeWord)).find? (fun r => !c.W.holds r.1)).isSome = true := ready_of (by decide +kernel)
/-- The operands of RCQ and RCT, with the instance not open, or another address space's. -/
theorem witness_InstanceFault : ∀ s ∈ [quiet, withInst (freshInstance 1) quiet, withInst { freshInstance 0 with dropping := true } quiet],
    (let c := ctxAt s (.rcq rcqWord)
     isReady s c (.rcq rcqWord) = true ∧ c.part rcqWord ≠ 0 ∧ s.acquiring c.w s.nextId (heldLanes c.W c.F) = false ∧ modeEnables c.F.mode = 0 ∧
       (∀ r ∈ s.recordUses (.rcq rcqWord), c.W.holds r.1 = true) ∧ c.tagTrap (c.part rcqWord).lanes (rcSources rcqWord 2 3 false) = none ∧
       (s.openInst 2 = none ∨ (s.openInst 2).map Instance.asid = some 1)) ∧
    (let c := ctxAt s (.rct rctWord)
     isReady s c (.rct rctWord) = true ∧ c.tagTrap (c.part rctWord).lanes (rcSources rctWord 2 3 true) = none) := by decide +kernel

def heldSamples (n : Nat) (s : State) : State := wave s (fun W => { W with queues := { noQueues with q3 := List.replicate n ⟨90, 2, []⟩ } })
theorem witness_cacheSamples : ∀ n ∈ [7, 8], let s := heldSamples n cached; let c := ctxAt s (.rct rctWord)
    isReady s c (.rct rctWord) = true ∧ cacheReady s c rctWord (freshInstance 0) true = true ∧ s.pushHeld c.w = false ∧
      (c.W.queues.q3.filter (fun e => c.T.gate ≤ e.pend)).length = n := by decide +kernel
theorem witness_cacheSamples_other :
    (∃ c, Ready cached c (.rct { rctWord with d := ⟨.queue, 4⟩ }) ∧ ∀ r ∈ cached.recordUses (.rct { rctWord with d := ⟨.queue, 4⟩ }), c.W.holds r.1 = true) ∧
    (∃ c, Ready cached c (.rct (offLanes rctWord)) ∧ c.part (offLanes rctWord) = 0) ∧
    (let s := { cached with pend := [(10, owed .none 2 (.fence 3 0))], nextId := 100 }
     ∃ c, Ready s c (.rct rctWord) ∧ c.part rctWord ≠ 0 ∧ s.pushHeld c.w = true) ∧
    (∃ c, Ready (acquires cached) c (.rct rctWord) ∧ (acquires cached).pushHeld c.w = false ∧ (acquires cached).acquiring c.w 100 (heldLanes c.W c.F) = true) ∧
    ∃ c, Ready missingBlock c (.rct { edgeWord with d := ⟨.queue, 3⟩, b := ⟨.vec, 2⟩, c := ⟨.vec, 4⟩ }) ∧
      ((missingBlock.recordUses (.rct { edgeWord with d := ⟨.queue, 3⟩, b := ⟨.vec, 2⟩, c := ⟨.vec, 4⟩ })).find? (fun r => !c.W.holds r.1)).isSome = true :=
  ⟨ready_of (by decide +kernel), ready_of (by decide +kernel), ready_of (by decide +kernel), ready_of (by decide +kernel), ready_of (by decide +kernel)⟩

def instWord (k : Nat) : ExtWord := { blankExt with d := ⟨.scal, 6⟩, a := if k = 0 then ⟨.scal, 4⟩ else ⟨.vec, 0⟩, x := 2, tok := 3, sub := if 1 ≤ k ∧ k ≤ 3 then BitVec.ofNat 4 k else 0 }
def instReady (s : State) (k : Nat) (P : Ctx → Bool) : Bool :=
  match (instanceOps anyCtx (instWord k))[k]? with
  | some p => isReady s (ctxAt s p.1) p.1 && P (ctxAt s p.1)
  | none => false
theorem witness_instanceOperations : (List.range 6).all (fun k =>
    instReady cached k (fun c => !cached.acquiring c.w cached.nextId (heldLanes c.W c.F) && cached.releaseReady c.w cached.nextId (heldLanes c.W c.F) 4) &&
    instReady (acquires cached) k (fun c => (acquires cached).acquiring c.w 100 (heldLanes c.W c.F)) &&
    instReady (held 1 { cached with nextId := 100 }) k (fun c => !(held 1 { cached with nextId := 100 }).acquiring c.w 100 (heldLanes c.W c.F) &&
      !(held 1 { cached with nextId := 100 }).releaseReady c.w 100 (heldLanes c.W c.F) 4)) = true := by decide +kernel

/-- Operation `op` stands at the optimiser of instance 2. -/
def atOptimiser (op stage : Nat) (s : State) : State :=
  { s with pend := [(10, owed (.scal 6 1) 3 (if op = 4 then .sync else .command))], rc := { s.rc with ops := [(11, ⟨op, 10, 1, 2, 0, 0x10000, 0, 0, stage⟩)] }, nextId := 100 }
theorem witness_instanceAnswers : ∀ op ∈ [1, 2, 3, 4, 5], ∀ s ∈ [quiet, cached, withInst (freshInstance 1) quiet, withInst { freshInstance 0 with failed := true } quiet],
    let t := atOptimiser op 0 s
    (∀ e ∈ t.rc.ops, ¬(e.2.inst = 2 ∧ e.2.op = 1 ∧ e.2.stage = 1)) ∧ (t.headOp 2).map Prod.fst = some 11 ∧ (Tbl.find t.pend 10).map Pend.dst = some (.scal 6 1) ∧
      t.optimiserBusy 2 = false := by decide +kernel
theorem witness_instanceAnswers_drop :
    let s := atOptimiser 1 1 (withInst { freshInstance 0 with dropping := true } quiet)
    let q := { s with pend := s.pend ++ [(12, owed (.vec 40 2) 2 (.query 2 0 []))] }
    (s.rc.ops.find? (fun e => e.2.inst == 2 && e.2.op == 1 && e.2.stage == 1)).map Prod.fst = some 11 ∧ s.headOp 2 = none ∧ (s.inst? 2).isSome = true ∧
      s.querying 2 none = false ∧ q.querying 2 none = true ∧ ∀ e ∈ s.waves, e.2.queues.q3 = [] := by decide +kernel

/-! ## Witnesses: rays, meshes, textures -/

def traceWord : ExtWord := { blankExt with d := ⟨.vec, 40⟩, a := ⟨.vec, 8⟩, b := ⟨.scal, 4⟩, c := ⟨.imm, 1⟩, x := 1, tok := 3 }
def rqWord : ExtWord := { traceWord with d := ⟨.vec, 0⟩, x := 0 }
def stepWord : ExtWord := { blankExt with d := ⟨.pred, 3⟩, tok := 3 }
def aHit : Hit := ⟨0x3F800000, 0, 0, 1, 2, 3, 4, 5, true, 0x1000⟩
/-- A ray of lane 0 of wave 1. -/
def aRay (inline : Bool) (stage : RayStage) (hit cand : Option Hit) (failed : Bool) : RayJob :=
  { inline := inline, wave := 1, lane := 0, pend := 10, ord := 10, own := 3, grid := 0, asid := 0, table := 0x10000, core := 0, desc := 0x1000, info := none
    ray := ⟨[0, 0, 0], 0, [0x3F800000, 0, 0], 0x7F800000⟩, ctl := 1, todo := [], seen := [], hit := hit, cand := cand, decision := 0, payload := [], ran := false
    failed := failed, stage := stage }
def withRay (j : RayJob) (s : State) : State := { s with gfx := { s.gfx with rays := [(20, j)] }, nextId := 100 }
/-- A query instruction of lane 0 is outstanding. -/
def queryOut : State := { withRay (aRay true .walking none none false) quiet with pend := [(10, owed .none 4 .command)] }
def asking : State := withRay (aRay true .idle none (some aHit) false) quiet
theorem witness_raysStart : ∀ p ∈ [(Instr.trace, traceWord), (Instr.rqinit, rqWord)],
    (let i := p.1 (offLanes p.2); isReady quiet (ctxAt quiet i) i = true ∧ (ctxAt quiet i).part (offLanes p.2) = 0) ∧
    (let i := p.1 p.2; let c := ctxAt (acquires quiet) i
     isReady (acquires quiet) c i = true ∧ c.part p.2 ≠ 0 ∧ (acquires quiet).acquiring c.w 100 (heldLanes c.W c.F) = true) ∧
    (let i := p.1 p.2; let c := ctxAt quiet i
     isReady quiet c i = true ∧ c.part p.2 ≠ 0 ∧ quiet.acquiring c.w quiet.nextId (heldLanes c.W c.F) = false ∧ quiet.queryBusy c.w (c.part p.2) = false ∧
       c.tagTrap (c.part p.2).lanes (raySources p.2) = none) ∧
    (let s := wave quiet (fun W => { W with vregs := [(8, ⟨0, 1⟩)] }); let i := p.1 p.2; let c := ctxAt s i
     isReady s c i = true ∧ (c.tagTrap (c.part p.2).lanes (raySources p.2)).isSome = true) := by decide +kernel
theorem witness_raysStart_query : ∃ c, Ready queryOut c (.rqinit rqWord) ∧ c.part rqWord ≠ 0 ∧ queryOut.queryBusy c.w (c.part rqWord) = true := ready_of (by decide +kernel)
theorem witness_raysStart_shader : let s := team quiet (fun T => { T with shader := true }); let c := ctxAt s (.trace traceWord)
    s.cur = some c.f ∧ s.ctxOf c.f (.trace traceWord) = some c ∧ firstOffence (.trace traceWord) = none ∧ c.T.shader = true := by decide +kernel

theorem witness_queriesStep :
    (∃ c, Ready quiet c (.rqstep (offLanes stepWord)) ∧ c.part (offLanes stepWord) = 0) ∧
    (∃ c, Ready (acquires quiet) c (.rqstep stepWord) ∧ c.part stepWord ≠ 0 ∧ (acquires quiet).acquiring c.w 100 (heldLanes c.W c.F) = true) ∧
    (∃ c, Ready queryOut c (.rqstep stepWord) ∧ queryOut.queryBusy c.w (c.part stepWord) = true) ∧
    (∃ c, Ready quiet c (.rqstep stepWord) ∧ c.part stepWord ≠ 0 ∧ Mask.ofList ((c.part stepWord).lanes.filter (openQuery quiet c)) = 0) ∧
    (∃ c, Ready asking c (.rqstep stepWord) ∧ asking.acquiring c.w 100 (heldLanes c.W c.F) = false ∧ asking.queryBusy c.w (c.part stepWord) = false ∧
      Mask.ofList ((c.part stepWord).lanes.filter (openQuery asking c)) ≠ 0) :=
  ⟨ready_of (by decide +kernel), ready_of (by decide +kernel), ready_of (by decide +kernel), ready_of (by decide +kernel), ready_of (by decide +kernel)⟩

def getWord (n : Nat) (cand : BitVec 4) : ExtWord := { blankExt with d := ⟨.vec, 6⟩, x := BitVec.ofNat 4 n, sub := cand, tok := 3 }
def shading (k : ShaderKind) (hit cand : Option Hit) : State := withRay (aRay false (.shading k 1 0) hit cand false) quiet
theorem witness_hitAttributes : ∀ n ∈ [0, 4, 8], ∀ u ∈ [(0 : BitVec 4), 1],
    let x := getWord n u
    ((ctxAt queryOut (.hitget x)).part x ≠ 0 ∧ isReady queryOut (ctxAt queryOut (.hitget x)) (.hitget x) = true ∧ queryOut.queryBusy 1 ((ctxAt queryOut (.hitget x)).part x) = true) ∧
    (∀ s ∈ [quiet, asking, withRay (aRay true .finished (some aHit) none true) quiet, shading .closest (some aHit) none, shading .anyHit none (some aHit), shading .miss none none],
      let c := ctxAt s (.hitget x)
      isReady s c (.hitget x) = true ∧ (c.part x).has 0 = true ∧ s.queryBusy c.w (c.part x) = false) := by decide +kernel

theorem apart_of_one {s : State} {id : Nat} {j : RayJob} (h : s.gfx.rays = [(id, j)]) (n : j.inline = true → ∀ k w l, j.stage ≠ .shading k w l) : RaysApart s := by
  refine ⟨by simp [h], fun e he => ?_⟩
  rw [h, List.mem_singleton] at he
  subst he; exact n
def decWord : ExtWord := { blankExt with tok := 3 }
theorem witness_hitDecisions_shader : RaysApart (shading .anyHit none (some aHit)) ∧
    ∀ i ∈ [Instr.hitacc decWord, .hitacc { decWord with mod := 1 }, .hitign decWord], let s := shading .anyHit none (some aHit); let c := ctxAt s i
      isReady s c i = true ∧ (c.part decWord).has 0 = true ∧ s.queryBusy c.w (c.part decWord) = false ∧ (s.shaded? c.w 0).map Prod.fst = some 20 :=
  ⟨apart_of_one (id := 20) (j := aRay false (.shading .anyHit 1 0) none (some aHit) false) (by decide +kernel) (by simp [aRay]), by decide +kernel⟩
theorem witness_hitDecisions_query : RaysApart asking ∧ ∀ i ∈ [Instr.hitacc decWord, .hitign decWord], let c := ctxAt asking i
      isReady asking c i = true ∧ asking.queryBusy c.w (c.part decWord) = false ∧ (asking.query? c.w 0).map (fun e => e.2.cand) = some (some aHit) :=
  ⟨apart_of_one (id := 20) (j := aRay true .idle none (some aHit) false) (by decide +kernel) (by simp [aRay]), by decide +kernel⟩
theorem witness_hitDecisions_waits : ∀ i ∈ [Instr.hitacc decWord, .hitign decWord], isReady queryOut (ctxAt queryOut i) i = true ∧
    queryOut.queryBusy 1 ((ctxAt queryOut i).part decWord) = true := by decide +kernel

def aPass (slot : Nat) : Pass := ⟨0, slot, 10, 1, 0, 0x10000, 0x1000, 2, 0x2000, 8, 8, 64, 1, 0, 0, [], 0⟩
def withPass (slot : Nat) (s : State) : State := { s with gfx := { s.gfx with passes := [(20, aPass slot)] }, nextId := 100 }
def refitWord : ExtWord := { blankExt with d := ⟨.scal, 6⟩, a := ⟨.scal, 4⟩, tok := 3 }
def vbldWord (slot : BitVec 4) : ExtWord := { refitWord with x := slot }
def emitWord (slot : BitVec 4) : ExtWord := { blankExt with a := ⟨.vec, 8⟩, c := ⟨.vec, 14⟩, x := slot, tok := 3 }
def doneWord (slot : BitVec 4) : ExtWord := { blankExt with x := slot, tok := 3 }
theorem witness_meshesAndRefits : (∃ c, Ready quiet c (.refit refitWord) ∧ quiet.acquiring c.w quiet.nextId (heldLanes c.W c.F) = false) ∧
    ∀ slot < 8, ∀ s ∈ [quiet, withPass slot quiet],
      let v := BitVec.ofNat 4 slot
      (∀ i ∈ [Instr.vbld (vbldWord v), .mshemit (emitWord v), .mshdone (doneWord v)], isReady s (ctxAt s i) i = true ∧
        s.acquiring 1 s.nextId (heldLanes (ctxAt s i).W (ctxAt s i).F) = false) ∧
      (let c := ctxAt s (.mshemit (emitWord v)); c.part (emitWord v) ≠ 0 ∧ c.tagTrap (c.part (emitWord v)).lanes (meshSources (emitWord v)) = none ∧
        ∀ l < 64, (c.values (emitWord v) (meshSources (emitWord v)) l).2 = 0) ∧
      (s.passAt 0 slot).map Prod.fst = (if s.gfx.passes = [] then none else some 20) := ⟨ready_of (by decide +kernel), by decide +kernel⟩
theorem witness_meshesAndRefits_none : ∃ c, Ready quiet c (.mshemit (offLanes (emitWord 7))) ∧ c.part (offLanes (emitWord 7)) = 0 := ready_of (by decide +kernel)

/-- A texture of one texel, sampled by lane 0 alone. -/
def texWord : ExtWord := { blankExt with d := ⟨.vec, 6⟩, a := ⟨.vec, 8⟩, b := ⟨.scal, 4⟩, c := ⟨.imm, 0⟩, g := 3, tok := 3 }
def texfbWord : ExtWord := { texWord with d := ⟨.vec, 0⟩ }
def textured : State :=
  oneLane { at4 0x1000 with mem := writeBytes quiet.mem 0x41000 (natBytes 8 0 ++ [1, 0, 1, 0, 1, 0] ++ List.replicate 50 0) }
def sampled (s : State) (c : Ctx) (x : ExtWord) : Bool :=
  match s.coreRead c (c.F.scalar 4) 64 with
  | .ok s1 bs false =>
    (match parseTex bs with
     | some t => t.fbmap == 0 && (match s1.sampleLane c t (x.x.getLsbD 0) (x.x.getLsbD 1) (texLevel c x t 0) 0 0 with | .ok _ r => r.dead.isNone | _ => false)
     | none => false)
  | _ => false
theorem witness_textures : ∀ p ∈ [(Instr.tex, texWord), (Instr.texfb, texfbWord)],
    (let i := p.1 (offLanes p.2); isReady textured (ctxAt textured i) i = true ∧ (ctxAt textured i).part (offLanes p.2) = 0) ∧
    (let c := ctxAt textured (p.1 p.2)
     isReady textured c (p.1 p.2) = true ∧ c.part p.2 = Mask.one 0 ∧ textured.acquiring c.w textured.nextId (heldLanes c.W c.F) = false ∧
       c.tagTrap [0] (texSources p.2) = none ∧ (c.values p.2 (texSources p.2) 0).2 = 0 ∧ sampled textured c p.2 = true) := by decide +kernel

/-! ## Witnesses: launching, flags, drains, errors -/

def launchWord : ExtWord := { blankExt with d := ⟨.scal, 6⟩, a := ⟨.scal, 4⟩, tok := 2 }
/-- The node at VA 0x800 has PRED n. -/
def nodeState (n : Nat) : State := put32 (at4 0x800) 0x40804 [n]
/-- An accepted release to a line at DEVICE scope whose invalidations are still out. -/
def releasing (pa : Nat) (s : State) : State :=
  { s with path := { s.path with writes := [(10, ⟨.agent, 0, 0, .loc, pa / 128, [], [], .st, [], true, 4, true, [1], [], false⟩)] } }
/-- Something earlier of the wave is outstanding. -/
def waitsBehind (s : State) : State := held 1 { s with nextId := 100 }
def reachedPa (s : State) (c : Ctx) (kind : Acc) : Option Nat :=
  match c.reach s [0] (fun _ => c.F.scalar 4) 4 kind .launch true with | .ok [(0, v, ps)] => if v = c.F.scalar 4 then (ps.map Piece.addr).head? else none | _ => none
theorem witness_launchCountsDown : ∀ n ∈ [0, 1, 2],
    let i := Instr.launch launchWord
    (let s := nodeState n; let c := ctxAt s i; let s1 := s.fillAccess (.core c.W.core) c.T.asid c.T.table 0x800 4
     isReady s c i = true ∧ reachedPa s c .write = some 0x40800 ∧ s.nodeFree 0x40800 = true ∧ s1.releaseReady c.w s1.nextId (heldLanes c.W c.F) 4 = true ∧ s.rel.rot = [] ∧
       s.memPoisoned 0x40800 128 = false ∧ nodeAddr 0x40800 = true ∧ s.path.waits = [] ∧ heldLanes c.W c.F ≠ 0 ∧ s.memNat 0x40804 4 = n) ∧
    (let s := releasing 0x40800 (nodeState n); let c := ctxAt s i; isReady s c i = true ∧ reachedPa s c .write = some 0x40800 ∧ s.nodeFree 0x40800 = false) ∧
    (let s := waitsBehind (nodeState n); let c := ctxAt s i; let s1 := s.fillAccess (.core c.W.core) c.T.asid c.T.table 0x800 4
     isReady s c i = true ∧ reachedPa s c .write = some 0x40800 ∧ s.nodeFree 0x40800 = true ∧ s1.releaseReady c.w s1.nextId (heldLanes c.W c.F) 4 = false) := by decide +kernel

/-- A flag at VA 0x800 of a tile of one row of 64 bytes at VA 0x1000. -/
def flagBytes (low : Nat) : List Byte := natBytes 8 low ++ natBytes 8 0x1000 ++ natBytes 4 64 ++ natBytes 2 1 ++ natBytes 2 0 ++ natBytes 8 0
def flagged (low : Nat) : State := { at4 0x800 with mem := writeBytes quiet.mem 0x40800 (flagBytes low) }
def flagQuiet (s : State) (c : Ctx) : Bool :=
  !s.homeBusy c.W 0x40800 32 && !s.memPoisoned 0x40800 32 && !s.acquiring c.w s.nextId (heldLanes c.W c.F)
def flagWord (clr : BitVec 4) : ExtWord := { blankExt with a := ⟨.scal, 4⟩, sub := clr, tok := 2 }
/-- A store of the wave to the tile is queued. -/
def unready : State := wave { flagged 0 with nextId := 100 } (fun W => { W with storeq := [⟨[90], 0, 0, 1, .st, false, 0, false, 0, [⟨0, 0x1000, [⟨.loc, 0x41000, 8, 0⟩], List.replicate 8 0, 0, 0⟩], false⟩] })
def ofTile (s : State) (c : Ctx) : List (Nat × Nat) := s.tileRanges (.core c.W.core) c.T.asid c.T.table (parseFlag (readBytes s.mem 0x40800 32))
def flagWait : ExtWord := { flagWord 2 with tok := 0 }
theorem witness_flags :
    (∀ low ∈ [0, 1], let s := flagged low; let c := ctxAt s (.waitF flagWait)
      isReady s c (.waitF flagWait) = true ∧ flagQuiet s c = true ∧ reachedPa s c .read = some 0x40800 ∧ (parseFlag (readBytes s.mem 0x40800 32)).set = decide (low = 1)) ∧
    (∀ clr ∈ [(0 : Nat), 1], ∀ low ∈ [0, 1, 2], let i := Instr.tready (flagWord (BitVec.ofNat 4 clr)); let s := flagged low; let c := ctxAt s i
      isReady s c i = true ∧ flagQuiet s c = true ∧ reachedPa s c .write = some 0x40800 ∧ (parseFlag (readBytes s.mem 0x40800 32)).ok = decide (low < 2) ∧
        s.rel.rot = [] ∧ s.path.waits = [] ∧ s.tileReady c.w s.nextId (ofTile s c) = true) ∧
    (let i := Instr.tready (flagWord 0); let c := ctxAt unready i
     isReady unready c i = true ∧ flagQuiet unready c = true ∧ reachedPa unready c .write = some 0x40800 ∧ (parseFlag (readBytes unready.mem 0x40800 32)).ok = true ∧
       unready.tileReady c.w unready.nextId (ofTile unready c) = false) := by decide +kernel

def drainWord (b : Operand) : ExtWord := { blankExt with a := ⟨.scal, 4⟩, b := b, tok := 2 }
theorem witness_drains : ∀ b ∈ [(⟨.imm, 3⟩ : Operand), ⟨.scal, 5⟩],
    (let s := at4 0x1000; let c := ctxAt s (.drain (drainWord b)); isReady s c (.drain (drainWord b)) = true ∧ s.drainDest (c.F.scalar 4) = none) ∧
    (∀ n ∈ [0, 2 ^ 31 - 1, 2 ^ 31], ∀ dest ∈ [0x10007, 0xF0803], let s := scal (at4 (BitVec.ofNat 64 dest)) 5 (BitVec.ofNat 64 n); let c := ctxAt s (.drain (drainWord b))
      isReady s c (.drain (drainWord b)) = true ∧ (s.drainDest (c.F.scalar 4)).isSome = true ∧ s.releaseReady c.w s.nextId (heldLanes c.W c.F) 4 = true ∧ s.sched.joins = []) := by
  decide +kernel

/-- The ring holds one record; the next sequence number is 5, and that of the record is 4. -/
def recorded (off : Bool) (a : Word) : State :=
  { scal (at4 a) 5 4 with rel := { quiet.rel with ring := [⟨1, 2, 3, 4, 5, 6, 7, 8, 4⟩], seq := 5, echkOff := off } }
def echkWord : ExtWord := { blankExt with d := ⟨.scal, 6⟩, a := ⟨.scal, 4⟩, b := ⟨.scal, 5⟩, sub := 1 }
def statusOf (s : State) (c : Ctx) : Nat := match s.record ((c.F.scalar 5).extractLsb' 0 32) with | .ok _ => 0 | .error n => n
theorem witness_errors :
    (∃ c, Ready (recorded false 0) c (.echk { blankExt with d := ⟨.scal, 6⟩ }) ∧ (recorded false 0).acquiring c.w (recorded false 0).nextId (heldLanes c.W c.F) = false) ∧
    (∀ off ∈ [false, true], ∀ a ∈ [0, 0x3FC0], ∀ n ∈ [(4, 0), (5, 2), (3, 1)], let s := scal (recorded off (BitVec.ofNat 64 a)) 5 (BitVec.ofNat 64 n.1); let c := ctxAt s (.echk echkWord)
      isReady s c (.echk echkWord) = true ∧ s.acquiring c.w s.nextId (heldLanes c.W c.F) = false ∧ rangeFault c c.T (c.F.scalar 4) 64 = none ∧
        s.scratchBusy c.w c.W a 64 = false ∧ s.rel.echkOff = off ∧ statusOf s c = n.2) ∧
    (∃ c, Ready (recorded false 8) c (.echk echkWord) ∧ (c.F.scalar 4).toNat % 16 ≠ 0) ∧
    ∀ x ∈ [{ blankExt with sub := 1 }, { blankExt with a := ⟨.scal, 4⟩, b := ⟨.scal, 5⟩ }], isReady quiet (ctxAt quiet (.iclr x)) (.iclr x) = true ∧
      quiet.acquiring 1 quiet.nextId (heldLanes (ctxAt quiet (.iclr x)).W (ctxAt quiet (.iclr x)).F) = false :=
  ⟨ready_of (by decide +kernel), by decide +kernel, ready_of (by decide +kernel), by decide +kernel⟩

/-! ## Witnesses: forced fuse, runs, meetings -/

def electWord (win : Bool) : ExtWord := { blankExt with d := ⟨.pred, 3⟩, minw := 5, win := win }
theorem witness_ForcedFuse : (∃ c, Ready quiet c (.elect (electWord false)) ∧ (quiet.frags.map Prod.fst).Nodup ∧ quiet.fragsOf c.w = [(c.f, c.F)] ∧ c.F.active ≠ 0 ∧
      c.F.save = none ∧ c.F.gathered = false) :=
  ready_of (by decide +kernel)

/-! ## Witnesses: forced fuse, runs, meetings -/

/-- Fragment 1 waits in a meeting. -/
def meeting (k : MeetKind) (tmo counted : Nat) (s : State) : State :=
  frag s (fun F => { F with fstate := .meeting, meet := some ⟨k, tmo, counted, none, 12, false⟩ })
def soleFrag (s : State) (c : Ctx) : Bool := decide (s.fragsOf c.w = [(c.f, c.F)])
theorem witness_ForcedFuse_alone : ∃ c, Ready quiet c (.elect { blankExt with d := ⟨.pred, 3⟩, minw := 5 }) ∧ (quiet.frags.map Prod.fst).Nodup ∧ soleFrag quiet c = true ∧
    c.F.active ≠ 0 ∧ c.F.save = none ∧ c.F.gathered = false := ready_of (by decide +kernel)
theorem witness_ForcedFuse_waits : ∀ win ∈ [false, true], ∀ i ∈ [Instr.elect { blankExt with d := ⟨.pred, 3⟩, minw := 5, win := win }],
    let c := ctxAt pair i
    isReady pair c i = true ∧ (pair.frags.map Prod.fst).Nodup ∧ c.F.save = none ∧ c.F.gathered = false ∧ c.F.lateAt c.F.pc = false ∧
      (pair.frags.filter (fun e => e.1 != c.f && e.2.wave == c.w && e.2.fstate != .meeting && heldLanes c.W e.2 &&& segmentLanes 64 c.F.active != 0 && !e.2.lateAt c.F.pc)).length = 1 := by
  decide +kernel

def resting (s : State) : State := frag s (fun F => { F with fstate := .ready })
def runReady (s : State) (c : Ctx) (clock able : Bool) : Bool :=
  decide (s.inQuadrant 0 0 = [(c.f, c.F)]) && decide (s.ctxOf c.f .instructionFetch = some c) && c.F.fstate == .ready && s.issues c && s.startClock 0 == clock &&
    s.eligible c == able
def plainNext (s : State) (c : Ctx) : Bool := match s.nextInstr c with | some (.racq _) => false | some (.omclaim _) => false | _ => true
/-- Token 2 is outstanding, with an acquire of it marked, and the fragment awaits some tokens. -/
def awaits (m : BitVec 16) : State := frag (resting (busy .none 1)) (fun F => { F with await := m, marks := 0x8 })
def racqBytes : List Byte := (encode (.racq (countWord 0x20))).getD []
def wantsBlocks : State := team (wave (resting (codeState racqBytes)) (fun W => { W with held := 0x1F })) (fun T => { T with quotas := [5, 0, 0, 0] })
theorem witness_runsStart :
    (∀ s ∈ [awaits 0, awaits 8], let c := ctxAt s .instructionFetch; runReady s c true true = true ∧ plainNext s c = true) ∧
    (let s := { awaits 0 with mgmt := { quiet.mgmt with level := 8 } }; runReady s (ctxAt s .instructionFetch) false true = true) ∧
    (let c := ctxAt (awaits 4) .instructionFetch; runReady (awaits 4) c true false = true ∧ plainNext (awaits 4) c = true) ∧
    (let c := ctxAt wantsBlocks .instructionFetch; runReady wantsBlocks c true false = true ∧ wantsBlocks.atRun c = true ∧
      wantsBlocks.nextInstr c = some (.racq (countWord 0x20))) := by decide +kernel
theorem witness_runsStart_fetch : quiet.rel.rot = [] ∧ (quiet.frags.find? (fun e => e.2.fstate == .running)).map Prod.fst = some 1 ∧
    (match quiet.fetchFor 1 with | .go _ _ => true | .stop _ => false) = true := by decide +kernel

theorem witness_meetingsTimeOut : ∀ k ∈ [MeetKind.fuse, .rcv 3], ∀ n ∈ [1279, 1280], let s := meeting k 0 n pair
    (s.wave? 1).isSome = true ∧ s.waveResides 1 = true ∧ s.meetKinds 1 = [k] ∧ (primaryOf (s.waiting 1 k)).map Prod.fst = some 1 ∧ (s.frags.map Prod.fst).Nodup ∧
      (s.waiting 1 k).all (fun e => e.2.meet == some ⟨k, 0, n, none, 12, false⟩) = true := by decide +kernel
theorem witness_meetingsTimeOut_window : ∀ n ∈ [1279, 1280], let k := MeetKind.forced 0x100 32 true; let s := meeting k 0 n pair
    (s.frags.map Prod.fst).Nodup ∧ s.waveResides 1 = true ∧ (s.waiting 1 k).map Prod.fst = [1] ∧ (s.waiting 1 k).all (fun e => e.2.active != 0 && e.2.wave == 1) = true ∧
      (s.frag? 1).map Frag.meet = some (some ⟨k, 0, n, none, 12, false⟩) := by decide +kernel
def stepped : State := { quiet with debug := [(1, { noDebug with stepping := some ⟨false, 1, [], 0, false, 0, false⟩ })] }
theorem witness_meetingsTimeOut_step : stepped.turnOver ⟨false, 1, [], 0, false, 0, false⟩ = false ∧ (stepped.frag? 1).isSome = true := by decide +kernel
theorem witness_watchdogReports : ∀ k ∈ [MeetKind.rcv 3, .fuse, .forced 0x100 32 false, .clasp], ∀ n ∈ [20 * 2 ^ 26, 20 * (2 ^ 26 + 1)],
    let s := meeting k 15 n quiet
    let c := ctxAt s .instructionFetch
    soleFrag s c = true ∧ s.ctxOf c.f .instructionFetch = some c ∧ (c.F.meet.bind Meet.watched).isSome = true ∧ c.F.fstate = .meeting ∧ s.dogOf c.t = 2 ^ 26 := by decide +kernel

/-! ## Witnesses: the memory system on its own -/

/-- A store of 8 bytes, queued in wave 1 with token 2. -/
def queuedStore (region : Region) (pa : Nat) : StoreEntry :=
  ⟨[90], 0x100, 90, 3, .st, region == .scratch, 0, false, 0, [⟨0, 0x200, [⟨region, pa, 8, 0⟩], List.replicate 8 7, 0, 0⟩], false⟩
def storing (region : Region) (pa : Nat) : State :=
  wave { quiet with pend := [(90, owed .none 2 (.store 0 false))], nextId := 100 } (fun W => { W with storeq := [queuedStore region pa] })
/-- An earlier load of the same bytes is outstanding. -/
def behindLoad (region : Region) (pa : Nat) (s : State) : State :=
  { s with pend := Tbl.put s.pend 20 { owed (.vec 9 1) 3 (.load (region == .scratch) false false 8 false 0 0 0 [⟨0, 0x200, [⟨region, pa, 8, 0⟩], [], 0, 0⟩] [] []) with ord := 20, own := 3 } }
theorem witness_storesReachMemory_drain : ∀ p ∈ [(Region.scratch, 0x200), (.loc, 0x40200)],
    let s := storing p.1 p.2
    let u := behindLoad p.1 p.2 s
    (s.wave? 1).map (fun W => (W.storeq, W.admits, s.drainReady 1 W (queuedStore p.1 p.2))) = some ([queuedStore p.1 p.2], [], true) ∧
      (u.wave? 1).map (fun W => u.drainReady 1 W (queuedStore p.1 p.2)) = some false ∧ (s.team? 1).map (fun T => s.prof.grids.contains T.grid) = some false ∧
      (Tbl.find s.pend 90).map Pend.kind = some (.store 0 false) := by decide +kernel
/-- A write of 8 bytes is on its way to the home of line 0x804; dies 1 and 2 hold copies of it. -/
def onWay (accepted : Bool) (invals acks : List Nat) : WriteRec :=
  ⟨.wave 1 90, 0, 0, .loc, 0x804, (List.range 8).map (fun i => (0x40200 + i, 7)), [], .st, [], false, 0, accepted, invals, acks, false⟩
def writing (r : WriteRec) (sharers : List Nat) : State :=
  { quiet with path := { quiet.path with writes := [(90, r)], l2 := [(0x804, ⟨sharers, [], []⟩)] }, nextId := 100 }
theorem witness_storesReachMemory_accept : ∀ sharers ∈ [[], [0], [1, 2]], let r := onWay false [] []; let s := writing r sharers
    Tbl.find s.path.writes 90 = some r ∧ s.rel.rot = [] ∧ s.frontWrite 90 r = true ∧ s.path.waits = [] ∧ r.op = .st := by decide +kernel
theorem witness_storesReachMemory_order : let r := onWay false [] []
    let s := { quiet with path := { quiet.path with writes := [(80, r), (90, r)] }, nextId := 100 }
    Tbl.find s.path.writes 90 = some r ∧ s.frontWrite 90 r = false := by decide +kernel
theorem witness_storesReachMemory_acks : ∀ p ∈ [([1, 2], []), ([2], [1]), ([], [1, 2])], let r := onWay true p.1 p.2; let s := writing r p.1
    Tbl.find s.path.writes 90 = some r ∧ s.path.waits = [] ∧ s.rel.rot = [] := by decide +kernel

/-- A load of two lanes from the scratchpad, whose data have not returned. -/
def twoLaneAccs : List LaneAcc := [⟨0, 0x200, [⟨.scratch, 0x200, 8, 0⟩], [], 0, 0⟩, ⟨1, 0x208, [⟨.scratch, 0x208, 8, 0⟩], [], 0, 0⟩]
def loading (ord : Nat) : Pend := { owed (.vec 9 1) 2 (.load true false false 8 false 1 0 0 twoLaneAccs [] []) with lanes := 3, own := 3, ord := ord }
theorem witness_resultsReturn_load : ∀ waits ∈ [false, true],
    let s := { quiet with pend := [(20, { loading 20 with lanes := if waits then 3 else 0 }), (90, loading 90)], nextId := 100 }
    let u := { quiet with pend := if waits then s.pend else [(90, loading 90)], nextId := 100 }
    Tbl.find u.pend 90 = some (loading 90) ∧ u.loadWaits (loading 90) = waits ∧ (u.wave? 1).map (fun W => W.storeq) = some [] ∧ (u.team? 1).map (fun T => T.spoison) = some [] ∧
      u.path.remote = [] ∧ (twoLaneAccs.map LaneAcc.lane).Nodup ∧ ∀ l < 64, ((loading 90).lanes.has l = true ↔ l ∈ twoLaneAccs.map LaneAcc.lane) := by decide +kernel
/-- An addition of 5 at 0x40200 that returns the old value is at its home. -/
def adding : WriteRec :=
  ⟨.wave 1 90, 0, 0, .loc, 0x804, [], [], .rmw 0 1 false false true false 8, [⟨0, 0x200, [⟨.loc, 0x40200, 8, 0⟩], [], 5, 0⟩], false, 0, false, [], [], false⟩
def atHome : State := { writing adding [] with pend := [(90, owed (.vec 9 1) 2 (.atom 0 0 1 false [⟨0, 0x200, [⟨.loc, 0x40200, 8, 0⟩], [], 5, 0⟩] [] 0))] }
theorem witness_resultsReturn_atom :
    Tbl.find atHome.path.writes 90 = some adding ∧ atHome.frontWrite 90 adding = true ∧ atHome.homeHolds 0x804 = false ∧ atHome.rel.rot = [] ∧
      adding.steps.map LaneAcc.place = [0x40200] ∧ atHome.poison = [] ∧ (∀ e ∈ atHome.path.writes, e.2.merges = true → e.1 = 90) ∧ atHome.path.waits = [] ∧
      (Tbl.find atHome.pend 90).map Pend.kind = some (.atom 0 0 1 false [⟨0, 0x200, [⟨.loc, 0x40200, 8, 0⟩], [], 5, 0⟩] [] 0) := by decide +kernel
def answered : State := { quiet with pend := [(90, owed (.vec 9 1) 2 (.atom 0 0 1 false [⟨0, 0x200, [⟨.loc, 0x40200, 8, 0⟩], [], 5, 0⟩] [(0, 12)] 0))], nextId := 100 }
theorem witness_resultsReturn_response : (Tbl.find answered.pend 90).map Pend.dst = some (.vec 9 1) ∧ (answered.wave? 1).isSome = true ∧ answered.path.remote = [] ∧
    (Tbl.find answered.pend 90).map (fun p => (p.lanes.lanes, p.lanes.has 0)) = some ([0], true) := by decide +kernel

theorem witness_cachesMove_detach :
    let s := { quiet with path := { quiet.path with rdc := [(1, [(0x804, ⟨none, []⟩), (0x805, ⟨some 0, []⟩)])], l2 := [(0x804, ⟨[1], [0x2010], [0x2010]⟩)], detach := [(1, 0x804)] } }
    s.rel.rot = [] ∧ (1, 0x804) ∈ s.path.detach ∧ (2, 0x804) ∉ s.path.detach ∧ (s.rdcLine 1 0x805).map RdcLine.detached = some (some 0) ∧
      (s.rdcLine 1 0x804).map RdcLine.detached = some none := by decide +kernel
theorem witness_cachesMove_walk : (walking 2 quiet).path.walkq.find? (fun q => q.die == 0) = some ⟨0, 1, 7, 0x10000, 0, none, 0, 0⟩ ∧ (walking 2 quiet).prof.rings = [] ∧
    (walking 2 quiet).rel.rot = [] := by decide +kernel
def unlisted : State := { put32 quiet 0x401F8 [7] with path := { quiet.path with waits := [(50, { waiter7 30 false with listed := false })] }, nextId := 100 }
theorem witness_cachesMove_poll : ∀ v ∈ [6, 7], let s := put32 unlisted 0x401F8 [v]
    (Tbl.find s.path.waits 50).map (fun w => (w.listed, w.done, s.memNat w.pa (if w.wide then 8 else 4), w.value.toNat, s.tableRoom w.die)) = some (false, false, v, 7, true) ∧
      s.rel.rot = [] ∧ s.memPoisoned 0x401F8 4 = false ∧ s.homeHolds (0x401F8 / 128) = false := by decide +kernel

/-- Requests to peer 3: a read of an instruction, a write of a wave's store, a write of a unit, a unit's read. -/
def request (pend write : Option Nat) (op : PeerOp) (tries : Nat) : RemoteReq := ⟨pend, write, 0, 0x10000, .peer 3, 0, op, false, tries, 0, true, none⟩
def remoteKinds : List (Option Nat × Option Nat × PeerOp) := [(some 10, none, .read 32), (none, some 90, .write [(0, 7)]), (none, some 91, .write [(0, 7)]), (none, none, .read 32)]
def remotely (q : RemoteReq) : State :=
  { quiet with path := { quiet.path with remote := [(50, q)], writes := [(90, onWay false [] []), (91, { onWay false [] [] with source := .op 60 })] }, nextId := 100 }
theorem witness_remoteRequests : ∀ p ∈ remoteKinds, ∀ tries ∈ [1, 3, 4], let q := request p.1 p.2.1 p.2.2 tries; let s := remotely q
    s.path.remote.find? (fun e => BitVec.ofNat 32 e.1 == 50 && e.2.result.isNone) = some (50, q) ∧ Tbl.find s.path.remote 50 = some q ∧ 50 < s.nextId ∧ (s.wave? 1).isSome = true ∧
      (Tbl.find s.path.writes 90).map WriteRec.source = some (.wave 1 90) ∧ (Tbl.find s.path.writes 91).map WriteRec.source = some (.op 60) := by decide +kernel
def peerAsks (op : PeerOp) (retry : Bool) (epoch : Nat) : PeerRequest := ⟨3, 8, retry, epoch, 0x40200, op, false⟩
def served : State := { quiet with ready := true, path := { quiet.path with cached := [⟨3, 9, 0, [1], false⟩] } }
theorem witness_remoteRequests_inbound : served.ready = true ∧ served.mgmt.due = [] ∧ served.rel.rot = [] ∧ served.path.waits = [] ∧ served.links.epoch = 0 ∧
    served.heldRange 0x40200 8 = false ∧ served.memPoisoned 0x40200 8 = false ∧ State.reset.ready = false ∧
    (served.path.cached.find? (fun c => c.peer == 3 && c.id == 8)).isSome = false ∧ (served.path.cached.find? (fun c => c.peer == 3 && c.id == 9)).isSome = true ∧
    ∀ op ∈ [PeerOp.read 8, .write [(0, 7)], .atomic 0 1 false false true 5 0 8], (peerAsks op true 0).epoch = served.links.epoch ∧ (peerAsks op true 1).epoch ≠ served.links.epoch ∧
      (peerAsks op false 1).pa % 2 ^ 38 = 0x40200 := by decide +kernel

/-! ## Witnesses: the engines on their own -/

/-- Commands of 64 and 8,192 bytes from the issuer's scratchpad to its scratchpad, in cluster 0. -/
def scratchCopy (bytes : Nat) (started : Bool) : Command :=
  { newCommand (ctxAt quiet (.nop ⟨0, 0, 0, 0⟩)) 0 0x98 50 with
      src := 1, dst := 1, regs := [0x1000, 0x100, BitVec.ofNat 64 bytes], to_ := [1], bytes := bytes, started := started }
def commanded (k : Command) (chunks : Tbl Chunk) : State :=
  { quiet with eng := { quiet.eng with cmds := [(10, k)], chunks := chunks }, pend := [(50, owed .none 2 .command)], nextId := 100 }
theorem witness_ChunksMove_start : ∀ e ∈ [0, 7], let k := scratchCopy 8192 true; let u := scratchCopy 8192 false
    (commanded k []).enginesEnabled 0 = true ∧ (commanded k []).aborted k = false ∧ (commanded k []).openCommand 0 = some (10, k) ∧
      (commanded u []).openCommand 0 = none ∧ (commanded u []).nextCommand 0 = some (10, u) ∧ u.chunks ≠ 0 ∧ (commanded u []).aborted u = false ∧
      (∀ h ∈ (commanded k []).eng.chunks, h.2.engine ≠ e) ∧ (quiet.enginesEnabled (min 37 320) = false) := by decide +kernel
def chunkAt (read sent : Bool) (data : List (Byte × Taint)) (writes : List Nat) : Chunk := ⟨10, 0, 3, read, data, sent, writes, false⟩
theorem witness_ChunksMove_done :
    (let k := scratchCopy 64 true; let s := commanded { k with next := 1 } [(20, chunkAt false false [] [])]
     s.aborted k = false ∧ (s.team? 1).map (fun T => k.moves T (k.from 0) (k.upto 0)) = some [⟨0, 64, .scr 0x100, .scr 0x1000⟩] ∧ s.path.remote = [] ∧ k.struck = false) ∧
    (let k := scratchCopy 64 true; let s := commanded { k with next := 1 } [(20, chunkAt true false (List.replicate 64 (7, .clean)) [])]
     s.aborted k = false ∧ (s.team? 1).map (fun T => k.moves T (k.from 0) (k.upto 0)) = some [⟨0, 64, .scr 0x100, .scr 0x1000⟩] ∧ s.ordWaits 10 k = false) ∧
    (∀ ws ∈ [[], [90]], let k := { scratchCopy 8192 true with next := 1 }; let s := commanded k [(20, chunkAt true true [] ws)]
     s.aborted k = false ∧ (∀ w ∈ ws, Tbl.find s.path.writes w = none) ∧ k.fault = none ∧ k.next < k.chunks ∧ k.abort = false ∧ k.ending = false) ∧
    (let k := { scratchCopy 8192 true with next := 1 }; let s := { commanded k [(20, chunkAt true true [] [90])] with path := (writing (onWay false [] []) []).path }
     s.aborted k = false ∧ (Tbl.find s.path.writes 90).isSome = true) := by decide +kernel

/-- An entry of context 0 (OMREAD's stands in none). -/
def matrixEntry (i : Instr) (slots : List Nat) (started : Bool) : MatrixEntry :=
  { soloEntry (ctxAt engineQuiet i) i (wordOf i) (if slots.length = 1 then 2 else 0) slots 0 with rows := 3, pends := [90], started := started }
def inMatrix (e : MatrixEntry) : State :=
  { engineQuiet with mx := { engineQuiet.mx with entries := [(10, e)] }, nextId := 100
                     pend := [(90, { owed (if e.slots.length = 1 then .vec 40 1 else .none) 2 .other with lanes := 3, own := 3 })] }
def readWord : ExtWord := soloWord 1 0 0
theorem witness_MatrixWorks_start : ∀ level ∈ [0, 8], let e := matrixEntry (.mma mmaWord) [0, 1] false; let s := { inMatrix e with mgmt := { quiet.mgmt with level := level } }
    s.startClock 0 = decide (level = 0) ∧ s.startableEntry 0 0 = some (10, e) ∧ s.startableEntry 0 1 = none := by decide +kernel
theorem witness_MatrixWorks_complete : ∀ p ∈ [(Instr.accz (soloWord 2 0 0), []), (.mma mmaWord, [0, 1]), (.omread readWord, [0])],
    let e := matrixEntry p.1 p.2 true; let s := inMatrix e
    s.completable 0 e.ctx = some (10, e) ∧ (s.team? e.team).map (fun T => decide (coreIndex T e.core < T.acc.length)) = some true ∧ (s.wave? e.wave).isSome = true ∧
      (Tbl.find s.pend 90).isSome = true ∧ e.word.d.num.toNat + e.word.sub.toNat < 256 := by decide +kernel
theorem witness_MatrixWorks_none : quiet.completable 0 0 = none := by decide +kernel

def anInput : RcInput := ⟨[0, 0, 0], [0, 0]⟩
def aSample : Sample := { input := anInput, targets := [0, 0, 0, 0], weight := 0x3F800000, key := [] }
theorem witness_cacheWorks_query : let s := { cached with pend := [(90, owed (.vec 40 2) 2 (.query 2 0 [(0, anInput)]))], nextId := 100 }
    s.inst? 2 = some (freshInstance 0) ∧ (Tbl.find s.pend 90).map (fun p => (p.lanes.has 0, Tbl.find [(0, anInput)] 0)) = some (true, some anInput) ∧ (s.wave? 1).isSome = true := by
  decide +kernel
theorem witness_cacheWorks_drain : let s := wave cached (fun W => { W with queues := { noQueues with q3 := [⟨90, 2, [aSample]⟩] } })
    (s.wave? 1).map (fun W => W.queues.q3) = some [⟨90, 2, [aSample]⟩] ∧ s.inst? 2 = some (freshInstance 0) ∧ (∀ x ∈ [aSample], x.poison = false) := by decide +kernel
def tinyInst (epoch : List Sample) : Instance := { freshInstance 0 with cfg := { smallConfig with width := 1, log2t := 1 }, epoch := epoch }
/-- A RCGEN is at stage 1 with one sample left in its epoch. -/
def training (epoch : List Sample) : State :=
  { withInst (tinyInst epoch) quiet with
      pend := [(10, owed (.scal 6 1) 3 .command)], rc := { insts := [(2, tinyInst epoch)], ops := [(11, ⟨4, 10, 1, 2, 0, 0x10000, 0, 0, 1⟩)] }, nextId := 100 }
def paramOffsets (i : Instance) (batch : List Sample) : List Nat :=
  let P := i.cfg.params
  let nums := (batch.flatMap (fun x => (List.range i.cfg.levels).flatMap (fun l => (i.cfg.corners (i.cfg.axes x.input) l).flatMap (fun c => [c.1, c.1 + 1])))).dedup ++
    (List.range (P - i.cfg.layerBase 0)).map (fun n => i.cfg.layerBase 0 + n)
  nums.flatMap (fun n => [4 * n, 4 * (P + n), 4 * (2 * P + n)])
theorem witness_cacheWorks_waits : let s := training []; let i := tinyInst []
    (s.adjInst 2 Instance.sound).inst? 2 = some i ∧ (s.adjInst 2 Instance.sound).nextBatch 2 i = none := by decide +kernel
theorem witness_cacheWorks_step : let s := training [aSample]; let i := tinyInst [aSample]
    (s.adjInst 2 Instance.sound).inst? 2 = some i ∧ s.path.waits = [] ∧ s.rel.rot = [] ∧ s.optimiserWriting 2 = false ∧
      (s.adjInst 2 Instance.sound).nextBatch 2 i = some ([aSample], true) ∧
      (match (s.adjInst 2 Instance.sound).paramPages i.unit i.cfg (paramOffsets i [aSample]) true with
       | .ok s1 pages => s1.poison.isEmpty && s1.rel.rot.isEmpty && pages.all (fun p => goodPage i.cfg p.2) && s1.rc == (s.adjInst 2 Instance.sound).rc
       | _ => false) = true := by decide +kernel

/-! ## Witnesses: generations, rays, refits, passes -/

/-- An operation at instance 2's optimiser. -/
def opAt (op arg stage : Nat) (s : State) : State :=
  { s with rc := { s.rc with ops := [(11, ⟨op, 10, 1, 2, 0, 0x10000, 0, arg, stage⟩)] }, pend := [(10, owed (.scal 6 1) 3 .command)], nextId := 100 }
/-- A configuration record of one level at VA 0x800, whose parameter area lies at VA 0x100000, and the pages of that area. -/
def rcRecord : List Byte :=
  natBytes 4 0x31464352 ++ [1, 14, 32, 1, 3, 0] ++ natBytes 2 0 ++ natBytes 4 0x3C23D70A ++ (List.range 3).flatMap (fun _ => natBytes 4 0) ++
  (List.range 3).flatMap (fun _ => natBytes 4 0x3F800000) ++ natBytes 2 4 ++ (List.range 15).flatMap (fun _ => natBytes 2 0) ++ natBytes 8 0 ++ natBytes 8 0x100000 ++
  List.replicate 168 0
def areaPages (s : State) : State := (List.range 7).foldl (fun s k => page s (16 + k) (0x10000 * (16 + k) + 0x33)) s
def recordState : State := opAt 0 0x800 0 (areaPages { quiet with mem := writeBytes quiet.mem 0x40800 rcRecord })
theorem witness_generations_load : ∀ arg ∈ [0x800, 0x820], let s := opAt 0 arg 0 recordState
    (s.headOp 2).map (fun e => (e.1, e.2.op, decide (e.2.arg % 64 = 0))) = some (11, 0, decide (arg = 0x800)) ∧ s.path.waits = [] ∧ s.rel.rot = [] := by decide +kernel
def loadedConfig : Option RcConfig := parseRecord rcRecord
def loadStages : Bool :=
  match recordState.unitRead { who := .die (dieOf 0), unit := 4, asid := 0, table := 0x10000 } 10 (BitVec.ofNat 64 0x800) 256, loadedConfig with
  | .ok s1 (bs, false), some g =>
    decide (parseRecord bs = some g) && (s1.inst? 2).isNone && decide (s1.pinned g.home + 2 * g.imageBytes ≤ 2 ^ 28) &&
    (match s1.paramPages { who := .die g.home, unit := 4, asid := 0, table := 0x10000 } g ((List.range ((12 * g.params + 65535) / 65536)).map (fun p => p * 65536)) true with
     | .ok s2 pages => s2.path.writes.isEmpty && pages.all (fun p => goodPage g p.2) &&
       (match s2.makeImage 2 { who := .die g.home, unit := 4, asid := 0, table := 0x10000 } g with | .ok _ (some _) => true | _ => false)
     | _ => false)
  | _, _ => false
theorem witness_generations_loads : loadStages = true := by decide +kernel
/-- RCGEN stands before its image is written, or while clusters switch. -/
def generating (stage : Nat) (switched : List Nat) : State := opAt 4 0 stage (withInst { tinyInst [] with switched := switched } quiet)
def oldQuery (s : State) : State := { s with pend := s.pend ++ [(12, owed (.vec 40 2) 2 (.query 2 1 []))] }
theorem witness_generations_image : (generating 2 []).querying 2 (some (((tinyInst []).gen + 1).toNat % 2)) = false ∧
    (oldQuery (generating 2 [])).querying 2 (some (((tinyInst []).gen + 1).toNat % 2)) = true ∧
    (match (generating 2 []).makeImage 2 (tinyInst []).unit (tinyInst []).cfg with | .ok s1 (some _) => s1.rc == (generating 2 []).rc | _ => false) = true ∧
    ∀ s ∈ [generating 2 [], oldQuery (generating 2 [])], (s.headOp 2).map (fun e => (e.1, e.2.op, e.2.stage)) = some (11, 4, 2) ∧ s.inst? 2 = some (tinyInst []) := by decide +kernel
/-- One cluster alone is enabled. -/
def oneCluster (s : State) : State := { s with sched := { s.sched with enabled := [(0, 1)] } }
theorem witness_generations_switch : let s := oneCluster (generating 3 [])
    (s.headOp 2).map (fun e => (e.2.op, e.2.stage)) = some (4, 3) ∧ s.inst? 2 = some (tinyInst []) ∧ s.enabledClusters.all (NSet.insert [] 0).contains = true ∧
      (generating 3 []).enabledClusters.all (NSet.insert [] 0).contains = false := by decide +kernel

/-- The ray walks towards a triangle block at VA 0x800. -/
def blockBytes (z : List Nat) : List Byte := z.flatMap (natBytes 4) ++ natBytes 4 7 ++ natBytes 2 3 ++ natBytes 2 1 ++ List.replicate 20 0
def ahead : List Nat := [0x3F800000, 0xBF800000, 0xBF800000, 0x3F800000, 0x40400000, 0xBF800000, 0x3F800000, 0xBF800000, 0x40400000]
def aside : List Nat := [0x3F800000, 0x40A00000, 0x40A00000, 0x3F800000, 0x41100000, 0x40A00000, 0x3F800000, 0x40A00000, 0x41100000]
def anInst : RayInst := ⟨0, 0, 0, 0, [0, 0, 0], [0x3F800000, 0, 0]⟩
def walkingRay : RayJob :=
  { aRay false .walking none none false with info := some ⟨0, 0, 0, 0, 0, 0, 0, 0⟩, todo := [.block anInst 0x800], ray := ⟨[0, 0, 0], 0, [0x3F800000, 0, 0], 0x40000000⟩ }
def rayState (z : List Nat) : State := { withRay walkingRay quiet with mem := writeBytes quiet.mem 0x40800 (blockBytes z) }
theorem witness_GraphicsWork_block : ∀ p ∈ [(ahead, true), (aside, false)], let s := rayState p.1
    s.ray? 20 = some walkingRay ∧ (∀ n < 15, 8 ≤ n → ctlFlag walkingRay.ctl n = false) ∧
      (match ({ s with free := s.free + 1 } : State).unitRead walkingRay.unit 20 (BitVec.ofNat 64 0x800) 64 with
       | .ok _ (bs, false) =>
         (field bs 0x2A 2).testBit 0 &&
         (match triHit anInst.org anInst.dir ((List.range 9).map (fun k => BitVec.ofNat 32 (field bs (4 * k) 4))) with
          | some (tt, _, _, _) => p.2 && finite32 tt.toNat && decide (fix149 walkingRay.ray.tmin ≤ fix149 tt) && decide (fix149 tt ≤ fix149 walkingRay.ray.tmax)
          | none => !p.2)
       | _ => false) = true := by decide +kernel
theorem witness_GraphicsWork_exited :
    (let s := withRay (aRay false (.exited .anyHit 1 90) none (some aHit) false) quiet; (s.ray? 20).isSome = true ∧ s.exitDone 1 90 = true) ∧
    (let s := withRay (aRay false (.exited .anyHit 1 100) none (some aHit) false) (storing .loc 0x40200); (s.ray? 20).isSome = true ∧ s.exitDone 1 100 = false) ∧
    ∀ e ∈ (withRay (aRay false .walking none none false) quiet).gfx.rays, e.2.want = none := by decide +kernel

/-- A REFIT at die 0's engine, whose descriptor at VA 0x800 names one node at VA 0x1000. -/
def aRefit (stage nodes : Nat) (desc : Word) : Refit := ⟨0, 10, 1, 0, 0x10000, desc, stage, 0x1000, nodes, 0x3F800000, 0x2000, 0, none, none, 0, 0⟩
def refitBytes : List Byte := natBytes 8 0x1000 ++ natBytes 4 1 ++ natBytes 4 0x3F800000 ++ natBytes 8 0x2000 ++ List.replicate 40 0
/-- A node of a BLAS with one inner child. -/
def nodeBytes : List Byte :=
  natBytes 12 0 ++ [0x7F, 0x7F, 0x7F, 1] ++ natBytes 8 0 ++ natBytes 8 0xFFFFFFFF ++ natBytes 4 0x101 ++ List.replicate 28 0 ++ List.replicate 48 0 ++ List.replicate 16 0
def refitting (stage nodes : Nat) (desc : Word) : State :=
  { quiet with mem := writeBytes (writeBytes quiet.mem 0x40800 refitBytes) 0x41000 nodeBytes, gfx := { quiet.gfx with refits := [(20, aRefit stage nodes desc)] }
               pend := [(10, owed (.scal 6 1) 3 .sync)], nextId := 100 }
def readsOk (s : State) (u : UnitCtx) (id : Nat) (va : Word) (n : Nat) (P : List Byte → Bool) : Bool :=
  match s.unitRead u id va n with | .ok _ (bs, false) => P bs | _ => false
theorem witness_GraphicsWork_refit :
    (∀ p ∈ [(0, 0, 0x801), (0, 0, 0x800), (1, 0, 0x800), (1, 1, 0x800)], let s := refitting p.1 p.2.1 (BitVec.ofNat 64 p.2.2)
      s.refitOf 0 = some (20, aRefit p.1 p.2.1 (BitVec.ofNat 64 p.2.2)) ∧ s.path.remote = [] ∧ s.unitAway (.op 10) = false) ∧
    readsOk (refitting 0 0 0x800) (aRefit 0 0 0x800).unit 20 0x800 64 (fun bs => (parseRefit (aRefit 0 0 0x800) bs).isSome) = true ∧
    readsOk (refitting 1 1 0x800) (aRefit 1 1 0x800).unit 20 ((aRefit 1 1 0x800).node 0) 128 (fun bs => !badNode true bs &&
      (parseNode bs).words.any (fun w => childType w == 1)) = true := by decide +kernel

/-- A triangle that covers the centre of pixel (0, 0) alone, and one without area. -/
def oneTri : Tri := ⟨[0x3E800000, 0x3E800000, 0x3F800000, 0x3E800000, 0x3E800000, 0x3F800000], [0x3F000000, 0x3F000000, 0x3F000000], 9⟩
def noTri : Tri := ⟨[0, 0, 0, 0, 0, 0], [0, 0, 0], 9⟩
def drawing (t : Tri) : Pass := { aPass 3 with tris := [t] }
def drawn (t : Tri) : State := { quiet with gfx := { quiet.gfx with passes := [(20, drawing t)] }, nextId := 100 }
theorem witness_GraphicsWork_pass : (∀ t ∈ [oneTri, noTri], (drawn t).passAt 0 3 = some (20, drawing t)) ∧ rasterise (drawing noTri) noTri = none ∧
    (match rasterise (drawing oneTri) oneTri with | some [(x, y, _)] => x == 0 && y == 0 | _ => false) = true ∧
    (match (drawn oneTri).engineAccess (drawing oneTri).unit.who 0 0x10000 (drawing oneTri).unit.unit ((drawing oneTri).target) 8 .atomic .none with
     | .ok [pc] => pc.region == .loc && pc.len == 8 && pc.addr % 8 == 0 && !(drawn oneTri).memPoisoned pc.addr 8
     | _ => false) = true ∧ (drawn oneTri).rel.rot = [] ∧ (drawn oneTri).path.writes = [] ∧ (drawn oneTri).path.waits = [] := by decide +kernel

/-! ## Placing: whatever the open choice picks, a team of one wave that fits on a core is placed -/

theorem mem_turned {α : Type} (k : Nat) (l : List α) (a : α) : a ∈ turned k l ↔ a ∈ l := by
  rw [turned, List.mem_append, or_comm, ← List.mem_append, List.take_append_drop]

/-- What placing one wave does: the last team has one more place. -/
theorem packWaves_shape {pick : Nat} {cores : List Nat} {w : Nat × Nat × Nat} {o o1 : Occ} {x : Held}
    (h : packWaves pick cores some [w] (o ++ [x]) = some o1) : ∃ p, o1.getLast? = some { x with spots := x.spots ++ [p] } ∧ o1.length = o.length + 1 := by
  simp only [packWaves, List.getLast?_append, List.getLast?_singleton, Option.some_or, List.dropLast_concat] at h
  obtain ⟨p, -, h3⟩ := List.exists_of_findSome?_eq_some h
  split at h3
  · cases h3
    exact ⟨p, List.getLast?_concat .., by simp⟩
  · exact absurd h3 (by simp)

theorem packWaves_some (pick : Nat) {cores : List Nat} {w : Nat × Nat × Nat} {o : Occ} {x : Held} {core : Nat} (hc : core ∈ cores) (hq : 0 < 16 / w.1)
    (hfit : (o ++ [{ x with spots := x.spots ++ [⟨core, 0, 0, w.1, w.2.1, w.2.2⟩] }] : Occ).spotFits ⟨core, 0, 0, w.1, w.2.1, w.2.2⟩ = true) :
    (packWaves pick cores (some : Occ → Option Occ) [w] (o ++ [x])).isSome = true := by
  simp only [packWaves, List.findSome?_isSome_iff, List.getLast?_append, List.getLast?_singleton, Option.some_or, List.dropLast_concat]
  refine ⟨⟨core, 0, 0, w.1, w.2.1, w.2.2⟩, ?_, by simp [hfit]⟩
  simp only [List.mem_flatMap, mem_turned, List.mem_map, List.mem_range]
  exact ⟨core, hc, 0, by decide, 0, hq, by simp⟩

/-- A wave on core 0 of a device whose cluster 0 is enabled. -/
def fitsOnCore0 (s : State) (hdr : Header) (w : Nat × Nat × Nat) (o : Occ) : Bool :=
  (Tbl.get 0 s.sched.enabled 0).getLsbD 0 && !s.swapping 0 && decide (0 < 16 / w.1) && (o ++ [⟨hdr, hdr, [0], []⟩] : Occ).coreFits 0 && framesSuffice hdr [w] 1 &&
    (o ++ [⟨hdr, hdr, [0], [⟨0, 0, 0, w.1, w.2.1, w.2.2⟩]⟩] : Occ).spotFits ⟨0, 0, 0, w.1, w.2.1, w.2.2⟩

theorem packOn_one {s : State} {dies : List Nat} {hdr : Header} {w : Nat × Nat × Nat} {o : Occ} (hd : 0 ∈ dies) (h : fitsOnCore0 s hdr w o = true) (pick : Nat) :
    ∃ o1 x p, s.packOn dies 1 pick hdr [w] o some = some o1 ∧ o1.getLast? = some x ∧ x.spots = [p] ∧ o1.length = o.length + 1 := by
  simp only [fitsOnCore0, Bool.and_eq_true, Bool.not_eq_true', decide_eq_true_eq] at h
  obtain ⟨⟨⟨⟨⟨he, hs⟩, hq⟩, hc⟩, hf⟩, hp⟩ := h
  have h1 : (s.packOn dies 1 pick hdr [w] o some).isSome = true := by
    rw [State.packOn, List.findSome?_isSome_iff]
    refine ⟨[0], ?_, ?_⟩
    · simp only [State.coreChoices, List.mem_filter, List.mem_flatMap, mem_turned, List.mem_map, List.mem_range]
      exact ⟨⟨0, ⟨0, hd, 0, ⟨by decide, he⟩, rfl⟩, [0], by decide, rfl⟩, by simp [hs]⟩
    · simp only [packTeam, List.all_cons, List.all_nil, hc, List.length_singleton, hf, Bool.and_self, if_true]
      exact packWaves_some pick (List.mem_singleton.mpr rfl) hq (by simpa using hp)
  obtain ⟨o1, h2⟩ := Option.isSome_iff_exists.mp h1
  obtain ⟨cores, -, h3⟩ := List.exists_of_findSome?_eq_some h2
  rw [packTeam] at h3
  split at h3
  · obtain ⟨p, h4, h5⟩ := packWaves_shape h3
    exact ⟨o1, _, p, h2, h4, by simp, h5⟩
  · exact absurd h3 (by simp)

/-! ## Witnesses: teams come and go -/

def aGrid (persist : Bool) : Grid := ⟨0x40800, 0, 1, 0, 0x10000, 1, 1, 1, 1, plainHeader, [], persist, none, [⟨0, 0⟩], 0, 0⟩
def waitingGrid (persist : Bool) : State := { State.reset with sched := { State.reset.sched with grids := [(5, aGrid persist)] }, nextId := 100 }
theorem fits_waitingGrid (persist : Bool) : fitsOnCore0 (waitingGrid persist) plainHeader (16, 8, 1) (waitingGrid persist).occ = true := by
  cases persist <;> decide +kernel
theorem cores_plainHeader : teamCores plainHeader = some 1 := by decide +kernel
theorem witness_teamsArrive_one :
    let s := waitingGrid false
    let q := s.scan
    s.restoreFirst = false ∧ q.hit = some (5, some 0, 1) ∧ Tbl.find q.s.sched.grids 5 = some (aGrid false) ∧ teamCores (aGrid false).header = some 1 ∧
      ∃ o h, q.s.packOn [0] 1 (Config.freeNat q.s.free) plainHeader plainHeader.waves q.s.occ some = some o ∧ o.getLast? = some h := by
  obtain ⟨o1, x, p, h1, h2, -, -⟩ := packOn_one (dies := [0]) (by decide) (fits_waitingGrid false) (Config.freeNat (waitingGrid false).free)
  have hd : diesOf 1#8 = [0] := by decide
  have hw : plainHeader.waves = [(16, 8, 1)] := by decide
  have hq : (waitingGrid false).scan = ⟨waitingGrid false, 0, [], some (5, some 0, 1)⟩ := by
    show Scan.look ⟨waitingGrid false, 0, [], none⟩ (5, aGrid false, ⟨0, 0⟩) = _
    have hg : (aGrid false).dies &&& 255#8 = 1#8 := by decide
    have hh : (aGrid false).header = plainHeader := rfl
    have hp : (aGrid false).persist = false := rfl
    have hf : (waitingGrid false).flagOf 5 (aGrid false) 0 = (true, waitingGrid false) := rfl
    simp [Scan.look, hg, hh, hp, hf, cores_plainHeader, hd, hw, h1]
  intro s q
  rw [show q = _ from hq]
  exact ⟨rfl, rfl, rfl, cores_plainHeader, o1, x, hw ▸ h1, h2⟩
theorem witness_teamsArrive_persistent :
    let s := waitingGrid true
    let q := s.scan
    s.restoreFirst = false ∧ q.hit = some (5, none, 1) ∧ Tbl.find q.s.sched.grids 5 = some (aGrid true) ∧
      ∃ o, q.s.packMany (diesOf 1) 1 (Config.freeNat q.s.free) plainHeader (aGrid true).pending.length q.s.occ = some o ∧
        (o.drop q.s.occ.length).length = (aGrid true).pending.length := by
  obtain ⟨o1, x, p, h1, h2, -, h4⟩ := packOn_one (dies := [0]) (by decide) (fits_waitingGrid true) (Config.freeNat (waitingGrid true).free)
  have hd : diesOf 1#8 = [0] := by decide
  have hw : plainHeader.waves = [(16, 8, 1)] := by decide
  have hm : (waitingGrid true).packMany [0] 1 (Config.freeNat (waitingGrid true).free) plainHeader 1 (waitingGrid true).occ = some o1 := by
    rw [← h1, ← hw]; rfl
  have hq : (waitingGrid true).scan = ⟨waitingGrid true, 0, [], some (5, none, 1)⟩ := by
    show Scan.look ⟨waitingGrid true, 0, [], none⟩ (5, aGrid true, ⟨0, 0⟩) = _
    have hg : (aGrid true).dies &&& 255#8 = 1#8 := by decide
    have hh : (aGrid true).header = plainHeader := rfl
    have hp : (aGrid true).persist = true := rfl
    have hn : (aGrid true).pending = [⟨0, 0⟩] := rfl
    simp [Scan.look, hg, hh, hp, hn, cores_plainHeader, hd, hm]
  intro s q
  rw [show q = _ from hq]
  refine ⟨rfl, rfl, rfl, o1, hd ▸ hm, ?_⟩
  rw [List.length_drop, h4]
  show (waitingGrid true).occ.length + 1 - (waitingGrid true).occ.length = 1
  omega

/-- A ray that wants the shader whose header stands at VA 0x800. -/
def shaderWords : List Nat :=
  let ws := [0x31484D4B, 1, 64 + 65536 + 16777216, 0, 4 + 8 * 256 + 65536, 8, 0, 0, 0, 0, 0, 0, 0, 0, 0x1000]
  ws ++ [ws.foldl (· ^^^ ·) 0]
def wantingRay : RayJob := aRay false (.wants .closest 0x840) none (some aHit) false
def wanting : State := withRay wantingRay (put32 quiet 0x40800 shaderWords)
def shaderReads : Bool × State × Option Header :=
  match ({ wanting with free := wanting.free + 1 } : State).unitRead { wantingRay.unit with who := .die 0 } 20 (BitVec.ofNat 64 0x840 - 64) 64 with
  | .ok s1 (bs, bad) => (bad, s1, parseHeader bs (BitVec.ofNat 64 0x840))
  | _ => (true, wanting, none)
def shaderHeader : Header := (shaderReads.2.2).getD plainHeader
theorem shaderReads_good : shaderReads.1 = false ∧ shaderReads.2.2 = some shaderHeader ∧ shaderHeader.waves = [(16, 8, 1)] ∧ shaderHeaderOk shaderHeader = true ∧
    fitsOnCore0 shaderReads.2.1 shaderHeader (16, 8, 1) shaderReads.2.1.occ = true := by decide +kernel
theorem witness_GraphicsWork_shader : ∃ s1 bs o held p, wantingRay.want = some (.closest, 0x840) ∧ dieOf wantingRay.core = 0 ∧ (∀ e ∈ s1.waves, e.1 < s1.nextId ∧ e.2.team < s1.nextId) ∧
    ({ wanting with free := wanting.free + 1 } : State).unitRead { wantingRay.unit with who := .die 0 } 20 (BitVec.ofNat 64 0x840 - 64) 64 = .ok s1 (bs, false) ∧
    parseHeader bs (BitVec.ofNat 64 0x840) = some shaderHeader ∧ shaderHeaderOk shaderHeader = true ∧ 1 ≤ shaderHeader.lanes ∧
    s1.packOn [0] 1 (Config.freeNat s1.free) shaderHeader shaderHeader.waves s1.occ some = some o ∧ o.getLast? = some held ∧ held.spots = [p] := by
  obtain ⟨hb, hh, hw, hk, hf⟩ := shaderReads_good
  obtain ⟨o, held, p, h1, h2, h3, -⟩ := packOn_one (dies := [0]) (by decide) hf (Config.freeNat shaderReads.2.1.free)
  have hl : 1 ≤ shaderHeader.lanes := by decide +kernel
  have hn : ∀ e ∈ shaderReads.2.1.waves, e.1 < shaderReads.2.1.nextId ∧ e.2.team < shaderReads.2.1.nextId := by decide +kernel
  have hr : ∃ bs, ({ wanting with free := wanting.free + 1 } : State).unitRead { wantingRay.unit with who := .die 0 } 20 (BitVec.ofNat 64 0x840 - 64) 64 =
      .ok shaderReads.2.1 (bs, false) ∧ parseHeader bs (BitVec.ofNat 64 0x840) = some shaderHeader := by
    unfold shaderReads at hb hh ⊢
    split at hb
    · rename_i s1 bs bad h
      rw [h] at hh
      refine ⟨bs, ?_, hh⟩
      simp only [h]
      simp only at hb
      rw [hb]
    · exact absurd hb (by decide)
  obtain ⟨bs, h4, h5⟩ := hr
  exact ⟨_, bs, o, held, p, by decide, by decide, hn, h4, h5, hk, hl, hw ▸ h1, h2, h3⟩

/-! ## Witnesses: graphs and saves -/

/-- A kernel node and an empty node at 0x40800. -/
def kernelNode : List Byte := natBytes 80 0 ++ natBytes 8 0x10000 ++ natBytes 2 0 ++ [1, 0] ++ natBytes 4 1 ++ natBytes 4 1 ++ natBytes 4 1 ++ natBytes 24 0
def emptyNode : List Byte := natBytes 1 2 ++ natBytes 127 0
def badNodeBytes : List Byte := natBytes 1 4 ++ natBytes 127 0
def taskAt (b : List Byte) (t : WalkTask) : State :=
  { quiet with mem := writeBytes quiet.mem 0x40800 b, sched := { quiet.sched with tasks := [(0, [t])] } }
theorem only_task {s : State} {t : WalkTask} (h : Tbl.get [] s.sched.tasks 0 = [t]) :
    (Tbl.get [] s.sched.tasks 0)[Config.freeNat s.free % (Tbl.get [] s.sched.tasks 0).length]? = some t := by
  rw [h]; simp [Nat.mod_one]
theorem witness_nodesStart : ∀ p ∈ [(kernelNode, WalkTask.start 0x40800), (emptyNode, .start 0x40800), (badNodeBytes, .start 0x40800), (emptyNode, .complete 0x40800 3 none),
      (emptyNode, .follow [0x40800, 0x40880] 0)],
    let s := taskAt p.1 p.2
    let b := readBytes s.mem 0x40800 128
    Tbl.get [] s.sched.tasks 0 = [p.2] ∧ homeOf 0x40800 = 0 ∧ s.memPoisoned 0x40800 128 = false ∧ s.path.waits = [] ∧ s.rel.rot = [] ∧ s.path.writes = [] ∧ nodeAddr 0x40800 = true ∧
      (nodeFieldsOk b, field b 0 1, kernelOk b && field b 0 1 == 0, (b.drop 0x50).all (· == 0)) =
        (if p.1 = kernelNode then (true, 0, true, false) else if p.1 = emptyNode then (true, 2, false, true) else (false, 4, false, true)) := by decide +kernel
theorem witness_nodesStart_none : Tbl.get [] quiet.sched.tasks 0 = [] := by decide +kernel

/-- A swap of core 0, running since the start, whose slot holds team 7. -/
def aSwap (keep : Bool) : Swap := ⟨[0], keep, some 0, none⟩
def swappingState (keep : Bool) : State :=
  { quiet with saves := { quiet.saves with slots := [(0, .held [7])], swaps := [(50, aSwap keep)] }, teams := Tbl.put quiet.teams 7 { plainTeam with id := 7, where_ := .slot } }
theorem witness_savesMove_swap : ∀ keep ∈ [false, true], let s := swappingState keep
    Tbl.find s.saves.swaps 50 = some (aSwap keep) ∧ (s.teams.map Prod.fst).Nodup ∧ (s.team? 1).map (fun T => (T.where_, T.cores.contains 0)) = some (.live, true) ∧
      7 ∈ (s.slot 0).teams ∧ s.rel.weak = [] := by decide +kernel
def spillingState (pool : Nat) : State :=
  { swappingState false with saves := { quiet.saves with slots := [(0, .spilling [7])], pools := [(0, (0x200000, pool))] } }
theorem witness_savesMove_spill : ∀ pool ∈ [0, 2 ^ 30], let s := spillingState pool
    s.slot 0 = .spilling [7] ∧ (s.team? 7).map (fun T => (s.poolRoom (dieOf 0) (2 ^ 33) (imageSize T), decide T.cores.Nodup)) = some (decide (pool ≠ 0), true) := by decide +kernel
/-- An image of team 7. -/
def anImage (kind : ImageKind) (complete pending : Bool) : Image := ⟨7, 0, 65536, kind, [⟨0, 0⟩], [], complete, pending, false, 5, 0⟩
def imaged (m : Image) (pool : Nat) : State :=
  { quiet with saves := { quiet.saves with images := [(3, m)], pools := [(0, (0x200000, pool))] }
               teams := Tbl.put quiet.teams 7 { plainTeam with id := 7, where_ := .image 3 }
               waves := Tbl.put quiet.waves 8 (startWave 7 0 0 0 0 0 0 64 8) }
theorem witness_savesMove_image : (∀ k ∈ [ImageKind.spill, .park, .checkpoint], ∀ pool ∈ [0, 2 ^ 30], let m := anImage k false false; let s := imaged m pool
      Tbl.find s.saves.images 3 = some m ∧ s.drained 7 = true ∧ s.poolRoom 0 3 65536 = decide (pool ≠ 0)) ∧
    (let s := wave (imaged (anImage .spill false false) 0) (fun W => W)
     ({ s with waves := Tbl.adjust s.waves 8 (fun W => { W with storeq := [queuedStore .loc 0x40200] }) } : State).drained 7 = false) := by decide +kernel

/-- The same with only that team, where its image waits to be restored. -/
def restoring (bad : Bool) : State :=
  { imaged (anImage .spill true true) 65536 with poison := (if bad then [0x10000] else [])
                                                 teams := [(7, { plainTeam with id := 7, where_ := .image 3 })], waves := [(8, startWave 7 0 0 0 0 0 0 64 8)], frags := [] }
theorem witness_savesMove_restore : ∀ bad ∈ [false, true], let s := restoring bad
    ∃ o h T, s.rel.weak = [] ∧ Tbl.find s.saves.images 3 = some (anImage .spill true true) ∧ (∀ e ∈ s.restorable, ¬e.2.order < 5) ∧ s.team? 7 = some T ∧
      s.packImage (anImage .spill true true) (Config.freeNat s.free) = some o ∧ o.getLast? = some h ∧
      (∀ p, Tbl.find s.saves.pools 0 = some p → s.memPoisoned p.1 p.2 = bad) ∧ Tbl.get 0 s.sched.ended 7 = 0 := by
  intro bad hb s
  have hf : fitsOnCore0 s plainHeader (16, 8, 0) s.occ = true := by cases bad <;> decide +kernel
  have hp : Tbl.find s.saves.pools 0 = some (0x200000, 65536) ∧ s.memPoisoned 0x200000 65536 = bad := by cases bad <;> decide +kernel
  obtain ⟨o, h, p, h1, h2, -, -⟩ := packOn_one (dies := List.range 8) (by decide) hf (Config.freeNat s.free)
  have ht : s.team? 7 = some { plainTeam with id := 7, where_ := .image 3 } := by cases bad <;> decide +kernel
  have hw : (s.orderedWaves 7 { plainTeam with id := 7, where_ := .image 3 }).map (fun e =>
      (e.2.width / 4, (placeOf { plainTeam with id := 7, where_ := .image 3 } e.2 0).base, (s.fragsOf e.1).length)) = [(16, 8, 0)] := by cases bad <;> decide +kernel
  refine ⟨o, h, _, by cases bad <;> rfl, by cases bad <;> decide +kernel, by cases bad <;> decide +kernel, ht, ?_, h2, fun q hq => ?_, by cases bad <;> decide +kernel⟩
  · have hm : (anImage .spill true true).team = 7 := rfl
    simp only [State.packImage, hm, ht, hw]
    exact h1
  · rw [hp.1] at hq; cases hq; exact hp.2

/-! ## Witnesses: upkeep, samples, bring-up, ports -/

def rotten : State := { quiet with rel := { quiet.rel with rot := [0x804] } }
theorem witness_upkeepRuns : rotten.rel.rot.contains (0x2010 / 4) = true ∧ quiet.rel.rot.contains (0x2010 / 4) = false ∧ quiet.rel.ring = [] ∧ rotten.path.waits = [] ∧
    (∀ on ∈ [true, false], ({ quiet with mgmt := { quiet.mgmt with autoSpare := on } } : State).mgmt.autoSpare = on) ∧ (quiet.usedColumns 0 0).length < 2 := by decide +kernel
def sampling : State :=
  { quiet with prof := { quiet.prof with rings := [(0, ⟨0x200000, 4096, 0, 0, 0⟩)], grids := [0] } }
theorem witness_samplesTaken : quiet.coreEnabled 0 = true ∧ quiet.coreEnabled 159 = false ∧ sampling.path.waits = [] ∧ Tbl.find sampling.prof.rings (dieOf 0) = some ⟨0x200000, 4096, 0, 0, 0⟩ ∧
    (((List.range 512).map (fun i => (Tbl.get 0 sampling.prof.next 0 + i) % 512)).findSome? (sampling.entryReport 0)).isSome = true ∧ quiet.prof.rings = [] := by decide +kernel

def aSession (top : Nat) (claim : Option Nat) : Session := ⟨1, 0, top, [(3, 2, 0, [])], claim, 0⟩
/-- Session 1 owns the device, and session 2 asks for it with some claim. -/
def owned (top : Nat) (claim : Option Nat) : State :=
  { quiet with mgmt := { quiet.mgmt with sessions := [(1, aSession top none), (2, aSession 0 claim)], owner := some 1, prio := 1
                                         unacked := [⟨4, ⟨7, [1]⟩, 0⟩] } }
theorem witness_ownershipLapses : (owned 0 none).winner = none ∧ ((owned 0 (some 3)).winner).map Prod.fst = some 2 ∧ (owned 0 none).mgmt.owner = some 1 ∧
    (Tbl.find (owned 0 none).mgmt.sessions 1).isSome = true ∧ (((owned 0 none).mgmt.unacked.find? (fun e => e.seq == 4)).isSome = true) := by decide +kernel
theorem witness_bringUpSteps : State.reset.ready = false ∧ State.reset.mgmt.fail = 0 ∧ quiet.ready = true ∧
    ∀ n < 5, ({ State.reset with mgmt := { State.reset.mgmt with stage := n } } : State).mgmt.stage = n := by decide +kernel

def windowed : State := { quiet with ready := true, mgmt := { quiet.mgmt with windows := [(0, ⟨0x40000, 65536, 3, 5⟩)] }, links := { quiet.links with addrs := [(1, (2, 3))] } }
def rdma (key : BitVec 32) : RdmaRequest := ⟨0, 1, key, 0x200, 8, [1, 2, 3]⟩
theorem witness_portsServe : windowed.rel.rot = [] ∧ windowed.windowFor (rdma 5) 3 1 = some (0, 0x40200) ∧ windowed.windowFor (rdma 6) 3 1 = none ∧
    windowed.windowFor (rdma 5) 8 0 = some (0, 0x40200) ∧ windowed.windowFor (rdma 6) 8 0 = none ∧ windowed.mgmt.due = [] ∧ windowed.path.waits = [] ∧
    windowed.heldRange 0x40200 8 = false ∧ windowed.memPoisoned 0x40200 8 = false ∧ ({ windowed with poison := [0x2010] } : State).memPoisoned 0x40200 8 = true ∧
    Tbl.find windowed.links.addrs 0 = none ∧ Tbl.find windowed.links.addrs 1 = some (2, 3) := by decide +kernel

/-! ## Witnesses: the management protocol -/

def asks (session seq : Nat) (body : List Byte) : EdjorRequest := ⟨0, 0, 0x7F, BitVec.ofNat 64 session, BitVec.ofNat 64 seq, body⟩
def body8 (vs : List Nat) : List Byte := vs.flatMap (natBytes 8)
theorem witness_RequestProtocol : ∀ q ∈ [asks 1 3 [], asks 1 4 [], asks 1 6 [], asks 2 6 []],
    Requested (owned 5 none) q (.heartbeat q, 0x11, true, true) ∧ Requested (owned 5 none) q (.release q, 0x12, true, false) ∧ (owned 5 none).lapsed = false := by
  intro q _
  exact ⟨by simp [Requested], by simp [Requested], by decide +kernel⟩
theorem witness_RequestProtocol_seq : (∃ x, Tbl.find (owned 5 none).mgmt.sessions 1 = some x ∧ x.top = 5 ∧ (x.stored.find? (fun e => e.1 == 3)).isSome = true ∧
      x.stored.find? (fun e => e.1 == 4) = none) ∧ (∃ x, Tbl.find (owned 5 none).mgmt.sessions 2 = some x ∧ x.top = 0) ∧ (owned 5 none).mgmt.owner = some 1 ∧
    ({ owned 5 none with ready := false } : State).ready = false := ⟨⟨_, rfl, by decide⟩, ⟨_, rfl, by decide⟩, by decide, rfl⟩
/-- The nonce of a HELLO is not known. -/
theorem witness_sessionsOpen : quiet.mgmt.nonces = [] := by decide +kernel
def mayAsk (s : State) (q : EdjorRequest) : Bool :=
  !s.lapsed && (match Tbl.find s.mgmt.sessions q.session.toNat with | some x => decide (x.top < q.seq.toNat) | none => false)
theorem asks_of {s : State} {q : EdjorRequest} (h : mayAsk s q = true) : Asks s q := by
  simp only [mayAsk, Bool.and_eq_true, Bool.not_eq_true'] at h
  obtain ⟨hl, h⟩ := h
  split at h
  · exact ⟨hl, _, ‹_›, by simpa using h⟩
  · exact absurd h (by simp)
def mayDirect (s : State) (q : EdjorRequest) : Bool := mayAsk s q && s.ready && decide (s.mgmt.owner = some q.session.toNat)
theorem accepted_of {s : State} {q : EdjorRequest} (h : mayDirect s q = true) : Accepted s q := by
  simp only [mayDirect, Bool.and_eq_true, decide_eq_true_eq] at h
  obtain ⟨hl, x, hx⟩ := asks_of h.1.1
  exact ⟨hl, h.1.2, h.2, x, hx⟩
theorem owns_of {s : State} {q : EdjorRequest} (h : mayDirect s q = true) : Owns s q := by
  obtain ⟨hl, -, ho, hx⟩ := accepted_of h
  exact ⟨hl, ho, hx⟩
theorem witness_deviceReports : Asks (owned 5 none) (asks 1 6 []) ∧ Asks (owned 5 none) (asks 2 1 (List.replicate 32 1)) ∧ (owned 5 none).ready = true ∧ (owned 5 none).mgmt.due = [] ∧
    (owned 5 none).rel.rot = [] ∧ (let b := (asks 1 6 (body8 [0x40200, 16])).body; field b 0 8 + field b 8 4 ≤ 2 ^ 38 ∧ (owned 5 none).heldRange (field b 0 8) (field b 8 4) = false) ∧
    (field (List.replicate 1 (1 : Byte)) 0 1 = 1) ∧ ({ owned 5 none with mgmt := { (owned 5 none).mgmt with stage := 5 } } : State).mgmt.stage = 5 :=
  ⟨asks_of (by decide +kernel), asks_of (by decide +kernel), by decide +kernel⟩
theorem witness_ownershipMoves : (∀ b ∈ [[0], [3]], Asks (owned 5 none) (asks 2 6 b) ∧ Asks { owned 5 none with mgmt := { (owned 5 none).mgmt with owner := none } } (asks 2 6 b)) ∧
    (∀ e ∈ (owned 5 none).mgmt.sessions, e.2.claim = none) ∧ ((owned 5 none).mgmt.sessions.map Prod.fst).Pairwise (· < ·) ∧ (owned 5 none).mgmt.queue = [] ∧
    (∀ b ∈ [body8 [2], body8 [9], body8 [4]], Accepted (owned 5 none) (asks 1 6 b) ∧ Owns (owned 5 none) (asks 1 6 b)) ∧
    (Tbl.find (owned 5 none).mgmt.sessions (field (body8 [2]) 0 8)).isSome = true ∧ Tbl.find (owned 5 none).mgmt.sessions (field (body8 [9]) 0 8) = none ∧
    ((owned 5 none).mgmt.unacked.find? (fun e => e.seq == field (body8 [4]) 0 8)).isSome = true := by
  refine ⟨fun b hb => ?_, by decide +kernel, by decide +kernel, by decide +kernel, fun b hb => ?_, by decide +kernel, by decide +kernel, by decide +kernel⟩
  · rcases List.mem_cons.mp hb with rfl | hb
    · exact ⟨asks_of (by decide +kernel), asks_of (by decide +kernel)⟩
    · rw [List.mem_singleton.mp hb]
      exact ⟨asks_of (by decide +kernel), asks_of (by decide +kernel)⟩
  · have h : mayDirect (owned 5 none) (asks 1 6 b) = true := rfl
    exact ⟨accepted_of h, owns_of h⟩

/-! ## Witnesses: what the owner and a debugger direct -/

def ownedOnly : State := owned 5 none
theorem directs (b : List Byte) : Accepted ownedOnly (asks 1 6 b) := accepted_of rfl
def hostBody (key offset size : Nat) : List Byte := natBytes 8 key ++ natBytes 8 offset ++ natBytes 8 size ++ [2, 3] ++ natBytes 2 0 ++ natBytes 4 9 ++ natBytes 8 0 ++ natBytes 4 5 ++ natBytes 28 0
theorem witness_windowsOpen :
    (∀ b ∈ [body8 [0, 0, 65536] ++ [1], body8 [255, 2 ^ 38 - 65536, 65536] ++ [3]], field b 0 4 < 256 ∧ field b 8 8 % 65536 = 0 ∧ field b 16 8 % 65536 = 0 ∧ field b 16 8 ≠ 0 ∧
      field b 8 8 + field b 16 8 ≤ 2 ^ 38 ∧ field b 24 1 ≠ 0 ∧ field b 24 1 ≤ 3 ∧ Tbl.find ownedOnly.mgmt.windows (field b 0 4) = none) ∧
    (let s := { ownedOnly with mgmt := { ownedOnly.mgmt with windows := [(0, ⟨0, 65536, 1, 5⟩)] }, links := { ownedOnly.links with windows := [(3, ⟨0, 65536, 2, 3, 0, 0, 0⟩)] } }
     mayDirect s (asks 1 6 (body8 [0])) = true ∧ Tbl.find s.mgmt.windows (field (body8 [0]) 0 4) ≠ none ∧ Tbl.find s.links.windows (field (body8 [3]) 0 8) ≠ none ∧
       ∀ key ∈ [0, 1023], let b := hostBody key 65536 65536
         (parseHostWindow (b.drop 8)).map (fun w => decide (∀ e ∈ s.links.windows, e.1 ≠ field b 0 8 → e.2.offset + e.2.size ≤ w.offset ∨ w.offset + w.size ≤ e.2.offset)) =
           some true ∧ field b 0 8 < 1024) ∧
    (∀ b ∈ [[0, 0, 255, 3, 1, 0], [1, 0, 255, 3, 0, 0]], field b 2 2 ≤ 1023 ∧ (field b 0 1 = 0 → field b 4 2 ≠ 0)) ∧ ownedOnly.anyResident = true ∧
    ({ ownedOnly with teams := [] } : State).anyResident = false ∧ ownedOnly.mgmt.due = [] ∧
    (∀ b ∈ [[0, 0, 0, 1], [1, 0, 0, 0] ++ body8 [0, 0x10000] ++ [1, 0, 0, 0, 0, 0, 0, 0]], field b 3 1 ≠ 0 ∨ field b 16 8 ≠ 0) ∧ Tbl.wf [] ownedOnly.path.tlbCore = true ∧
    Tbl.wf [] ownedOnly.path.tlbClus = true ∧ Tbl.wf [] ownedOnly.path.tlbDie = true ∧ ownedOnly.oldAccessesDone (some 0) ownedOnly.nextId = true ∧
    ({ storing .loc 0x40200 with nextId := 100 } : State).oldAccessesDone (some 0) 100 = false := by decide +kernel

theorem accepted_same {s : State} {q : EdjorRequest} (h : mayDirect s q = true) : Accepted s q := accepted_of h
/-- The owner's device with other parts of a state. -/
def ownedWith (s : State) : State := { s with mgmt := ownedOnly.mgmt, ready := true }
theorem witness_ownerDirects_graph : (∀ n ∈ [0, 1, 2], let s := ownedWith (nodeState n)
      mayDirect s (asks 1 6 (body8 [0x40800])) = true ∧ nodeAddr (field (body8 [0x40800]) 0 8) = true ∧ s.path.writes = [] ∧ s.rel.rot = [] ∧ s.memPoisoned 0x40804 4 = false ∧
        s.path.waits = [] ∧ s.memNat 0x40804 4 = n) ∧
    (let s := ownedWith (releasing 0x40800 quiet); mayDirect s (asks 1 6 (body8 [0x40800])) = true ∧ s.nodeFree 0x40800 = false) := by decide +kernel
theorem witness_ownerDirects_swap : let b : List Byte := [1, 0] ++ natBytes 2 2 ++ natBytes 2 0 ++ natBytes 2 3
    mayDirect ownedOnly (asks 1 6 b) = true ∧ coresIn b 2 = [0, 3] ∧
      (∀ c ∈ coresIn b 2, c < 1280 ∧ ownedOnly.coreEnabled c = true ∧ clusterOf c = clusterOf ((coresIn b 2).headD 0)) ∧ ownedOnly.saves.swaps = [] := by decide +kernel
theorem witness_ownerDirects_spill : let b : List Byte := natBytes 2 1 ++ natBytes 2 0; let s := ownedWith (swappingState true)
    mayDirect s (asks 1 6 b) = true ∧ coresIn b 0 = [0] ∧ s.slot 0 = .held [7] := by decide +kernel
theorem witness_ownerDirects_pool : let b := body8 [7, 0x200000, 65536]
    mayDirect ownedOnly (asks 1 6 b) = true ∧ field b 0 1 ≤ 7 ∧ field b 8 8 + field b 16 8 ≤ 2 ^ 38 := by decide +kernel
theorem witness_ownerDirects_parkans : let s := ownedWith (imaged (anImage .park true false) 65536)
    mayDirect s (asks 1 6 (body8 [3])) = true ∧ Tbl.find s.saves.images (field (body8 [3]) 0 4) = some (anImage .park true false) ∧
      Tbl.find s.saves.images (field (body8 [4]) 0 4) = none ∧ mayDirect s (asks 1 6 (body8 [4])) = true := by decide +kernel
/-- The grid of team 1 has its node at 0x40800. -/
def named : State := ownedWith { quiet with sched := { quiet.sched with grids := [(0, aGrid false)] } }
theorem witness_ownerDirects_team : mayDirect named (asks 1 6 (body8 [0x40800, 0])) = true ∧ named.teamNamed (body8 [0x40800, 0]) = some 1 ∧
    named.teamNamed (body8 [0x40880, 0]) = none := by decide +kernel

theorem witness_deviceIsSet : (∀ n < 9, mayDirect ownedOnly (asks 1 6 [BitVec.ofNat 8 n]) = true ∧ field [BitVec.ofNat 8 n] 0 1 = n) ∧ ownedOnly.prof.rings = [] ∧ ownedOnly.path.waits = [] ∧
    (∀ b ∈ [body8 [4, 10, 6], body8 [4, 24, 20]], mayDirect ownedOnly (asks 1 6 b) = true ∧ field b 0 1 = 4 ∧ 10 ≤ field b 8 8 ∧ field b 8 8 ≤ 24 ∧ 6 ≤ field b 16 8 ∧ field b 16 8 ≤ 20) ∧
    (∀ e ∈ ownedOnly.mgmt.sessions, e.2.claim = none) := by decide +kernel

/-- A debugger is attached to team 1, with a log of one snapshot after a rollback or before it. -/
def attached (d : Debug) : State := { named with debug := [(1, d)] }
def debugBody (b : List Byte) : List Byte := body8 [0x40800, 0] ++ b
theorem witness_debuggerStops : ∀ b ∈ [natBytes 16 0, [1, 4, 4, 0, 0, 0, 0, 0] ++ body8 [2 ^ 16] ++ (List.range 4).flatMap (fun i => natBytes 8 i) ++
      (List.range 4).flatMap (fun _ => natBytes 8 0x200 ++ natBytes 4 65536 ++ [2, 0, 0, 0])],
    let q := asks 1 6 (debugBody b)
    let x := q.body.drop 16
    mayDirect named q = true ∧ named.teamNamed q.body = some 1 ∧ Tbl.find named.debug 1 = none ∧ mayDirect (attached noDebug) q = true ∧ (attached noDebug).teamNamed q.body = some 1 ∧
      Tbl.find (attached noDebug).debug 1 = some noDebug ∧ field x 1 1 ≤ 4 ∧ field x 2 1 ≤ 4 ∧ (field x 8 8 = 0 ∨ 2 ^ 16 ≤ field x 8 8 ∧ field x 8 8 ≤ 2 ^ 40) ∧
      ((List.range (field x 2 1)).mapM (fun i => watchOf (x.drop (16 + 8 * field x 1 1 + 16 * i)))).isSome = true ∧ noDebug.replay = none ∧
      ((attached noDebug).frag? 1).map Frag.stop = some none ∧ ((attached noDebug).frags.map Prod.fst).Nodup ∧ ((attached noDebug).teamFrags 1).map Prod.fst = [1] := by decide +kernel
theorem witness_debuggerStops_step : let b := debugBody (natBytes 16 0)
    (attached noDebug).fragNamed 1 (b.drop 16) = some 1 := by decide +kernel

def snapOf (s : State) : Snapshot := ⟨(s.team? 1).getD plainTeam, s.waves, s.frags, s.pend⟩
def aReplay (copy live : Option Nat) : Replay := ⟨0, 65536, [snapOf named], copy, live, 0⟩
def checkpoint : Image := ⟨1, 0, 65536, .checkpoint, [], [], true, false, false, 5, 0⟩
/-- Replay mode may begin; it has begun; a copy is shown. -/
def mayReplay : State := { attached noDebug with saves := { named.saves with pools := [(0, (0x200000, 2 ^ 30))] } }
def replayed : State := { attached { noDebug with replay := some (aReplay none none) } with saves := { named.saves with images := [(3, checkpoint)] } }
def copying : State := { attached { noDebug with replay := some (aReplay (some 1) (some 3)) } with saves := { named.saves with images := [(3, checkpoint)] } }
theorem witness_debuggerReplays_mode : let q := asks 1 6 (debugBody (body8 [0, 65536])); let x := q.body.drop 16
    mayDirect mayReplay q = true ∧ mayReplay.teamNamed q.body = some 1 ∧ Tbl.find mayReplay.debug 1 = some noDebug ∧ field x 8 8 ≠ 0 ∧ field x 0 8 + field x 8 8 ≤ 2 ^ 38 ∧
      (mayReplay.team? 1).map (fun T => (T.where_, mayReplay.poolRoom (dieOf (T.cores.headD 0)) (2 ^ 33) (imageSize T))) = some (.live, true) ∧
      (mayReplay.frags.map Prod.fst).Nodup := by decide +kernel
theorem witness_debuggerReplays_discard : let q := asks 1 6 (debugBody [])
    mayDirect copying q = true ∧ copying.teamNamed q.body = some 1 ∧ (Tbl.find copying.debug 1).map Debug.replay = some (some (aReplay (some 1) (some 3))) ∧
      Tbl.find copying.saves.images 3 = some checkpoint ∧ mayDirect mayReplay q = true := by decide +kernel
theorem witness_debuggerReplays_rollback : let q := asks 1 6 (debugBody (natBytes 16 0)); let x := q.body.drop 16
    mayDirect replayed q = true ∧ replayed.teamNamed q.body = some 1 ∧ Tbl.find replayed.debug 1 = some { noDebug with replay := some (aReplay none none) } ∧
      replayed.saves.images.find? (fun e => e.2.team == 1 && e.2.kind == .checkpoint) = some (3, checkpoint) ∧
      (let hit := reachedAt (aReplay none none).log (field x 0 2) (field x 2 1) (BitVec.ofNat 64 (field x 8 8))
       let pos := hit.getD 0
       hit = some 0 ∧ (replayed.replayContext (aReplay none none).log pos
         (((((aReplay none none).log[pos]?).bind (fun c => c.fragNamed (field x 0 2) (field x 2 1))).map Prod.fst).getD 0)).isSome = true) ∧
      ∃ o h, replayed.packImage checkpoint (Config.freeNat replayed.free) = some o ∧ o.getLast? = some h := by
  intro q x
  have hf : fitsOnCore0 replayed plainHeader (16, 8, 1) replayed.occ = true := by decide +kernel
  obtain ⟨o, h, p, h1, h2, -, -⟩ := packOn_one (dies := List.range 8) (by decide) hf (Config.freeNat replayed.free)
  have ht : ∃ T, replayed.team? 1 = some T ∧ T.cores.length = 1 ∧ T.placed = plainHeader ∧
      (replayed.orderedWaves 1 T).map (fun e => (e.2.width / 4, (placeOf T e.2 0).base, (replayed.fragsOf e.1).length)) = [(16, 8, 1)] :=
    ⟨_, rfl, by decide +kernel⟩
  obtain ⟨T, t1, t2, t3, t4⟩ := ht
  refine ⟨by decide +kernel, by decide +kernel, by decide +kernel, by decide +kernel, by decide +kernel, o, h, ?_, h2⟩
  have hm : checkpoint.team = 1 := rfl
  simp only [State.packImage, hm, t1, t2, t3, t4]
  exact h1

/-! ## Witnesses: the machine as a whole -/

/-- The next move is fragment 1's issue of the first word, an IADD in base form. -/
def runs : State := codeState (bytesOfWords [0x30106108])
def issues1 : State := { runs with agenda := [.issue 1], cur := none }
theorem witness_StepRunsDecoded : ∃ s1 bs c, issues1.nextMove = (.issue 1, s1) ∧ s1.ctxOf 1 .instructionFetch = some c ∧ c.F.fstate = .running ∧ c.T.where_ = .live ∧
    s1.swapping c.W.core = false ∧ s1.breakHere c = false ∧ s1.awaitsEntries c = false ∧ s1.walkBusy (.core c.W.core) c.T.asid c.F.pc = false ∧ s1.rel.rot = [] ∧
    s1.fetchInstr c.W.core c.T.asid c.T.table c.F.pc = .ok bs ∧ (match decode bs with | .ok (i, _) => i == .iaddBase ⟨2, 6, 1, 3⟩ | .error _ => false) = true ∧
    c.F.stop = none := by
  have h : (match issues1.nextMove with
      | (.issue 1, s1) =>
        (match s1.ctxOf 1 .instructionFetch with
         | some c =>
           decide (c.F.fstate = .running ∧ c.T.where_ = .live ∧ s1.swapping c.W.core = false ∧ s1.breakHere c = false ∧ s1.awaitsEntries c = false ∧
             s1.walkBusy (.core c.W.core) c.T.asid c.F.pc = false ∧ s1.rel.rot = [] ∧ c.F.stop = none) &&
           (match s1.fetchInstr c.W.core c.T.asid c.T.table c.F.pc with
            | .ok bs => (match decode bs with | .ok (i, _) => i == .iaddBase ⟨2, 6, 1, 3⟩ | .error _ => false)
            | _ => false)
         | none => false)
      | _ => false) = true := by decide +kernel
  split at h
  · rename_i s1 h1
    split at h
    · rename_i c hc
      rw [Bool.and_eq_true, decide_eq_true_eq] at h
      obtain ⟨⟨h2, h3, h4, h5, h6, h7, h8, h9⟩, hf⟩ := h
      split at hf
      · rename_i bs hb
        exact ⟨s1, bs, c, h1, hc, h2, h3, h4, h5, h6, h7, h8, hb, hf, h9⟩
      · exact absurd hf (by simp)
    · exact absurd h (by simp)
  · exact absurd h (by simp)
theorem witness_StepRunsDecoded_events : ({ quiet with agenda := [.event .bringUp] } : State).agenda = .event .bringUp :: [] ∧ quiet.agenda = [] := ⟨rfl, by decide +kernel⟩
theorem witness_WavesStartClean : (8 : Nat) ≤ 8 ∧ ([] : List Word).length ≤ 64 := by decide
theorem witness_DecodeOfEncode : WellFormed (.iaddBase ⟨2, 6, 1, 3⟩) ∧ (encode (.iaddBase ⟨2, 6, 1, 3⟩)).isSome = true := ⟨(wellFormed_iff _).mp (by decide +kernel), by decide +kernel⟩
def isNext (o : Host.Outcome State Fault Refusal) : Bool := match o with | .next _ => true | _ => false
theorem witness_EveryStepKeepsCanonical : Canonical runs ∧ isNext (step issues1) = true := ⟨by unfold Canonical; decide +kernel, by decide +kernel⟩

/-! ## Ill-formed terms are refused -/

def iaddWord : ExtWord := { vv with fmt := 1 }
theorem smoke_illFormed : ∀ p ∈ [
    (Instr.iadd { iaddWord with fmt := 15 }, 60), (.iadd { iaddWord with d := ⟨.rsvd, 0⟩ }, 48), (.iadd { iaddWord with a := ⟨.scal, 64⟩ }, 51),
    (.iadd { iaddWord with a := ⟨.imm, 0x80⟩ }, 51), (.iadd { iaddWord with c := ⟨.vec, 1⟩ }, 57), (.iadd { iaddWord with x := 1 }, 28), (.iadd { iaddWord with mod := 32 }, 90),
    (.iadd { iaddWord with sub := 1 }, 82), (.fmin { vv with fmt := 6, sat := true }, 81), (.iadd { iaddWord with rnd := 7 }, 78), (.iadd { iaddWord with la := 1 }, 74),
    (.iadd { iaddWord with tok := 3 }, 70), (.iadd { iaddWord with minw := 5 }, 86), (.iadd { iaddWord with win := true }, 89),
    (.elect { blankExt with d := ⟨.pred, 3⟩, minw := 6 }, 86), (.mts { blankExt with d := ⟨.special, 0xFF⟩, a := ⟨.scal, 1⟩ }, 48), (.pnotBase ⟨0, 33, 1, 0⟩, 12),
    (.nopLong (.ext { blankExt with d := ⟨.vec, 1⟩ }), 12), (.ld { laneWord with sub := 7 }, 82)], firstOffence p.1 = some p.2 ∧ wellFormed p.1 = false := by decide +kernel
theorem smoke_scalarGuard : firstOffence (.iadd { iaddWord with d := ⟨.scal, 3⟩, a := ⟨.scal, 1⟩, b := ⟨.scal, 2⟩, g := 3 }) = some 64 := by decide +kernel
theorem smoke_reservedOpcodes :
    decode (bytesOfWords [0x00000002, 0, 0]) = .error (.illegal 0x00000002 4) ∧ decode (bytesOfWords [0x00000582, 0, 0]) = .error (.illegal 0x00000582 4) ∧
    decode (bytesOfWords [0x00000882, 0, 0]) = .error (.illegal 0x00000882 4) ∧ decode (bytesOfWords [0x00000FE2, 0, 0]) = .error (.illegal 0x00000FE2 4) := ⟨rfl, rfl, rfl, rfl⟩
theorem smoke_truncated : (match decode (bytesOfWords [0x00000102, 0]) with | .error .truncated => true | _ => false) = true := by decide +kernel

/-! ## Words laid out by R21 from the opcodes of R46, in every row of it -/

theorem test_words_base :
    decode (bytesOfWords [0x30106108]) = .ok (.iaddBase ⟨2, 6, 1, 3⟩, []) ∧
    decode (bytesOfWords [0x00106111, 0x3456789A, 0x00000012]) = .ok (.isubBaseLit ⟨0, 6, 1, 0⟩ 78187493530, []) ∧
    decode (bytesOfWords [0x00009341, 0xFFFFFFFF, 0xFFFFFFFF]) = .ok (.movlBaseLit ⟨0, 9, 0, 0⟩ 18446744073709551615, []) ∧
    decode (bytesOfWords [0x001033A0]) = .ok (.pnotBase ⟨0, 3, 1, 0⟩, []) :=
  ⟨rfl, rfl, rfl, rfl⟩
theorem test_words_control :
    decode (bytesOfWords [0x00400042, 0x00080000, 0x00000003]) = .ok (.brx { blankExt with a := ⟨.scal, 4⟩, g := 3 }, []) ∧
    decode (bytesOfWords [0x00406052, 0x00090000, 0x00000000]) = .ok (.call { blankExt with d := ⟨.scal, 6⟩, a := ⟨.scal, 4⟩ }, []) ∧
    decode (bytesOfWords [0x07C06072, 0x00310000, 0x00000000]) = .ok (.loop { blankExt with d := ⟨.scal, 6⟩, a := ⟨.imm, 124⟩ }, []) ∧
    decode (bytesOfWords [0xF0003092, 0x00040000, 0x00000000]) = .ok (.fuse { blankExt with d := ⟨.pred, 3⟩, x := 15 }, []) ∧
    decode (bytesOfWords [0x000030A2, 0x00040000, 0x03400000]) = .ok (.elect { blankExt with d := ⟨.pred, 3⟩, minw := 5, win := true }, []) ∧
    decode (bytesOfWords [0x000000B2, 0x00000000, 0x00000001]) = .ok (.exit { blankExt with g := 1 }, []) ∧
    decode (bytesOfWords [0x004000B2, 0x00080000, 0x00040000]) = .ok (.exitSucc { blankExt with a := ⟨.scal, 4⟩, sub := 1 }, []) :=
  ⟨rfl, rfl, rfl, rfl, rfl, rfl, rfl⟩
theorem test_words_integer :
    decode (bytesOfWords [0x00106162, 0x10000402, 0x00000000]) = .ok (.imad { blankExt with d := ⟨.vec, 6⟩, a := ⟨.vec, 1⟩, b := ⟨.vec, 2⟩, c := ⟨.vec, 4⟩, fmt := 1 }, []) ∧
    decode (bytesOfWords [0x001061B2, 0x20000002, 0x04000025]) = .ok (.imax { blankExt with d := ⟨.vec, 6⟩, a := ⟨.vec, 1⟩, b := ⟨.vec, 2⟩, fmt := 2, g := 5, mod := 1, gn := true }, []) ∧
    decode (bytesOfWords [0x00106242, 0x11800003, 0x00000000]) = .ok (.shl { blankExt with d := ⟨.vec, 6⟩, a := ⟨.vec, 1⟩, b := ⟨.imm, 3⟩, fmt := 1 }, []) ∧
    decode (bytesOfWords [0x001062F2, 0x10000402, 0x00000000]) = .ok (.bfi { blankExt with d := ⟨.vec, 6⟩, a := ⟨.vec, 1⟩, b := ⟨.vec, 2⟩, c := ⟨.vec, 4⟩, fmt := 1 }, []) ∧
    decode (bytesOfWords [0x00103312, 0x10040002, 0x00080000]) = .ok (.icmp { blankExt with d := ⟨.pred, 3⟩, a := ⟨.vec, 1⟩, b := ⟨.vec, 2⟩, fmt := 1, sub := 2 }, []) ∧
    decode (bytesOfWords [0x08006343, 0x00300000, 0x00000000, 0x89ABCDEF, 0x01234567]) = .ok (.movl { blankExt with d := ⟨.vec, 6⟩, a := ⟨.imm, 128⟩, lit := some 81985529216486895 }, []) ∧
    decode (bytesOfWords [0x00103372, 0x01240002, 0x00000000]) = .ok (.pand { blankExt with d := ⟨.pred, 3⟩, a := ⟨.pred, 1⟩, b := ⟨.pred, 2⟩ }, []) :=
  ⟨rfl, rfl, rfl, rfl, rfl, rfl, rfl⟩
theorem test_words_float_and_lanes :
    decode (bytesOfWords [0x00106432, 0x60000402, 0x00004000]) = .ok (.ffma { blankExt with d := ⟨.vec, 6⟩, a := ⟨.vec, 1⟩, b := ⟨.vec, 2⟩, c := ⟨.vec, 4⟩, fmt := 6, rnd := 1 }, []) ∧
    decode (bytesOfWords [0x001064D2, 0x60000000, 0x00000000]) = .ok (.frcp { blankExt with d := ⟨.vec, 6⟩, a := ⟨.vec, 1⟩, fmt := 6 }, []) ∧
    decode (bytesOfWords [0x00106532, 0x70000402, 0x00000000]) = .ok (.fdot2 { blankExt with d := ⟨.vec, 6⟩, a := ⟨.vec, 1⟩, b := ⟨.vec, 2⟩, c := ⟨.vec, 4⟩, fmt := 7 }, []) ∧
    decode (bytesOfWords [0x00106722, 0x01800001, 0x00000000]) = .ok (.shup { blankExt with d := ⟨.vec, 6⟩, a := ⟨.vec, 1⟩, b := ⟨.imm, 1⟩ }, []) ∧
    decode (bytesOfWords [0x00106722, 0x01800001, 0x00040000]) = .ok (.shdn { blankExt with d := ⟨.vec, 6⟩, a := ⟨.vec, 1⟩, b := ⟨.imm, 1⟩, sub := 1 }, []) ∧
    decode (bytesOfWords [0x00129792, 0x000D0000, 0x00000000]) = .ok (.mts { blankExt with d := ⟨.special, 41⟩, a := ⟨.scal, 1⟩ }, []) :=
  ⟨rfl, rfl, rfl, rfl, rfl, rfl⟩
theorem test_words_memory :
    decode (bytesOfWords [0x30406802, 0x0C080001, 0x000C0080]) = .ok (.ld { blankExt with d := ⟨.vec, 6⟩, a := ⟨.scal, 4⟩, b := ⟨.vec, 1⟩, c := ⟨.imm, 0⟩, x := 3, tok := 2, sub := 3 }, []) ∧
    decode (bytesOfWords [0x30406812, 0x0C080001, 0x000C0000]) = .ok (.st { blankExt with d := ⟨.vec, 6⟩, a := ⟨.scal, 4⟩, b := ⟨.vec, 1⟩, c := ⟨.imm, 0⟩, x := 3, sub := 3 }, []) ∧
    decode (bytesOfWords [0x30400862, 0x0C080001, 0x000C0000]) = .ok (.cctl { blankExt with a := ⟨.scal, 4⟩, b := ⟨.vec, 1⟩, c := ⟨.imm, 0⟩, x := 3, sub := 3 }, []) ∧
    decode (bytesOfWords [0x00000872, 0x00000000, 0x10040080]) = .ok (.fence { blankExt with tok := 2, sub := 1, mod := 4 }, []) ∧
    decode (bytesOfWords [0x30406902, 0x10080201, 0x00000080]) = .ok (.atom { blankExt with d := ⟨.vec, 6⟩, a := ⟨.scal, 4⟩, b := ⟨.vec, 1⟩, c := ⟨.vec, 2⟩, x := 3, fmt := 1, tok := 2 }, []) ∧
    decode (bytesOfWords [0x00406942, 0x0189007F, 0x10000000]) = .ok (.wake { blankExt with d := ⟨.scal, 6⟩, a := ⟨.scal, 4⟩, b := ⟨.imm, 127⟩, mod := 4 }, []) ∧
    decode (bytesOfWords [0x08000953, 0x00300000, 0x000C0000, 0x00000008, 0x00000000]) = .ok (.waitK { blankExt with a := ⟨.imm, 128⟩, sub := 3, lit := some 8 }, []) :=
  ⟨rfl, rfl, rfl, rfl, rfl, rfl, rfl⟩
theorem test_words_engines :
    decode (bytesOfWords [0x40801982, 0x018B0000, 0x00000000]) = .ok (.cpy { blankExt with d := ⟨.queue, 1⟩, a := ⟨.scal, 8⟩, b := ⟨.imm, 0⟩, x := 4 }, []) ∧
    decode (bytesOfWords [0x000029D2, 0x00030000, 0x00040000]) = .ok (.qfence { blankExt with d := ⟨.queue, 2⟩, sub := 1 }, []) ∧
    decode (bytesOfWords [0x104009E2, 0x00480005, 0x00000000]) = .ok (.binit { blankExt with a := ⟨.scal, 4⟩, b := ⟨.scal, 5⟩, x := 1 }, []) ∧
    decode (bytesOfWords [0x004009F2, 0x01880000, 0x00040000]) = .ok (.bexp { blankExt with a := ⟨.scal, 4⟩, b := ⟨.imm, 0⟩, sub := 1 }, []) ∧
    decode (bytesOfWords [0x00806A02, 0x00310000, 0x01400000]) = .ok (.omclaim { blankExt with d := ⟨.scal, 6⟩, a := ⟨.imm, 8⟩, minw := 5 }, []) ∧
    decode (bytesOfWords [0x00000A42, 0x7DB00001, 0x01400080]) = .ok (.mma { blankExt with a := ⟨.imm, 0⟩, b := ⟨.imm, 1⟩, c := ⟨.imm, 0⟩, fmt := 7, tok := 2, minw := 5 }, []) ∧
    decode (bytesOfWords [0x00000A62, 0x0C000000, 0x01400080]) = .ok (.accz { blankExt with c := ⟨.imm, 0⟩, tok := 2, minw := 5 }, []) :=
  ⟨rfl, rfl, rfl, rfl, rfl, rfl, rfl⟩
theorem test_words_units :
    decode (bytesOfWords [0x20803B12, 0x00031410, 0x000000C0]) = .ok (.rct { blankExt with d := ⟨.queue, 3⟩, a := ⟨.vec, 8⟩, b := ⟨.vec, 16⟩, c := ⟨.vec, 20⟩, x := 2, tok := 3 }, []) ∧
    decode (bytesOfWords [0x20006B32, 0x00010000, 0x000800C0]) = .ok (.rccfgPause { blankExt with d := ⟨.scal, 6⟩, x := 2, tok := 3, sub := 2 }, []) ∧
    decode (bytesOfWords [0x10828B82, 0x0C400104, 0x000000C0]) = .ok (.trace { blankExt with d := ⟨.vec, 40⟩, a := ⟨.vec, 8⟩, b := ⟨.scal, 4⟩, c := ⟨.imm, 1⟩, x := 1, tok := 3 }, []) ∧
    decode (bytesOfWords [0x00000BC2, 0x00000000, 0x040000C0]) = .ok (.hitacc { blankExt with tok := 3, mod := 1 }, []) ∧
    decode (bytesOfWords [0x70406BE2, 0x00090000, 0x000000C0]) = .ok (.vbld { blankExt with d := ⟨.scal, 6⟩, a := ⟨.scal, 4⟩, x := 7, tok := 3 }, []) ∧
    decode (bytesOfWords [0x00800C02, 0x0C400004, 0x000000C3]) = .ok (.texfb { blankExt with a := ⟨.vec, 8⟩, b := ⟨.scal, 4⟩, c := ⟨.imm, 0⟩, g := 3, tok := 3 }, []) ∧
    decode (bytesOfWords [0x00406C12, 0x00090000, 0x000000C0]) = .ok (.refit { blankExt with d := ⟨.scal, 6⟩, a := ⟨.scal, 4⟩, tok := 3 }, []) :=
  ⟨rfl, rfl, rfl, rfl, rfl, rfl, rfl⟩
theorem test_words_system :
    decode (bytesOfWords [0x00400C92, 0x00080000, 0x00040080]) = .ok (.tready { blankExt with a := ⟨.scal, 4⟩, tok := 2, sub := 1 }, []) ∧
    decode (bytesOfWords [0x00400CA2, 0x01880003, 0x00000080]) = .ok (.drain { blankExt with a := ⟨.scal, 4⟩, b := ⟨.imm, 3⟩, tok := 2 }, []) ∧
    decode (bytesOfWords [0x02A00D22, 0x00300000, 0x00000000]) = .ok (.bkpt { blankExt with a := ⟨.imm, 42⟩ }, []) ∧
    decode (bytesOfWords [0x00000D42, 0x00000000, 0x00040000]) = .ok (.iclr { blankExt with sub := 1 }, []) ∧
    decode (bytesOfWords [0x00000FF2, 0x00000000, 0x00000000]) = .ok (.emulation blankExt, []) :=
  ⟨rfl, rfl, rfl, rfl, rfl⟩

/-! ## Single steps, with values worked out from the rules -/

/-- What `f` reads in the state after an instruction. -/
def after {α : Type} (s : State) (i : Instr) (f : State → α) : Option α := match exec i s with | .next t => some (f t) | _ => none
/-- Vector registers of both lanes hold some values. -/
def given (l : List (Nat × Word)) (tag : BitVec 4) : State :=
  wave quiet (fun W => l.foldl (fun W p => (W.setReg 0 p.1 ⟨p.2, tag⟩).setReg 1 p.1 ⟨p.2, tag⟩) W)
def v6 (s : State) : Word := (s.vreg 1 0 6).val
def p3 (s : State) : Bool := match s.wave? 1 with | some W => (W.pred 3).has 0 | none => false
def fragAfter (s : State) (i : Instr) (f : Frag → Word) : Option Word := (after s i (fun t => (t.frag? 1).map f)).bind id

/-- R188: the sum wraps. -/
theorem test_iadd_wraps : after (given [(1, 0x7FFFFFFFFFFFFFFF), (2, 1)] 1) (.iadd iaddWord) v6 = some 0x8000000000000000 := by decide +kernel
theorem test_isub_order : after (given [(1, 5), (2, 7)] 1) (.isub iaddWord) v6 = some 0xFFFFFFFFFFFFFFFE := by decide +kernel
/-- R190: an arithmetic shift keeps the sign. -/
theorem test_sar_sign : after (given [(1, 0x8000000000000000)] 1) (.sar { iaddWord with b := ⟨.imm, 4⟩ }) v6 = some 0xF800000000000000 := by decide +kernel
theorem test_popc : after (given [(1, 0xFF00FF)] 1) (.popc { iaddWord with b := ⟨.vec, 0⟩ }) v6 = some 16 := by decide +kernel
/-- R193: MOD[0] makes LT signed. -/
theorem test_icmp_signed : after (given [(1, 0xFFFFFFFFFFFFFFFF), (2, 1)] 1) (.icmp { iaddWord with d := ⟨.pred, 3⟩, sub := 2, mod := 1 }) p3 = some true := by decide +kernel
theorem test_icmp_unsigned : after (given [(1, 0xFFFFFFFFFFFFFFFF), (2, 1)] 1) (.icmp { iaddWord with d := ⟨.pred, 3⟩, sub := 2 }) p3 = some false := by decide +kernel
/-- R215: 1.5 + 0.5 and 1.5 + 2.25, element by element. -/
theorem test_fadd_elements : after (given [(1, 0x3FC000003FC00000), (2, 0x401000003F000000)] 6) (.fadd { vv with fmt := 6 }) v6 = some 0x4070000040000000 := by decide +kernel
theorem test_movl_literal : after quiet (.movl { blankExt with d := ⟨.vec, 6⟩, a := ⟨.imm, 0x80⟩, lit := some 0x0123456789ABCDEF }) v6 = some 0x0123456789ABCDEF := by decide +kernel
/-- R200: the link is the address behind the seam. -/
theorem test_call_link : fragAfter (roadTo 0x120) (.call callWord) (fun F => F.scalar 6) = some 0x110 := by decide +kernel
/-- R387: TPC is the address behind TRAP, TVAL the immediate, and the handler stands at ENTRY + HANDLER. -/
theorem test_trap_registers : after quiet (.trap { blankExt with a := ⟨.imm, 0x2A⟩ }) (fun t => (t.frag? 1).map (fun F => (F.tpc, F.tval, F.tmask, F.pc))) =
    some (some (0x10C, 0x2A, 3, 0x1100)) := by decide +kernel
/-- R375: the last decrement answers 0 and starts the node. -/
theorem test_launch_last : after (nodeState 1) (.launch launchWord) (fun t => (t.memNat 0x40804 4, Tbl.get [] t.sched.tasks 0)) = some (0, [.start 0x40800]) := by decide +kernel
theorem test_launch_first : fragAfter (nodeState 2) (.launch launchWord) (fun F => F.scalar 6) = some 1 := by decide +kernel
/-- R376: TREADY sets SET in the descriptor's first byte. -/
theorem test_tready_sets : after (flagged 0) (.tready (flagWord 0)) (fun t => t.memNat 0x40800 1) = some 1 := by decide +kernel

end Sys2Proof.Tests
end

/-! SUPPORT. Device memory and the scratchpad after writes of consecutive bytes. -/

namespace Sys2Proof.Machine

/-! ## Cells that agree on what they write -/

/-- Where every cell writes what `g` gives its address, the order of the cells does not matter. -/
theorem get_writeCells_of_agree (m : Tbl Byte) (cs : List (Nat × Byte)) (g : Nat → Byte) (h : ∀ c ∈ cs, c.2 = g c.1) (a : Nat) :
    Tbl.get 0 (writeCells m cs) a = if a ∈ cs.map Prod.fst then g a else Tbl.get 0 m a := by
  induction cs generalizing m with
  | nil => simp [writeCells]
  | cons c cs ih =>
    have step : writeCells m (c :: cs) = writeCells (Tbl.set 0 m c.1 c.2) cs := rfl
    rw [step, ih _ fun c' hc => h c' (List.mem_cons_of_mem _ hc), Tbl.get_set, h c (List.mem_cons_self ..)]
    by_cases hc : a = c.1
    · simp [hc]
    · simp [hc, List.mem_cons]

theorem mem_cellsAt (a : Nat) (bs : List Byte) (c : Nat × Byte) : c ∈ cellsAt a bs ↔ ∃ i, bs[i]? = some c.2 ∧ a + i = c.1 := by
  simp only [cellsAt, List.mem_map, Prod.exists, List.mk_mem_zipIdx_iff_getElem?]
  constructor
  · rintro ⟨v, i, hi, rfl⟩; exact ⟨i, hi, rfl⟩
  · rintro ⟨i, hi, ha⟩; exact ⟨c.2, i, hi, by rw [ha]⟩

theorem cellsAt_agree (a : Nat) (bs : List Byte) (c : Nat × Byte) (h : c ∈ cellsAt a bs) : c.2 = bs.getD (c.1 - a) 0 := by
  obtain ⟨i, hi, ha⟩ := (mem_cellsAt a bs c).1 h
  rw [← ha, Nat.add_sub_cancel_left, List.getD_eq_getElem?_getD, hi, Option.getD_some]

theorem mem_cellsAt_addr (a b : Nat) (bs : List Byte) : b ∈ (cellsAt a bs).map Prod.fst ↔ a ≤ b ∧ b - a < bs.length := by
  simp only [List.mem_map, mem_cellsAt]
  constructor
  · rintro ⟨c, ⟨i, hi, ha⟩, rfl⟩
    obtain ⟨hlt, -⟩ := List.getElem?_eq_some_iff.1 hi
    omega
  · rintro ⟨hle, hlt⟩
    exact ⟨(b, bs[b - a]), ⟨b - a, List.getElem?_eq_getElem hlt, by omega⟩, rfl⟩

/-- The byte at `b` after bytes `bs` were stored from `a` on, where it was `old`. -/
theorem byte_of_cellsAt (a b : Nat) (bs : List Byte) (old : Byte) :
    (if b ∈ (cellsAt a bs).map Prod.fst then bs.getD (b - a) 0 else old) = if a ≤ b then (bs[b - a]?).getD old else old := by
  rw [List.getD_eq_getElem?_getD]
  by_cases hle : a ≤ b
  · by_cases hlt : b - a < bs.length
    · rw [if_pos ((mem_cellsAt_addr a b bs).2 ⟨hle, hlt⟩), if_pos hle, List.getElem?_eq_getElem hlt, Option.getD_some, Option.getD_some]
    · rw [if_neg fun h => hlt ((mem_cellsAt_addr a b bs).1 h).2, if_pos hle, List.getElem?_eq_none (by omega), Option.getD_none]
  · rw [if_neg fun h => hle ((mem_cellsAt_addr a b bs).1 h).1, if_neg hle]

theorem get_writeCells_cellsAt (m : Tbl Byte) (a b : Nat) (bs : List Byte) :
    Tbl.get 0 (writeCells m (cellsAt a bs)) b = if a ≤ b then (bs[b - a]?).getD (Tbl.get 0 m b) else Tbl.get 0 m b := by
  rw [get_writeCells_of_agree m _ (fun x => bs.getD (x - a) 0) (cellsAt_agree a bs), byte_of_cellsAt]

end Sys2Proof.Machine


/-! SUPPORT. Copy engines: how a chunk starts, is read, is written and is closed (R144, R146). -/

namespace Sys2Proof.Machine

/-! ## What the counting of a command's bytes leaves alone -/

/-- From `s` to `t` barriers may have been signalled and lost signals counted: only teams and counters differ. -/
structure Signalled (s t : State) : Prop where
  mem   : t.mem = s.mem
  waves : t.waves = s.waves
  eng   : t.eng = s.eng

theorem Signalled.refl (s : State) : Signalled s s := ⟨rfl, rfl, rfl⟩

theorem Signalled.trans {s t u : State} (h : Signalled s t) (k : Signalled t u) : Signalled s u :=
  ⟨k.mem.trans h.mem, k.waves.trans h.waves, k.eng.trans h.eng⟩

theorem State.signal_signalled (s : State) (t a n : Nat) (bad quiet : Bool) : Signalled s (s.signal t a n bad quiet) := by
  unfold State.signal
  split
  · exact .refl s
  · split_ifs
    · exact .refl s
    · split <;> exact ⟨rfl, rfl, rfl⟩

/-- Source-read-done counts the bytes in the command; the rest is signals. -/
theorem State.countSrd_signalled (s : State) (id n : Nat) :
    Signalled (s.adjCmd id (fun k => { k with srd := k.srd + n })) (s.countSrd id n) := by
  unfold State.countSrd
  dsimp only
  split
  · exact .refl _
  · split_ifs
    · exact State.signal_signalled ..
    · exact .refl _

theorem signals_signalled (a n : Nat) (bad quiet : Bool) (ts : List Nat) (s : State) :
    Signalled s (ts.foldl (fun s t => s.signal t a n bad quiet) s) := by
  induction ts generalizing s with
  | nil => exact .refl s
  | cons t ts ih => exact (s.signal_signalled t a n bad quiet).trans (ih _)

/-- Globally-visible counts what was moved in the command; the rest is signals. -/
theorem State.countGv_signalled (s : State) (id n moved : Nat) :
    Signalled (s.adjCmd id (fun k => { k with gv := k.gv + moved })) (s.countGv id n moved) := by
  unfold State.countGv
  dsimp only
  split
  · exact .refl _
  · split_ifs
    · exact signals_signalled ..
    · exact .refl _

theorem State.find_adjCmd (s : State) (id : Nat) (g : Command → Command) :
    Tbl.find (s.adjCmd id g).eng.cmds id = (Tbl.find s.eng.cmds id).map g := Tbl.find_adjust_same ..

theorem State.find_adjChunk (s : State) (id : Nat) (g : Chunk → Chunk) :
    Tbl.find (s.adjChunk id g).eng.chunks id = (Tbl.find s.eng.chunks id).map g := Tbl.find_adjust_same ..

/-- A command that has chunks left to begin, and that nothing has stopped, does not end. -/
theorem State.endCommand_of_unfinished (s : State) (id : Nat) (k : Command) (hk : Tbl.find s.eng.cmds id = some k) (he : k.ending = false)
    (hf : k.fault = none) (ha : k.abort = false) (hn : k.next < k.chunks) : s.endCommand id = s := by
  simp [State.endCommand, hk, he, hf, ha, hn]

/-! ## COPY_CHUNK_START -/

theorem State.chunkStart_of_idle_none (s : State) (cl e : Nat)
    (h : (∃ h ∈ s.eng.chunks, h.2.engine = cl * 8 + e) ∨ s.enginesEnabled (min cl 320) = false) : s.chunkStart cl e = s := by
  unfold State.chunkStart
  refine if_pos ?_
  rcases h with ⟨h, hm, he⟩ | h
  · have busy : s.eng.chunks.any (fun h => h.2.engine == cl * 8 + e) = true := List.any_eq_true.2 ⟨h, hm, by simpa using he⟩
    simp [busy]
  · simp [h]

section start

variable {s : State} {cl e id : Nat} {k : Command} (he : e < 8) (hon : s.enginesEnabled cl = true)
  (hidle : ∀ h ∈ s.eng.chunks, h.2.engine ≠ cl * 8 + e) (hcl : cl < 320) (hab : s.aborted k = false)
include he hon hidle

/-- The engine is not kept from taking a chunk. -/
theorem State.mayTake : (s.eng.chunks.any (fun h => h.2.engine == cl * 8 + e) || (cl < 320 && 8 ≤ e) || !s.enginesEnabled cl) = false := by
  have idle : s.eng.chunks.any (fun h => h.2.engine == cl * 8 + e) = false := List.any_eq_false.2 fun h hm => by simpa using hidle h hm
  have real : decide (8 ≤ e) = false := decide_eq_false (by omega)
  simp [idle, real, hon]

include hcl hab

/-- An idle engine takes the next chunk of a started command (R144). -/
theorem State.chunkStart_open (ho : s.openCommand cl = some (id, k)) : s.chunkStart cl e = s.takeChunk (cl * 8 + e) id k := by
  have cap : min cl 320 = cl := by omega
  simp only [State.chunkStart, cap, State.mayTake he hon hidle, ho, hab]
  rfl

/-- Where no started command has one left, it starts the first command whose turn it is, with that command's first chunk (R144). -/
theorem State.chunkStart_next (ho : s.openCommand cl = none) (hn : s.nextCommand cl = some (id, k)) (hc : k.chunks ≠ 0) :
    s.chunkStart cl e = ({ s with eng := { s.eng with turn := Tbl.set 0 s.eng.turn cl k.wave } }.adjCmd id
      (fun k => { k with started := true, abort := s.aborted k })).takeChunk (cl * 8 + e) id k := by
  have cap : min cl 320 = cl := by omega
  simp only [State.chunkStart, cap, State.mayTake he hon hidle, ho, hn, hab, hc]
  rfl

end start

/-- The command that a chunk is taken of has one chunk less to begin. -/
theorem State.takeChunk_cmd (s : State) (engine id : Nat) (k : Command) :
    Tbl.find (s.takeChunk engine id k).eng.cmds id = (Tbl.find s.eng.cmds id).map (fun k => { k with next := k.next + 1 }) :=
  s.find_adjCmd id (fun k => { k with next := k.next + 1 })

/-- The chunk that an engine takes has not been read. -/
theorem State.takeChunk_chunk (s : State) (engine id : Nat) (k : Command) :
    Tbl.find (s.takeChunk engine id k).eng.chunks s.nextId = some ⟨id, k.next, engine, false, [], false, [], false⟩ := Tbl.find_put_same ..

/-! ## COPY_CHUNK_DONE -/

section done

variable {s : State} {id : Nat} {h : Chunk} {k : Command} {T : Team}

section level

variable (hh : Tbl.find s.eng.chunks id = some h) (hk : Tbl.find s.eng.cmds h.cmd = some k) (hT : s.team? k.team = some T) (hab : s.aborted k = false)
include hh hk hT hab

/-- A chunk of a command that is not to end ABORT goes on to its next level (R146): first its source is read. -/
theorem State.chunkDone_unread (hr : h.read = false) : s.chunkDone id = s.readChunk id h k T := by simp [State.chunkDone, hh, hk, hab, hT, hr]

/-- One that has been read is written. -/
theorem State.chunkDone_unsent (hr : h.read = true) (hs : h.sent = false) : s.chunkDone id = s.writeChunk id h k T := by
  simp [State.chunkDone, hh, hk, hab, hT, hr, hs]

/-- One that has been written is closed, once its writes are performed. -/
theorem State.chunkDone_sent (hr : h.read = true) (hs : h.sent = true) : s.chunkDone id = s.closeChunk id h k := by
  simp [State.chunkDone, hh, hk, hab, hT, hr, hs]

end level

/-! ### Reading -/

theorem State.dropRemote_of_none (p : RemoteReq → Bool) (hr : s.path.remote = []) : s.dropRemote p = s := by
  have same : List.filter (fun e => !p e.2) s.path.remote = s.path.remote := by rw [hr, List.filter_nil]
  unfold State.dropRemote
  rw [same]

/-- Chunk `id` of command `h.cmd` has read `data` (R146): the chunk keeps it, the command is poisoned with it, and its bytes count at source-read-done. -/
def State.tookData (s : State) (id : Nat) (h : Chunk) (n : Nat) (data : List (Byte × Taint)) : State :=
  (({ s with free := s.free + 1 }.adjChunk id (fun h => { h with read := true, data := data })).adjCmd h.cmd
    (fun k => { k with poison := k.poison || data.any (fun b => b.2 != Taint.clean) })).countSrd h.cmd n

/-- Bytes that come from the scratchpad are read at once, with the poison of their sectors. -/
theorem State.readChunk_of_scratch {o n a : Nat} {d : Spot} (hm : k.moves T (k.from h.index) (k.upto h.index) = [⟨o, n, .scr a, d⟩])
    (hst : k.struck = false) (hr : s.path.remote = []) :
    s.readChunk id h k T = s.tookData id h (k.upto h.index - k.from h.index)
      ((List.range n).map (fun i => taintedByte s.free (o + i) (Tbl.get 0 T.scratch (a + i)) (T.spoison.contains ((a + i) / 32)))) := by
  have gone := State.dropRemote_of_none (s := { s with free := s.free + 1 }) (fun r => r.pend == some id) hr
  simp [State.readChunk, hm, globals, State.engineAll, hr, State.readSpot, hst, State.engineReads, gone, State.tookData]

theorem State.tookData_spec (n : Nat) (data : List (Byte × Taint)) (hh : Tbl.find s.eng.chunks id = some h) (hk : Tbl.find s.eng.cmds h.cmd = some k) :
    (s.tookData id h n data).mem = s.mem ∧ (s.tookData id h n data).waves = s.waves ∧
      Tbl.find (s.tookData id h n data).eng.chunks id = some { h with read := true, data := data } ∧
      (Tbl.find (s.tookData id h n data).eng.cmds h.cmd).map Command.srd = some (k.srd + n) := by
  obtain ⟨hmem, hwaves, heng⟩ := State.countSrd_signalled (({ s with free := s.free + 1 }.adjChunk id (fun h => { h with read := true, data := data })).adjCmd h.cmd
    (fun k => { k with poison := k.poison || data.any (fun b => b.2 != Taint.clean) })) h.cmd n
  refine ⟨hmem, hwaves, ?_, ?_⟩
  · rw [State.tookData, heng]
    simp [State.adjCmd, State.adjChunk, hh]
  · rw [State.tookData, heng, State.find_adjCmd, State.find_adjCmd]
    simp [State.adjChunk, hk]

/-! ### Writing -/

/-- Clean bytes are stored as they are. -/
theorem storedCells_of_clean (free a : Nat) (data : List (Byte × Taint)) (hc : ∀ b ∈ data, b.2 = .clean) :
    storedCells free (data.zipIdx.map (fun e => (a + e.2, e.1))) = cellsAt a (data.map Prod.fst) := by
  have known : ((data.zipIdx.map (fun e => (a + e.2, e.1))).filter (fun b => b.2.2 == .unknown)) = [] := by
    refine List.filter_eq_nil_iff.2 fun c hcm => ?_
    obtain ⟨e, he, rfl⟩ := List.mem_map.1 hcm
    simp [hc _ (List.fst_mem_of_mem_zipIdx he)]
  simp [storedCells, known, cellsAt, List.zipIdx_map, Function.comp_def]

/-- A receiver that takes one unit of clean bytes into its scratchpad. -/
theorem Team.takeUnits_scratch (V : Team) (free lo n a : Nat) (src : Spot) (data : List (Byte × Taint)) (hn : data.length = n)
    (hc : ∀ b ∈ data, b.2 = .clean) : (V.takeUnits free lo data [⟨lo, n, src, .scr a⟩]).scratch = writeCells V.scratch (cellsAt a (data.map Prod.fst)) := by
  have whole : unitData lo data ⟨lo, n, src, .scr a⟩ = data := by simp [unitData, hn]
  simp [Team.takeUnits, whole, storedCells_of_clean free a data hc]

/-- Chunk `id` has been written, and waits for no write. -/
def State.sentChunk (s : State) (id : Nat) : State :=
  { s with free := s.free + 3 }.adjChunk id (fun h => { h with sent := true, writes := [], data := [] })

/-- A unit for one receiver's scratchpad is written at once. -/
theorem State.writeChunk_to_scratch {n a u : Nat} {src : Spot} (hm : k.moves T (k.from h.index) (k.upto h.index) = [⟨k.from h.index, n, src, .scr a⟩])
    (hto : k.to_ = [u]) (hord : s.ordWaits h.cmd k = false) :
    s.writeChunk id h k T = (s.adjTeam u (fun V => V.takeUnits s.free (k.from h.index) h.data [⟨k.from h.index, n, src, .scr a⟩])).sentChunk id := by
  simp [State.writeChunk, hm, hto, hord, globals, State.engineAll, State.sendCopied, State.sendCopiedAway, State.sentChunk]

theorem State.sentChunk_chunk (s : State) (id : Nat) : Tbl.find (s.sentChunk id).eng.chunks id =
    (Tbl.find s.eng.chunks id).map (fun h => { h with sent := true, writes := [], data := [] }) := by
  rw [State.sentChunk, State.find_adjChunk]

theorem State.sentChunk_team? (V : Team) (u : Nat) (g : Team → Team) (hV : s.team? u = some V) :
    ((s.adjTeam u g).sentChunk id).team? u = some (g V) :=
  (Tbl.find_adjust_same s.teams u g).trans (congrArg (Option.map g) hV)

/-! ### Closing -/

/-- A chunk whose writes are not all performed waits (R146). -/
theorem State.closeChunk_of_pending (hw : ∃ w ∈ h.writes, (Tbl.find s.path.writes w).isSome = true) : s.closeChunk id h k = s :=
  if_pos (List.any_eq_true.2 hw)

/-- A chunk whose writes are performed is over; the command counts its bytes unless one of them has failed. -/
theorem State.closeChunk_of_performed (hk : Tbl.find s.eng.cmds h.cmd = some k)
    (hw : ∀ w ∈ h.writes, Tbl.find s.path.writes w = none) (hf : k.fault = none) (ha : k.abort = false) (he : k.ending = false) (hn : k.next < k.chunks) :
    (s.closeChunk id h k).mem = s.mem ∧ Tbl.find (s.closeChunk id h k).eng.chunks id = none ∧
      (Tbl.find (s.closeChunk id h k).eng.cmds h.cmd).map Command.gv = some (if h.failed then k.gv else k.gv + (k.upto h.index - k.from h.index)) := by
  have performed : h.writes.any (fun w => (Tbl.find s.path.writes w).isSome) = false := List.any_eq_false.2 fun w hm => by simp [hw w hm]
  have gone : Tbl.find (s.dropChunk id).eng.chunks id = none := Tbl.find_drop_same ..
  rw [State.closeChunk, if_neg (by simp [performed])]
  cases hfail : h.failed with
  | true =>
    have cmd : Tbl.find (s.dropChunk id).eng.cmds h.cmd = some k := hk
    simp only [if_true]
    rw [State.endCommand_of_unfinished _ _ k cmd he hf ha hn]
    exact ⟨rfl, gone, by rw [cmd]; rfl⟩
  | false =>
    obtain ⟨hmem, -, heng⟩ := State.countGv_signalled (s.dropChunk id) h.cmd (k.upto h.index - k.from h.index) (k.upto h.index - k.from h.index)
    have cmd : Tbl.find ((s.dropChunk id).countGv h.cmd (k.upto h.index - k.from h.index) (k.upto h.index - k.from h.index)).eng.cmds h.cmd =
        some { k with gv := k.gv + (k.upto h.index - k.from h.index) } := by
      rw [heng, State.find_adjCmd]
      exact congrArg (Option.map _) hk
    simp only [Bool.false_eq_true, if_false]
    rw [State.endCommand_of_unfinished _ _ _ cmd he hf ha hn]
    exact ⟨hmem, by rw [heng]; exact gone, by rw [cmd]; rfl⟩

end done

/-! ## The statement -/

/-- Settles O42: an engine's start and each level of its chunk, by the lemmas above. -/
theorem chunksMove : Obligations.ChunksMove := by
  refine ⟨?_, fun s cl e h => ?_, ?_⟩
  · intro s cl e id k hcl he hon hidle hk hab
    refine ⟨fun ho => ?_, fun ho hn hc => ?_⟩
    · exact ⟨_, s.nextId, _, congrArg Host.Outcome.next (State.chunkStart_open he hon hidle hcl hab ho), by rw [State.takeChunk_cmd, hk]; rfl,
        State.takeChunk_chunk .., rfl, rfl, rfl, rfl, rfl, rfl, rfl⟩
    · refine ⟨_, s.nextId, _, congrArg Host.Outcome.next (State.chunkStart_next he hon hidle hcl hab ho hn hc), ?_, Tbl.get_set_same ..,
        State.takeChunk_chunk .., rfl, rfl, rfl, rfl⟩
      rw [State.takeChunk_cmd, State.find_adjCmd]
      simp [hk, hab]
  · exact congrArg Host.Outcome.next (State.chunkStart_of_idle_none s cl e h)
  · intro s id h k T hh hk hT hab lo hi
    refine ⟨fun o n a d hread hst hm hr => ?_, fun n a src u V hread hsent hm hn hc hto hV hord => ?_, fun hread hsent hw => ?_,
      fun hread hsent hw hf ha he hn => ?_⟩
    · have read := (State.chunkDone_unread hh hk hT hab hread).trans (State.readChunk_of_scratch hm hst hr)
      obtain ⟨hmem, hwaves, hchunk, hsrd⟩ := State.tookData_spec (k.upto h.index - k.from h.index) _ hh hk
      exact ⟨_, congrArg Host.Outcome.next read, hmem, hwaves, hchunk, hsrd⟩
    · have written := (State.chunkDone_unsent hh hk hT hab hread hsent).trans (State.writeChunk_to_scratch hm hto hord)
      refine ⟨_, _, congrArg Host.Outcome.next written, rfl, State.sentChunk_team? V u _ hV, ?_, fun b => ?_⟩
      · exact (State.sentChunk_chunk ..).trans (congrArg _ hh)
      · rw [Team.takeUnits_scratch V _ _ n a src h.data hn hc, get_writeCells_cellsAt]
    · exact congrArg Host.Outcome.next ((State.chunkDone_sent hh hk hT hab hread hsent).trans (State.closeChunk_of_pending hw))
    · exact ⟨_, congrArg Host.Outcome.next (State.chunkDone_sent hh hk hT hab hread hsent), State.closeChunk_of_performed hk hw hf ha he hn⟩

end Sys2Proof.Machine

/-! SUPPORT. What reads and writes at the homes of device memory, and the errors that they find, leave of the rest of the machine (R73, R96, R326). -/

namespace Sys2Proof.Machine

/-! ## A home's work and the rest of the machine -/

/-- From `s` to `t` the homes of device memory have worked: memory, its caches, the writes on their way and the error records may differ; no core,
request, ring or waiting fragment does, and no error at rest has come. -/
structure HomeOnly (s t : State) : Prop where
  frags : t.frags = s.frags
  waves : t.waves = s.waves
  teams : t.teams = s.teams
  mgmt  : t.mgmt = s.mgmt
  prof  : t.prof = s.prof
  waits : t.path.waits = s.path.waits
  rot   : s.rel.rot = [] → t.rel.rot = []

theorem HomeOnly.refl (s : State) : HomeOnly s s := ⟨rfl, rfl, rfl, rfl, rfl, rfl, id⟩

theorem HomeOnly.trans {s t u : State} (h : HomeOnly s t) (k : HomeOnly t u) : HomeOnly s u :=
  ⟨k.frags.trans h.frags, k.waves.trans h.waves, k.teams.trans h.teams, k.mgmt.trans h.mgmt, k.prof.trans h.prof, k.waits.trans h.waits,
    fun hr => k.rot (h.rot hr)⟩

/-- A record is put before those of the ring, which keeps 4,096 (R411). -/
theorem State.logUnit_ring (s : State) (unit core die : Nat) (kind : BitVec 32) (synd : Nat) (addr flags : Word) :
    ∃ r, (s.logUnit unit core die kind synd addr flags).rel.ring = (r :: s.rel.ring).take 4096 ∧ r.kind = kind ∧ r.addr = addr := ⟨_, rfl, rfl, rfl⟩

theorem State.writeMem_homeOnly (s : State) (cells : List (Nat × Byte)) (bad : List Nat) : HomeOnly s (s.writeMem cells bad) :=
  ⟨rfl, rfl, rfl, rfl, rfl, rfl, congrArg (List.filter _)⟩

/-- A write to sectors that no fragment waits on wakes none. -/
theorem State.recheck_of_none (s : State) (secs : List Nat) (h : ∀ e ∈ s.path.waits, e.2.pa / 32 ∉ secs) : s.recheck secs = s := by
  have none_ : s.path.waits.filter (fun e => e.2.listed && !e.2.done && secs.contains (e.2.pa / 32) && !s.homeHolds (e.2.pa / 128)) = [] :=
    List.filter_eq_nil_iff.2 fun e he => by simp [h e he]
  rw [State.recheck, none_, List.foldl_nil]

theorem State.recheck_of_no_waits (s : State) (secs : List Nat) (h : s.path.waits = []) : s.recheck secs = s :=
  s.recheck_of_none secs (by simp [h])

/-! ## Errors that are found (R73 to R75, R414) -/

theorem mem_lineSecs (line k : Nat) : k ∈ lineSecs line ↔ k / 4 = line := by
  simp only [lineSecs, List.mem_map, List.mem_range]
  constructor
  · rintro ⟨i, hi, rfl⟩; omega
  · rintro rfl; exact ⟨k % 4, by omega, by omega⟩

/-- A sector of a codeword whose latest value device memory holds, and which an uncorrectable error takes with it (R75). -/
def State.Lost (s : State) (line k : Nat) : Prop := k / 4 = line ∧ k ∉ (s.l2Line line).dirty

theorem foldl_insert_mem (l p : List Nat) (k : Nat) : k ∈ l.foldl NSet.insert p ↔ k ∈ l ∨ k ∈ p := by
  induction l generalizing p with
  | nil => simp
  | cons a l ih => rw [List.foldl_cons, ih, NSet.mem_insert, List.mem_cons]; tauto

section spoil

variable (s : State) (line : Nat) (hw : ∀ e ∈ s.path.waits, e.2.pa / 128 ≠ line)
include hw

/-- An error that strikes a codeword on which no fragment waits: what it poisons, and what it leaves (R73 to R75). -/
theorem State.spoil_spec : HomeOnly s (s.spoil line) ∧ (∀ k, k ∈ (s.spoil line).poison ↔ s.Lost line k ∨ k ∈ s.poison) ∧
    (∀ a, ¬s.Lost line (a / 32) → (s.spoil line).byte a = s.byte a) ∧ line ∉ (s.spoil line).rel.rot := by
  have lost : ∀ k, k ∈ (lineSecs line).filter (fun k => !(s.l2Line line).dirty.contains k) ↔ s.Lost line k := fun k => by
    simp [mem_lineSecs, State.Lost]
  have asleep : ∀ e ∈ s.path.waits, e.2.pa / 32 ∉ (lineSecs line).filter (fun k => !(s.l2Line line).dirty.contains k) := fun e he hc => by
    obtain ⟨hline, -⟩ := (lost _).1 hc
    exact hw e he (by omega)
  unfold State.spoil
  dsimp only
  rw [State.recheck_of_none (h := ?asleep)]
  case asleep => exact asleep
  refine ⟨⟨rfl, rfl, rfl, rfl, rfl, rfl, congrArg (List.filter _)⟩, fun k => ?_, fun a ha => ?_, ?_⟩
  · exact (foldl_insert_mem ..).trans (or_congr_left (lost k))
  · refine get_writeCells_ne _ _ a fun c hc hca => ha ?_
    obtain ⟨k, hk, hck⟩ := List.mem_flatMap.1 hc
    obtain ⟨i, hi, rfl⟩ := List.mem_map.1 hck
    rw [List.mem_range] at hi
    dsimp only at hca
    rw [show a / 32 = k by omega]
    exact (lost k).1 hk
  · simp

/-- The error is found, and logged once: a record of code 2 at the codeword (R75, R414). -/
theorem State.findError_spec : HomeOnly s (s.findError line) ∧ (∀ k, k ∈ (s.findError line).poison ↔ s.Lost line k ∨ k ∈ s.poison) ∧
    (∀ a, ¬s.Lost line (a / 32) → (s.findError line).byte a = s.byte a) ∧ line ∉ (s.findError line).rel.rot ∧
    ∃ r ∈ (s.findError line).rel.ring, r.kind.toNat % 256 = 2 ∧ r.addr = BitVec.ofNat 64 (128 * line) := by
  obtain ⟨hkept, hpoison, hbyte, hrot⟩ := s.spoil_spec line hw
  unfold State.findError
  dsimp only
  split
  · refine ⟨hkept.trans ⟨rfl, rfl, rfl, rfl, rfl, rfl, id⟩, hpoison, hbyte, hrot, ?_⟩
    simp [State.logUnit, State.log, kindWord]
  · refine ⟨hkept.trans ⟨rfl, rfl, rfl, rfl, rfl, rfl, id⟩, hpoison, hbyte, hrot, ?_⟩
    simp [State.logUnit, State.log, kindWord]

end spoil

theorem State.findErrors_of_sound (s : State) (secs : List Nat) (h : s.rel.rot = []) : s.findErrors secs = s := if_pos h

/-- Errors that reads find, while no fragment waits on an address. -/
theorem State.findErrors_homeOnly (s : State) (secs : List Nat) (h : s.path.waits = []) : HomeOnly s (s.findErrors secs) := by
  have each : ∀ (lines : List Nat) (t : State), t.path.waits = [] → HomeOnly t (lines.foldl State.findError t) := by
    intro lines
    induction lines with
    | nil => exact fun t _ => .refl t
    | cons line lines ih =>
      intro t ht
      obtain ⟨hkept, -⟩ := t.findError_spec line (by simp [ht])
      exact hkept.trans (ih _ (hkept.waits.trans ht))
  unfold State.findErrors
  split_ifs
  · exact .refl s
  · exact each _ s h

/-! ## The L2 (R95, R96, R100) -/

/-- A line leaves its home L2: an error that its write back finds concerns no core, where no fragment waits on an address. -/
theorem State.l2Evict_homeOnly (s : State) (line : Nat) (h : s.path.waits = [] ∨ s.rel.rot = []) : HomeOnly s (s.l2Evict line) := by
  have found : s.rel.rot.contains line = true → HomeOnly s (s.findError line) := fun hc => by
    rcases h with h | h
    · exact (s.findError_spec line (by simp [h])).1
    · simp [h] at hc
  unfold State.l2Evict
  dsimp only
  split_ifs with _ _ hc
  · exact ⟨rfl, rfl, rfl, rfl, rfl, rfl, congrArg (List.filter _)⟩
  · exact ⟨rfl, rfl, rfl, rfl, rfl, rfl, id⟩
  · exact (found hc).trans ⟨rfl, rfl, rfl, rfl, rfl, rfl, id⟩
  · exact ⟨rfl, rfl, rfl, rfl, rfl, rfl, id⟩

theorem State.setL2_homeOnly (s : State) (line : Nat) (l : L2Line) (h : s.path.waits = [] ∨ s.rel.rot = []) : HomeOnly s (s.setL2 line l) := by
  unfold State.setL2
  dsimp only
  split_ifs
  · exact ⟨rfl, rfl, rfl, rfl, rfl, rfl, id⟩
  · refine .trans ?_ (State.l2Evict_homeOnly _ _ h)
    exact ⟨rfl, rfl, rfl, rfl, rfl, rfl, id⟩

/-- Without an error at rest a line's way out of the L2 changes no byte. -/
theorem State.l2Evict_data (s : State) (line : Nat) (h : s.rel.rot = []) : (s.l2Evict line).mem = s.mem ∧ (s.l2Evict line).poison = s.poison := by
  have none_ : s.rel.rot.contains line = false := by simp [h]
  unfold State.l2Evict
  dsimp only
  simp only [none_, Bool.false_eq_true, if_false]
  split_ifs <;> exact ⟨rfl, rfl⟩

theorem State.setL2_data (s : State) (line : Nat) (l : L2Line) (h : s.rel.rot = []) : (s.setL2 line l).mem = s.mem ∧ (s.setL2 line l).poison = s.poison := by
  unfold State.setL2
  dsimp only
  split_ifs
  · exact ⟨rfl, rfl⟩
  · exact State.l2Evict_data _ _ h

/-! ## Writes at the home -/

/-- A write at the home, while no fragment waits on an address. -/
theorem State.storeHome_homeOnly (s : State) (cells : List (Nat × Byte)) (bad : List Nat) (h : s.path.waits = []) : HomeOnly s (s.storeHome cells bad) := by
  have found := s.findErrors_homeOnly (((cells.map (fun c => c.1 / 32)).dedup).filter
    (fun k => !(coveredSectors (cells.map Prod.fst)).contains k && !(s.l2Line (k / 4)).valid.contains k)) h
  unfold State.storeHome
  dsimp only
  rw [State.recheck_of_no_waits (h := ?asleep)]
  case asleep => exact found.waits.trans h
  exact found.trans (State.writeMem_homeOnly ..)

/-- Without an error at rest it is the write alone. -/
theorem State.storeHome_of_sound (s : State) (cells : List (Nat × Byte)) (bad : List Nat) (h : s.path.waits = []) (hr : s.rel.rot = []) :
    s.storeHome cells bad = s.writeMem cells bad := by
  unfold State.storeHome
  dsimp only
  rw [State.findErrors_of_sound _ _ hr, State.recheck_of_no_waits (h := ?asleep)]
  exact h

/-! ## Work of the management's part -/

/-- From `s` to `t` only the management's part may differ. -/
def MgmtOnly (s t : State) : Prop := { t with mgmt := s.mgmt } = s

theorem MgmtOnly.trans {s t u : State} (h : MgmtOnly s t) (k : MgmtOnly t u) : MgmtOnly s u := by
  have back : ({ u with mgmt := s.mgmt } : State) = { t with mgmt := s.mgmt } := congrArg (fun x : State => { x with mgmt := s.mgmt }) k
  exact back.trans h

theorem MgmtOnly.fields {s t : State} (h : MgmtOnly s t) : t = { s with mgmt := t.mgmt } := by
  have same : ({ t with mgmt := t.mgmt } : State) = { s with mgmt := t.mgmt } := congrArg (fun x : State => { x with mgmt := t.mgmt }) h
  exact same

end Sys2Proof.Machine

/-! SUPPORT. Accesses from outside (R405, R435 to R437) and the steps of bring-up (R13, R447). -/

namespace Sys2Proof.Machine

/-! ## Reads from outside -/

/-- Without an error at rest a read at the home concerns the L2 alone. -/
theorem State.homeRead_of_sound (s : State) (sec : Nat) (uc : Bool) (h : s.rel.rot = []) :
    HomeOnly s (s.homeRead sec uc) ∧ (s.homeRead sec uc).mem = s.mem ∧ (s.homeRead sec uc).poison = s.poison := by
  unfold State.homeRead
  dsimp only
  rw [s.findErrors_of_sound _ h]
  split_ifs
  · exact ⟨.refl s, rfl, rfl⟩
  · exact ⟨.refl s, rfl, rfl⟩
  · exact ⟨s.setL2_homeOnly _ _ (.inr h), s.setL2_data _ _ h⟩

theorem State.homeReads_of_sound (secs : List Nat) (s : State) (h : s.rel.rot = []) :
    HomeOnly s (secs.foldl (fun s k => s.homeRead k false) s) ∧ (secs.foldl (fun s k => s.homeRead k false) s).mem = s.mem ∧
      (secs.foldl (fun s k => s.homeRead k false) s).poison = s.poison := by
  induction secs generalizing s with
  | nil => exact ⟨.refl s, rfl, rfl⟩
  | cons k secs ih =>
    obtain ⟨hkept, hmem, hpoison⟩ := s.homeRead_of_sound k false h
    obtain ⟨hkept', hmem', hpoison'⟩ := ih (s.homeRead k false) (hkept.rot h)
    exact ⟨hkept.trans hkept', hmem'.trans hmem, hpoison'.trans hpoison⟩

theorem State.outsideRead_of_sound (s : State) (a n : Nat) (h : s.rel.rot = []) :
    HomeOnly s (s.outsideRead a n) ∧ (s.outsideRead a n).mem = s.mem ∧ (s.outsideRead a n).poison = s.poison :=
  State.homeReads_of_sound _ s h

/-- Without an error at rest a read finds the poison bits and nothing else. -/
theorem State.memPoisoned_of_sound (s : State) (a n : Nat) (h : s.rel.rot = []) : s.memPoisoned a n = (sectorsOf a n).any s.poison.contains := by
  have bit : s.bad = s.poison.contains := funext fun sec => by simp [State.bad, State.rotten, h]
  rw [State.memPoisoned, bit]

theorem State.logPoisonRead_head (s : State) (a n : Nat) : ∃ r, (s.logPoisonRead a n).rel.ring.head? = some r ∧ r.kind.toNat % 256 = 2 := by
  obtain ⟨r, hring, hkind, -⟩ := s.logUnit_ring 2 0xFF _ (kindWord 0 1 0 0x02) _ _ addrPhys
  exact ⟨r, congrArg List.head? hring, by rw [hkind]; decide⟩

/-! ## Writes from outside -/

/-- The home directory after a write, while no fragment waits on an address. -/
theorem State.homeWrites_homeOnly (s : State) (w : Nat) (r : WriteRec) (secs : List Nat) (hw : s.path.waits = []) :
    HomeOnly s (s.homeWrites w r secs) ∧ (s.rel.rot = [] → (s.homeWrites w r secs).mem = s.mem) := by
  unfold State.homeWrites
  dsimp only
  rw [State.recheck_of_no_waits (h := ?asleep)]
  case asleep => exact (State.setL2_homeOnly _ _ _ (.inl (by exact hw))).waits.trans hw
  refine ⟨.trans ?_ (State.setL2_homeOnly _ _ _ (.inl (by exact hw))), fun hr => (State.setL2_data _ _ _ (by exact hr)).1⟩
  exact ⟨rfl, rfl, rfl, rfl, rfl, rfl, id⟩

/-- One line's part of a write: the bytes, while no fragment waits on an address and no error is at rest. -/
theorem State.lineWrite_of_sound (s : State) (id : Nat) (r : WriteRec) (cells : List (Nat × Byte)) (bad secs : List Nat) (hw : s.path.waits = [])
    (hr : s.rel.rot = []) :
    HomeOnly s ((s.storeHome cells bad).homeWrites id r secs) ∧ ((s.storeHome cells bad).homeWrites id r secs).mem = writeCells s.mem cells := by
  rw [s.storeHome_of_sound cells bad hw hr]
  obtain ⟨hkept, hmem⟩ := (s.writeMem cells bad).homeWrites_homeOnly id r secs hw
  have written := s.writeMem_homeOnly cells bad
  exact ⟨written.trans hkept, hmem (written.rot hr)⟩

/-- Writes of the parts of some cells, a line at a time: where the cells agree, the bytes of those lines are theirs. -/
theorem lineWrites_of_sound (cells : List (Nat × Byte)) (g : Nat → Byte) (hg : ∀ c ∈ cells, c.2 = g c.1) (f : List Nat × State → Nat → List Nat × State)
    (hf : ∀ st line, st.2.path.waits = [] → st.2.rel.rot = [] →
      HomeOnly st.2 (f st line).2 ∧ (f st line).2.mem = writeCells st.2.mem (cells.filter (fun c => c.1 / 128 == line)))
    (lines : List Nat) (st : List Nat × State) (hw : st.2.path.waits = []) (hr : st.2.rel.rot = []) :
    HomeOnly st.2 (lines.foldl f st).2 ∧
      ∀ b, (lines.foldl f st).2.byte b = if b ∈ cells.map Prod.fst ∧ b / 128 ∈ lines then g b else st.2.byte b := by
  induction lines generalizing st with
  | nil => exact ⟨.refl _, fun b => by simp⟩
  | cons line lines ih =>
    obtain ⟨hkept, hmem⟩ := hf st line hw hr
    obtain ⟨hkept', hbyte⟩ := ih (f st line) (hkept.waits.trans hw) (hkept.rot hr)
    refine ⟨hkept.trans hkept', fun b => ?_⟩
    have here : b ∈ (cells.filter (fun c => c.1 / 128 == line)).map Prod.fst ↔ b ∈ cells.map Prod.fst ∧ b / 128 = line := by
      simp only [List.mem_map, List.mem_filter, beq_iff_eq]
      constructor
      · rintro ⟨c, ⟨hc, hl⟩, rfl⟩; exact ⟨⟨c, hc, rfl⟩, hl⟩
      · rintro ⟨⟨c, hc, rfl⟩, hl⟩; exact ⟨c, ⟨hc, hl⟩, rfl⟩
    rw [List.foldl_cons, hbyte b, State.byte, hmem, get_writeCells_of_agree _ _ g (fun c hc => hg c (List.mem_filter.1 hc).1), State.byte]
    by_cases hb : b ∈ cells.map Prod.fst
    · by_cases hl : b / 128 = line <;> simp [here, hb, hl]
    · simp [here, hb]

/-- A write of consecutive bytes from outside, while no fragment waits on an address and no error is at rest, stores them. -/
theorem State.outsideWrite_of_sound (s : State) (a : Nat) (data : List Byte) (hw : s.path.waits = []) (hr : s.rel.rot = []) :
    HomeOnly s (s.outsideWrite (cellsAt a data) []).2 ∧
      ∀ b, (s.outsideWrite (cellsAt a data) []).2.byte b = if a ≤ b then (data[b - a]?).getD (s.byte b) else s.byte b := by
  unfold State.outsideWrite
  have lined : ∀ b ∈ (cellsAt a data).map Prod.fst, b / 128 ∈ ((cellsAt a data).map (fun c => c.1 / 128)).dedup := fun b hb => by
    obtain ⟨c, hc, rfl⟩ := List.mem_map.1 hb
    exact List.mem_dedup.2 (List.mem_map_of_mem hc)
  refine And.imp_right (fun hbyte b => (hbyte b).trans ?_)
    (lineWrites_of_sound (cellsAt a data) (fun x => data.getD (x - a) 0) (cellsAt_agree a data) _ ?_ _ ([], s) hw hr)
  · intro st line hw hr
    refine And.imp_left (HomeOnly.trans ?_) (State.lineWrite_of_sound _ _ _ _ _ _ (by exact hw) (by exact hr))
    exact ⟨rfl, rfl, rfl, rfl, rfl, rfl, id⟩
  · exact (if_congr (and_iff_left_of_imp (lined b)) rfl rfl).trans (byte_of_cellsAt a b data _)

/-! ## Requests that are due -/

/-- A request that is accepted while no other is due goes as far as it can at once. -/
theorem State.owe_of_idle (s : State) (d : Due) (h : s.mgmt.due = []) :
    s.owe d = { (({ s with mgmt := { s.mgmt with due := [d] } } : State).serveDue [] d).2 with
      mgmt := { (({ s with mgmt := { s.mgmt with due := [d] } } : State).serveDue [] d).2.mgmt with
        due := (({ s with mgmt := { s.mgmt with due := [d] } } : State).serveDue [] d).1.toList } } := by
  unfold State.owe State.serveDues
  simp only [h, List.nil_append, List.foldl_cons, List.foldl_nil]
  cases (({ s with mgmt := { s.mgmt with due := [d] } } : State).serveDue [] d).1 <;> rfl

/-- Before READY no window lets an access in. -/
theorem window_none {s : State} {w : Option (Nat × Nat)} (h : s.ready = false ∨ w = none) : (if s.ready then w else none) = none := by
  rcases h with h | h
  · rw [h]; rfl
  · rw [h, ite_self]

/-- A WRITE that no open window lets in is refused, and changes nothing (R437). -/
theorem execRdmaWrite_refused (s : State) (q : RdmaRequest) (h : s.ready = false ∨ s.windowFor q q.data.length 1 = none) :
    execRdmaWrite q s = .next (s.say (.rdma q.port q.qp (some .accessError) [])) := by
  rw [execRdmaWrite, window_none h]

/-- So is a READ. -/
theorem execRdmaRead_refused (s : State) (q : RdmaRequest) (h : s.ready = false ∨ s.windowFor q q.bytes 0 = none) :
    execRdmaRead q s = .next (s.say (.rdma q.port q.qp (some .accessError) [])) := by
  rw [execRdmaRead, window_none h]

section windowOpen

variable {s : State} {q : RdmaRequest} {k a : Nat} (hon : s.ready = true) (hdue : s.mgmt.due = []) (hr : s.rel.rot = [])
include hon hdue hr

/-- A WRITE into an open window is performed there, and is due until its writes are (R436, R437). -/
theorem execRdmaWrite_open (hk : s.windowFor q q.data.length 1 = some (k, a)) (hw : s.path.waits = []) :
    ∃ t ws, execRdmaWrite q s = .next t ∧ (∀ b, t.byte b = if a ≤ b then (q.data[b - a]?).getD (s.byte b) else s.byte b) ∧
      t.mgmt.due = [.write q.port q.qp k (cellsAt a q.data) true ws] ∧ t.mgmt.out = s.mgmt.out ∧ t.frags = s.frags ∧ t.waves = s.waves := by
  have accepted : execRdmaWrite q s = .next (s.owe (.write q.port q.qp k (cellsAt a q.data) false [])) := by
    rw [execRdmaWrite, hon, if_pos rfl, hk]
  let s0 : State := { s with mgmt := { s.mgmt with due := [.write q.port q.qp k (cellsAt a q.data) false []] } }
  obtain ⟨hkept, hbyte⟩ := s0.outsideWrite_of_sound a q.data hw hr
  have out : (s0.outsideWrite (cellsAt a q.data) []).2.mgmt.out = s.mgmt.out := by rw [hkept.mgmt]
  rw [State.owe_of_idle _ _ hdue] at accepted
  exact ⟨_, (s0.outsideWrite (cellsAt a q.data) []).1, accepted, hbyte, rfl, out, hkept.frags, hkept.waves⟩

/-- A READ of an open window that no release holds is answered at once: with the bytes, or, where one is poisoned, with a NAK and a record (R405, R437). -/
theorem execRdmaRead_open (hk : s.windowFor q q.bytes 0 = some (k, a)) (hh : s.heldRange a q.bytes = false) :
    (s.memPoisoned a q.bytes = false →
      ∃ t, execRdmaRead q s = .next t ∧ t.mgmt.out = .rdma q.port q.qp none (readBytes s.mem a q.bytes) :: s.mgmt.out ∧ t.mem = s.mem ∧
        t.frags = s.frags ∧ t.waves = s.waves) ∧
    (s.memPoisoned a q.bytes = true →
      ∃ t r, execRdmaRead q s = .next t ∧ t.mgmt.out = .rdma q.port q.qp (some .operationalError) [] :: s.mgmt.out ∧ t.mem = s.mem ∧
        t.rel.ring.head? = some r ∧ r.kind.toNat % 256 = 2) := by
  have go : execRdmaRead q s = .next (s.owe (.read q.port q.qp k a q.bytes)) := by rw [execRdmaRead, hon, if_pos rfl, hk]
  rw [go, State.owe_of_idle _ _ hdue]
  let s0 : State := { s with mgmt := { s.mgmt with due := [.read q.port q.qp k a q.bytes] } }
  obtain ⟨hkept, hmem, hpoison⟩ := s0.outsideRead_of_sound a q.bytes hr
  have poisoned : (s0.outsideRead a q.bytes).memPoisoned a q.bytes = s.memPoisoned a q.bytes := by
    rw [State.memPoisoned_of_sound _ _ _ (hkept.rot hr), State.memPoisoned_of_sound _ _ _ hr, hpoison]
  have out : (s0.outsideRead a q.bytes).mgmt.out = s.mgmt.out := by rw [hkept.mgmt]
  have free_ : s0.heldRange a q.bytes = false := hh
  have served : s0.serveDue [] (.read q.port q.qp k a q.bytes) =
      if s.memPoisoned a q.bytes then (none, ((s0.outsideRead a q.bytes).logPoisonRead a q.bytes).say (.rdma q.port q.qp (some .operationalError) []))
      else (none, (s0.outsideRead a q.bytes).say (.rdma q.port q.qp none (readBytes s.mem a q.bytes))) := by
    simp only [State.serveDue, free_, poisoned, hmem]
    rfl
  refine ⟨fun hp => ?_, fun hp => ?_⟩
  · rw [hp, if_neg (by decide)] at served
    refine ⟨_, rfl, ?_⟩
    rw [served]
    exact ⟨congrArg (List.cons _) out, hmem, hkept.frags, hkept.waves⟩
  · rw [hp, if_pos rfl] at served
    obtain ⟨r, hhead, hkind⟩ := (s0.outsideRead a q.bytes).logPoisonRead_head a q.bytes
    refine ⟨_, r, rfl, ?_⟩
    rw [served]
    exact ⟨congrArg (List.cons _) out, hmem, hhead, hkind⟩

end windowOpen

/-- A port answers for the addresses that it has, and for no others (R434). -/
theorem execArpNeighbourDiscovery_unknown (s : State) (port : Nat) (h : Tbl.find s.links.addrs port = none) :
    execArpNeighbourDiscovery port s = .next s := by rw [execArpNeighbourDiscovery, h]

theorem execArpNeighbourDiscovery_known (s : State) (port : Nat) (a : Nat × Nat) (h : Tbl.find s.links.addrs port = some a) :
    execArpNeighbourDiscovery port s = .next (s.say (.address port a.1 a.2)) := by rw [execArpNeighbourDiscovery, h]

/-! ## Bring-up (R13, R447) -/

/-- A device that is ready, or has failed, stays as it is. -/
theorem State.bringUpStep_done (s : State) (h : s.ready = true ∨ s.mgmt.fail ≠ 0) : s.bringUpStep = s := if_pos (by simpa using h)

theorem find_of_not_mem {α : Type} (t : Tbl α) (k : Nat) (h : ∀ e ∈ t, e.1 ≠ k) : Tbl.find t k = none := by
  induction t with
  | nil => rfl
  | cons e t ih =>
    obtain ⟨k', v⟩ := e
    rw [Tbl.find, if_neg fun hk => h (k', v) (List.mem_cons_self ..) hk.symm, ih fun e he => h e (List.mem_cons_of_mem _ he)]

/-- A table that lists, for each key of `l`, at most one entry of that key. -/
theorem find_filterMap_key {α : Type} (f : Nat → Option (Nat × α)) (hf : ∀ c p, f c = some p → p.1 = c) (l : List Nat) (c : Nat) (hc : c ∈ l) :
    Tbl.find (l.filterMap f) c = (f c).map Prod.snd := by
  induction l with
  | nil => cases hc
  | cons a l ih =>
    by_cases hac : c = a
    · subst hac
      cases hfc : f c with
      | none =>
        rw [List.filterMap_cons_none hfc]
        by_cases hl : c ∈ l
        · rw [ih hl, hfc]
        · refine find_of_not_mem _ c fun e he hec => hl ?_
          obtain ⟨k, hk, hfk⟩ := List.mem_filterMap.1 he
          rwa [← hec, hf k e hfk]
      | some p =>
        obtain ⟨k, v⟩ := p
        obtain rfl : k = c := hf c _ hfc
        simp [List.filterMap_cons_some hfc, Tbl.find]
    · rw [← ih ((List.mem_cons.1 hc).resolve_left hac)]
      cases hfa : f a with
      | none => rw [List.filterMap_cons_none hfa]
      | some p =>
        obtain ⟨k, v⟩ := p
        obtain rfl : k = a := hf a _ hfa
        rw [List.filterMap_cons_some hfa, Tbl.find, if_neg hac]

/-- A core that has left reset keeps the step at which it did so; one that leaves it now takes this step, and by the last step all have (R13). -/
theorem State.find_leaveReset (s : State) (last : Bool) (c : Nat) (hc : c < 1280) :
    (last = true → (Tbl.find (s.leaveReset last) c).isSome = true) ∧
      ∀ u, (Tbl.find s.sched.started c = some u → Tbl.find (s.leaveReset last) c = some u) ∧
        (Tbl.find (s.leaveReset last) c = some u → Tbl.find s.sched.started c = some u ∨ u = s.ticks) := by
  unfold State.leaveReset
  rw [find_filterMap_key (hf := ?keyed) (hc := List.mem_range.2 hc)]
  case keyed =>
    intro c p
    split
    · rintro ⟨⟩; rfl
    · split_ifs
      · rintro ⟨⟩; rfl
      · rintro ⟨⟩
  cases Tbl.find s.sched.started c with
  | some t => simp
  | none =>
    cases last with
    | true => simp [eq_comm]
    | false => cases Config.freeBool (s.free + c) <;> simp [eq_comm]

/-- The state in which a step of bring-up does its own work: some cores have left reset, all of them at the last step. -/
def State.leftReset (s : State) : State :=
  let s0 := { s with free := s.free + 2 }
  { s0 with sched := { s0.sched with started := s0.leaveReset (4 ≤ s.mgmt.stage) }, free := s0.free + 1280 }

/-- From `s` to `t` components may have been measured: only the management's part differs, and nothing has failed. -/
structure Measures (s t : State) : Prop where
  rest : MgmtOnly s t
  fail : t.mgmt.fail = s.mgmt.fail

theorem Measures.trans {s t u : State} (h : Measures s t) (k : Measures t u) : Measures s u := ⟨h.rest.trans k.rest, k.fail.trans h.fail⟩

theorem State.extend_measures (s : State) (i : Nat) (component : List Byte) : Measures s (s.extend i component) := ⟨rfl, rfl⟩

theorem State.staged_measures (s : State) (img : Option (List Byte)) :
    Measures s (match img with | some img => s.extend 3 img | none => s) := by
  cases img
  · exact ⟨rfl, rfl⟩
  · exact s.extend_measures 3 _

theorem State.measured_measures (s : State) (v : Nat) : Measures s { s with mgmt := { s.mgmt with stage := 4, fwver := v } } := ⟨rfl, rfl⟩

/-- Measuring the components passes or fails, and touches nothing but the management's part (R448). -/
theorem State.measureAll_spec (s : State) : MgmtOnly s s.measureAll ∧
    (s.measureAll.mgmt.fail ≠ 0 ∧ s.measureAll.mgmt.stage = s.mgmt.stage ∨ s.measureAll.mgmt.fail = s.mgmt.fail ∧ s.measureAll.mgmt.stage = 4) := by
  unfold State.measureAll
  split_ifs
  · exact ⟨rfl, .inl ⟨Nat.succ_ne_zero 2, rfl⟩⟩
  · have all := ((((s.extend_measures 0 (Config.component 0)).trans (State.extend_measures _ 1 (Config.component 1))).trans
      (State.extend_measures _ 2 (Config.component 2))).trans (State.staged_measures _ s.mgmt.staged)).trans
      (State.measured_measures _ (Config.version s.mainImage))
    exact ⟨all.rest, .inr ⟨all.fail, rfl⟩⟩

/-- What a step of bring-up does (R447): it fails, is passed, zeroes memory, or sets READY. -/
theorem State.bringUpStep_cases (s : State) (hr : s.ready = false) (hf : s.mgmt.fail = 0) :
    (∃ ls, MgmtOnly { s.leftReset with links := ls } s.bringUpStep ∧ s.mgmt.stage ≠ 2 ∧ s.mgmt.stage < 4 ∧
      (s.bringUpStep.mgmt.fail ≠ 0 ∧ s.bringUpStep.mgmt.stage = s.mgmt.stage ∨
        s.bringUpStep.mgmt.fail = 0 ∧ s.bringUpStep.mgmt.stage = s.mgmt.stage + 1)) ∨
    (s.mgmt.stage = 2 ∧ s.bringUpStep = { s.leftReset with mem := [], poison := [], rel := { s.rel with rot := [] }, mgmt := { s.mgmt with stage := 3 } }) ∨
    (4 ≤ s.mgmt.stage ∧ s.bringUpStep = { s.leftReset with ready := true, mgmt := { s.mgmt with stage := 5 } }) := by
  have goes : ¬(s.ready || s.mgmt.fail != 0) = true := by simp [hr, hf]
  generalize ht : s.bringUpStep = t
  unfold State.bringUpStep at ht
  rw [if_neg goes] at ht
  extract_lets bad s0 _ s1 at ht
  have entered : s1 = s.leftReset := rfl
  clear_value s1
  subst entered
  split at ht
  next hst =>
    subst ht
    refine .inl ?_
    split_ifs
    · exact ⟨s.leftReset.links, rfl, by omega, by omega, .inl ⟨Nat.succ_ne_zero _, rfl⟩⟩
    · exact ⟨s.leftReset.links, rfl, by omega, by omega, .inl ⟨Nat.succ_ne_zero _, rfl⟩⟩
    · exact ⟨_, rfl, by omega, by omega, .inr ⟨hf, by rw [hst]⟩⟩
  next hst =>
    subst ht
    refine .inl ?_
    split_ifs
    · exact ⟨s.leftReset.links, rfl, by omega, by omega, .inl ⟨Nat.succ_ne_zero _, rfl⟩⟩
    · exact ⟨s.leftReset.links, rfl, by omega, by omega, .inr ⟨hf, by rw [hst]⟩⟩
  next hst => exact .inr (.inl ⟨hst, ht.symm⟩)
  next hst =>
    subst ht
    obtain ⟨hrest, hout⟩ := s.leftReset.measureAll_spec
    exact .inl ⟨s.leftReset.links, hrest, by omega, by omega, hout.imp id fun h => ⟨h.1.trans hf, h.2.trans (by rw [hst])⟩⟩
  next h0 h1 h2 h3 =>
    have late : s.mgmt.stage ≠ 0 ∧ s.mgmt.stage ≠ 1 ∧ s.mgmt.stage ≠ 2 ∧ s.mgmt.stage ≠ 3 := ⟨h0, h1, h2, h3⟩
    exact .inr (.inr ⟨by omega, ht.symm⟩)

/-- That cores leave reset touches no other part of the state that a program sees. -/
theorem State.leftReset_kept (s : State) : s.leftReset.teams = s.teams ∧ s.leftReset.waves = s.waves ∧ s.leftReset.frags = s.frags ∧
    s.leftReset.mem = s.mem ∧ s.leftReset.poison = s.poison ∧ s.leftReset.ready = s.ready := by
  unfold State.leftReset
  dsimp only
  exact ⟨rfl, rfl, rfl, rfl, rfl, rfl⟩

/-- The cores that have left reset, after a step of bring-up. -/
theorem State.leftReset_started (s : State) (c : Nat) (hc : c < 1280) :
    (4 ≤ s.mgmt.stage → (Tbl.find s.leftReset.sched.started c).isSome = true) ∧
      ∀ u, (Tbl.find s.sched.started c = some u → Tbl.find s.leftReset.sched.started c = some u) ∧
        (Tbl.find s.leftReset.sched.started c = some u → Tbl.find s.sched.started c = some u ∨ u = s.ticks) := by
  obtain ⟨hlast, hkeep⟩ := State.find_leaveReset { s with free := s.free + 2 } (4 ≤ s.mgmt.stage) c hc
  have started : s.leftReset.sched.started = ({ s with free := s.free + 2 } : State).leaveReset (4 ≤ s.mgmt.stage) := by
    unfold State.leftReset
    dsimp only
  rw [started]
  exact ⟨fun h => hlast (decide_eq_true h), hkeep⟩

theorem bringUpSteps : Claims.bringUpSteps := by
  refine fun s => ⟨fun h => congrArg Host.Outcome.next (s.bringUpStep_done h), fun hr hf => ⟨s.bringUpStep, rfl, ?_⟩⟩
  have cores := s.leftReset_started
  obtain ⟨hteams, hwaves, hfrags, hmem, hpoison, hready⟩ := s.leftReset_kept
  have unready : s.leftReset.ready = false := hready.trans hr
  rcases s.bringUpStep_cases hr hf with ⟨ls, hrest, h2, h4, hout⟩ | ⟨h2, ht⟩ | ⟨h4, ht⟩
  · rw [hrest.fields]
    dsimp only
    refine ⟨hteams, hwaves, hfrags, fun hfail => ⟨?_, unready, hmem⟩, fun hpass => ?_,
      ⟨fun h => absurd (unready.symm.trans h) Bool.false_ne_true, fun h => absurd h4 (Nat.not_lt.2 h)⟩, fun h => absurd h h2, fun _ => ⟨hmem, hpoison⟩, cores⟩
    · exact (hout.resolve_right fun h => hfail h.1).2
    · have passed : s.bringUpStep.mgmt.stage = s.mgmt.stage + 1 := (hout.resolve_left fun h => h.1 hpass).2
      show s.bringUpStep.mgmt.stage = _
      omega
  · rw [ht]
    exact ⟨hteams, hwaves, hfrags, fun h => absurd hf h, fun _ => by rw [h2]; rfl,
      ⟨fun h => absurd (unready.symm.trans h) Bool.false_ne_true, fun h => by omega⟩, fun _ => ⟨hf, fun _ => rfl, rfl⟩, fun h => absurd h2 h, cores⟩
  · rw [ht]
    exact ⟨hteams, hwaves, hfrags, fun h => absurd hf h, fun _ => by show 5 = _; omega, ⟨fun _ => h4, fun _ => rfl⟩, fun h => by omega,
      fun _ => ⟨hmem, hpoison⟩, cores⟩

/-- RoCEv2 and other traffic at the ports. -/
theorem portsServe : Claims.portsServe :=
  ⟨fun s q hr => ⟨execRdmaWrite_refused s q, fun _ _ hon hk hdue hw => execRdmaWrite_open hon hdue hr hk hw, execRdmaRead_refused s q,
      fun _ _ hon hk hdue hh => execRdmaRead_open hon hdue hr hk hh, rfl⟩,
    fun s port => ⟨rfl, execArpNeighbourDiscovery_unknown s port, fun a => execArpNeighbourDiscovery_known s port a⟩⟩

/-- Settles O48: the steps of bring-up by what each of them does, the ports by what a request that is due leaves. -/
theorem bringUpAndPorts : Obligations.BringUpAndPorts := ⟨bringUpSteps, portsServe⟩

end Sys2Proof.Machine

/-! SUPPORT. The device's own upkeep: scrubbing and ageing (R73 to R75, R414 to R418), records (R428, R429, R432), power (R450), the lease (R443, R444). -/

namespace Sys2Proof.Machine

/-! ## Scrubbing -/

/-- An error-free sector, or one beyond memory, is left as it is. -/
theorem State.scrub_clean (s : State) (sector : Nat) (h : s.rel.rot.contains (sector / 4) = false) : s.scrub sector .none = s := by
  rw [State.scrub, h, if_neg Bool.false_ne_true, ite_self]

theorem State.scrub_beyond (s : State) (sector : Nat) (u : SectorUpset) (h : 2 ^ 33 ≤ sector) : s.scrub sector u = s := if_pos h

theorem State.scrub_corrected (s : State) (sector : Nat) (hs : sector < 2 ^ 33) (h : s.rel.rot.contains (sector / 4) = false) :
    s.scrub sector .corrected = { s with free := s.free + 1 }.logCorrected (homeOf (32 * sector)) (32 * sector) (Config.freeNat s.free % 132) := by
  rw [State.scrub, if_neg (Nat.not_le.2 hs), h, if_neg Bool.false_ne_true]

theorem State.scrub_uncorrectable (s : State) (sector : Nat) (u : SectorUpset) (hs : sector < 2 ^ 33)
    (h : u = .uncorrectable ∨ s.rel.rot.contains (sector / 4) = true) : s.scrub sector u = s.findError (sector / 4) := by
  have found : (if s.rel.rot.contains (sector / 4) then SectorUpset.uncorrectable else u) = .uncorrectable := by
    rcases h with rfl | h
    · exact ite_self _
    · exact if_pos h
  rw [State.scrub, if_neg (Nat.not_le.2 hs), found]

/-- A corrected error is in the ring alone (R414). -/
theorem State.logCorrected_homeOnly (s : State) (die addr synd : Nat) :
    HomeOnly s (s.logCorrected die addr synd) ∧ (s.logCorrected die addr synd).mem = s.mem ∧ (s.logCorrected die addr synd).poison = s.poison := by
  unfold State.logCorrected
  dsimp only
  split
  · exact ⟨⟨rfl, rfl, rfl, rfl, rfl, rfl, id⟩, rfl, rfl⟩
  · exact ⟨⟨rfl, rfl, rfl, rfl, rfl, rfl, id⟩, rfl, rfl⟩

/-- Where no record of its kind and page is in the ring, a corrected error is logged. -/
theorem State.logCorrected_new (s : State) (die addr synd : Nat)
    (h : ∀ r ∈ s.rel.ring, r.kind.toNat % 256 = 1 → r.addr.toNat / 65536 ≠ addr / 65536) :
    s.logCorrected die addr synd = s.logUnit 2 0xFF die (kindWord 0 0 0 0x01) synd (BitVec.ofNat 64 addr) addrPhys := by
  have none_ : s.rel.ring.find? (fun r => r.kind.toNat % 256 == 1 && r.addr.toNat / 65536 == addr / 65536 &&
      decide (s.gtime.toNat - r.time.toNat < 10 ^ 9)) = none := List.find?_eq_none.2 fun r hr => by
    by_cases hk : r.kind.toNat % 256 = 1 <;> simp [hk, h r hr]
  rw [State.logCorrected, none_]

/-! ## Ageing -/

/-- Without a vote record no column has been named (R415). -/
theorem State.votedColumn_of_unvoted (s : State) (h : ∀ r ∈ s.rel.ring, r.kind.toNat % 256 ≠ 8 ∧ r.kind.toNat % 256 ≠ 9) : s.votedColumn = none := by
  have unvoted : s.rel.ring.filter (fun r => r.kind.toNat % 256 == 8 || r.kind.toNat % 256 == 9) = [] :=
    List.filter_eq_nil_iff.2 fun r hr => by simp [h r hr]
  rw [State.votedColumn, unvoted]
  rfl

/-- Where no vote names a column an ageing check acts on the monitors' finding alone. -/
theorem execAgingCheck_of_unvoted (s : State) (f : AgingFinding) (h : ∀ r ∈ (s.wearOut f).rel.ring, r.kind.toNat % 256 ≠ 8 ∧ r.kind.toNat % 256 ≠ 9) :
    execAgingCheck f s = .next (s.wearOut f) := by
  rw [execAgingCheck, (s.wearOut f).votedColumn_of_unvoted h]

/-- A finding that asks for a swap leaves it requested, and nothing else (R416, R417). -/
theorem execAgingCheck_of_swap (s : State) (f : AgingFinding) (cores : List Nat) (spare : Nat × Nat) (hring : s.rel.ring = [])
    (asked : s.wearOut f = s.requestSwap cores true (some spare)) :
    ∃ t, execAgingCheck f s = .next t ∧ t.mem = s.mem ∧ t.frags = s.frags ∧ Tbl.find t.saves.swaps s.nextId = some ⟨cores, true, none, some spare⟩ := by
  have unvoted : ∀ r ∈ (s.wearOut f).rel.ring, r.kind.toNat % 256 ≠ 8 ∧ r.kind.toNat % 256 ≠ 9 := by
    rw [asked]
    exact fun r hr => absurd hr (by simp [State.requestSwap, hring])
  refine ⟨_, execAgingCheck_of_unvoted s f unvoted, ?_⟩
  rw [asked]
  exact ⟨rfl, rfl, Tbl.find_put_same ..⟩

/-! ## Events (R444) -/

/-- From `s` to `t` events may have been sent: ownership, its priority and its lease stay, and so does every session's claim. -/
structure Sends (s t : State) : Prop where
  rest   : MgmtOnly s t
  owner  : t.mgmt.owner = s.mgmt.owner
  prio   : t.mgmt.prio = s.mgmt.prio
  lease  : t.mgmt.lease = s.mgmt.lease
  claims : ∀ id, (Tbl.find t.mgmt.sessions id).map Session.claim = (Tbl.find s.mgmt.sessions id).map Session.claim

theorem Sends.refl (s : State) : Sends s s := ⟨rfl, rfl, rfl, rfl, fun _ => rfl⟩

theorem Sends.trans {s t u : State} (h : Sends s t) (k : Sends t u) : Sends s u :=
  ⟨h.rest.trans k.rest, k.owner.trans h.owner, k.prio.trans h.prio, k.lease.trans h.lease, fun id => (k.claims id).trans (h.claims id)⟩

theorem State.sendEvent_sends (s : State) : Sends s s.sendEvent := by
  unfold State.sendEvent
  dsimp only
  split
  next id e rest _ _ =>
    split
    · exact .refl s
    next x hx =>
      split_ifs
      · exact .refl s
      · refine ⟨rfl, rfl, rfl, rfl, fun j => ?_⟩
        by_cases hj : j = id
        · subst hj
          simp [State.say, hx]
        · simp [State.say, Tbl.find_put_ne _ _ _ _ hj]
  · exact .refl s

theorem State.sendEvents_sends (s : State) : Sends s s.sendEvents := by
  have each : ∀ (es : List Event) (t : State), Sends t (es.foldl (fun s _ => s.sendEvent) t) := by
    intro es
    induction es with
    | nil => exact .refl
    | cons e es ih => exact fun t => t.sendEvent_sends.trans (ih _)
  exact each _ s

/-- An event is raised: held, and sent when it may be. -/
theorem State.raise_mgmtOnly (s : State) (kind : Nat) (body : List Byte) : MgmtOnly s (s.raise kind body) :=
  MgmtOnly.trans (t := { s with mgmt := { s.mgmt with queue := s.mgmt.queue ++ [(⟨kind, body⟩ : Event)] } }) rfl (State.sendEvents_sends _).rest

/-- A marked unit that the owner keeps the device from substituting is logged and reported (R415). -/
theorem State.marked_reported (s : State) (kind core die number : Nat) (act : State → State) (ha : s.mgmt.autoSpare = false) (hring : s.rel.ring = []) :
    ∃ r, (s.marked kind core die number act).mem = s.mem ∧ (s.marked kind core die number act).frags = s.frags ∧
      (s.marked kind core die number act).saves = s.saves ∧ (s.marked kind core die number act).rel.seq = s.rel.seq + 1 ∧
      (s.marked kind core die number act).rel.ring = [r] ∧ r.kind.toNat % 256 = 0x11 := by
  unfold State.marked
  rw [ha, if_neg Bool.false_ne_true]
  dsimp only
  rw [(State.raise_mgmtOnly _ _ _).fields]
  obtain ⟨r, hlog, hkind, -⟩ := State.logUnit_ring { s with free := s.free + 1 } (if kind = 2 then 1 else 0) core die (kindWord 0 0 0 0x11)
    ((Config.freeWord s.free).toNat % 2 ^ 32) 0 0
  exact ⟨r, rfl, rfl, rfl, rfl, hlog.trans (by rw [hring]; rfl), by rw [hkind]; decide⟩

/-- PATROL_SCRUB and AGING_CHECK. -/
theorem upkeepRuns : Claims.upkeepRuns := by
  refine ⟨fun s sector => ⟨fun h => congrArg Host.Outcome.next (s.scrub_clean sector h), fun u h => congrArg Host.Outcome.next (s.scrub_beyond sector u h),
    fun hs h => ?_, fun u hs h hw => ?_⟩, fun s hring => ⟨?_, fun die cl ha => ?_, fun core quad col ha hused => ?_, fun die cl ha => ?_⟩⟩
  · obtain ⟨hkept, hmem, hpoison⟩ := State.logCorrected_homeOnly { s with free := s.free + 1 } (homeOf (32 * sector)) (32 * sector) (Config.freeNat s.free % 132)
    refine ⟨_, congrArg Host.Outcome.next (s.scrub_corrected sector hs h), hmem, hpoison, hkept.frags, hkept.waves, fun hnew => ?_⟩
    rw [State.logCorrected_new (h := ?new)]
    case new => exact hnew
    obtain ⟨r, hlog, hkind, haddr⟩ := State.logUnit_ring { s with free := s.free + 1 } 2 0xFF (homeOf (32 * sector)) (kindWord 0 0 0 0x01)
      (Config.freeNat s.free % 132) (BitVec.ofNat 64 (32 * sector)) addrPhys
    exact ⟨rfl, r, congrArg List.head? hlog, by rw [hkind]; decide, haddr⟩
  · obtain ⟨hkept, hpoison, hbyte, hrot, r, hr, hkind, haddr⟩ := s.findError_spec (sector / 4) hw
    exact ⟨_, r, congrArg Host.Outcome.next (s.scrub_uncorrectable sector u hs h), hpoison, hbyte, hrot, hkept.frags, hkept.waves, hr, hkind, haddr⟩
  · exact execAgingCheck_of_unvoted s .none (by simp [State.wearOut, hring])
  · exact execAgingCheck_of_swap s _ _ _ hring (if_pos ha)
  · exact execAgingCheck_of_swap s _ _ _ hring ((if_pos ha).trans (if_neg (Nat.not_le.2 hused)))
  · obtain ⟨r, hmem, hfrags, hsaves, hseq, hlog, hkind⟩ := s.marked_reported 1 0xFF die cl
      (fun s => s.requestSwap ((List.range 4).map (fun i => (40 * die + cl) * 4 + i)) true (some (1, 40 * die + cl))) ha hring
    refine ⟨_, r, execAgingCheck_of_unvoted s _ fun q hq => ?_, hmem, hfrags, hsaves, hseq, hlog, hkind⟩
    obtain rfl : q = r := List.mem_singleton.1 (hlog ▸ hq)
    omega

/-! ## Records (R428, R429, R432) -/

/-- From `s` to `t` records may have been written: beyond the homes' work only the rings of the dies have changed. -/
def Records (s t : State) : Prop := ∃ rs, HomeOnly { s with prof := { s.prof with rings := rs } } t

theorem Records.refl (s : State) : Records s s := ⟨s.prof.rings, .refl s⟩

theorem Records.trans {s t u : State} (h : Records s t) (k : Records t u) : Records s u := by
  obtain ⟨_, h⟩ := h
  obtain ⟨rs, k⟩ := k
  exact ⟨rs, k.frags.trans h.frags, k.waves.trans h.waves, k.teams.trans h.teams, k.mgmt.trans h.mgmt,
    k.prof.trans (congrArg (fun p : Prof => { p with rings := rs }) h.prof), k.waits.trans h.waits, fun hr => k.rot (h.rot hr)⟩

theorem Records.of_ring {s t : State} (h : HomeOnly s t) (rs : Tbl ProfRing) : Records s { t with prof := { t.prof with rings := rs } } :=
  ⟨rs, h.frags, h.waves, h.teams, h.mgmt, congrArg (fun p : Prof => { p with rings := rs }) h.prof, h.waits, h.rot⟩

theorem State.ringWrite_homeOnly (s : State) (r : ProfRing) (words : List Word) (hw : s.path.waits = []) : HomeOnly s (s.ringWrite r words) :=
  s.storeHome_homeOnly _ [] hw

section profile

variable (s : State) (die : Nat) (core : Option Nat) (type : Nat) (words : List Word)

/-- A die without a ring keeps no record. -/
theorem State.profile_of_no_ring (h : Tbl.find s.prof.rings die = none) : s.profile die core type words = s := by
  unfold State.profile
  rw [h]

/-- A full ring drops a record and counts it; else its words are written, after a LOSS record where some were dropped (R428). -/
theorem State.profile_cases (r : ProfRing) (hr : Tbl.find s.prof.rings die = some r) : ∃ all : List Word, (r.lost = 0 → all.length = words.length + 1) ∧
    s.profile die core type words =
      if r.size < r.head - r.tail + 8 * all.length then
        { s with prof := { s.prof with rings := Tbl.put s.prof.rings die { r with lost := r.lost + 1 } } }.count ctrPROFLOSS (10000 + die) 1
      else { s.ringWrite r all with prof := { (s.ringWrite r all).prof with
        rings := Tbl.put (s.ringWrite r all).prof.rings die { r with head := r.head + 8 * all.length, lost := 0 } } } := by
  unfold State.profile
  rw [hr]
  exact ⟨_, fun hl => by simp [hl], rfl⟩

/-- A record for which the ring has room moves its head past it. -/
theorem State.profile_head (r : ProfRing) (hr : Tbl.find s.prof.rings die = some r) (hl : r.lost = 0)
    (hroom : r.head - r.tail + 8 * (words.length + 1) ≤ r.size) :
    Tbl.find (s.profile die core type words).prof.rings die = some { r with head := r.head + 8 * (words.length + 1) } := by
  obtain ⟨all, hall, heq⟩ := s.profile_cases die core type words r hr
  rw [heq, hall hl, if_neg (Nat.not_lt.2 hroom)]
  exact (Tbl.find_put_same ..).trans (by rw [← hl])

theorem State.profile_records (hw : s.path.waits = []) : Records s (s.profile die core type words) := by
  cases hr : Tbl.find s.prof.rings die with
  | none =>
    rw [s.profile_of_no_ring die core type words hr]
    exact .refl s
  | some r =>
    obtain ⟨all, -, heq⟩ := s.profile_cases die core type words r hr
    rw [heq]
    split_ifs
    · exact ⟨_, rfl, rfl, rfl, rfl, rfl, rfl, id⟩
    · exact .of_ring (s.ringWrite_homeOnly r all hw) _

end profile

/-- PC samples are two words (R429). -/
theorem State.entryReport_length (s : State) (core k : Nat) (r : List Word) (h : s.entryReport core k = some r) : r.length = 2 := by
  unfold State.entryReport at h
  dsimp only at h
  split at h
  · cases h; rfl
  · split at h
    · cases h
    · split at h
      · cases h
      · split at h
        · cases h; rfl
        · cases h

/-- A sample that is not due, or is of a disabled core, changes nothing. -/
theorem State.pcSample_undue (s : State) (core : Nat) (h : s.coreEnabled core = false ∨ ¬2 ^ s.prof.pcK ≤ s.clocksSince (Tbl.get 0 s.prof.pcAt core)) :
    s.pcSample core = s := by
  unfold State.pcSample
  refine if_pos ?_
  rcases h with h | h
  · simp [h]
  · simp [Nat.not_le.1 h]

/-- The entries of a core's fragment tables, from the one that the next sample looks at first (R429). -/
def State.entriesFrom (s : State) (core : Nat) : List Nat := (List.range 512).map (fun i => (Tbl.get 0 s.prof.next core + i) % 512)

/-- The state in which a core's sample has been taken at this step. -/
def State.sampledAt (s : State) (core : Nat) : State := { s with prof := { s.prof with pcAt := Tbl.set 0 s.prof.pcAt core s.ticks } }

/-- The sample has found an entry to report: the next one looks behind it, and a report that a fragment's end has left is gone. -/
def State.entryTaken (s : State) (core : Nat) (next : Tbl Nat) (exits : Tbl ExitReport) : State :=
  { s.sampledAt core with prof := { (s.sampledAt core).prof with next := next, exits := exits }, free := s.free + 1 }

/-- A due sample finds nothing to report, or records the two words of one entry, which is then passed (R429). -/
theorem State.pcSample_due (s : State) (core : Nat) (hon : s.coreEnabled core = true) (hdue : 2 ^ s.prof.pcK ≤ s.clocksSince (Tbl.get 0 s.prof.pcAt core)) :
    ((s.entriesFrom core).findSome? (s.entryReport core) = none ∧ s.pcSample core = s.sampledAt core) ∨
    ((s.entriesFrom core).findSome? (s.entryReport core) ≠ none ∧ ∃ (next : Tbl Nat) (exits : Tbl ExitReport) (r : List Word), r.length = 2 ∧
      s.pcSample core = (s.entryTaken core next exits).profile (dieOf core) (some core) 1 r) := by
  have goes : ¬(!s.coreEnabled core || decide (s.clocksSince (Tbl.get 0 s.prof.pcAt core) < 2 ^ s.prof.pcK)) = true := by simp [hon, hdue]
  unfold State.pcSample
  rw [if_neg goes]
  dsimp only
  split
  next hnone =>
    refine .inl ⟨?_, rfl⟩
    exact List.findSome?_eq_none_iff.2 fun k hk => Option.map_eq_none_iff.1 (List.findSome?_eq_none_iff.1 hnone k hk)
  next k r hsome =>
    obtain ⟨j, hj, hk⟩ := List.exists_of_findSome?_eq_some hsome
    obtain ⟨w, hw, heq⟩ := Option.map_eq_some_iff.1 hk
    cases heq
    refine .inr ⟨fun hnone => ?_, _, _, r, s.entryReport_length core k r hw, rfl⟩
    rw [List.findSome?_eq_none_iff.1 hnone k hj] at hw
    cases hw

/-- The state in which a core's sync record has been taken at this step. -/
def State.syncedAt (s : State) (core : Nat) : State := { s with prof := { s.prof with syncAt := Tbl.set 0 s.prof.syncAt core s.ticks } }

/-- A due sync record is written (R432). -/
theorem State.syncRecord_due (s : State) (core : Nat) (hdue : 2 ^ 16 ≤ s.clocksSince (Tbl.get 0 s.prof.syncAt core)) :
    s.syncRecord core = (s.syncedAt core).profile (dieOf core) (some core) 4 [s.clk core, s.gtime] := if_neg (Nat.not_lt.2 hdue)

/-! ## Power (R15, R18, R450) -/

theorem profiles_records (f : State → Nat → State) (hf : ∀ t c, t.path.waits = [] → Records t (f t c)) (cs : List Nat) (s : State)
    (hw : s.path.waits = []) : Records s (cs.foldl f s) := by
  induction cs generalizing s with
  | nil => exact .refl s
  | cons c cs ih =>
    have first := hf s c hw
    obtain ⟨rs, hkept⟩ := first
    exact Records.trans ⟨rs, hkept⟩ (ih _ (hkept.waits.trans hw))

/-- A level that is set stands, and the enabled cores' records of it are written where there are rings (R432). -/
theorem State.setLevel_records (s : State) (level : Nat) (hw : s.path.waits = []) :
    Records { s with mgmt := { s.mgmt with level := level } } (s.setLevel level) ∧ (s.prof.rings = [] → (s.setLevel level).mem = s.mem) := by
  unfold State.setLevel
  split_ifs with hsame
  · subst hsame
    exact ⟨.refl s, fun _ => rfl⟩
  · refine ⟨profiles_records _ (fun t c ht => t.profile_records _ _ _ _ ht) _ _ hw, fun hrings => ?_⟩
    have none_ : ((List.range 1280).filter s.coreEnabled).filter (fun c => (Tbl.find s.prof.rings (dieOf c)).isSome) = [] :=
      List.filter_eq_nil_iff.2 fun c _ => by simp [hrings, Tbl.find]
    rw [none_]
    rfl

/-- The level that follows a measurement (R450). -/
def State.levelAfter (s : State) (mw : Nat) : Nat := max (if powerLimit < mw then max 1 s.mgmt.floor else s.mgmt.floor) (Config.freeNat s.free % 8)

theorem State.levelAfter_bounds (s : State) (mw : Nat) :
    s.mgmt.floor ≤ s.levelAfter mw ∧ s.levelAfter mw ≤ max s.mgmt.floor 7 ∧ (2550000 < mw → 0 < s.levelAfter mw) := by
  unfold State.levelAfter
  split_ifs with hover
  · exact ⟨by omega, by omega, fun _ => by omega⟩
  · exact ⟨by omega, by omega, fun h => absurd h hover⟩

/-- PC_SAMPLE, SYNC_RECORD and POWER_MEASUREMENT. -/
theorem samplesTaken : Claims.samplesTaken := by
  refine ⟨fun s core hw => ⟨fun hoff => congrArg Host.Outcome.next (s.pcSample_undue core (.inl hoff)), fun hon => ⟨_, rfl, ?_⟩⟩,
    fun s core hw => ⟨_, rfl, ?_⟩, fun s mw hw => ?_⟩
  · by_cases hdue : 2 ^ s.prof.pcK ≤ s.clocksSince (Tbl.get 0 s.prof.pcAt core)
    · refine .inl ⟨hdue, ?_⟩
      rcases s.pcSample_due core hon hdue with ⟨hnone, heq⟩ | ⟨hsome, next, exits, w, hlen, heq⟩
      · rw [heq]
        exact ⟨rfl, rfl, rfl, Tbl.get_set_same .., fun _ => rfl, fun r _ hfound => absurd hnone hfound⟩
      · rw [heq]
        obtain ⟨rs, hkept⟩ := (s.entryTaken core next exits).profile_records (dieOf core) (some core) 1 w hw
        refine ⟨hkept.frags, hkept.waves, hkept.teams, ?_, fun h => ?_, fun r hr _ hl hroom => ?_⟩
        · rw [hkept.prof]
          exact Tbl.get_set_same ..
        · rw [(s.entryTaken core next exits).profile_of_no_ring _ _ _ _ (h.resolve_right hsome)]
          rfl
        · have head := (s.entryTaken core next exits).profile_head (dieOf core) (some core) 1 w r hr hl (by omega)
          rw [head, hlen]
    · exact .inr ⟨hdue, s.pcSample_undue core (.inr hdue)⟩
  · by_cases hdue : 2 ^ 16 ≤ s.clocksSince (Tbl.get 0 s.prof.syncAt core)
    · refine .inl ⟨hdue, ?_⟩
      rw [s.syncRecord_due core hdue]
      obtain ⟨rs, hkept⟩ := (s.syncedAt core).profile_records (dieOf core) (some core) 4 [s.clk core, s.gtime] hw
      refine ⟨hkept.frags, hkept.waves, hkept.teams, ?_, fun h => ?_, fun r hr hl hroom => ?_⟩
      · rw [hkept.prof]
        exact Tbl.get_set_same ..
      · rw [(s.syncedAt core).profile_of_no_ring _ _ _ _ h]
        rfl
      · exact (s.syncedAt core).profile_head _ _ _ _ r hr hl hroom
    · exact .inr ⟨hdue, if_pos (Nat.not_le.1 hdue)⟩
  · obtain ⟨⟨rs, hkept⟩, hmem⟩ := State.setLevel_records { s with mgmt := { s.mgmt with power := mw }, free := s.free + 1 } (s.levelAfter mw) hw
    have level : (({ s with mgmt := { s.mgmt with power := mw }, free := s.free + 1 } : State).setLevel (s.levelAfter mw)).mgmt.level = s.levelAfter mw := by
      rw [hkept.mgmt]
    refine ⟨_, rfl, hkept.frags, hkept.waves, hkept.teams, ?_, ?_⟩
    · exact (congrArg Mgmt.power hkept.mgmt).trans rfl
    · obtain ⟨hfloor, hceil, hover⟩ := s.levelAfter_bounds mw
      rw [← level] at hfloor hceil hover
      exact ⟨hfloor, hceil, hover, hmem⟩

/-! ## Ownership (R443, R444) -/

/-- Park messages that go to another master change neither who owns the device nor what is claimed (R389, R443). -/
theorem State.repeatParks_sends (s : State) : Sends s s.repeatParks := ⟨rfl, rfl, rfl, rfl, fun _ => rfl⟩

/-- A session that becomes the owner: its lease starts, and no claim changes. -/
theorem State.own_spec (s : State) (id prio : Nat) : MgmtOnly s (s.own id prio) ∧ (s.own id prio).mgmt.owner = some id ∧ (s.own id prio).mgmt.prio = prio ∧
    (s.own id prio).mgmt.lease = s.ticks ∧
    ∀ j, (Tbl.find (s.own id prio).mgmt.sessions j).map Session.claim = (Tbl.find s.mgmt.sessions j).map Session.claim := by
  let s1 : State := { s with mgmt := { s.mgmt with owner := some id, prio := prio, lease := s.ticks } }
  have parked : Sends s1 (if s.masterOf id = s.mgmt.former then s1 else s1.repeatParks) := by
    split_ifs
    · exact .refl s1
    · exact s1.repeatParks_sends
  obtain ⟨hrest, howner, hprio, hlease, hclaims⟩ := (parked.trans (u := { (if s.masterOf id = s.mgmt.former then s1 else s1.repeatParks) with
    mgmt := { (if s.masterOf id = s.mgmt.former then s1 else s1.repeatParks).mgmt with former := s.masterOf id } }) ⟨rfl, rfl, rfl, rfl, fun _ => rfl⟩).trans
    (State.sendEvents_sends _)
  exact ⟨.trans (t := s1) rfl hrest, howner, hprio, hlease, hclaims⟩

/-- Ownership that has not lapsed goes on. -/
theorem State.lapse_not (s : State) (h : ¬s.lapsed = true) : s.lapse = s := if_neg h

/-- Where it has lapsed and no claim is pending, it ends (R443). -/
theorem State.lapse_none (s : State) (h : s.lapsed = true) (hw : s.winner = none) : s.lapse = s.disown := by
  have nobody : s.disown.winner = none := hw
  rw [State.lapse, if_pos h, State.elect, nobody]
  rfl

/-- Ownership has ended, and the claim of a session is no longer pending. -/
def State.claimTaken (s : State) (id : Nat) (x : Session) : State :=
  { s.disown with mgmt := { s.disown.mgmt with sessions := Tbl.put s.mgmt.sessions id { x with claim := none } } }

theorem State.claimTaken_mgmtOnly (s : State) (id : Nat) (x : Session) : MgmtOnly s (s.claimTaken id x) := rfl

/-- Where it has lapsed and claims are pending, the best of them wins at once (R443). -/
theorem State.lapse_some (s : State) (h : s.lapsed = true) (id : Nat) (x : Session) (hw : s.winner = some (id, x)) :
    s.lapse = (s.claimTaken id x).own id (x.claim.getD 0) := by
  have best : s.disown.winner = some (id, x) := hw
  rw [State.lapse, if_pos h, State.elect, best]
  rfl

/-- The unacknowledged event `n` is said again at a step; the others are as they were (R444). -/
def SentEvent.again (n tick : Nat) (y : SentEvent) : SentEvent := if y.seq = n then { y with since := tick } else y

theorem SentEvent.again_event (n tick : Nat) (y : SentEvent) : (y.again n tick).event = y.event := by
  unfold SentEvent.again
  split_ifs <;> rfl

theorem SentEvent.again_since (n tick : Nat) (y : SentEvent) (h : (y.again n tick).seq = n) : (y.again n tick).since = tick := by
  unfold SentEvent.again at h ⊢
  split_ifs at h ⊢ with hn
  · rfl
  · exact absurd h hn

section resend

variable (s : State) (n id : Nat) (e : SentEvent) (ho : s.mgmt.owner = some id) (he : s.mgmt.unacked.find? (fun e => e.seq == n) = some e)
include ho he

/-- Before 250 ms have gone by an event is not said again. -/
theorem State.resend_undue (h : ¬250 * 10 ^ 6 ≤ s.nsSince e.since) : s.resend n = s := by
  rw [State.resend, ho, he]
  exact if_pos (Nat.not_le.1 h)

/-- After 250 ms it is said again, to the owner's port and with its number. -/
theorem State.resend_due (x : Session) (hx : Tbl.find s.mgmt.sessions id = some x) (h : 250 * 10 ^ 6 ≤ s.nsSince e.since) :
    s.resend n = ({ s with mgmt := { s.mgmt with unacked := s.mgmt.unacked.map (SentEvent.again n s.ticks) } } : State).say
      (.event x.port id e.seq e.event.kind e.event.body) := by
  rw [State.resend, ho, he]
  refine (if_neg (Nat.not_lt.2 h)).trans ?_
  rw [hx]
  rfl

end resend

/-- LEASE_EXPIRY and EVENT_RESEND. -/
theorem ownershipLapses : Claims.ownershipLapses := by
  refine ⟨fun s => ⟨fun hw => ⟨_, rfl, ?_⟩, fun id x hw => ⟨_, rfl, ?_⟩⟩, fun s n id e x ho hx he => ⟨_, rfl, ?_⟩⟩
  · by_cases h : s.lapsed = true
    · rw [s.lapse_none h hw]
      exact .inl ⟨h, rfl, rfl, rfl, rfl, rfl⟩
    · exact .inr ⟨h, s.lapse_not h⟩
  · by_cases h : s.lapsed = true
    · rw [s.lapse_some h id x hw]
      obtain ⟨hrest, howner, hprio, hlease, hclaims⟩ := (s.claimTaken id x).own_spec id (x.claim.getD 0)
      have taken : Tbl.find (s.claimTaken id x).mgmt.sessions id = some { x with claim := none } := Tbl.find_put_same ..
      exact .inl ⟨h, (s.claimTaken_mgmtOnly id x).trans hrest, howner, hprio, hlease, (hclaims id).trans (by rw [taken]; rfl)⟩
    · exact .inr ⟨h, s.lapse_not h⟩
  · by_cases h : 250 * 10 ^ 6 ≤ s.nsSince e.since
    · rw [s.resend_due n id e ho he x hx h]
      refine .inl ⟨h, rfl, rfl, fun y hy hn => ?_, ?_⟩
      · obtain ⟨z, -, rfl⟩ := List.mem_map.1 hy
        exact SentEvent.again_since n s.ticks z hn
      · exact (List.map_map ..).trans (List.map_congr_left fun z _ => SentEvent.again_event n s.ticks z)
    · exact .inr ⟨h, s.resend_undue n id e ho he h⟩

/-- Settles O47: scrubbing and ageing by what a found error and a requested swap leave, records by what a ring's head does, ownership by the lapse
of a lease and the repetition of an event. -/
theorem deviceKeepsUp : Obligations.DeviceKeepsUp := ⟨upkeepRuns, samplesTaken, ownershipLapses⟩

end Sys2Proof.Machine

/-! SUPPORT. EXIT.SUCC (R209): the fault of its header's read, and a fragment that is lost as the fault is recorded (R73, R92, R326). -/

namespace Sys2Proof.Machine

/-! ## A fault of the header's read -/

section headerFault

variable {s : State} {c : Ctx} {x : ExtWord} {e : LaneFault}

/-- Where the entry is a multiple of 64, the team is no shader wave's and no walker is awaited, the header's read ends in the access's own fault, with the
header's address. -/
theorem State.readSuccessor_fault {entry : Word} (hentry : entry.toNat % 64 = 0) (hshader : c.T.shader = false)
    (hwalk : s.walkBusy (.core c.W.core) c.T.asid (entry - 64) = false)
    (hacc : s.access (.core c.W.core) c.T.asid c.T.table (entry - 64) 1 .read .none = .error e) :
    s.readSuccessor c entry = .fault { e with va := entry - 64 } := by
  unfold State.readSuccessor
  dsimp only
  rw [if_neg (by simp [hentry, hshader]), if_neg (by rw [hwalk]; decide), hacc]

/-- A fault that the host does not service is EXIT.SUCC's own trap (R209). -/
theorem execExitSucc_fault (h : Ready s c (.exitSucc x)) (hread : s.readSuccessor c (c.F.scalar x.a.num.toNat) = .fault e) (hhost : e.x.host = false) :
    exec (.exitSucc x) s = .next ((s.trapFrag c.f (faultTrap c e) c.len).lookahead c (.exitSucc x)) := by
  have early : refusedSuccessor x c s = none := by rw [refusedSuccessor, hread]
  have body : exitSuccBody x c s = .trap (faultTrap c e) := by
    rw [exitSuccBody, hread]
    exact if_neg (by rw [hhost]; decide)
  have issued : exec (.exitSucc x) s = .next ((c.run (.exitSucc x) (exitSuccBody x) s).lookahead c (.exitSucc x)) :=
    issueChecked_ready _ (refusedSuccessor x) (exitSuccBody x) s c h early
  rw [issued, c.run_trap _ _ s _ body rfl]

end headerFault

/-! ## Fragments that are gone -/

theorem State.lookahead_frag?_none (s : State) (c : Ctx) (i : Instr) (h : s.frag? c.f = none) : (s.lookahead c i).frag? c.f = none := by
  have same : s.lookahead c i = s := by
    unfold State.lookahead
    split
    · rfl
    · simp [h]
  rwa [same]

/-- A fragment with a handler that is lost while the walks of its trap are recorded does not enter the handler (R92, R385, R404). -/
theorem State.takeTrap_frag?_none {s : State} {c : Ctx} {i : Instr} (t : Trap) (op : Word) (hctx : s.ctxOf c.f i = some c) (hsave : c.F.save = none)
    (hhandler : c.T.task.handler ≠ 0) (hlost : (s.logWalks c.T c.W c.F op t.mask t.walk).frag? c.f = none) : (s.takeTrap c.f t op).frag? c.f = none := by
  obtain ⟨-, hF, hw, hW, ht, hT, -⟩ := s.ctxOf_spec c c.f i hctx
  have gone : Tbl.find ((s.logWalks c.T c.W c.F op t.mask t.walk).forget c.f).frags c.f = none := hlost
  unfold State.takeTrap
  rw [hF]
  simp only [← hw, hW, ← ht, hT, hsave, Option.isSome_none, Bool.false_eq_true, if_false, if_neg hhandler]
  rw [State.frag?, State.adjFrag_frags, Tbl.find_adjust_same, gone, Option.map_none]

/-- What an error that is found does to the fragments is what its spoiled codeword does: the records change none. -/
theorem State.findError_frags (s : State) (line : Nat) : (s.findError line).frags = (s.spoil line).frags := by
  unfold State.findError
  dsimp only
  split <;> rfl

/-! ## A lost EXIT.SUCC -/

/-- EXIT.SUCC s4. -/
def succS4 : ExtWord := { blankExt with a := ⟨.scal, 4⟩, sub := 1 }

/-- An entry whose header is the first 64 bytes of page 16, where the code lies in page 0. -/
def farEntry : Word := 0x100040

/-- EXIT.SUCC to that entry stands before its seam, and fragment 1 is about to issue it. The third level's entry for page 16, at 0x30080, lies in codeword
0x601, which holds an error that nothing has found (R73), and at which the wait table still lists the fragment (R327). -/
def exitingWaiter : State :=
  let s := State.reset.withCode ((encode (.exitSucc succS4)).getD [] ++ bytesOfWord 0x10)
  { s.adjFrag 1 (fun F => F.setScalar 4 farEntry) with
    cur := some 1
    path := { s.path with waits := [(2, { frag := 1, va := 0x200080, die := 0, pa := 0x30080, wide := false, value := 0, scope := 4, since := 0
                                          listed := true, done := false, cls := 1 })] }
    rel := { s.rel with rot := [0x601] } }

/-- The context in which it issues. -/
def exitingCtx : Ctx :=
  { f := 1, F := { startFrag 1 0 0x100 64 [] plainHeader 1 0 with fstate := .running, scal := [(4, farEntry)] }, w := 1, W := startWave 1 0 0 0 0 0 0 64 8
    t := 1, T := plainTeam, len := 12, op := 0x0B, cls := 1 }

theorem exitingWaiter_ready : Ready exitingWaiter exitingCtx (.exitSucc succS4) where
  current := rfl
  context := by decide +kernel
  legal   := by decide +kernel
  allowed := rfl
  order   := by decide +kernel
  blocks  := by decide +kernel
  results := by decide +kernel
  tokens  := by decide +kernel
  calm    := rfl
  sound   := rfl

/-- The fault of a walk that reads page 16's entry: the error in its codeword poisons it (R90, R92). -/
def poisonedWalk : LaneFault := ⟨⟨0x06, 0x06, false, some (3, 0x30080)⟩, 0x100000⟩

theorem exitingWaiter_access : exitingWaiter.access (.core 0) 0 0x10000 (farEntry - 64) 1 .read .none = .error poisonedWalk := by rfl

theorem exitingWaiter_walkBusy : exitingWaiter.walkBusy (.core 0) 0 (farEntry - 64) = false := by decide +kernel

/-- The error is found as the walk's record is made (R92), which spoils the codeword; the fragment's own wait then reads poison, and it is lost (R326). -/
theorem exitingWaiter_lost (op : Word) (m : Mask) :
    (exitingWaiter.logWalks exitingCtx.T exitingCtx.W exitingCtx.F op m [(3, 0x30080)]).frag? 1 = none := by
  have found : exitingWaiter.foundEntry 0x30080 = exitingWaiter.findError 0x601 := rfl
  have spoilt : (exitingWaiter.spoil 0x601).frag? 1 = none := by decide +kernel
  show Tbl.find (exitingWaiter.foundEntry 0x30080).frags 1 = none
  rw [found, State.findError_frags]
  exact spoilt

/-- EXIT.SUCC raises the fault of its header's read, and leaves no fragment 1 to enter the handler. -/
theorem exitingWaiter_exec : ∃ t, exec (.exitSucc succS4) exitingWaiter = .next t ∧ t.frag? exitingCtx.f = none := by
  have read := State.readSuccessor_fault (c := exitingCtx) (by decide) rfl exitingWaiter_walkBusy exitingWaiter_access
  refine ⟨_, execExitSucc_fault exitingWaiter_ready read rfl, State.lookahead_frag?_none _ _ _ ?_⟩
  exact State.takeTrap_frag?_none _ _ exitingWaiter_ready.context rfl (by decide) (exitingWaiter_lost ..)

/-- The clause on a faulting read fails: where the walk's record finds an error at a codeword for which the wait table lists the fragment itself, the
fragment ends LOST and does not enter its handler. -/
theorem not_successorTask : ¬ Claims.successorTask := by
  intro h
  obtain ⟨-, -, -, -, -, -, faults, -⟩ := h exitingWaiter exitingCtx succS4 exitingWaiter_ready
  obtain ⟨t, next, ⟨F, entered, -⟩, -⟩ := faults poisonedWalk ⟨by decide, ne_true_of_eq_false exitingWaiter_walkBusy⟩ exitingWaiter_access rfl rfl (by decide)
  obtain ⟨t', next', gone⟩ := exitingWaiter_exec
  cases next.symm.trans next'
  exact absurd entered (by simp [gone])

/-- Refutes O24: EXIT.SUCC whose header lies behind a page-table entry with an error not yet found, in a fragment that the wait table lists at that error's
codeword, loses the fragment and enters no handler. The clause lacks the condition under which `Obligations.HandlerEntry` states handler entry, that the
trap records no walk or no error is at rest. -/
theorem not_exitsAndSuccessors : ¬ Obligations.ExitsAndSuccessors := fun h => not_successorTask h.2

end Sys2Proof.Machine

/-! SUPPORT. What keeps memory and its poisoned sectors in canonical form: the operations on the state. -/

namespace Sys2Proof.Machine

/-! ## The canonical form through folds, branches and outcomes -/

/-- The two parts of memory that the canonical form speaks of, apart from the state they stand in. -/
def Clean (m : List Host.Cell) (p : List Nat) : Prop := Memory.wf m = true ∧ NSet.wf p = true

/-- Changes to other fields of the state leave the canonical form as it was. -/
@[simp] theorem canonical_mk (mem : List Host.Cell) (poison : List Nat)
    (teams waves frags pend path rel sched links saves mgmt debug prof eng mx rc gfx nextId cur agenda ticks free ready) :
    Canonical ⟨mem, poison, teams, waves, frags, pend, path, rel, sched, links, saves, mgmt, debug, prof, eng, mx, rc, gfx, nextId, cur, agenda, ticks,
      free, ready⟩ ↔ Clean mem poison := Iff.rfl

@[simp] theorem clean_of (s : State) : Clean s.mem s.poison ↔ Canonical s := Iff.rfl

@[simp] theorem canonical_ite (c : Prop) [Decidable c] (a b : State) :
    Canonical (if c then a else b) ↔ if c then Canonical a else Canonical b := by split <;> rfl

@[simp] theorem canonical_foldl_iff {α : Type} (f : State → α → State) (l : List α) (s : State) (h : ∀ s a, Canonical (f s a) ↔ Canonical s) :
    Canonical (l.foldl f s) ↔ Canonical s := by
  induction l generalizing s with
  | nil => rfl
  | cons a l ih => rw [List.foldl_cons, ih, h]

@[simp] theorem canonical_foldl {α : Type} (f : State → α → State) (l : List α) (s : State) (hs : Canonical s) (h : ∀ s a, Canonical s → Canonical (f s a)) :
    Canonical (l.foldl f s) := by
  induction l generalizing s with
  | nil => exact hs
  | cons a l ih => exact ih _ (h _ _ hs)

@[simp] theorem canonical_foldl_fst {α β : Type} (f : State × β → α → State × β) (l : List α) (p : State × β)
    (h : ∀ p a, Canonical (f p a).1 ↔ Canonical p.1) : Canonical (l.foldl f p).1 ↔ Canonical p.1 := by
  induction l generalizing p with
  | nil => rfl
  | cons a l ih => rw [List.foldl_cons, ih, h]

@[simp] theorem canonical_foldl_snd {α β : Type} (f : β × State → α → β × State) (l : List α) (p : β × State)
    (h : ∀ p a, Canonical (f p a).2 ↔ Canonical p.2) : Canonical (l.foldl f p).2 ↔ Canonical p.2 := by
  induction l generalizing p with
  | nil => rfl
  | cons a l ih => rw [List.foldl_cons, ih, h]

/-- Where a body's outcome carries a state on, memory in it is in canonical form. -/
def Res.Kept : Res → Prop
  | .done s => Canonical s
  | .keep s => Canonical s
  | _ => True

@[simp] theorem Res.kept_done (s : State) : (Res.done s).Kept ↔ Canonical s := Iff.rfl
@[simp] theorem Res.kept_keep (s : State) : (Res.keep s).Kept ↔ Canonical s := Iff.rfl
theorem Res.Kept.done {r : Res} {s : State} (h : r.Kept) (e : r = .done s) : Canonical s := by subst e; exact h
@[simp] theorem Res.kept_trap (t : Trap) : (Res.trap t).Kept := trivial
@[simp] theorem Res.kept_stall : Res.stall.Kept := trivial
@[simp] theorem Res.kept_unselect : Res.unselect.Kept := trivial

/-- An instruction body that starts from memory in canonical form ends in it. -/
def Keeps (body : Ctx → State → Res) : Prop := ∀ c s, Canonical s → (body c s).Kept

@[simp] theorem Res.kept_ite (c : Prop) [Decidable c] (a b : Res) : (if c then a else b).Kept ↔ if c then a.Kept else b.Kept := by split <;> rfl

/-! ## Fragments, waves, memory and poison -/

@[simp] theorem State.adjFrag_canonical (s : State) (f : Nat) (g : Frag → Frag) : Canonical (s.adjFrag f g) ↔ Canonical s := Iff.rfl
@[simp] theorem State.adjWave_canonical (s : State) (w : Nat) (g : Wave → Wave) : Canonical (s.adjWave w g) ↔ Canonical s := Iff.rfl
@[simp] theorem State.adjTeam_canonical (s : State) (t : Nat) (g : Team → Team) : Canonical (s.adjTeam t g) ↔ Canonical s := Iff.rfl

@[simp] theorem State.readyNow_canonical (s : State) (f : Nat) : Canonical (s.readyNow f) ↔ Canonical s := by
  simp only [State.readyNow]
  split <;> simp

@[simp] theorem State.addPend_canonical (s : State) (p : Pend) : Canonical (s.addPend p).2 ↔ Canonical s := Iff.rfl

@[simp] theorem State.completeLanes_canonical (s : State) (id : Nat) (lanes : Mask) : Canonical (s.completeLanes id lanes) ↔ Canonical s := by
  simp only [State.completeLanes]
  split <;> simp

@[simp] theorem State.completeAll_canonical (s : State) (id : Nat) : Canonical (s.completeAll id) ↔ Canonical s := Iff.rfl
@[simp] theorem State.setReg_canonical (s : State) (w lane n : Nat) (v : VReg) : Canonical (s.setReg w lane n v) ↔ Canonical s := Iff.rfl

@[simp] theorem State.setScalars_canonical (s : State) (w : Nat) (lanes : Mask) (n : Nat) (v : Word) : Canonical (s.setScalars w lanes n v) ↔ Canonical s := by
  simp only [State.setScalars]
  split <;> simp

@[simp] theorem State.setPred_canonical (s : State) (w p : Nat) (lanes val : Mask) : Canonical (s.setPred w p lanes val) ↔ Canonical s := Iff.rfl
@[simp] theorem State.count_canonical (s : State) (ctr place n : Nat) : Canonical (s.count ctr place n) ↔ Canonical s := Iff.rfl
@[simp] theorem State.log_canonical (s : State) (r : ErrorRecord) : Canonical (s.log r) ↔ Canonical s := Iff.rfl

@[simp] theorem State.logFrag_canonical (s : State) (T : Team) (W : Wave) (F : Frag) (lane : Option Nat) (kind : BitVec 32) (synd : Nat)
    (pc : Word) (lanes : Mask) (addr : Word) (flags : Word) : Canonical (s.logFrag T W F lane kind synd pc lanes addr flags) ↔ Canonical s := Iff.rfl

@[simp] theorem State.logUnit_canonical (s : State) (unit core die : Nat) (kind : BitVec 32) (synd : Nat) (addr flags : Word) :
    Canonical (s.logUnit unit core die kind synd addr flags) ↔ Canonical s := Iff.rfl

@[simp] theorem State.addTask_canonical (s : State) (die : Nat) (t : WalkTask) : Canonical (s.addTask die t) ↔ Canonical s := Iff.rfl

@[simp] theorem State.teamEnded_canonical (s : State) (t : Nat) (status : Nat) : Canonical (s.teamEnded t status) ↔ Canonical s := by
  simp only [State.teamEnded]
  (repeat' split) <;> simp

@[simp] theorem State.checkEnds_canonical (s : State) (t : Nat) : Canonical (s.checkEnds t) ↔ Canonical s := by
  simp only [State.checkEnds]
  split <;> simp

@[simp] theorem State.dropLanes_canonical (s : State) (w : Nat) (lanes : Mask) : Canonical (s.dropLanes w lanes) ↔ Canonical s := by
  simp only [State.dropLanes]
  split <;> simp

@[simp] theorem State.halt_canonical (s : State) (f cause : Nat) : Canonical (s.halt f cause) ↔ Canonical s := Iff.rfl
@[simp] theorem State.forget_canonical (s : State) (f : Nat) : Canonical (s.forget f) ↔ Canonical s := Iff.rfl

@[simp] theorem State.noteExit_canonical (s : State) (f : Nat) : Canonical (s.noteExit f) ↔ Canonical s := by
  simp only [State.noteExit]
  (repeat' split) <;> simp

@[simp] theorem State.reuseEntry_canonical (s : State) (core quadrant entry : Nat) : Canonical (s.reuseEntry core quadrant entry) ↔ Canonical s := by
  simp only [State.reuseEntry]
  split <;> simp

@[simp] theorem State.emptied_canonical (s : State) (f : Nat) : Canonical (s.emptied f) ↔ Canonical s := by
  simp only [State.emptied]
  (repeat' split) <;> simp

@[simp] theorem State.emptiedAll_canonical (s : State) (w : Nat) : Canonical (s.emptiedAll w) ↔ Canonical s := by
  simp [State.emptiedAll]

@[simp] theorem State.killLanes_canonical (s : State) (w : Nat) (lanes : Mask) (o : Origin) (op : Nat) (addr : Word) :
    Canonical (s.killLanes w lanes o op addr) ↔ Canonical s := by
  unfold State.killLanes
  split
  · rfl
  · split
    · rfl
    · simp only [State.emptiedAll_canonical, State.dropLanes_canonical]
      exact canonical_foldl_iff _ _ s (fun s l => by split <;> simp)

@[simp] theorem State.endLost_canonical (s : State) (f : Nat) : Canonical (s.endLost f) ↔ Canonical s := by
  simp only [State.endLost]
  (repeat' split) <;> simp

@[simp] theorem State.loseFragment_canonical (s : State) (f : Nat) (op : Nat) (addr : Word) (from_ : Option Origin) :
    Canonical (s.loseFragment f op addr from_) ↔ Canonical s := by
  simp only [State.loseFragment]
  (repeat' split) <;> simp

theorem State.splitOff_canonical {s : State} {f : Nat} {lanes : Mask} {r : Nat × State} (hr : s.splitOff f lanes = some r) : Canonical r.2 ↔ Canonical s := by
  unfold State.splitOff at hr
  repeat' split at hr
  all_goals simp at hr
  subst hr
  simp

@[simp] theorem State.loseWaiter_canonical (s : State) (w : Waiter) : Canonical (s.loseWaiter w) ↔ Canonical s := by
  simp only [State.loseWaiter]
  split <;> simp

@[simp] theorem State.recheck_canonical (s : State) (secs : List Nat) : Canonical (s.recheck secs) ↔ Canonical s := by
  simp [State.recheck]

@[simp] theorem State.spoil_canonical (s : State) (line : Nat) (h : Canonical s) : Canonical (s.spoil line) := by
  obtain ⟨hm, hp⟩ := h
  exact (State.recheck_canonical _ _).2 ⟨writeCells_wf _ _ hm, foldl_insert_wf _ _ hp⟩

@[simp] theorem State.findError_canonical (s : State) (line : Nat) (h : Canonical s) : Canonical (s.findError line) := by
  simp [State.findError, h]

@[simp] theorem State.findErrors_canonical (s : State) (secs : List Nat) (h : Canonical s) : Canonical (s.findErrors secs) := by
  unfold State.findErrors
  split
  · exact h
  · exact canonical_foldl _ _ _ h fun t k ht => t.findError_canonical k ht

@[simp] theorem State.findIn_canonical (s : State) (a n : Nat) (h : Canonical s) : Canonical (s.findIn a n) := by
  simp [State.findIn, h]

@[simp] theorem State.foundEntry_canonical (s : State) (pa : Nat) (h : Canonical s) : Canonical (s.foundEntry pa) := by
  simp [State.foundEntry, h]

@[simp] theorem State.logWalks_canonical (s : State) (T : Team) (W : Wave) (F : Frag) (op : Word) (mask : Mask) (walks : List (Nat × Nat)) (h : Canonical s) :
    Canonical (s.logWalks T W F op mask walks) :=
  canonical_foldl _ _ _ h fun t e ht => by simp [ht]

@[simp] theorem State.takeTrap_canonical (s : State) (f : Nat) (t : Trap) (op : Word) (h : Canonical s) : Canonical (s.takeTrap f t op) := by
  simp only [State.takeTrap]
  (repeat' split) <;> simp [h]

@[simp] theorem State.retire_canonical (s : State) (f len : Nat) : Canonical (s.retire f len) ↔ Canonical s := Iff.rfl

@[simp] theorem State.trapFrag_canonical (s : State) (f : Nat) (t : Trap) (len : Nat) (h : Canonical s) : Canonical (s.trapFrag f t len) := by
  simp only [State.trapFrag]
  split <;> simp [h]

@[simp] theorem State.unselect_canonical (s : State) (f : Nat) : Canonical (s.unselect f) ↔ Canonical s := Iff.rfl

@[simp] theorem Ctx.finish_canonical (c : Ctx) (s : State) (r : Res) (h : Canonical s) (hr : r.Kept) : Canonical (c.finish s r) := by
  cases r with
  | done t => exact hr
  | keep t => exact hr
  | trap t => simp [Ctx.finish, h]
  | stall => exact h
  | unselect => exact h

theorem Ctx.run_canonical (c : Ctx) (i : Instr) (body : Ctx → State → Res) (s : State) (hb : Keeps body) (h : Canonical s) : Canonical (c.run i body s) := by
  unfold Ctx.run
  split
  · split
    · simp [h]
    · split
      · simp [h]
      · split
        · simp [h]
        · next n s1 hs =>
          have h1 : Canonical s1 := (State.splitOff_canonical hs).2 h
          extract_lets s2
          have h2 : Canonical s2 := by simp only [s2]; split <;> simp [h1]
          split
          · exact h2
          · next c2 _ =>
            split
            · exact h
            · exact h
            · exact c2.finish_canonical s2 _ h2 (hb c2 s2 h2)
  · exact c.finish_canonical s _ h (hb c s h)

theorem Ctx.struckAt_canonical {c : Ctx} {cls : Nat} {part : Mask} {s t : State} (ht : c.struckAt cls part s = .ok t) : Canonical t ↔ Canonical s := by
  simp only [Ctx.struckAt] at ht
  repeat' split at ht
  all_goals simp at ht
  all_goals subst ht; simp

theorem strike_canonical {c : Ctx} {i : Instr} {s t : State} (ht : strike c i s = .ok t) : Canonical t ↔ Canonical s := by
  unfold strike at ht
  split at ht
  · cases ht; rfl
  · exact Ctx.struckAt_canonical ht

@[simp] theorem struck_canonical (c : Ctx) (i : Instr) (t : Trap) (s : State) : Canonical (struck c i t s) ↔ Canonical s := Iff.rfl

/-! ## Translation and its walks -/

@[simp] theorem State.fillTlb_canonical (s : State) (who : Agent) (asid root : Nat) (va : Word) : Canonical (s.fillTlb who asid root va) ↔ Canonical s := by
  simp only [State.fillTlb]
  split <;> simp

@[simp] theorem State.awaitWalk_canonical (s : State) (core asid root : Nat) (va : Word) : Canonical (s.awaitWalk core asid root va) ↔ Canonical s := by
  simp [State.awaitWalk]

@[simp] theorem State.fillAccess_canonical (s : State) (who : Agent) (asid root : Nat) (va : Word) (n : Nat) :
    Canonical (s.fillAccess who asid root va n) ↔ Canonical s := by
  simp [State.fillAccess]

@[simp] theorem State.say_canonical (s : State) (m : Message) : Canonical (s.say m) ↔ Canonical s := Iff.rfl

@[simp] theorem State.sendEvent_canonical (s : State) : Canonical s.sendEvent ↔ Canonical s := by
  simp only [State.sendEvent]
  (repeat' split) <;> simp

@[simp] theorem State.sendEvents_canonical (s : State) : Canonical s.sendEvents ↔ Canonical s := by
  simp [State.sendEvents]

@[simp] theorem State.raise_canonical (s : State) (kind : Nat) (body : List Byte) : Canonical (s.raise kind body) ↔ Canonical s := by
  simp [State.raise]

@[simp] theorem State.stopTeam_canonical (s : State) (t : Nat) : Canonical (s.stopTeam t) ↔ Canonical s := Iff.rfl

@[simp] theorem State.newImage_canonical (s : State) (t : Nat) (kind : ImageKind) (pages : List ParkPage) (traps : List (Nat × Trap)) :
    Canonical (s.newImage t kind pages traps).2 ↔ Canonical s := by
  simp only [State.newImage]
  split <;> simp

@[simp] theorem State.park_canonical (s : State) (t : Nat) (pages : List ParkPage) (traps : List (Nat × Trap)) :
    Canonical (s.park t pages traps) ↔ Canonical s := by
  simp only [State.park]
  split <;> simp

/-! ## Caches and the sectors they hold -/

@[simp] theorem State.findRange_canonical (s : State) (a n : Nat) (h : Canonical s) : Canonical (s.findRange a n) := by
  simp [State.findRange, h]

@[simp] theorem State.logWalk_canonical (s : State) (unit core die : Nat) (e : LaneFault) (h : Canonical s) : Canonical (s.logWalk unit core die e) := by
  simp only [State.logWalk]
  split <;> simp [h]

@[simp] theorem State.l2Evict_canonical (s : State) (line : Nat) (h : Canonical s) : Canonical (s.l2Evict line) := by
  simp [State.l2Evict, h]

@[simp] theorem State.setL2_canonical (s : State) (line : Nat) (l : L2Line) (h : Canonical s) : Canonical (s.setL2 line l) := by
  simp [State.setL2, h]

@[simp] theorem State.homeRead_canonical (s : State) (sec : Nat) (uc : Bool) (h : Canonical s) : Canonical (s.homeRead sec uc) := by
  simp [State.homeRead, h]

@[simp] theorem State.storeHome_canonical (s : State) (cells : List (Nat × Byte)) (bad : List Nat) (h : Canonical s) : Canonical (s.storeHome cells bad) := by
  simp [State.storeHome, State.writeMem_canonical, h]

@[simp] theorem State.l1Fill_canonical (s : State) (core sec : Nat) (v : Sector) : Canonical (s.l1Fill core sec v) ↔ Canonical s := Iff.rfl
@[simp] theorem State.l1Update_canonical (s : State) (core : Nat) (cells : List (Nat × Byte)) : Canonical (s.l1Update core cells) ↔ Canonical s := Iff.rfl
@[simp] theorem State.l1Drop_canonical (s : State) (core : Nat) (p : Nat → Bool) : Canonical (s.l1Drop core p) ↔ Canonical s := Iff.rfl
@[simp] theorem State.setRdc_canonical (s : State) (die : Nat) (t : Tbl RdcLine) : Canonical (s.setRdc die t) ↔ Canonical s := Iff.rfl
@[simp] theorem State.rdcDrop_canonical (s : State) (die line : Nat) : Canonical (s.rdcDrop die line) ↔ Canonical s := Iff.rfl
@[simp] theorem State.rdcDropSectors_canonical (s : State) (die : Nat) (secs : List Nat) : Canonical (s.rdcDropSectors die secs) ↔ Canonical s := Iff.rfl

@[simp] theorem State.addSharer_canonical (s : State) (line die : Nat) (h : Canonical s) : Canonical (s.addSharer line die) := by
  simp [State.addSharer, h]

@[simp] theorem State.dropSharer_canonical (s : State) (line die : Nat) (h : Canonical s) : Canonical (s.dropSharer line die) := by
  simp [State.dropSharer, h]

@[simp] theorem State.rdcFill_canonical (s : State) (die sec : Nat) (v : Sector) (h : Canonical s) : Canonical (s.rdcFill die sec v) := by
  simp [State.rdcFill, h]

@[simp] theorem State.dropDetached_canonical (s : State) (die : Nat) : Canonical (s.dropDetached die) ↔ Canonical s := Iff.rfl

@[simp] theorem State.acquire_canonical (s : State) (core scope : Nat) : Canonical (s.acquire core scope) ↔ Canonical s := by
  simp [State.acquire]

theorem State.readSector_canonical {s t : State} {core sec mt : Nat} {acq : Bool} {scope : Nat} {noL1 : Bool} {v : Sector}
    (hr : s.readSector core sec mt acq scope noL1 = some (v, t)) (h : Canonical s) : Canonical t := by
  simp only [State.readSector] at hr
  repeat' split at hr
  all_goals simp at hr
  all_goals obtain ⟨-, rfl⟩ := hr
  all_goals simp [h]

theorem State.readConst_canonical {s t : State} {core sec : Nat} {v : Sector} (hr : s.readConst core sec = some (v, t)) (h : Canonical s) : Canonical t := by
  simp only [State.readConst] at hr
  split at hr
  · cases hr; exact h
  · split at hr
    · cases hr
    · next hs =>
      have h1 := State.readSector_canonical hs h
      cases hr; exact h1

@[simp] theorem State.fillCode_canonical (s : State) (core sec mt : Nat) (h : Canonical s) : Canonical (s.fillCode core sec mt) := by
  simp [State.fillCode, h]

@[simp] theorem State.fillFetch_canonical (s : State) (core asid root n : Nat) (va : Word) (h : Canonical s) : Canonical (s.fillFetch core asid root n va) := by
  induction n generalizing s va with
  | zero => exact h
  | succ n ih =>
    unfold State.fillFetch
    split
    · exact h
    · exact ih _ _ (by simp [h])

@[simp] theorem State.fetchFault_canonical (s : State) (c : Ctx) (e : LaneFault) (h : Canonical s) : Canonical (s.fetchFault c e) := by
  simp [State.fetchFault, h]

@[simp] theorem State.lookahead_canonical (s : State) (c : Ctx) (i : Instr) : Canonical (s.lookahead c i) ↔ Canonical s := by
  simp only [State.lookahead]
  (repeat' split) <;> simp

@[simp] theorem State.logArray_canonical (s : State) (c : Ctx) (e : Weak) : Canonical (s.logArray c e) ↔ Canonical s := Iff.rfl
@[simp] theorem State.dropWeak_canonical (s : State) (p : Weak → Bool) : Canonical (s.dropWeak p) ↔ Canonical s := Iff.rfl

theorem State.consume_canonical {s t : State} {c : Ctx} {i : Instr} (ht : s.consume c i = some t) : Canonical t ↔ Canonical s := by
  simp only [State.consume] at ht
  repeat' split at ht
  all_goals simp at ht
  all_goals subst ht; simp

@[simp] theorem State.rewrite_canonical (s : State) (weak : List Weak) (c : Ctx) (i : Instr) : Canonical (s.rewrite weak c i) ↔ Canonical s := by
  simp only [State.rewrite]
  (repeat' split) <;> simp

/-- An instruction's check before its operands are read keeps memory in canonical form where it ends the instruction. -/
def KeepsEarly (early : Ctx → State → Option Res) : Prop := ∀ c s r, early c s = some r → Canonical s → r.Kept

/-- Every way an instruction issues: what precedes the body, the body, and what its outcome leaves. -/
theorem Ctx.issueWith_canonical (c : Ctx) (i : Instr) {early : Ctx → State → Option Res} {body : Ctx → State → Res} (s : State) (he : KeepsEarly early)
    (hb : Keeps body) (h : Canonical s) : Canonical (c.issueWith i early body s) := by
  unfold Ctx.issueWith
  split
  · simp [h]
  · split
    · simp [h]
    · split
      · simp [h]
      · split
        · simp [h]
        · split
          · exact h
          · split
            · next hs => exact (State.consume_canonical hs).2 h
            · split
              · next r hr => exact c.finish_canonical s r h (he c s r hr h)
              · split
                · simp [h]
                · next s1 hs =>
                  have h1 := (strike_canonical hs).2 h
                  simp [c.run_canonical i body s1 hb h1]

/-! ## Operands -/

@[simp] theorem Ctx.write_canonical (c : Ctx) (d : Operand) (lanes : Mask) (val : Nat → Word) (tag : Nat → Tag) (s : State) :
    Canonical (c.write d lanes val tag s) ↔ Canonical s := by
  simp only [Ctx.write]
  split <;> simp

@[simp] theorem Ctx.writePred_canonical (c : Ctx) (p : Nat) (lanes : Mask) (val : Nat → Bool) (s : State) :
    Canonical (c.writePred p lanes val s) ↔ Canonical s := Iff.rfl

/-! ## Floating-point flags -/

@[simp] theorem Ctx.setFlags_canonical (c : Ctx) (lanes : List Nat) (flags : Nat → FFlags) (s : State) :
    Canonical (c.setFlags lanes flags s) ↔ Canonical s := Iff.rfl

@[simp] theorem Ctx.compute_kept (c : Ctx) (x : ExtWord) (srcs : List Src) (f : Nat → List Word → Word × FFlags) (tag : Nat → Tag) (s : State)
    (h : Canonical s) : (c.compute x srcs f tag s).Kept := by
  simp only [Ctx.compute]
  (repeat' split) <;> simp [h]

@[simp] theorem Ctx.computePred_kept (c : Ctx) (x : ExtWord) (srcs : List Src) (f : List Word → Bool × FFlags) (s : State) (h : Canonical s) :
    (c.computePred x srcs f s).Kept := by
  simp only [Ctx.computePred]
  (repeat' split) <;> simp [h]

@[simp] theorem Ctx.compInt_kept (c : Ctx) (x : ExtWord) (srcs : List Src) (f : List Word → Word) (tag : Nat → Tag) (s : State) (h : Canonical s) :
    (c.compInt x srcs f tag s).Kept := by
  simp only [Ctx.compInt]
  split <;> simp [h]

@[simp] theorem Ctx.predInt_kept (c : Ctx) (x : ExtWord) (srcs : List Src) (f : List Word → Bool) (s : State) (h : Canonical s) :
    (c.predInt x srcs f s).Kept := by
  simp only [Ctx.predInt]
  split <;> simp [h]

/-! ## Base forms -/

@[simp] theorem State.runDone_canonical (s : State) (W : Wave) : Canonical (s.runDone W) ↔ Canonical s := Iff.rfl

@[simp] theorem seamBody_kept (w : SeamWord) (c : Ctx) (s : State) (h : Canonical s) : (seamBody w c s).Kept := by
  simp [seamBody, h]

@[simp] theorem noEffect_kept (x0 : Ctx) (s : State) (h : Canonical s) : (noEffect x0 s).Kept := by
  simp [noEffect, h]

@[simp] theorem baseVec_kept (w : BaseWord) (f : VReg → VReg) (c : Ctx) (s : State) (h : Canonical s) : (baseVec w f c s).Kept := by
  simp [baseVec, h]

@[simp] theorem basePred_kept (w : BaseWord) (f : Mask → Mask) (c : Ctx) (s : State) (h : Canonical s) : (basePred w f c s).Kept := by
  simp [basePred, h]

@[simp] theorem emulationBody_kept (word0 : BitVec 32) (c : Ctx) (s : State) (h : Canonical s) : (emulationBody word0 c s).Kept := by
  simp [emulationBody, h]

/-! ## Integer and predicate instructions -/

@[simp] theorem intBody_kept (x : ExtWord) (n : Nat) (op : Int → Int → Int → Int) (c : Ctx) (s : State) (h : Canonical s) : (intBody x n op c s).Kept := by
  simp [intBody, h]

@[simp] theorem sadBody_kept (x : ExtWord) (c : Ctx) (s : State) (h : Canonical s) : (sadBody x c s).Kept := by
  simp [sadBody, h]

@[simp] theorem carryBody_kept (x : ExtWord) (op : Int → Int → Int → Int) (out : Int → Bool) (c : Ctx) (s : State) (h : Canonical s) :
    (carryBody x op out c s).Kept := by
  simp only [carryBody]
  split <;> simp [h]

@[simp] theorem imadcBody_kept (x : ExtWord) (c : Ctx) (s : State) (h : Canonical s) : (imadcBody x c s).Kept := by
  simp only [imadcBody]
  split <;> simp [h]

@[simp] theorem natBody_kept (x : ExtWord) (n : Nat) (op : Nat → Nat → Nat → Nat → Nat) (c : Ctx) (s : State) (h : Canonical s) :
    (natBody x n op c s).Kept := by
  simp [natBody, h]

@[simp] theorem bswzBody_kept (x : ExtWord) (c : Ctx) (s : State) (h : Canonical s) : (bswzBody x c s).Kept := by
  simp [bswzBody, h]

@[simp] theorem icmpBody_kept (x : ExtWord) (c : Ctx) (s : State) (h : Canonical s) : (icmpBody x c s).Kept := by
  simp [icmpBody, h]

@[simp] theorem pickBody_kept (x : ExtWord) (c : Ctx) (s : State) (h : Canonical s) : (pickBody x c s).Kept := by
  simp [pickBody, h]

@[simp] theorem movBody_kept (x : ExtWord) (c : Ctx) (s : State) (h : Canonical s) : (movBody x c s).Kept := by
  simp only [movBody]
  (repeat' split) <;> simp [h]

@[simp] theorem movlBody_kept (x : ExtWord) (c : Ctx) (s : State) (h : Canonical s) : (movlBody x c s).Kept := by
  simp [movlBody, h]

@[simp] theorem leaBody_kept (x : ExtWord) (c : Ctx) (s : State) (h : Canonical s) : (leaBody x c s).Kept := by
  simp [leaBody, h]

@[simp] theorem predBody_kept (x : ExtWord) (val : Ctx → Mask) (c : Ctx) (s : State) (h : Canonical s) : (predBody x val c s).Kept := by
  simp [predBody, h]

/-! ## Control transfer and meetings -/

@[simp] theorem State.parkFor_canonical (s : State) (c : Ctx) (kind : Nat) (e : LaneFault) (mask : Mask) :
    Canonical (s.parkFor c kind e mask) ↔ Canonical s := by
  simp [State.parkFor]

@[simp] theorem State.splitGroups_canonical (s : State) (c : Ctx) (await : BitVec 16) (gs : List (Mask × Word)) :
    Canonical (s.splitGroups c await gs).1 ↔ Canonical s := by
  induction gs generalizing s with
  | nil => rfl
  | cons g gs ih =>
    unfold State.splitGroups
    split
    · rfl
    · next n s1 hs => simp [ih, State.splitOff_canonical hs]

@[simp] theorem State.diverge_kept (s : State) (c : Ctx) (groups : List (Mask × Word)) (h : Canonical s) : (s.diverge c groups).Kept := by
  unfold State.diverge
  split <;> simp [h]

theorem State.targetRes_kept {s : State} {c : Ctx} {k : TargetCheck} {r : Res} (hr : s.targetRes c k = some r) (h : Canonical s) : r.Kept := by
  unfold State.targetRes at hr
  split at hr <;> cases hr
  · trivial
  · simp [h]

@[simp] theorem transferBody_kept (x : ExtWord) (target : Ctx → Nat → Word) (perLane : Bool) (c : Ctx) (s : State) (h : Canonical s) :
    (transferBody x target perLane c s).Kept := by
  simp only [transferBody]
  split
  · next r hr => exact State.targetRes_kept hr h
  · simp [h]

@[simp] theorem callBody_kept (x : ExtWord) (c : Ctx) (s : State) (h : Canonical s) : (callBody x c s).Kept := by
  simp only [callBody]
  split
  · next r hr => exact State.targetRes_kept hr h
  · simp [h]

@[simp] theorem loopBody_kept (x : ExtWord) (c : Ctx) (s : State) (h : Canonical s) : (loopBody x c s).Kept := by
  simp only [loopBody]
  split
  · next r hr => exact State.targetRes_kept hr h
  · simp [h]

@[simp] theorem State.fuse_canonical (s : State) (w : Nat) (fs : List (Nat × Frag)) (forced : Bool) : Canonical (s.fuse w fs forced) ↔ Canonical s := by
  simp only [State.fuse]
  split <;> simp

@[simp] theorem State.passMeet_canonical (s : State) (w f : Nat) (m : Meet) (run : Bool) (h : Canonical s) : Canonical (s.passMeet w f m run) := by
  simp only [State.passMeet]
  (repeat' split) <;> simp [h]

@[simp] theorem State.decideFuse_canonical (s : State) (w : Nat) (k : MeetKind) (here : Option Nat) (h : Canonical s) : Canonical (s.decideFuse w k here) := by
  simp only [State.decideFuse]
  (repeat' split) <;> simp [h]

@[simp] theorem State.arrive_canonical (s : State) (c : Ctx) (k : MeetKind) (tmo : Nat) (pred : Option Nat) (h : Canonical s) :
    Canonical (s.arrive c k tmo pred) := by
  simp [State.arrive, h]

@[simp] theorem meetBody_kept (x : ExtWord) (k : MeetKind) (pred : Option Nat) (c : Ctx) (s : State) (h : Canonical s) : (meetBody x k pred c s).Kept := by
  simp only [meetBody]
  split <;> simp [h]

@[simp] theorem State.closeWindow_canonical (s : State) (w : Nat) (a : Word) (k : MeetKind) (need : List (Nat × Frag)) :
    Canonical (s.closeWindow w a k need) ↔ Canonical s := by
  simp only [State.closeWindow]
  split <;> simp

theorem gather_kept (i : Instr) (x : ExtWord) {body : Ctx → State → Res} (hb : Keeps body) : Keeps (gather i x body) := by
  intro c s h
  simp only [gather]
  split
  · exact hb c s h
  · split
    · exact h
    · split
      · simp [h]
      · split
        · simp [h]
        · next c3 _ =>
          refine c3.finish_canonical _ _ ?_ (hb c3 _ ?_) <;> simp [h]

@[simp] theorem electBody_kept (x : ExtWord) (c : Ctx) (s : State) (h : Canonical s) : (electBody x c s).Kept := by
  simp [electBody, h]

@[simp] theorem State.rayExit_canonical (s : State) (w : Nat) (lanes : Mask) : Canonical (s.rayExit w lanes) ↔ Canonical s := Iff.rfl

@[simp] theorem exitBody_kept (x : ExtWord) (c : Ctx) (s : State) (h : Canonical s) : (exitBody x c s).Kept := by
  simp only [exitBody]
  split <;> simp [h]

@[simp] theorem State.startFragOf_canonical (s : State) (w : Nat) (W : Wave) (h : Header) (scal : List Word) :
    Canonical (s.startFragOf w W h scal) ↔ Canonical s := by
  simp only [State.startFragOf]
  split <;> simp

/-! ## Floating point -/

@[simp] theorem fpBody_kept (x : ExtWord) (n : Nat) (op : Fmt → Bool → List Val → Nat × FFlags) (c : Ctx) (s : State) (h : Canonical s) :
    (fpBody x n op c s).Kept := by
  simp [fpBody, h]

@[simp] theorem dotBody_kept (x : ExtWord) (ta tb k : Nat) (c : Ctx) (s : State) (h : Canonical s) : (dotBody x ta tb k c s).Kept := by
  simp [dotBody, h]

@[simp] theorem fsetBody_kept (x : ExtWord) (c : Ctx) (s : State) (h : Canonical s) : (fsetBody x c s).Kept := by
  simp [fsetBody, h]

@[simp] theorem fclassBody_kept (x : ExtWord) (c : Ctx) (s : State) (h : Canonical s) : (fclassBody x c s).Kept := by
  simp [fclassBody, h]

@[simp] theorem fxpiBody_kept (x : ExtWord) (c : Ctx) (s : State) (h : Canonical s) : (fxpiBody x c s).Kept := by
  simp [fxpiBody, h]

@[simp] theorem fgetxBody_kept (x : ExtWord) (c : Ctx) (s : State) (h : Canonical s) : (fgetxBody x c s).Kept := by
  simp [fgetxBody, h]

@[simp] theorem funcBody_kept (x : ExtWord) (op : Nat) (c : Ctx) (s : State) (h : Canonical s) : (funcBody x op c s).Kept := by
  simp [funcBody, h]

@[simp] theorem cvtBody_kept (x : ExtWord) (conv : Ctx → Nat → Nat → Nat → Nat × FFlags) (c : Ctx) (s : State) (h : Canonical s) :
    (cvtBody x conv c s).Kept := by
  simp [cvtBody, h]

@[simp] theorem cvtSrBody_kept (x : ExtWord) (c : Ctx) (s : State) (h : Canonical s) : (cvtSrBody x c s).Kept := by
  have hb := cvtBody_kept x (convFF x) c s h
  unfold cvtSrBody
  split
  · next s1 hs => simpa using hb.done hs
  · exact hb

@[simp] theorem Ctx.computeRegs_kept (c : Ctx) (x : ExtWord) (srcs : List Src) (f : List Word → List (Nat × VReg) × FFlags) (s : State) (h : Canonical s) :
    (c.computeRegs x srcs f s).Kept := by
  simp only [Ctx.computeRegs]
  (repeat' split) <;> simp [h]

@[simp] theorem packBody_kept (x : ExtWord) (c : Ctx) (s : State) (h : Canonical s) : (packBody x c s).Kept := by
  simp [packBody, h]

@[simp] theorem unpkBody_kept (x : ExtWord) (c : Ctx) (s : State) (h : Canonical s) : (unpkBody x c s).Kept := by
  simp [unpkBody, h]

@[simp] theorem mxqBody_kept (x : ExtWord) (c : Ctx) (s : State) (h : Canonical s) : (mxqBody x c s).Kept := by
  simp [mxqBody, h]

@[simp] theorem mxdBody_kept (x : ExtWord) (c : Ctx) (s : State) (h : Canonical s) : (mxdBody x c s).Kept := by
  simp [mxdBody, h]

@[simp] theorem tagsetBody_kept (x : ExtWord) (c : Ctx) (s : State) (h : Canonical s) : (tagsetBody x c s).Kept := by
  simp [tagsetBody, h]

/-! ## Cross-lane instructions -/

@[simp] theorem Ctx.writeP_canonical (c : Ctx) (x : ExtWord) (lanes : Mask) (val : Nat → Bool) (s : State) :
    Canonical (c.writeP x lanes val s) ↔ Canonical s := by
  simp [Ctx.writeP]

@[simp] theorem permBody_kept (x : ExtWord) (pick : Ctx → Nat → Nat → Option (Nat × Nat)) (c : Ctx) (s : State) (h : Canonical s) :
    (permBody x pick c s).Kept := by
  simp only [permBody]
  (repeat' split) <;> simp [h]

@[simp] theorem bcstBody_kept (x : ExtWord) (c : Ctx) (s : State) (h : Canonical s) : (bcstBody x c s).Kept := by
  have hb := permBody_kept { x with d := ⟨.rsvd, 0⟩ } (fun c l _ => bcstPick x c l) c s h
  simp only [bcstBody]
  split
  · split
    · next s1 hs => simpa using hb.done hs
    · exact hb
  · simp [h]

@[simp] theorem voteBody_kept (x : ExtWord) (c : Ctx) (s : State) (h : Canonical s) : (voteBody x c s).Kept := by
  simp [voteBody, h]

@[simp] theorem matchBody_kept (x : ExtWord) (c : Ctx) (s : State) (h : Canonical s) : (matchBody x c s).Kept := by
  simp [matchBody, h]

@[simp] theorem redwBody_kept (x : ExtWord) (c : Ctx) (s : State) (h : Canonical s) : (redwBody x c s).Kept := by
  simp only [redwBody]
  (repeat' split) <;> simp [h]

@[simp] theorem scanwBody_kept (x : ExtWord) (c : Ctx) (s : State) (h : Canonical s) : (scanwBody x c s).Kept := by
  simp only [scanwBody]
  (repeat' split) <;> simp [h]

/-! ## Special registers and register blocks -/

@[simp] theorem mfsBody_kept (x : ExtWord) (c : Ctx) (s : State) (h : Canonical s) : (mfsBody x c s).Kept := by
  simp [mfsBody, h]

@[simp] theorem mtsBody_kept (x : ExtWord) (c : Ctx) (s : State) (h : Canonical s) : (mtsBody x c s).Kept := by
  simp [mtsBody, h]

theorem blockMaskEarly_kept (x : ExtWord) : KeepsEarly (blockMaskEarly x) := by
  intro c s r hr _
  simp only [blockMaskEarly, Option.map_eq_some_iff] at hr
  obtain ⟨t, -, rfl⟩ := hr
  trivial

@[simp] theorem State.joinRacq_canonical (s : State) (t f : Nat) : Canonical (s.joinRacq t f) ↔ Canonical s := Iff.rfl

@[simp] theorem racqBody_kept (x : ExtWord) (c : Ctx) (s : State) (h : Canonical s) : (racqBody x c s).Kept := by
  simp [racqBody, h]

@[simp] theorem rrelBody_kept (x : ExtWord) (c : Ctx) (s : State) (h : Canonical s) : (rrelBody x c s).Kept := by
  simp [rrelBody, h]

theorem rgiveEarly_kept (x : ExtWord) : KeepsEarly (rgiveEarly x) := by
  intro c s r hr _
  unfold rgiveEarly at hr
  repeat' split at hr
  all_goals cases hr
  all_goals trivial

@[simp] theorem rgiveBody_kept (x : ExtWord) (c : Ctx) (s : State) (h : Canonical s) : (rgiveBody x c s).Kept := by
  simp [rgiveBody, h]

/-! ## Profile records -/

@[simp] theorem State.ringWrite_canonical (s : State) (r : ProfRing) (words : List Word) (h : Canonical s) : Canonical (s.ringWrite r words) := by
  simp [State.ringWrite, h]

@[simp] theorem State.profile_canonical (s : State) (die : Nat) (core : Option Nat) (type : Nat) (words : List Word) (h : Canonical s) :
    Canonical (s.profile die core type words) := by
  simp only [State.profile]
  split <;> simp [h]

@[simp] theorem State.sampleSector_canonical (s : State) (core grid : Nat) (pc : Word) (kind sec : Nat) (poison rdc : Bool) (h : Canonical s) :
    Canonical (s.sampleSector core grid pc kind sec poison rdc) := by
  simp [State.sampleSector, h]

@[simp] theorem State.traceAccess_canonical (s : State) (c : Ctx) (width : Nat) (part : Mask) (lanes : List (Nat × Word)) (h : Canonical s) :
    Canonical (s.traceAccess c width part lanes) := by
  simp only [State.traceAccess]
  split <;> simp [h]

@[simp] theorem State.watch_canonical (s : State) (t f : Nat) (write : Bool) (n : Nat) (vas : List Word) :
    Canonical (s.watch t f write n vas) ↔ Canonical s := by
  simp only [State.watch]
  split <;> simp

/-! ## Accesses of lanes and the store queue -/

@[simp] theorem Ctx.faultRes_kept (c : Ctx) (s : State) (kind : Nat) (bad : List (Nat × LaneFault)) (whole : Bool) (h : Canonical s) :
    (c.faultRes s kind bad whole).Kept := by
  simp only [Ctx.faultRes]
  split <;> simp [h]

theorem Ctx.reach_kept {c : Ctx} {s : State} {lanes : List Nat} {addr : Nat → Word} {n : Nat} {kind : Acc} {limit : Limit} {whole : Bool} {r : Res}
    (hr : c.reach s lanes addr n kind limit whole = .error r) (h : Canonical s) : r.Kept := by
  simp only [Ctx.reach] at hr
  repeat' split at hr
  all_goals cases hr
  · simp [h]
  · simp [h]

theorem Ctx.reachScratch_kept {c : Ctx} {s : State} {lanes : List Nat} {addr : Nat → Word} {n : Nat} {aligned whole : Bool} {r : Res}
    (hr : c.reachScratch s lanes addr n aligned whole = .error r) (h : Canonical s) : r.Kept := by
  simp only [Ctx.reachScratch] at hr
  split at hr <;> cases hr
  simp [h]

theorem Ctx.reachIn_kept {c : Ctx} {s : State} {scratch : Bool} {lanes : List Nat} {addr : Nat → Word} {n : Nat} {kind : Acc} {whole : Bool} {r : Res}
    (hr : c.reachIn s scratch lanes addr n kind whole = .error r) (h : Canonical s) : r.Kept := by
  unfold Ctx.reachIn at hr
  split at hr
  · exact Ctx.reachScratch_kept hr h
  · exact Ctx.reach_kept hr h

@[simp] theorem State.fillReached_canonical (s : State) (c : Ctx) (n : Nat) (r : Reached) : Canonical (s.fillReached c n r) ↔ Canonical s := by
  simp [State.fillReached]

theorem State.storeIn_canonical {s t : State} {w : Nat} {W : Wave} {e : StoreEntry} (ht : s.storeIn w W e = some t) : Canonical t ↔ Canonical s := by
  unfold State.storeIn at ht
  repeat' split at ht
  all_goals simp at ht
  all_goals subst ht; simp

@[simp] theorem State.admitWaiting_canonical (s : State) (w : Nat) : Canonical (s.admitWaiting w) ↔ Canonical s := by
  simp only [State.admitWaiting]
  split
  · rfl
  · refine canonical_foldl_iff _ _ s fun s e => ?_
    split
    · rfl
    · split
      · rfl
      · split
        · rfl
        · next s1 hs => simp [State.storeIn_canonical hs]

theorem Ctx.failedStore_kept {c : Ctx} {s : State} {r : Res} (hr : c.failedStore s = some r) (h : Canonical s) : r.Kept := by
  unfold Ctx.failedStore at hr
  split at hr <;> cases hr
  simp [h]

theorem Ctx.remoteCheck_kept {c : Ctx} {s : State} {r : Res} (hr : c.remoteCheck s = some r) (h : Canonical s) : r.Kept := by
  unfold Ctx.remoteCheck at hr
  split at hr
  · next hf => cases hr; exact Ctx.failedStore_kept hf h
  · split at hr <;> cases hr
    trivial

theorem State.splitFar_canonical {s : State} {c : Ctx} {i : Instr} {far : Mask} {hold : Option Nat} {r : Nat × State} (hr : s.splitFar c i far hold = some r) :
    Canonical r.2 ↔ Canonical s := by
  unfold State.splitFar at hr
  split at hr <;> cases hr
  next hs => simpa using State.splitOff_canonical hs

end Sys2Proof.Machine

/-! SUPPORT. What keeps memory and its poisoned sectors in canonical form: the memory path and the engines. -/

namespace Sys2Proof.Machine

/-! ## Loads, stores, prefetches, cache control and fences -/

@[simp] theorem State.nextEpoch_canonical (s : State) (w : Nat) (ordering : Bool) : Canonical (s.nextEpoch w ordering) ↔ Canonical s := by
  simp [State.nextEpoch]

@[simp] theorem State.startLoad_canonical (s : State) (c : Ctx) (f : Nat) (p : Pend) (r : Reached) (n : Nat) :
    Canonical (s.startLoad c f p r n) ↔ Canonical s := by
  simp [State.startLoad]

@[simp] theorem loadBody_kept (i : Instr) (x : ExtWord) (scratch const : Bool) (c : Ctx) (s : State) (h : Canonical s) :
    (loadBody i x scratch const c s).Kept := by
  unfold loadBody
  extract_lets n whole lanes k sent
  split
  · exact h
  · split
    · next r hr => exact Ctx.reachIn_kept hr h
    · extract_lets far near away s1 s2 ord s3 q
      have h3 : Canonical s3 := by simp [s3, s2, s1, h]
      split
      · exact h3
      · split
        · simpa [q] using h3
        · next f s4 hs =>
          have h4 := State.splitFar_canonical hs
          simpa [h4, q] using h3

theorem State.newStore_canonical {s t : State} {c : Ctx} {tok : Nat} {lanes : Mask} {scratch release : Bool} {scope : Nat} {accs : List LaneAcc}
    {q : Wave × StoreEntry} (ht : s.newStore c tok lanes scratch release scope accs = some (t, q)) : Canonical t ↔ Canonical s := by
  unfold State.newStore at ht
  split at ht <;> cases ht
  rfl

theorem State.admitStore_canonical {s t : State} {c : Ctx} {tok : Nat} {lanes : Mask} {scratch release : Bool} {scope : Nat} {accs : List LaneAcc}
    (ht : s.admitStore c tok lanes scratch release scope accs = some t) : Canonical t ↔ Canonical s := by
  simp only [State.admitStore, Option.bind_eq_some_iff] at ht
  obtain ⟨q, hq, ht⟩ := ht
  rw [State.storeIn_canonical ht, State.newStore_canonical hq]

@[simp] theorem State.admitFar_canonical (s : State) (c : Ctx) (i : Instr) (tok : Nat) (far : Mask) (release : Bool) (scope : Nat) (accs : List LaneAcc)
    (n : Nat) : Canonical (s.admitFar c i tok far release scope accs n) ↔ Canonical s := by
  simp only [State.admitFar]
  split
  · rfl
  · next s1 W e hs =>
    have h1 := State.newStore_canonical hs
    have h2 : Canonical (match s1.storeIn c.w W e with
      | some s2 => (s2, none)
      | none => (s1.adjWave c.w (fun W => { W with admits := W.admits ++ [e] }), e.pends.head?)).1 ↔ Canonical s := by
      split
      · next s2 hs2 => exact (State.storeIn_canonical hs2).trans h1
      · simpa using h1
    split
    · exact h2
    · next f s3 hs3 => 
      have h3 := State.splitFar_canonical hs3
      simpa using h3.trans h2

@[simp] theorem storeBody_kept (i : Instr) (x : ExtWord) (scratch : Bool) (c : Ctx) (s : State) (h : Canonical s) : (storeBody i x scratch c s).Kept := by
  unfold storeBody
  extract_lets n whole lanes release acc
  split
  · exact h
  · split
    · next r hr => exact Ctx.reachIn_kept hr h
    · extract_lets far near away mask s1
      split
      · next q hq =>
        split at hq
        · exact Ctx.remoteCheck_kept hq h
        · cases hq
      · have h1 : Canonical s1 := by simp [s1, h]
        split
        · trivial
        · next s2 hs =>
          have h2 : Canonical s2 := by
            split at hs
            · cases hs; exact h1
            · exact (State.admitStore_canonical hs).2 h1
          simp [h2]

/-- A prefetch lane's outcome keeps memory in canonical form. -/
def PrefEnd.Kept : PrefEnd → Prop
  | .dropped => True
  | .present s => Canonical s
  | .waits s _ => Canonical s

theorem State.prefEnd_canonical (s : State) (id core lane : Nat) (va : Word) (e : PrefEnd) (h : Canonical s) (he : e.Kept) :
    Canonical (s.prefEnd id core lane va e) := by
  cases e with
  | dropped => simp [State.prefEnd, h]
  | present t => exact (State.completeLanes_canonical ..).2 he
  | waits t secs => exact he

theorem State.prefLane_kept (s : State) (T : Team) (W : Wave) (pc : Word) (level : Nat) (va : Word) (h : Canonical s) : (s.prefLane T W pc level va).Kept := by
  have read (t : State) (secs : List Nat) (mt : Nat) (ht : Canonical t) (home : Bool) : Canonical (secs.foldl (fun (q : State × List Nat) sec =>
      match q.1.readSector W.core sec mt false 0 false with
      | some (v, s2) => (s2.sampleSector W.core T.grid pc 4 sec v.poison home, q.2)
      | none => (q.1, q.2 ++ [sec])) (t, [])).1 := by
    refine List.foldlRecOn (motive := fun q : State × List Nat => Canonical q.1) secs _ ht fun q hq sec _ => ?_
    split
    · next v s2 hs => simp [State.readSector_canonical hs hq]
    · exact hq
  simp only [State.prefLane]
  split
  · split
    · trivial
    · split
      · simp [PrefEnd.Kept, h]
      · split
        · trivial
        · split
          · exact read _ _ _ (by simp [h]) _
          · exact read _ _ _ (by simp [h]) _
  · trivial

@[simp] theorem State.prefStep_canonical (s : State) (id level lane : Nat) (va : Word) (h : Canonical s) : Canonical (s.prefStep id level lane va) := by
  unfold State.prefStep
  repeat' split
  · exact h
  · exact h
  · exact h
  · exact s.prefEnd_canonical _ _ _ _ _ h (s.prefLane_kept _ _ _ _ _ h)

@[simp] theorem prefBody_kept (x : ExtWord) (c : Ctx) (s : State) (h : Canonical s) : (prefBody x c s).Kept := by
  unfold prefBody
  dsimp only
  split
  · exact h
  · split
    · trivial
    · exact canonical_foldl _ _ _ (by simp [h]) fun t l ht => by simp [ht]

@[simp] theorem State.prefReturn_canonical (s : State) (id : Nat) (h : Canonical s) : Canonical (s.prefReturn id) := by
  unfold State.prefReturn
  split
  · exact h
  · split
    · exact canonical_foldl _ _ _ h fun t v ht => t.prefStep_canonical _ _ _ _ ht
    · exact h

@[simp] theorem State.logPrefWalk_canonical (s : State) (qs : List WalkRequest) (x : XFault) (h : Canonical s) : Canonical (s.logPrefWalk qs x) := by
  simp only [State.logPrefWalk]
  (repeat' split) <;> simp [h]

@[simp] theorem State.walkNext_canonical (s : State) (die : Nat) (h : Canonical s) : Canonical (s.walkNext die) := by
  unfold State.walkNext
  split
  · exact h
  · extract_lets qs path s1 prefs s2
    have h2 : Canonical s2 := by
      simp only [s2]
      split
      · exact canonical_foldl _ _ _ h fun t q ht => by simp [ht]
      · split <;> simp [s1, h]
    exact canonical_foldl _ _ _ h2 fun t q ht => by simp [ht]

@[simp] theorem State.constDrop_canonical (s : State) (cluster : Nat) (p : Nat → Bool) : Canonical (s.constDrop cluster p) ↔ Canonical s := Iff.rfl

@[simp] theorem State.invalidate_canonical (s : State) (core op : Nat) (line : Option Nat) : Canonical (s.invalidate core op line) ↔ Canonical s := by
  simp only [State.invalidate]
  (repeat' split) <;> simp

@[simp] theorem zeroLineBody_kept (x : ExtWord) (c : Ctx) (s : State) (h : Canonical s) : (zeroLineBody x c s).Kept := by
  simp only [zeroLineBody]
  split
  · exact h
  · split
    · next r hr => exact Ctx.reach_kept hr h
    · split
      · trivial
      · next s1 hs => simp [State.admitStore_canonical hs, h]

@[simp] theorem cctlBody_kept (x : ExtWord) (c : Ctx) (s : State) (h : Canonical s) : (cctlBody x c s).Kept := by
  simp only [cctlBody]
  split
  · exact zeroLineBody_kept x c s h
  · split
    · simp [h]
    · exact (canonical_foldl_iff _ _ s fun s l => by split <;> simp).2 h

@[simp] theorem fenceBody_kept (x : ExtWord) (c : Ctx) (s : State) (h : Canonical s) : (fenceBody x c s).Kept := by
  simp only [fenceBody]
  split
  · next r hr =>
    split at hr
    · exact Ctx.failedStore_kept hr h
    · cases hr
  · simp [h]

/-! ## Atomics and reductions -/

@[simp] theorem atomBody_kept (x : ExtWord) (scratch ret : Bool) (c : Ctx) (s : State) (h : Canonical s) : (atomBody x scratch ret c s).Kept := by
  simp only [atomBody]
  split
  · exact h
  · split
    · trivial
    · split
      · trivial
      · split
        · next r hr => exact Ctx.reachIn_kept hr h
        · split
          · next q hq =>
            split at hq
            · exact Ctx.remoteCheck_kept hq h
            · cases hq
          · split
            · trivial
            · split
              · trivial
              · next s2 hs =>
                have h2 : Canonical s2 := (State.storeIn_canonical hs).2 (by simp [h])
                simp [h2]

@[simp] theorem State.stepped_canonical (s : State) (op : StoreOp) (pend : Nat) (place : Nat) (q : Stepped) :
    Canonical (s.stepped op pend place q) ↔ Canonical s := by
  simp only [State.stepped]
  (repeat' split) <;> simp

/-! ## Events of the memory path -/

@[simp] theorem State.sendRemote_canonical (s : State) (pend write : Option Nat) (lane : Nat) (va : Word) (region : Region)
    (addr : Nat) (op : PeerOp) (poison : Bool) :
    Canonical (s.sendRemote pend write lane va region addr op poison) ↔ Canonical s := Iff.rfl

@[simp] theorem State.endRemote_canonical (s : State) (id : Nat) (e : RemoteEnd) : Canonical (s.endRemote id e) ↔ Canonical s := by
  simp only [State.endRemote]
  (repeat' split) <;> simp

@[simp] theorem State.dropRemote_canonical (s : State) (p : RemoteReq → Bool) : Canonical (s.dropRemote p) ↔ Canonical s := Iff.rfl

@[simp] theorem State.remoteTrap_canonical (s : State) (id : Nat) (p : Pend) (lanes : Mask) (va : Word) (sub : Nat) (after : Bool) (h : Canonical s) :
    Canonical (s.remoteTrap id p lanes va sub after) := by
  simp only [State.remoteTrap]
  split
  · simp [h]
  · split
    · next n s1 hs =>
      have h1 : Canonical s1 := by
        split at hs
        · cases hs
        · exact (State.splitOff_canonical hs).2 h
      simp [h1]
    · simp [h]

theorem State.beyond_canonical {s t : State} {T : Team} {core id lane : Nat} {const na acq : Bool} {scope : Nat} {p : Piece} {v : Sector}
    (hr : s.beyond T core id lane const na acq scope p = some (v, t)) (h : Canonical s) : Canonical t := by
  unfold State.beyond at hr
  split at hr
  · cases hr; exact h
  · split at hr
    · exact State.readConst_canonical hr h
    · exact State.readSector_canonical hr h
  · split at hr <;> cases hr
    exact h

@[simp] theorem State.askedFor_canonical (s : State) (T : Team) (W : Wave) (pd : Pend) (const acq : Bool) (scope : Nat) (p : Piece) (r : Sector × State)
    (h : Canonical r.2) : Canonical (s.askedFor T W pd const acq scope p r) := by
  simp [State.askedFor, h]

@[simp] theorem State.deliver_canonical (s : State) (p : Pend) (lane : Nat) (va : Word) (dead : Bool) (tag : Tag) (vs : List Word) :
    Canonical (s.deliver p lane va dead tag vs) ↔ Canonical s := by
  simp only [State.deliver]
  (repeat' split) <;> simp

@[simp] theorem State.askAway_canonical (s : State) (id : Nat) (a : LaneAcc) (p : Piece) : Canonical (s.askAway id a p) ↔ Canonical s := by
  simp only [State.askAway]
  (repeat' split) <;> simp

theorem State.readPiece_canonical {s t : State} {T : Team} {W : Wave} {id : Nat} {pd : Pend} {lane : Nat} {known : Tbl Byte} {bad : List Nat} {p : Piece}
    {bs : List Byte} {hurt : Bool} (hr : s.readPiece T W id pd lane known bad p = some (bs, hurt, t)) (h : Canonical s) : Canonical t := by
  simp only [State.readPiece] at hr
  repeat' split at hr
  · cases hr
  · cases hr; exact h
  · cases hr
  · obtain ⟨⟨v, u⟩, hu, hr⟩ := Option.map_eq_some_iff.1 hr
    cases hr
    exact State.askedFor_canonical _ _ _ _ _ _ _ _ _ (State.beyond_canonical hu h)
  · cases hr

theorem LoadRun.lane_canonical (q : LoadRun) (T : Team) (W : Wave) (id : Nat) (pd : Pend) (a : LaneAcc) (h : Canonical q.s) :
    Canonical (q.lane T W id pd a).s := by
  have pieces : ∀ r ∈ (a.pieces.flatMap Piece.bySector).foldl (fun (r : Option (State × Tbl Byte × List Nat × List Byte × Bool)) p =>
      match r with
      | none => none
      | some (s, known, bad, bytes, dead) =>
        match s.readPiece T W id pd a.lane known bad p with
        | none => none
        | some (bs, poison, s1) =>
          some (s1, (p.keys.zip bs).foldl (fun t c => Tbl.put t c.1 c.2) known,
            if poison then NSet.insert bad (byteKey p.region p.addr / 32) else bad, bytes ++ bs, dead || poison)) (some (q.s, q.known, q.bad, [], false)),
      Canonical r.1 := by
    refine List.foldlRecOn (motive := fun r : Option (State × Tbl Byte × List Nat × List Byte × Bool) => ∀ x ∈ r, Canonical x.1) _ _
      (by rintro _ ⟨⟩; exact h) fun r hr p _ => ?_
    split
    · rintro _ ⟨⟩
    · next s known bad bytes dead =>
      split
      · rintro _ ⟨⟩
      · next hs =>
        rintro _ ⟨⟩
        exact State.readPiece_canonical hs (hr _ rfl)
  simp only [LoadRun.lane]
  split
  · exact h
  · next hr => exact pieces _ hr

@[simp] theorem State.loadLanes_canonical (s : State) (id : Nat) (p : Pend) (T : Team) (W : Wave) (h : Canonical s) : Canonical (s.loadLanes id p T W) := by
  unfold State.loadLanes
  split
  · extract_lets pick chosen q run s1 s2 s3 s4 s5
    have hq : Canonical q.s := List.foldlRecOn (motive := fun q : LoadRun => Canonical q.s) chosen _ h fun q hq a _ => q.lane_canonical T W id p a hq
    have h2 : Canonical s2 := (canonical_foldl_iff _ _ _ fun t r => by simp).2 hq
    have h3 : Canonical s3 := by
      simp only [s3]
      split <;> simp [h2]
    have h5 : Canonical s5 := by simpa [s5, s4] using h3
    simpa using h5
  · exact h

@[simp] theorem State.loadFailed_canonical (s : State) (id : Nat) (p : Pend) (failed : List (Nat × RemoteReq)) (h : Canonical s) :
    Canonical (s.loadFailed id p failed) := by
  simp [State.loadFailed, h]

@[simp] theorem State.loadReturn_canonical (s : State) (id : Nat) (h : Canonical s) : Canonical (s.loadReturn id) := by
  simp only [State.loadReturn]
  (repeat' split) <;> simp [h]

@[simp] theorem State.putWrite_canonical (s : State) (r : WriteRec) : Canonical (s.putWrite r).2 ↔ Canonical s := Iff.rfl

@[simp] theorem State.sendLines_canonical (s : State) (w : Nat) (W : Wave) (e : StoreEntry) (h : Canonical s) : Canonical (s.sendLines w W e) :=
  canonical_foldl _ _ _ (canonical_foldl _ _ _ h fun t k ht => by simp [ht]) fun t line ht => by simp [ht]

@[simp] theorem State.putAway_canonical (s : State) (w : Nat) (W : Wave) (e : StoreEntry) : Canonical (s.putAway w W e) ↔ Canonical s := by
  simp only [State.putAway]
  split <;> simp

@[simp] theorem State.sendFront_canonical (s : State) : Canonical s.sendFront ↔ Canonical s := by
  refine canonical_foldl_iff _ _ s fun s e => ?_
  split
  · split
    · rfl
    · simp only [State.sendRemote_canonical]
  · rfl

@[simp] theorem State.leaveCaches_canonical (s : State) (W : Wave) (e : StoreEntry) : Canonical (s.leaveCaches W e) ↔ Canonical s := by
  simp [State.leaveCaches]

@[simp] theorem State.drainHead_canonical (s : State) (w : Nat) (W : Wave) (e : StoreEntry) (h : Canonical s) : Canonical (s.drainHead w W e) := by
  simp only [State.drainHead]
  (repeat' split) <;> simp [h]

@[simp] theorem State.drainWave_canonical (s : State) (w : Nat) (h : Canonical s) : Canonical (s.drainWave w) := by
  simp only [State.drainWave]
  (repeat' split) <;> simp [h]

@[simp] theorem State.homeWrites_canonical (s : State) (id : Nat) (r : WriteRec) (secs : List Nat) (h : Canonical s) : Canonical (s.homeWrites id r secs) := by
  simp [State.homeWrites, h]

@[simp] theorem State.acceptWrite_canonical (s : State) (id : Nat) (h : Canonical s) : Canonical (s.acceptWrite id) := by
  simp only [State.acceptWrite]
  split <;> simp [h]

@[simp] theorem State.expireDetached_canonical (s : State) : Canonical s.expireDetached ↔ Canonical s := by
  simp [State.expireDetached]

@[simp] theorem State.pixelPoison_canonical (s : State) (source : WriteSource) : Canonical (s.pixelPoison source) ↔ Canonical s := by
  simp only [State.pixelPoison]
  split <;> simp

theorem Stepped.step_poison (q : Stepped) (op fmt : Nat) (sg ftz : Bool) (n : Nat) (a : LaneAcc) : (q.step op fmt sg ftz n a).poison = q.poison := by
  unfold Stepped.step
  split <;> rfl

theorem runSteps_poison (op : StoreOp) (release : Bool) (free : Nat) (steps : List LaneAcc) (mem : Tbl Byte) (poison : List Nat) :
    (runSteps op release free steps mem poison).poison = poison := by
  cases op with
  | st => rfl
  | rmw o f sg ftz r ord n =>
    exact List.foldlRecOn (motive := fun q : Stepped => q.poison = poison) _ _ rfl fun q hq a _ => (q.step_poison o f sg ftz n a).trans hq

theorem runSteps_clean (op : StoreOp) (release : Bool) (free : Nat) (steps : List LaneAcc) (bad : List Nat) (s : State) (h : Canonical s) :
    Clean (runSteps op release free steps s.mem s.poison).mem (bad.foldl NSet.insert (runSteps op release free steps s.mem s.poison).poison) := by
  obtain ⟨hm, hp⟩ := h
  rw [runSteps_poison]
  exact ⟨runSteps_wf op release free steps s.mem s.poison hm, foldl_insert_wf bad s.poison hp⟩

@[simp] theorem State.atomicPerform_canonical (s : State) (id : Nat) (h : Canonical s) : Canonical (s.atomicPerform id) := by
  unfold State.atomicPerform
  split
  · exact h
  · split
    · exact h
    · extract_lets more steps secs s1 q place pend left path s2 s3
      have h1 : Canonical s1 := by simp [s1, h]
      have h2 : Canonical s2 := runSteps_clean _ _ _ _ _ s1 h1
      have h3 : Canonical s3 := by simp [s3, h2]
      simp [h3]

@[simp] theorem State.awayDone_canonical (s : State) (id : Nat) (r : RemoteReq) : Canonical (s.awayDone id r) ↔ Canonical s := by
  simp [State.awayDone]

@[simp] theorem State.remoteOld_canonical (s : State) (id : Nat) : Canonical (s.remoteOld id) ↔ Canonical s := by
  refine canonical_foldl_iff _ _ s fun s e => ?_
  split
  · split
    · exact State.awayDone_canonical ..
    · rfl
  · rfl

@[simp] theorem State.atomFailed_canonical (s : State) (id : Nat) (h : Canonical s) : Canonical (s.atomFailed id) := by
  simp only [State.atomFailed]
  split <;> simp [h]

@[simp] theorem State.atomicResponse_canonical (s : State) (id : Nat) (h : Canonical s) : Canonical (s.atomicResponse id) := by
  simp only [State.atomicResponse]
  (repeat' split) <;> simp [h]

@[simp] theorem State.adjCmd_canonical (s : State) (id : Nat) (g : Command → Command) : Canonical (s.adjCmd id g) ↔ Canonical s := Iff.rfl
@[simp] theorem State.failChunk_canonical (s : State) (write : Nat) : Canonical (s.failChunk write) ↔ Canonical s := Iff.rfl

@[simp] theorem State.remoteStored_canonical (s : State) (id : Nat) : Canonical (s.remoteStored id) ↔ Canonical s := by
  simp only [State.remoteStored]
  (repeat' split) <;> simp

@[simp] theorem State.respond_canonical (s : State) (r : RemoteResponse) : Canonical (s.respond r) ↔ Canonical s := by
  simp only [State.respond]
  split <;> simp

@[simp] theorem State.retry_canonical (s : State) (id : Nat) : Canonical (s.retry id) ↔ Canonical s := by
  simp only [State.retry]
  split <;> simp

/-! ## Barriers and waits -/

@[simp] theorem binitBody_kept (x : ExtWord) (c : Ctx) (s : State) (h : Canonical s) : (binitBody x c s).Kept := by
  simp only [binitBody]
  split <;> simp [h]

@[simp] theorem bqryBody_kept (x : ExtWord) (c : Ctx) (s : State) (h : Canonical s) : (bqryBody x c s).Kept := by
  simp only [bqryBody]
  split <;> simp [h]

@[simp] theorem State.doBarv_canonical (s : State) (w ord : Nat) (a : Nat) (lanes : List Nat) (n : Int) :
    Canonical (s.doBarv w ord a lanes n) ↔ Canonical s := by
  simp only [State.doBarv]
  (repeat' split) <;> simp

theorem Ctx.release_kept (c : Ctx) (s : State) (tok scope : Nat) (lanes : Mask) (dst : Dest) (act : After) (now : Nat → Mask → State → State)
    (hn : ∀ ord own, Canonical (now ord own s)) (h : Canonical s) : (c.release s tok scope lanes dst act now).Kept := by
  simp only [Ctx.release]
  split
  · next r hr =>
    split at hr
    · exact Ctx.remoteCheck_kept hr h
    · cases hr
  · split
    · simp [hn]
    · simp [h]

@[simp] theorem barvBody_kept (x : ExtWord) (c : Ctx) (s : State) (h : Canonical s) : (barvBody x c s).Kept := by
  unfold barvBody
  extract_lets part
  split
  · exact h
  · split
    · trivial
    · exact c.release_kept s _ _ _ _ _ _ (fun _ _ => by simp [h]) h

@[simp] theorem bexpBody_kept (x : ExtWord) (c : Ctx) (s : State) (h : Canonical s) : (bexpBody x c s).Kept := by
  simp only [bexpBody]
  split <;> simp [h]

@[simp] theorem waitBBody_kept (x : ExtWord) (c : Ctx) (s : State) (h : Canonical s) : (waitBBody x c s).Kept := by
  simp only [waitBBody]
  split <;> simp [h]

@[simp] theorem State.awaited_canonical (s : State) (f core : Nat) (ks : BitVec 16) : Canonical (s.awaited f core ks) ↔ Canonical s := by
  simp only [State.awaited]
  split <;> simp

@[simp] theorem waitKBody_kept (x : ExtWord) (c : Ctx) (s : State) (h : Canonical s) : (waitKBody x c s).Kept := by
  simp [waitKBody, h]

@[simp] theorem State.startWait_kept (s : State) (c : Ctx) (va : Word) (pa : Nat) (wide : Bool) (v : Word) (scope : Nat) (h : Canonical s) :
    (s.startWait c va pa wide v scope).Kept := by
  simp [State.startWait, h]

@[simp] theorem waitABody_kept (x : ExtWord) (c : Ctx) (s : State) (h : Canonical s) : (waitABody x c s).Kept := by
  unfold waitABody
  extract_lets scope wide n va
  split
  · simp [h]
  · split
    · trivial
    · split
      · next r hr => exact Ctx.reach_kept hr h
      · simp [h]

@[simp] theorem State.pollWait_canonical (s : State) (id : Nat) (h : Canonical s) : Canonical (s.pollWait id) := by
  simp only [State.pollWait]
  split <;> simp [h]

@[simp] theorem State.doWake_canonical (s : State) (w : Nat) (own : Mask) (pa n : Nat) (dst : Dest) : Canonical (s.doWake w own pa n dst) ↔ Canonical s := by
  simp only [State.doWake]
  split <;> simp

@[simp] theorem wakeBody_kept (x : ExtWord) (c : Ctx) (s : State) (h : Canonical s) : (wakeBody x c s).Kept := by
  simp only [wakeBody]
  split
  · trivial
  · split
    · next r hr => exact Ctx.reach_kept hr h
    · exact c.release_kept _ _ _ _ _ _ _ (fun _ _ => by simp [h]) (by simp [h])

/-! ## Copy engines -/

@[simp] theorem State.accept_canonical (s : State) (c : Ctx) (tok : Nat) (k : Nat → Command) (mark : Bool) :
    Canonical (s.accept c tok k mark) ↔ Canonical s := by
  simp [State.accept]

@[simp] theorem copyBody_kept (kind : Nat) (x : ExtWord) (c : Ctx) (s : State) (h : Canonical s) : (copyBody kind x c s).Kept := by
  simp only [copyBody]
  (repeat' split) <;> simp [h]

@[simp] theorem qfenceBody_kept (x : ExtWord) (c : Ctx) (s : State) (h : Canonical s) : (qfenceBody x c s).Kept := by
  simp [qfenceBody, h]

@[simp] theorem State.hostWait_canonical (s : State) (w : HostWait) : Canonical (s.hostWait w) ↔ Canonical s := by
  simp [State.hostWait]

@[simp] theorem State.engineReads_canonical (s : State) (ps : List Piece) (h : Canonical s) : Canonical (s.engineReads ps) :=
  canonical_foldl _ _ _ h fun t p ht => by simp [ht]

@[simp] theorem State.adjChunk_canonical (s : State) (id : Nat) (g : Chunk → Chunk) : Canonical (s.adjChunk id g) ↔ Canonical s := Iff.rfl
@[simp] theorem State.dropChunk_canonical (s : State) (id : Nat) : Canonical (s.dropChunk id) ↔ Canonical s := Iff.rfl

@[simp] theorem State.signal_canonical (s : State) (t a n : Nat) (bad quiet : Bool) : Canonical (s.signal t a n bad quiet) ↔ Canonical s := by
  simp only [State.signal]
  (repeat' split) <;> simp

@[simp] theorem State.countSrd_canonical (s : State) (id n : Nat) : Canonical (s.countSrd id n) ↔ Canonical s := by
  simp only [State.countSrd]
  split <;> simp

@[simp] theorem State.countGv_canonical (s : State) (id n moved : Nat) : Canonical (s.countGv id n moved) ↔ Canonical s := by
  simp only [State.countGv]
  split <;> simp

@[simp] theorem State.dropCommand_canonical (s : State) (id : Nat) : Canonical (s.dropCommand id) ↔ Canonical s := by
  simp only [State.dropCommand]
  split <;> simp

@[simp] theorem State.postRecord_canonical (s : State) (id : Nat) : Canonical (s.postRecord id) ↔ Canonical s := by
  simp only [State.postRecord]
  (repeat' split) <;> simp

@[simp] theorem State.endCommand_canonical (s : State) (id : Nat) : Canonical (s.endCommand id) ↔ Canonical s := by
  simp only [State.endCommand]
  split <;> simp

@[simp] theorem State.stopChunk_canonical (s : State) (id : Nat) (h : Chunk) (g : Command → Command) : Canonical (s.stopChunk id h g) ↔ Canonical s := by
  simp [State.stopChunk]

@[simp] theorem State.readChunk_canonical (s : State) (id : Nat) (hd : Chunk) (k : Command) (T : Team) (h : Canonical s) :
    Canonical (s.readChunk id hd k T) := by
  simp only [State.readChunk]
  repeat' split
  all_goals simp [h]

@[simp] theorem State.sendCopied_canonical (s : State) (id lo : Nat) (k : Command) (T : Team) (data : List (Byte × Taint)) (ps : List (Nat × Word × Piece)) :
    Canonical (s.sendCopied id lo k T data ps).1 ↔ Canonical s :=
  canonical_foldl_fst _ _ _ fun p line => by simp

@[simp] theorem State.sendCopiedAway_canonical (s : State) (id lo : Nat) (k : Command) (T : Team) (data : List (Byte × Taint))
    (ps : List (Nat × Word × Piece)) : Canonical (s.sendCopiedAway id lo k T data ps).1 ↔ Canonical s := by
  refine canonical_foldl_fst _ _ _ fun p e => ?_
  extract_lets one all
  have send (q : State × List Nat) (off : Nat) (va : Word) (addr : Nat) (op : PeerOp) (bad : Bool) :
      Canonical (one q off va addr op bad).1 ↔ Canonical q.1 := by
    simp [one]
  split
  · exact canonical_foldl_fst _ _ _ fun q a => send ..
  · exact send ..

@[simp] theorem State.writeChunk_canonical (s : State) (id : Nat) (hd : Chunk) (k : Command) (T : Team) (h : Canonical s) :
    Canonical (s.writeChunk id hd k T) := by
  simp only [State.writeChunk]
  repeat' split
  all_goals simp [h]

@[simp] theorem State.closeChunk_canonical (s : State) (id : Nat) (h : Chunk) (k : Command) : Canonical (s.closeChunk id h k) ↔ Canonical s := by
  simp [State.closeChunk]

@[simp] theorem State.chunkDone_canonical (s : State) (id : Nat) (h : Canonical s) : Canonical (s.chunkDone id) := by
  unfold State.chunkDone
  split
  · exact h
  · split
    · simp [h]
    · extract_lets s1
      have h1 : Canonical s1 := by simp [s1, h]
      split <;> simp [h1]

@[simp] theorem State.takeChunk_canonical (s : State) (engine id : Nat) (k : Command) : Canonical (s.takeChunk engine id k) ↔ Canonical s := Iff.rfl

@[simp] theorem State.chunkStart_canonical (s : State) (cluster engine : Nat) : Canonical (s.chunkStart cluster engine) ↔ Canonical s := by
  simp only [State.chunkStart]
  (repeat' split) <;> simp

/-! ## Matrix units and operand memory -/

@[simp] theorem State.enter_canonical (s : State) (e : MatrixEntry) : Canonical (s.enter e) ↔ Canonical s := Iff.rfl

@[simp] theorem State.holdFor_canonical (s : State) (c : Ctx) (i : Instr) (id : Nat) : Canonical (s.holdFor c i id) ↔ Canonical s := by
  simp [State.holdFor]

@[simp] theorem Ctx.queue_kept (c : Ctx) (i : Instr) (x : ExtWord) (e : MatrixEntry) (lanes : Mask) (dst : Dest) (s : State) (h : Canonical s) :
    (c.queue i x e lanes dst s).Kept := by
  simp [Ctx.queue, h]

@[simp] theorem State.joinOmclaim_canonical (s : State) (t k f : Nat) : Canonical (s.joinOmclaim t k f) ↔ Canonical s := Iff.rfl

@[simp] theorem omclaimBody_kept (x : ExtWord) (c : Ctx) (s : State) (h : Canonical s) : (omclaimBody x c s).Kept := by
  simp [omclaimBody, h]

@[simp] theorem omrelBody_kept (x : ExtWord) (c : Ctx) (s : State) (h : Canonical s) : (omrelBody x c s).Kept := by
  simp only [omrelBody]
  split <;> simp [h]

theorem Ctx.rowSources_canonical {c : Ctx} {x : ExtWord} {srcs : List Src} {rows : Mask} {s t : State} (ht : c.rowSources x srcs rows s = .ok t) :
    Canonical t ↔ Canonical s := by
  simp only [Ctx.rowSources] at ht
  repeat' split at ht
  all_goals cases ht
  simp

theorem Ctx.rowWise_kept (c : Ctx) (x : ExtWord) (s : State) (r : Unit → Res) (hr : (r ()).Kept) (h : Canonical s) : (c.rowWise x s r).Kept := by
  unfold Ctx.rowWise
  split
  · exact h
  · exact hr

@[simp] theorem omfillBody_kept (x : ExtWord) (c : Ctx) (s : State) (h : Canonical s) : (omfillBody x c s).Kept := by
  refine c.rowWise_kept x s _ ?_ h
  split
  · trivial
  · extract_lets rows srcs
    split
    · trivial
    · next s1 hs => simp [Ctx.rowSources_canonical hs, h]

@[simp] theorem Ctx.queueClean_kept (c : Ctx) (i : Instr) (x : ExtWord) (e : MatrixEntry) (lanes : Mask) (dst : Dest) (s : State) (h : Canonical s) :
    (c.queueClean i x e lanes dst s).Kept := by
  simp only [Ctx.queueClean]
  (repeat' split) <;> simp [h]

@[simp] theorem omreadBody_kept (x : ExtWord) (c : Ctx) (s : State) (h : Canonical s) : (omreadBody x c s).Kept := by
  refine c.rowWise_kept x s _ ?_ h
  split
  · trivial
  · simp [h]

@[simp] theorem regionBody_kept (i : Instr) (x : ExtWord) (clean : Bool) (lanes : Ctx → Mask) (dst : Dest) (c : Ctx) (s : State) (h : Canonical s) :
    (regionBody i x clean lanes dst c s).Kept := by
  refine c.rowWise_kept x s _ ?_ h
  split
  · trivial
  · simp [h]

@[simp] theorem regionSrcBody_kept (i : Instr) (x : ExtWord) (srcs : List Src) (c : Ctx) (s : State) (h : Canonical s) :
    (regionSrcBody i x srcs c s).Kept := by
  refine c.rowWise_kept x s _ ?_ h
  split
  · trivial
  · extract_lets rows
    split
    · trivial
    · next s1 hs => simp [Ctx.rowSources_canonical hs, h]

@[simp] theorem accstBody_kept (x : ExtWord) (c : Ctx) (s : State) (h : Canonical s) : (accstBody x c s).Kept := by
  refine c.rowWise_kept x s _ ?_ h
  split
  · trivial
  · simp [h]
  · extract_lets rows rs bad accs s1
    have h1 : Canonical s1 := by simp [s1, h]
    split
    · have hf := c.faultRes_kept s 1 bad false h
      split
      · trivial
      · exact hf
    · split
      · next s2 hs =>
        have h2 : Canonical s2 := (c.queueClean_kept _ _ _ _ _ s1 h1).done hs
        simp [h2]
      · exact c.queueClean_kept _ _ _ _ _ s1 h1

@[simp] theorem State.breakClasp_canonical (s : State) (id : Nat) (k : Clasp) (extra : List (Nat × Nat)) (t : Frag → Trap) (h : Canonical s) :
    Canonical (s.breakClasp id k extra t) := by
  refine canonical_foldl _ _ _ h fun u m hu => ?_
  split
  · simp [hu]
  · exact hu

@[simp] theorem State.passMember_canonical (s : State) (i : Instr) (x : ExtWord) (m : Nat × Nat) (len : Nat) (counts : Bool) :
    Canonical (s.passMember i x m len counts).2 ↔ Canonical s := by
  simp only [State.passMember]
  (repeat' split) <;> simp

@[simp] theorem State.passClasp_canonical (s : State) (id : Nat) (k : Clasp) (x : ExtWord) (len : Nat) (counts : Bool) :
    Canonical (s.passClasp id k x len counts).2 ↔ Canonical s :=
  canonical_foldl_snd (fun (st : List Nat × State) m => let q := st.2.passMember k.instr x m len counts; (st.1 ++ q.1, q.2)) k.arrived ([], s)
    fun p m => by simp

@[simp] theorem State.closeFull_canonical (s : State) (id : Nat) (k : Clasp) (gang : List Nat) (h : Canonical s) : Canonical (s.closeFull id k gang) := by
  unfold State.closeFull
  split
  · split
    · exact h
    · split
      · exact h
      · simp [h]
      · simp [h]
      · split
        · simp [h]
        · next s1 hs => simp [Ctx.struckAt_canonical hs, h]
  · exact h

@[simp] theorem State.closeClasp_canonical (s : State) (id : Nat) (h : Canonical s) : Canonical (s.closeClasp id) := by
  simp only [State.closeClasp]
  (repeat' split) <;> simp [h]

@[simp] theorem mmaBody_kept (i : Instr) (x : ExtWord) (c : Ctx) (s : State) (h : Canonical s) : (mmaBody i x c s).Kept := by
  simp only [mmaBody]
  (repeat' split) <;> simp [h]

@[simp] theorem State.serveClasps_canonical (s : State) (h : Canonical s) : Canonical s.serveClasps := by
  refine canonical_foldl _ _ _ ?_ fun t e ht => t.closeClasp_canonical _ ht
  refine (canonical_foldl_iff _ _ s fun t e => ?_).2 h
  split
  · split <;> rfl
  · rfl

@[simp] theorem State.orFlags_canonical (s : State) (w : Nat) (lanes : Mask) (fl : FFlags) : Canonical (s.orFlags w lanes fl) ↔ Canonical s := by
  simp only [State.orFlags]
  split <;> simp

@[simp] theorem State.sendRows_canonical (s : State) (e : MatrixEntry) (T : Team) : Canonical (s.sendRows e T).1 ↔ Canonical s := by
  simp only [State.sendRows]
  split
  · simp
  · exact (canonical_foldl_fst _ _ _ fun q p => by simp).trans (canonical_foldl_fst _ _ _ fun q line => by simp)

@[simp] theorem State.matrixStart_canonical (s : State) (core ctx : Nat) : Canonical (s.matrixStart core ctx) ↔ Canonical s := by
  simp only [State.matrixStart]
  (repeat' split) <;> simp

@[simp] theorem State.finishEntry_canonical (s : State) (id : Nat) (e : MatrixEntry) : Canonical (s.finishEntry id e) ↔ Canonical s := by
  simp [State.finishEntry]

@[simp] theorem State.matrixComplete_canonical (s : State) (core ctx : Nat) (h : Canonical s) : Canonical (s.matrixComplete core ctx) := by
  simp only [State.matrixComplete]
  (repeat' split) <;> simp [h]

@[simp] theorem State.rowsAnswered_canonical (s : State) (e : MatrixEntry) : Canonical (s.rowsAnswered e) ↔ Canonical s := by
  refine canonical_foldl_iff _ _ s fun t q => ?_
  split
  · split
    · rfl
    · split <;> simp
  · rfl

@[simp] theorem State.settleRows_canonical (s : State) : Canonical s.settleRows ↔ Canonical s := by
  simp [State.settleRows]

/-- A unit's access keeps memory in canonical form, whether it is answered, waits or faults. -/
def UnitAcc.Kept {α : Type} : UnitAcc α → Prop
  | .ok s _ => Canonical s
  | .wait s => Canonical s
  | .fault s _ _ => Canonical s

theorem UnitAcc.Kept.ok {α : Type} {a : UnitAcc α} {s : State} {v : α} (h : a.Kept) (e : a = .ok s v) : Canonical s := by subst e; exact h
theorem UnitAcc.Kept.wait {α : Type} {a : UnitAcc α} {s : State} (h : a.Kept) (e : a = .wait s) : Canonical s := by subst e; exact h

theorem UnitAcc.Kept.fault {α : Type} {a : UnitAcc α} {s : State} {x : XFault} {va : Word} (h : a.Kept) (e : a = .fault s x va) :
    Canonical s := by subst e; exact h

/-! ## Accesses of the fixed-function units -/

theorem State.unitReach_kept (s : State) (u : UnitCtx) (kind : Acc) (limit : Limit) (ps : List (Word × Nat)) (h : Canonical s) :
    (s.unitReach u kind limit ps).Kept := by
  simp only [State.unitReach]
  repeat' split
  all_goals simp [UnitAcc.Kept, h]

theorem State.unitRead_kept (s : State) (u : UnitCtx) (id : Nat) (va : Word) (n : Nat) (h : Canonical s) : (s.unitRead u id va n).Kept := by
  have hr := s.unitReach_kept u .read .none (cutLines va n) h
  simp only [State.unitRead]
  split
  · next e => exact hr.fault e
  · next e => exact hr.wait e
  · next e =>
    have h1 := hr.ok e
    repeat' split
    all_goals simp [UnitAcc.Kept, h1]

@[simp] theorem State.unitDone_canonical (s : State) (id : Nat) : Canonical (s.unitDone id) ↔ Canonical s := Iff.rfl

@[simp] theorem State.unitWrite_canonical (s : State) (source : WriteSource) (die : Nat) (cells : List (Nat × Byte)) (bad : List Nat) (uc : Bool)
    (h : Canonical s) : Canonical (s.unitWrite source die cells bad uc) :=
  canonical_foldl _ _ _ h fun t line ht => by simp [ht]

@[simp] theorem State.unitSend_canonical (s : State) (u : UnitCtx) (source : WriteSource) (va : Word) (p : Piece) (op : PeerOp) (h : Canonical s) :
    Canonical (s.unitSend u source va p op) := by
  simp [State.unitSend, h]

@[simp] theorem State.unitAtomic_canonical (s : State) (u : UnitCtx) (source : WriteSource) (va : Word) (p : Piece) (o f : Nat) (operand : Word)
    (h : Canonical s) : Canonical (s.unitAtomic u source va p o f operand) := by
  simp [State.unitAtomic, h]

theorem State.unitStoreAll_kept (s : State) (u : UnitCtx) (source : WriteSource) (ws : List (Word × List Byte)) (h : Canonical s) :
    (s.unitStoreAll u source ws).Kept := by
  simp only [State.unitStoreAll]
  split
  · next e => exact (s.unitReach_kept _ _ _ _ h).fault e
  · next e => exact (s.unitReach_kept _ _ _ _ h).wait e
  · next e =>
    have h1 := (s.unitReach_kept _ _ _ _ h).ok e
    refine canonical_foldl _ _ _ (by simp [h1]) fun t es ht => ?_
    split
    · exact ht
    · simp [ht]

theorem State.unitStore_kept (s : State) (u : UnitCtx) (source : WriteSource) (va : Word) (bytes : List Byte) (h : Canonical s) :
    (s.unitStore u source va bytes).Kept := s.unitStoreAll_kept u source _ h

@[simp] theorem State.unitEnded_canonical (s : State) (ends : List (Nat × RemoteReq)) : Canonical (s.unitEnded ends) ↔ Canonical s := by
  simp [State.unitEnded]

@[simp] theorem State.settleUnit_canonical (s : State) (source : WriteSource) : Canonical (s.settleUnit source).1 ↔ Canonical s := by
  simp [State.settleUnit]

theorem NSet.filter_wf (l : List Nat) (p : Nat → Bool) (h : NSet.wf l = true) : NSet.wf (l.filter p) = true := by
  induction l with
  | nil => rfl
  | cons a l ih =>
    obtain ⟨hl, ha⟩ := (NSet.wf_cons a l).1 h
    rw [List.filter_cons]
    split
    · exact (NSet.wf_cons a _).2 ⟨ih hl, fun j hj => ha j (List.mem_filter.1 hj).1⟩
    · exact ih hl

@[simp] theorem State.clearRange_canonical (s : State) (source : WriteSource) (die a n : Nat) (h : Canonical s) : Canonical (s.clearRange source die a n) := by
  obtain ⟨hm, hp⟩ := h
  simp only [State.clearRange, State.recheck_canonical]
  exact canonical_foldl _ _ _ ⟨Tbl.filter_wf 0 s.mem _ hm, NSet.filter_wf s.poison _ hp⟩ fun t line ht => by simp [ht]

/-! ## Radiance instances -/

@[simp] theorem State.adjInst_canonical (s : State) (k : Nat) (g : Instance → Instance) : Canonical (s.adjInst k g) ↔ Canonical s := Iff.rfl

theorem recordBlocks_kept (i : Instr) : KeepsEarly (recordBlocks i) := by
  intro c s r hr _
  obtain ⟨t, -, rfl⟩ := Option.map_eq_some_iff.1 hr
  trivial

@[simp] theorem rcBody_kept (x : ExtWord) (sample : Bool) (act : Instance → State → Res) (c : Ctx) (s : State) (h : Canonical s)
    (ha : ∀ i t, Canonical t → (act i t).Kept) : (rcBody x sample act c s).Kept := by
  simp only [rcBody]
  split
  · exact h
  · split
    · trivial
    · split
      · trivial
      · next s1 hs =>
        split
        · trivial
        · trivial
        · exact ha _ _ ((Ctx.rowSources_canonical hs).2 h)

@[simp] theorem rcqBody_kept (x : ExtWord) (c : Ctx) (s : State) (h : Canonical s) : (rcqBody x c s).Kept :=
  rcBody_kept x false _ c s h fun i t ht => by
    dsimp only
    split <;> simp [ht]

@[simp] theorem State.queryDone_canonical (s : State) (id lane : Nat) : Canonical (s.queryDone id lane) ↔ Canonical s := by
  simp only [State.queryDone]
  (repeat' split) <;> simp

@[simp] theorem rctBody_kept (x : ExtWord) (c : Ctx) (s : State) (h : Canonical s) : (rctBody x c s).Kept := by
  simp [rctBody, h]

@[simp] theorem State.drainSamples_canonical (s : State) (w : Nat) (h : Canonical s) : Canonical (s.drainSamples w) := by
  simp only [State.drainSamples]
  (repeat' split) <;> simp [h]

@[simp] theorem State.rcArrive_canonical (s : State) (pend : Nat) (p : Pend) (op inst asid table core arg : Nat) :
    Canonical (s.rcArrive pend p op inst asid table core arg) ↔ Canonical s := Iff.rfl

@[simp] theorem rcOpBody_kept (x : ExtWord) (op : Nat) (c : Ctx) (s : State) (h : Canonical s) : (rcOpBody x op c s).Kept := by
  simp [rcOpBody, h]

@[simp] theorem State.answerPend_canonical (s : State) (pend v : Nat) : Canonical (s.answerPend pend v) ↔ Canonical s := by
  simp only [State.answerPend]
  (repeat' split) <;> simp

@[simp] theorem State.rcReply_canonical (s : State) (id : Nat) (o : RcOp) (v : Nat) : Canonical (s.rcReply id o v) ↔ Canonical s := by
  simp [State.rcReply]

@[simp] theorem State.setStage_canonical (s : State) (id n : Nat) : Canonical (s.setStage id n) ↔ Canonical s := Iff.rfl

@[simp] theorem State.finishDrop_canonical (s : State) (id : Nat) (o : RcOp) : Canonical (s.finishDrop id o) ↔ Canonical s := by
  simp [State.finishDrop]

@[simp] theorem State.serveInst_canonical (s : State) (k : Nat) : Canonical (s.serveInst k) ↔ Canonical s := by
  unfold State.serveInst
  extract_lets s0 gen s1
  have h0 : Canonical s0 ↔ Canonical s := by
    simp only [s0]
    split <;> simp
  rw [← h0]
  clear_value s0
  split
  · rfl
  · extract_lets st
    repeat' split
    all_goals simp [s1]

@[simp] theorem State.serveRadiance_canonical (s : State) : Canonical s.serveRadiance ↔ Canonical s := by
  simp [State.serveRadiance]

theorem State.paramPages_kept (s : State) (u : UnitCtx) (g : RcConfig) (offs : List Nat) (w : Bool) (h : Canonical s) : (s.paramPages u g offs w).Kept := by
  simp only [State.paramPages]
  split
  · next e => exact (s.unitReach_kept _ _ _ _ h).ok e
  · next e => exact (s.unitReach_kept _ _ _ _ h).wait e
  · next e => exact (s.unitReach_kept _ _ _ _ h).fault e

@[simp] theorem State.failInst_canonical (s : State) (k : Nat) : Canonical (s.failInst k) ↔ Canonical s := Iff.rfl

theorem State.makeImage_kept (s : State) (k : Nat) (u : UnitCtx) (g : RcConfig) (h : Canonical s) : (s.makeImage k u g).Kept := by
  unfold State.makeImage
  extract_lets P
  split
  · exact h
  · split
    · next e => exact (s.paramPages_kept _ _ _ _ h).wait e
    · next e => exact (s.paramPages_kept _ _ _ _ h).fault e
    · next s0 pages e =>
      extract_lets s1
      have h1 : Canonical s1 := canonical_foldl _ _ _ ((s.paramPages_kept _ _ _ _ h).ok e) fun t p ht => t.findRange_canonical _ _ ht
      clear_value s1
      repeat' split
      all_goals exact h1

@[simp] theorem State.loadInst_canonical (s : State) (id : Nat) (o : RcOp) (g : RcConfig) (h : Canonical s) : Canonical (s.loadInst id o g) := by
  unfold State.loadInst
  extract_lets u P
  split
  · simp [h]
  · split
    · simp [h]
    · split
      · next e => exact (s.paramPages_kept _ _ _ _ h).wait e
      · next e => simp [(s.paramPages_kept _ _ _ _ h).fault e]
      · next s1 pages e =>
        have h1 := (s.paramPages_kept _ _ _ _ h).ok e
        have hi := s1.makeImage_kept o.inst u g h1
        split
        · exact h1
        · split
          · simp [h1]
          · split
            · next e => exact hi.wait e
            · next e => simp [hi.fault e]
            · next e => simp [hi.ok e]
            · next s2 t e =>
              extract_lets i s3
              have h3 : Canonical s3 := canonical_foldl _ _ _ (hi.ok e) fun t p ht => by
                dsimp only
                split
                · exact t.clearRange_canonical _ _ _ _ ht
                · exact ht
              exact (State.rcReply_canonical ..).2 h3

/-! ## Ray traversal -/

@[simp] theorem State.setRay_canonical (s : State) (id : Nat) (j : RayJob) : Canonical (s.setRay id j) ↔ Canonical s := Iff.rfl
@[simp] theorem State.dropRay_canonical (s : State) (id : Nat) : Canonical (s.dropRay id) ↔ Canonical s := Iff.rfl

@[simp] theorem State.addRays_canonical (s : State) (js : List RayJob) : Canonical (s.addRays js) ↔ Canonical s := by
  simp [State.addRays]

@[simp] theorem traceBody_kept (x : ExtWord) (c : Ctx) (s : State) (h : Canonical s) : (traceBody x c s).Kept := by
  unfold traceBody
  extract_lets part n d dst
  split
  · exact h
  · split
    · trivial
    · split
      · trivial
      · next s1 hs => simp [Ctx.rowSources_canonical hs, h]

@[simp] theorem rqinitBody_kept (x : ExtWord) (c : Ctx) (s : State) (h : Canonical s) : (rqinitBody x c s).Kept := by
  unfold rqinitBody
  extract_lets part
  split
  · exact h
  · split
    · trivial
    · split
      · trivial
      · next s1 hs => simp [Ctx.rowSources_canonical hs, h]

@[simp] theorem rqstepBody_kept (x : ExtWord) (c : Ctx) (s : State) (h : Canonical s) : (rqstepBody x c s).Kept := by
  simp [rqstepBody, h]

@[simp] theorem hitgetBody_kept (x : ExtWord) (c : Ctx) (s : State) (h : Canonical s) : (hitgetBody x c s).Kept := by
  simp [hitgetBody, h]

@[simp] theorem State.decideHit_canonical (s : State) (w lane d : Nat) : Canonical (s.decideHit w lane d) ↔ Canonical s := by
  simp only [State.decideHit]
  (repeat' split) <;> simp

@[simp] theorem decideBody_kept (x : ExtWord) (d : Nat) (c : Ctx) (s : State) (h : Canonical s) : (decideBody x d c s).Kept := by
  simp [decideBody, h]

@[simp] theorem State.endRay_canonical (s : State) (id : Nat) (j : RayJob) (failed : Bool) : Canonical (s.endRay id j failed) ↔ Canonical s := Iff.rfl
@[simp] theorem State.rayNext_canonical (s : State) (id : Nat) (j : RayJob) : Canonical (s.rayNext id j) ↔ Canonical s := Iff.rfl

@[simp] theorem State.closeRay_canonical (s : State) (id : Nat) (j : RayJob) (failed : Bool) : Canonical (s.closeRay id j failed) ↔ Canonical s := by
  simp only [State.closeRay]
  (repeat' split) <;> simp

@[simp] theorem State.stopQuery_canonical (s : State) (id : Nat) (j : RayJob) (stage : RayStage) (found : Bool) :
    Canonical (s.stopQuery id j stage found) ↔ Canonical s := by
  simp only [State.stopQuery]
  (repeat' split) <;> simp

@[simp] theorem State.failRay_canonical (s : State) (id : Nat) (j : RayJob) (counted : Bool) : Canonical (s.failRay id j counted) ↔ Canonical s := by
  simp [State.failRay]

theorem State.rayRead_canonical (s : State) (id : Nat) (j : RayJob) (va n : Nat) (k : State → List Byte → State)
    (hk : ∀ t bs, Canonical t → Canonical (k t bs)) (h : Canonical s) : Canonical (s.rayRead id j va n k) := by
  have hr := s.unitRead_kept j.unit id (BitVec.ofNat 64 va) n h
  unfold State.rayRead
  split
  · next e => simp [hr.fault e]
  · next e => exact hr.wait e
  · next e =>
    split
    · simp [hr.ok e]
    · exact hk _ _ (hr.ok e)

@[simp] theorem State.startRay_canonical (s : State) (id : Nat) (j : RayJob) (h : Canonical s) : Canonical (s.startRay id j) := by
  unfold State.startRay
  split
  · simp [h]
  · exact s.rayRead_canonical _ _ _ _ _ (fun t bs ht => by simp [ht]) h

theorem State.shaderEntry_canonical (s : State) (id : Nat) (j : RayJob) (t : TraceDesc) (idx off : Nat) (k : State → Nat → State)
    (hk : ∀ t n, Canonical t → Canonical (k t n)) (h : Canonical s) : Canonical (s.shaderEntry id j t idx off k) := by
  unfold State.shaderEntry
  split
  · exact hk _ _ h
  · split
    · simp [h]
    · exact s.rayRead_canonical _ _ _ _ _ (fun t bs ht => hk t _ ht) h

@[simp] theorem State.endWalk_canonical (s : State) (id : Nat) (j : RayJob) (t : TraceDesc) (h : Canonical s) : Canonical (s.endWalk id j t) := by
  unfold State.endWalk
  split
  · simp [h]
  · split
    · split
      · simp [h]
      · exact s.shaderEntry_canonical _ _ _ _ _ _ (fun u n hu => by simp [hu]) h
    · simp [h]

@[simp] theorem State.sendOr_canonical (s : State) (die core : Nat) (source : WriteSource) (va : Word) (p : Piece) (bit : Nat) (h : Canonical s) :
    Canonical (s.sendOr die core source va p bit) := by
  simp [State.sendOr, h]

theorem State.feedback_kept (s : State) (u : UnitCtx) (core : Nat) (source : WriteSource) (map page : Nat) (h : Canonical s) :
    (s.feedback u core source map page).Kept := by
  simp only [State.feedback]
  split <;> simp [UnitAcc.Kept, h]

theorem State.residency_canonical (s : State) (id : Nat) (j : RayJob) (t : TraceDesc) (n : BvhNode) (k : State → List Nat → State) (cs gone : List Nat)
    (hk : ∀ t g, Canonical t → Canonical (k t g)) (h : Canonical s) : Canonical (s.residency id j t n k cs gone) := by
  induction cs generalizing s gone with
  | nil => exact hk _ _ h
  | cons c cs ih =>
    simp only [State.residency]
    split
    · exact ih s gone h
    · exact s.rayRead_canonical _ _ _ _ _ (fun t bs ht => ih t _ ht) h

theorem State.feedbackAll_kept (s : State) (u : UnitCtx) (core : Nat) (source : WriteSource) (map : Nat) (pages : List Nat) (h : Canonical s) :
    (s.feedbackAll u core source map pages).Kept := by
  have hr := s.unitReach_kept u .atomic .none ((pages.map (fun p => (feedbackWord map p, 4))).eraseDups) h
  unfold State.feedbackAll
  split
  · next e => exact hr.fault e
  · next e => exact hr.wait e
  · next e =>
    refine List.foldlRecOn (motive := UnitAcc.Kept) pages _ (hr.ok e) fun r hr p _ => ?_
    split
    · exact State.feedback_kept _ _ _ _ _ _ hr
    · exact hr

@[simp] theorem State.descend_canonical (s : State) (id : Nat) (j : RayJob) (t : TraceDesc) (inst : Option RayInst) (n : BvhNode) (cs : List Nat)
    (h : Canonical s) : Canonical (s.descend id j t inst n cs) := by
  refine s.residency_canonical id j t n _ cs [] (fun u gone hu => ?_) h
  have hf := u.feedbackAll_kept j.unit j.core (.op id) t.fbmap gone.eraseDups hu
  dsimp only
  split
  · simp [hu]
  · split
    · next e => simp [hf.fault e]
    · next e => exact hf.wait e
    · next e => simp [hf.ok e]

@[simp] theorem State.visitNode_canonical (s : State) (id : Nat) (j : RayJob) (t : TraceDesc) (inst : Option RayInst) (n : Nat) (h : Canonical s) :
    Canonical (s.visitNode id j t inst n) :=
  s.rayRead_canonical _ _ _ _ _ (fun u bs hu => by dsimp only; split <;> simp [hu]) h

@[simp] theorem State.visitEntry_canonical (s : State) (id : Nat) (j : RayJob) (t : TraceDesc) (idx : Nat) (h : Canonical s) :
    Canonical (s.visitEntry id j t idx) :=
  s.rayRead_canonical _ _ _ _ _ (fun u bs hu => by simp [hu]) h

@[simp] theorem State.visitBlock_canonical (s : State) (id : Nat) (j : RayJob) (t : TraceDesc) (i : RayInst) (addr : Nat) (h : Canonical s) :
    Canonical (s.visitBlock id j t i addr) := by
  refine s.rayRead_canonical _ _ _ _ _ (fun u bs hu => ?_) h
  split
  · simp [hu]
  · extract_lets
    repeat' split
    · simp [hu]
    · simp [hu]
    · simp [hu]
    · exact u.shaderEntry_canonical _ _ _ _ _ _ (fun v a hv => by simp [hv]) hu

@[simp] theorem State.finishRay_canonical (s : State) (id : Nat) (j : RayJob) (failed : Bool) : Canonical (s.finishRay id j failed) ↔ Canonical s := by
  simp [State.finishRay]

@[simp] theorem State.visitRay_canonical (s : State) (id : Nat) (h : Canonical s) : Canonical (s.visitRay id) := by
  simp only [State.visitRay]
  (repeat' split) <;> simp [h]

end Sys2Proof.Machine

/-! SUPPORT. What keeps memory and its poisoned sectors in canonical form: graphics, graphs and the management of the device. -/

namespace Sys2Proof.Machine

/-! ## Refit, rasterisation and textures -/

@[simp] theorem refitBody_kept (x : ExtWord) (c : Ctx) (s : State) (h : Canonical s) : (refitBody x c s).Kept := by
  simp [refitBody, h]

@[simp] theorem State.setRefit_canonical (s : State) (id : Nat) (q : Refit) : Canonical (s.setRefit id q) ↔ Canonical s := Iff.rfl

@[simp] theorem State.scramble_canonical (s : State) (q : Refit) (h : Canonical s) : Canonical (s.scramble q) := by
  unfold State.scramble
  extract_lets word put
  have hput (t : State) (ws : List (Word × List Byte)) (ht : Canonical t) : Canonical (put t ws) := by
    simp only [put]
    split
    · next e => exact (t.unitStoreAll_kept _ _ _ ht).ok e
    · exact ht
  exact canonical_foldl _ _ _ h fun t n ht => hput _ _ (hput _ _ ht)

@[simp] theorem State.endRefit_canonical (s : State) (id : Nat) (q : Refit) (status : Nat) (h : Canonical s) : Canonical (s.endRefit id q status) := by
  simp [State.endRefit, h]

theorem State.refitRead_canonical (s : State) (id : Nat) (q : Refit) (va : Word) (n : Nat) (k : State → List Byte → State)
    (hk : ∀ t bs, Canonical t → Canonical (k t bs)) (h : Canonical s) : Canonical (s.refitRead id q va n k) := by
  have hr := s.unitRead_kept q.unit id va n h
  unfold State.refitRead
  split
  · next e => simp [hr.fault e]
  · next e => exact hr.wait e
  · next e =>
    split
    · simp [hr.ok e]
    · exact hk _ _ (hr.ok e)

theorem State.refitNode_canonical (s : State) (id : Nat) (q : Refit) (n : Nat) (k : State → BvhNode → List Byte → State)
    (hk : ∀ t m bs, Canonical t → Canonical (k t m bs)) (h : Canonical s) : Canonical (s.refitNode id q n k) :=
  s.refitRead_canonical _ _ _ _ _ (fun t bs ht => by
    split
    · simp [ht]
    · exact hk t _ _ ht) h

theorem State.childBoxes_canonical (s : State) (id : Nat) (q : Refit) (n : BvhNode) (k : State → List Box → State) (cs : List Nat) (bs : List Box)
    (hk : ∀ t bs, Canonical t → Canonical (k t bs)) (h : Canonical s) : Canonical (s.childBoxes id q n k cs bs) := by
  induction cs generalizing s bs with
  | nil => exact hk s bs h
  | cons c cs ih =>
    simp only [State.childBoxes]
    split
    · exact s.refitNode_canonical _ _ _ _ (fun t m _ ht => ih t _ ht) h
    · split
      · exact s.refitRead_canonical _ _ _ _ _ (fun t raw ht => ih t _ ht) h
      · exact ih s _ h

@[simp] theorem State.refitNext_canonical (s : State) (id : Nat) (q : Refit) : Canonical (s.refitNext id q) ↔ Canonical s := Iff.rfl

@[simp] theorem State.process_canonical (s : State) (id : Nat) (q : Refit) (n : Nat) (h : Canonical s) : Canonical (s.process id q n) :=
  s.refitNode_canonical _ _ _ _ (fun t node _ ht => t.childBoxes_canonical _ _ _ _ _ _ (fun u boxes hu => by
    have hr := u.unitStoreAll_kept q.unit (.op q.pend)
    dsimp only
    split
    · next e => simp [(hr _ hu).fault e]
    · next e => exact (hr _ hu).wait e
    · next e => simp [(hr _ hu).ok e]) ht) h

@[simp] theorem State.refitArrive_canonical (s : State) (id : Nat) (q : Refit) (p : Nat) (h : Canonical s) : Canonical (s.refitArrive id q p) := by
  refine s.refitNode_canonical _ _ _ _ (fun t n _ ht => ?_) h
  extract_lets last q1
  have hr := t.unitReach_kept q.unit .atomic .none [(BitVec.ofNat 64 (q.ctr + 4 * p), 4)] ht
  split
  · next e => simp [hr.fault e]
  · next e => exact hr.wait e
  · next e => exact hr.ok e
  · next s1 c cs e =>
    have h1 := hr.ok e
    split
    · split
      · simp [h1]
      · split
        · exact h1
        · split
          · simp [h1]
          · split
            · simp [h1]
            · have hw := s1.unitStore_kept q.unit (.op q.pend) (BitVec.ofNat 64 (q.ctr + 4 * p)) (natBytes 4 0) h1
              split
              · next e => simp [hw.fault e]
              · next e => exact hw.wait e
              · next e => simp [hw.ok e]
        · simp [h1]
    · split
      · exact h1
      · split
        · exact h1
        · dsimp only
          split <;> simp [h1]

@[simp] theorem State.refitStep_canonical (s : State) (id : Nat) (q : Refit) (h : Canonical s) : Canonical (s.refitStep id q) := by
  unfold State.refitStep
  split
  · split
    · simp [h]
    · exact s.refitRead_canonical _ _ _ _ _ (fun t bs ht => by split <;> simp [ht]) h
  · split
    · simp [h]
    · simp [h]
    · split
      · simp [h]
      · exact s.refitNode_canonical _ _ _ _ (fun t n _ ht => by simp [ht]) h

@[simp] theorem State.closeRefit_canonical (s : State) (id : Nat) (q : Refit) (h : Canonical s) : Canonical (s.closeRefit id q) := by
  simp [State.closeRefit, h]

@[simp] theorem State.setPass_canonical (s : State) (id : Nat) (p : Pass) : Canonical (s.setPass id p) ↔ Canonical s := Iff.rfl
@[simp] theorem State.adjPass_canonical (s : State) (id : Nat) (g : Pass → Pass) : Canonical (s.adjPass id g) ↔ Canonical s := Iff.rfl

@[simp] theorem vbldBody_kept (x : ExtWord) (c : Ctx) (s : State) (h : Canonical s) : (vbldBody x c s).Kept := by
  simp [vbldBody, h]

@[simp] theorem mshemitBody_kept (x : ExtWord) (c : Ctx) (s : State) (h : Canonical s) : (mshemitBody x c s).Kept := by
  unfold mshemitBody
  extract_lets part
  split
  · exact h
  · split
    · trivial
    · split
      · trivial
      · next s1 hs =>
        split
        · trivial
        · simp [Ctx.rowSources_canonical hs, h]

@[simp] theorem mshdoneBody_kept (x : ExtWord) (c : Ctx) (s : State) (h : Canonical s) : (mshdoneBody x c s).Kept := by
  simp only [mshdoneBody]
  (repeat' split) <;> simp [h]

@[simp] theorem State.closePass_canonical (s : State) (id : Nat) (p : Pass) (status : Nat) : Canonical (s.closePass id p status) ↔ Canonical s := by
  simp [State.closePass]

@[simp] theorem State.settlePass_canonical (s : State) (id : Nat) (p : Pass) : Canonical (s.settlePass id p) ↔ Canonical s := by
  simp [State.settlePass]

@[simp] theorem State.finishPass_canonical (s : State) (id : Nat) (p0 : Pass) : Canonical (s.finishPass id p0) ↔ Canonical s := by
  simp only [State.finishPass]
  split <;> simp

@[simp] theorem State.clearPass_canonical (s : State) (id : Nat) (p : Pass) (h : Canonical s) : Canonical (s.clearPass id p) := by
  unfold State.clearPass
  extract_lets row
  have hr := s.unitStoreAll_kept p.unit (.op p.pend) ((List.range p.height).map (fun y => (p.target + BitVec.ofNat 64 (p.pitch * y), row))) h
  split
  · next e => simp [hr.fault e]
  · next e => exact hr.wait e
  · next e => simp [hr.ok e]

@[simp] theorem State.minPixel_canonical (s : State) (p : Pass) (e : Pixel) (h : Canonical s) : Canonical (s.minPixel p e) := by
  simp [State.minPixel, h]

@[simp] theorem State.rasterTri_canonical (s : State) (id : Nat) (p : Pass) (t : Tri) (rest : List Tri) (h : Canonical s) :
    Canonical (s.rasterTri id p t rest) := by
  unfold State.rasterTri
  split
  · simp [h]
  · dsimp only
    split
    · split
      · simp [h]
      · exact (State.adjPass_canonical ..).2 (canonical_foldl _ _ _ h fun t e ht => by simp [ht])
    · exact (State.adjPass_canonical ..).2 (canonical_foldl _ _ _ (by simp [h]) fun t e ht => by simp [ht])

@[simp] theorem State.rasterStep_canonical (s : State) (die slot : Nat) (h : Canonical s) : Canonical (s.rasterStep die slot) := by
  unfold State.rasterStep
  split
  · exact h
  · next id p _ =>
    split
    · split
      · simp [h]
      · have hr := s.unitRead_kept p.unit id p.desc 64 h
        split
        · next e => simp [hr.fault e]
        · next e => exact hr.wait e
        · next e =>
          split
          · simp [hr.ok e]
          · split <;> simp [hr.ok e]
    · split
      · exact h
      · split
        · simp [h]
        · split
          · simp [h]
          · split <;> simp [h]

@[simp] theorem State.serveUnits_canonical (s : State) (h : Canonical s) : Canonical s.serveUnits := by
  refine canonical_foldl _ _ _ (canonical_foldl _ _ _ h fun t e ht => ?_) fun t e ht => ?_
  · split <;> simp [ht]
  · split <;> simp [ht]

/-- A core's read of a descriptor keeps memory in canonical form. -/
def CoreRead.Kept : CoreRead → Prop
  | .ok s _ _ | .wait s => Canonical s
  | .fault _ => True

theorem State.coreRead_kept (s : State) (c : Ctx) (va : Word) (n : Nat) (h : Canonical s) : (s.coreRead c va n).Kept := by
  unfold State.coreRead
  extract_lets cuts rs
  split
  · simp [CoreRead.Kept, h]
  · trivial
  · next ps s0 id mine away unsent _ _ _ _ =>
    have h0 : Canonical s0 := by simpa [s0] using h
    split
    · exact h0
    · split
      · simp [CoreRead.Kept, h0]
      · split
        · exact h0
        · refine List.foldlRecOn (motive := CoreRead.Kept) ps _ h0 fun r hr p _ => ?_
          split
          · next t bs bad =>
            have ht : Canonical t := hr
            split
            · split
              · exact ht
              · trivial
            · split
              · next u hu =>
                have := State.readSector_canonical hu ht
                simp only [CoreRead.Kept]
                split <;> simp [this]
              · exact ht
          · exact hr

theorem State.texReads_kept (s : State) (c : Ctx) (ps : List (Word × Nat)) (h : Canonical s) : (s.texReads c ps).r.Kept := by
  refine List.foldlRecOn (motive := fun q : TexReads => q.r.Kept) ps _ h fun q hq p _ => ?_
  split
  · next t _ _ e =>
    have ht : Canonical t := by rw [e] at hq; exact hq
    have hr := t.coreRead_kept c p.1 p.2 ht
    split
    · next e1 => rw [e1] at hr; exact hr
    · exact hr
  · exact hq

/-- Sampling a texture for one lane keeps memory in canonical form. -/
def LaneSample.Kept : LaneSample → Prop
  | .ok s _ | .wait s => Canonical s
  | .fault _ => True

theorem State.sampleLane_kept (s : State) (c : Ctx) (t : Tex) (lin clamp : Bool) (l : Nat) (u v : BitVec 32) (h : Canonical s) :
    (s.sampleLane c t lin clamp l u v).Kept := by
  unfold State.sampleLane
  extract_lets xs ys pts tiles res
  have hres : res.r.Kept := State.texReads_kept _ _ _ h
  split
  · next e => rw [e] at hres; exact hres
  · trivial
  · next s1 _ _ e =>
    rw [e] at hres
    split
    · exact hres
    · extract_lets rd
      have hrd : rd.r.Kept := State.texReads_kept _ _ _ hres
      split
      · next e => rw [e] at hrd; exact hrd
      · trivial
      · next e => rw [e] at hrd; exact hrd

@[simp] theorem State.texDone_canonical (s : State) (c : Ctx) (x : ExtWord) (write : Bool) (fb : Option Nat) (tok : Nat) (rs : List (Nat × Sampled))
    (h : Canonical s) : Canonical (s.texDone c x write fb tok rs) := by
  unfold State.texDone
  extract_lets s0 s1 s2 own r s3
  have h1 : Canonical s1 := by simp only [s1, s0]; split <;> simp [h]
  have h2 : Canonical s2 := by simp only [s2]; split <;> simp [h1]
  have h3 : Canonical s3 := by
    simp only [s3]
    split
    · exact h2
    · refine canonical_foldl _ _ _ (by simpa [r] using h2) fun t k ht => ?_
      split <;> simp [ht]
  refine canonical_foldl _ _ _ h3 fun t r ht => ?_
  split <;> simp [ht]

@[simp] theorem texBody_kept (x : ExtWord) (write : Bool) (c : Ctx) (s : State) (h : Canonical s) : (texBody x write c s).Kept := by
  unfold texBody
  extract_lets part ls
  split
  · exact h
  · split
    · trivial
    · split
      · trivial
      · next s0 hs =>
        have h0 := (Ctx.rowSources_canonical hs).2 h
        have hr := s0.coreRead_kept c (c.F.scalar x.b.num.toNat) 64 h0
        split
        · next e => rw [e] at hr; exact hr
        · simp [h]
        · next s1 _ e =>
          rw [e] at hr
          have h1 : Canonical s1 := hr
          simp [h1]
        · next s1 bs e =>
          rw [e] at hr
          have h1 : Canonical s1 := hr
          split
          · simp [h1]
          · next t _ =>
            extract_lets map run kind
            have hrun : Canonical run.1 := by
              refine List.foldlRecOn (motive := fun r : State × List (Nat × Sampled) × List ((Nat × LaneFault) × Acc) × Bool => Canonical r.1)
                ls _ h1 fun r hr l _ => ?_
              dsimp only
              have hl := r.1.sampleLane_kept c t (x.x.getLsbD 0) (x.x.getLsbD 1) (texLevel c x t l)
                (BitVec.ofNat 32 (elem 32 ((c.values x (texSources x) l).1.getD 0 0) 0))
                (BitVec.ofNat 32 (elem 32 ((c.values x (texSources x) l).1.getD 0 0) 1)) hr
              split
              · next e => rw [e] at hl; exact hl
              · exact hr
              · next e =>
                rw [e] at hl
                split
                · exact hl
                · exact hl
            split
            · exact hrun
            · split
              · simp [h]
              · simp [hrun]

@[simp] theorem State.settleWrites_canonical (s : State) (id : Nat) (p : Pend) : Canonical (s.settleWrites id p) ↔ Canonical s := by
  unfold State.settleWrites
  extract_lets ends s1
  have h1 : Canonical s1 ↔ Canonical s := by
    simp only [s1]
    rw [canonical_foldl_iff]
    · simp
    · intro t e
      split <;> simp
  split <;> simp [h1]

/-! ## EXIT.SUCC -/

@[simp] theorem State.succeed_canonical (s : State) (c : Ctx) (h : Header) : Canonical (s.succeed c h) ↔ Canonical s := by
  simp [State.succeed]

theorem State.readSuccessor_canonical {s t : State} {c : Ctx} {entry : Word} (ht : s.readSuccessor c entry = .wait t) : Canonical t ↔ Canonical s := by
  have hcheck (bs : List Byte) (bad : Bool) : (match (if bad then none else parseHeader bs entry) with
      | none => Succession.refused
      | some h => if successorFits c.T h then .fits h else .refused) ≠ .wait t := by
    split
    · nofun
    · split <;> nofun
  unfold State.readSuccessor at ht
  dsimp only at ht
  split at ht
  · cases ht
  · split at ht
    · cases ht; simp
    · split at ht
      · cases ht
      · cases ht
      · split at ht
        · split at ht
          · cases ht; simp
          · split at ht
            · cases ht; rfl
            · split at ht
              · cases ht
              · exact absurd ht (hcheck _ _)
        · exact absurd ht (hcheck _ _)

@[simp] theorem State.headerRead_canonical (s : State) (c : Ctx) (entry : Word) (h : Canonical s) : Canonical (s.headerRead c entry) := by
  simp only [State.headerRead]
  split <;> simp [h]

theorem refusedSuccessor_kept (x : ExtWord) : KeepsEarly (refusedSuccessor x) := by
  intro c s r hr _
  unfold refusedSuccessor at hr
  split at hr
  · cases hr; trivial
  · cases hr

@[simp] theorem exitSuccBody_kept (x : ExtWord) (c : Ctx) (s : State) (h : Canonical s) : (exitSuccBody x c s).Kept := by
  unfold exitSuccBody
  extract_lets entry
  split
  · simp [h]
  · trivial
  · split
    · simp [h]
    · trivial
  · next e => exact (State.readSuccessor_canonical e).2 h

/-! ## LAUNCH, TREADY, WAIT.F and DRAIN -/

@[simp] theorem State.dropNode_canonical (s : State) (a : Nat) : Canonical (s.dropNode a) ↔ Canonical s := Iff.rfl

@[simp] theorem State.walkerWrite_canonical (s : State) (source : WriteSource) (a n v : Nat) (h : Canonical s) : Canonical (s.walkerWrite source a n v) := by
  simp [State.walkerWrite, h]

@[simp] theorem State.decrement_canonical (s0 : State) (a : Nat) (h : Canonical s0) : Canonical (State.decrement s0 a).2 := by
  simp only [State.decrement]
  (repeat' split) <;> simp [h]

@[simp] theorem State.loseOwners_canonical (s : State) (w : Nat) (own : Mask) (o : Origin) (op : Nat) (va : Word) :
    Canonical (s.loseOwners w own o op va) ↔ Canonical s := by
  simp only [State.loseOwners]
  split <;> simp

theorem Ctx.target_kept {c : Ctx} {s : State} {va : Word} {align : Nat} {kind : Acc} {r : Res} (hr : c.target s va align kind = .error r)
    (h : Canonical s) : r.Kept := by
  unfold Ctx.target at hr
  split at hr
  · cases hr; trivial
  · cases hq : c.reach s [0] (fun _ => va) 4 kind .launch true with
    | error e => rw [hq] at hr; cases hr; exact Ctx.reach_kept hq h
    | ok q => rw [hq] at hr; cases hr

@[simp] theorem State.doLaunch_canonical (s : State) (w : Nat) (own : Mask) (o : Origin) (node : Nat) (va : Word) (dst : Dest) (h : Canonical s) :
    Canonical (s.doLaunch w own o node va dst) := by
  simp only [State.doLaunch]
  (repeat' split) <;> simp [h]

@[simp] theorem launchBody_kept (x : ExtWord) (c : Ctx) (s : State) (h : Canonical s) : (launchBody x c s).Kept := by
  unfold launchBody
  extract_lets va
  split
  · next e => exact Ctx.target_kept e h
  · split
    · trivial
    · exact Ctx.release_kept _ _ _ _ _ _ _ _ (fun _ _ => by simp [h]) (by simp [h])

@[simp] theorem State.doTready_canonical (s : State) (w : Nat) (own : Mask) (o : Origin) (pa : Nat) (va : Word) (v : Bool) (h : Canonical s) :
    Canonical (s.doTready w own o pa va v) := by
  simp [State.doTready, h]

@[simp] theorem treadyBody_kept (x : ExtWord) (c : Ctx) (s : State) (h : Canonical s) : (treadyBody x c s).Kept := by
  unfold treadyBody
  extract_lets va
  split
  · next e => exact Ctx.target_kept e h
  · next own s1 _ pa _ =>
    split
    · trivial
    · split
      · simp [h]
      · extract_lets t
        have h1 : Canonical s1 := by simpa [s1] using h
        split
        · trivial
        · split
          · split
            · trivial
            · simp [h1]
          · split <;> simp [h1]

@[simp] theorem State.acquireTile_canonical (s : State) (core : Nat) (rs : List (Nat × Nat)) : Canonical (s.acquireTile core rs) ↔ Canonical s := Iff.rfl

@[simp] theorem waitFBody_kept (x : ExtWord) (c : Ctx) (s : State) (h : Canonical s) : (waitFBody x c s).Kept := by
  unfold waitFBody
  extract_lets va
  split
  · next e => exact Ctx.target_kept e h
  · next s1 _ pa _ =>
    have h1 : Canonical s1 := by simpa [s1] using h
    split
    · trivial
    · split
      · simp [h]
      · extract_lets t
        clear_value t
        split
        · trivial
        · simp [h1]

@[simp] theorem State.setDrain_canonical (s : State) (dest slot : Nat) (d : DrainSlot) : Canonical (s.setDrain dest slot d) ↔ Canonical s := Iff.rfl

@[simp] theorem State.serveJoin_canonical (s : State) (j : DrainJoin) : Canonical (s.serveJoin j) ↔ Canonical s := by
  simp [State.serveJoin]

@[simp] theorem State.serveJoins_canonical (s : State) : Canonical s.serveJoins ↔ Canonical s := by
  simp [State.serveJoins]

@[simp] theorem State.doDrain_canonical (s : State) (key n : Nat) : Canonical (s.doDrain key n) ↔ Canonical s := by
  simp [State.doDrain]

@[simp] theorem drainBody_kept (x : ExtWord) (c : Ctx) (s : State) (h : Canonical s) : (drainBody x c s).Kept := by
  unfold drainBody
  split
  · trivial
  · extract_lets n
    split
    · trivial
    · exact Ctx.release_kept _ _ _ _ _ _ _ _ (fun _ _ => by simp [h]) h

/-! ## Placement -/

@[simp] theorem State.serveGrid_canonical (s : State) (core grid : Nat) (always : Bool) : Canonical (s.serveGrid core grid always) ↔ Canonical s := by
  simp [State.serveGrid]

@[simp] theorem State.trimL1_canonical (s : State) (core : Nat) : Canonical (s.trimL1 core) ↔ Canonical s := Iff.rfl

@[simp] theorem State.arriveOn_canonical (s : State) (cores : List Nat) (grid : Nat) (always : Bool) :
    Canonical (s.arriveOn cores grid always) ↔ Canonical s := by
  simp [State.arriveOn]

@[simp] theorem State.startWaves_canonical (s : State) (t : Nat) (n : NewTeam) (spots : List Spot3) : Canonical (s.startWaves t n spots) ↔ Canonical s := by
  simp [State.startWaves]

@[simp] theorem State.startTeam_canonical (s : State) (n : NewTeam) (cores : List Nat) (spots : List Spot3) :
    Canonical (s.startTeam n cores spots).2 ↔ Canonical s := by
  simp [State.startTeam]

/-! ## The graph walkers -/

@[simp] theorem State.finishNode_canonical (s : State) (node status : Nat) (h : Canonical s) : Canonical (s.finishNode node status) := by
  simp [State.finishNode, h]

@[simp] theorem State.completeNode_canonical (s : State) (node status : Nat) (grid : Option Nat) (h : Canonical s) :
    Canonical (s.completeNode node status grid) := by
  simp only [State.completeNode]
  (repeat' split) <;> simp [h]

@[simp] theorem State.followNode_canonical (s0 : State) (node : Nat) (h : Canonical s0) : Canonical (State.followNode s0 node) := by
  simp [State.followNode, h]

@[simp] theorem State.followList_canonical (s : State) (die : Nat) (nodes : List Nat) (block : Nat) (h : Canonical s) :
    Canonical (s.followList die nodes block) := by
  simp only [State.followList]
  split <;> simp [h]

@[simp] theorem State.startCopy_canonical (s : State) (node : Nat) (b : List Byte) : Canonical (s.startCopy node b) ↔ Canonical s := Iff.rfl

@[simp] theorem State.startNode_canonical (s0 : State) (node : Nat) (h : Canonical s0) : Canonical (State.startNode s0 node) := by
  simp only [State.startNode]
  (repeat' split) <;> simp [h]

@[simp] theorem State.startGrid_canonical (s : State) (node : Nat) (b : List Byte) (h : Header) (args : List Byte) :
    Canonical (s.startGrid node b h args) ↔ Canonical s := by
  simp only [State.startGrid]
  split <;> simp

@[simp] theorem State.readKernel_canonical (s : State) (node : Nat) (b : List Byte) (h : Canonical s) : Canonical (s.readKernel node b) := by
  unfold State.readKernel
  extract_lets die u entry args done
  have hdone (t : State) (n : Nat) : Canonical (done t n) ↔ Canonical t := by simp [done]
  have hr := s.unitRead_kept u (nodeKey node) (entry - 64) 64 h
  split
  · next e => simp [hdone, hr.fault e]
  · next e => simp [hr.wait e]
  · next s1 hb hbad e =>
    have h1 := hr.ok e
    have ha : (if args = 0 then UnitAcc.ok s1 (List.replicate 64 0, false) else s1.unitRead u (nodeKey node) args 64).Kept := by
      split
      · exact h1
      · exact s1.unitRead_kept _ _ _ _ h1
    split
    · next e => simp [hdone, ha.fault e]
    · next e => simp [ha.wait e]
    · next e =>
      split
      · simp [hdone, ha.ok e]
      · split
        · simp [hdone, ha.ok e]
        · split <;> simp [hdone, ha.ok e]

@[simp] theorem State.readJoin_canonical (s : State) (node : Nat) (b : List Byte) (h : Canonical s) : Canonical (s.readJoin node b) := by
  unfold State.readJoin
  extract_lets die u phase done
  have hdone (t : State) (n : Nat) : Canonical (done t n) ↔ Canonical t := by simp [done]
  have hr := s.unitRead_kept u (nodeKey node) phase 16 h
  split
  · next e => simp [hdone, hr.fault e]
  · next e => simp [hr.wait e]
  · next s1 h16 bad16 e =>
    split
    · simp [hdone, hr.ok e]
    · have ha := s1.unitRead_kept u (nodeKey node) phase (if field h16 0 1 = 1 then 5136 else 48) (hr.ok e)
      split
      · next e => simp [hdone, ha.fault e]
      · next e => simp [ha.wait e]
      · next e =>
        have h2 := ha.ok e
        split
        · simp [hdone, h2]
        · split
          · simp [hdone, h2]
          · split <;> simp [hdone, h2]

@[simp] theorem State.walk1_canonical (s : State) (die : Nat) (t : WalkTask) (h : Canonical s) : Canonical (s.walk1 die t) := by
  simp only [State.walk1]
  split <;> simp [h]

@[simp] theorem State.walkerStep_canonical (s : State) (die : Nat) (h : Canonical s) : Canonical (s.walkerStep die) := by
  simp only [State.walkerStep]
  split <;> simp [h]

@[simp] theorem State.adjGrid_canonical (s : State) (g : Nat) (f : Grid → Grid) : Canonical (s.adjGrid g f) ↔ Canonical s := Iff.rfl

@[simp] theorem State.flagOf_canonical (s : State) (g : Nat) (G : Grid) (i : Nat) (h : Canonical s) : Canonical (s.flagOf g G i).2 := by
  unfold State.flagOf
  split
  · exact h
  · next base _ =>
    extract_lets id u
    have hr := s.unitRead_kept u id (base + BitVec.ofNat 64 (32 * i)) 32 h
    split
    · next e => simp [hr.ok e]
    · next e => exact hr.wait e
    · next e => simp [hr.fault e]

@[simp] theorem Scan.look_canonical (q : Scan) (e : Nat × Grid × PendingTeam) (h : Canonical q.s) : Canonical (q.look e).s := by
  unfold Scan.look
  dsimp only
  split
  · exact h
  · split
    · exact h
    · split
      · split
        · exact h
        · split <;> exact h
      · have hf := q.s.flagOf_canonical e.1 e.2.1 e.2.2.index h
        split
        · exact hf
        · split <;> exact hf

@[simp] theorem State.scan_canonical (s : State) (h : Canonical s) : Canonical s.scan.s :=
  List.foldlRecOn (motive := fun q : Scan => Canonical q.s) _ _ h fun q hq e _ => q.look_canonical e hq

@[simp] theorem State.placeTeam_canonical (s : State) (g : Nat) (G : Grid) (i : Nat) (h : Held) : Canonical (s.placeTeam g G i h) ↔ Canonical s := by
  simp [State.placeTeam]

@[simp] theorem State.passOver_canonical (s : State) (past : List (Nat × Nat)) (dies : BitVec 8) (n : Nat) :
    Canonical (s.passOver past dies n) ↔ Canonical s := Iff.rfl

@[simp] theorem State.placeOn_canonical (s : State) (die : Nat) (h : Canonical s) : Canonical (s.placeOn die) := by
  have hq := s.scan_canonical h
  unfold State.placeOn
  split
  · exact h
  · extract_lets q
    split
    · split
      · exact hq
      · split
        · exact hq
        · split
          · exact hq
          · split
            · exact hq
            · simpa using hq
    · exact hq

@[simp] theorem State.placeGrid_canonical (s : State) (g : Nat) (h : Canonical s) : Canonical (s.placeGrid g) := by
  have hq := s.scan_canonical h
  unfold State.placeGrid
  split
  · exact h
  · extract_lets q
    split
    · split
      · exact hq
      · split
        · exact hq
        · simpa using hq
    · exact hq

@[simp] theorem State.startShader_canonical (s : State) (j : RayJob) (hd : Header) (held : Held) (js : List (Nat × RayJob)) (h : Canonical s) :
    Canonical (s.startShader j hd held js) := by
  unfold State.startShader
  extract_lets f
  split
  extract_lets n r
  have hr : Canonical r.2 := by simpa [r] using h
  split
  · exact hr
  · extract_lets s1 s2 s3
    have h3 : Canonical s3 := by
      refine canonical_foldl _ _ _ (by simpa [s2, s1] using hr) fun t e ht => ?_
      split <;> simp [ht]
    simpa using h3

@[simp] theorem State.placeShader_canonical (s : State) (die : Nat) (h : Canonical s) : Canonical (s.placeShader die) := by
  unfold State.placeShader
  extract_lets ready
  split
  · exact h
  · next id j _ =>
    extract_lets all entry fail
    have hfail (t : State) (ht : Canonical t) : Canonical (fail t) := canonical_foldl _ _ _ ht fun t e ht => by simp [ht]
    have hr := ({ s with free := s.free + 1 } : State).unitRead_kept { j.unit with who := .die die } id (entry - 64) 64 h
    split
    · next e => exact hfail _ (hr.fault e)
    · next e => exact hr.wait e
    · next s1 bs bad e =>
      have h1 := hr.ok e
      split
      · exact hfail _ h1
      · split
        · exact hfail _ h1
        · split
          · exact h1
          · split
            · exact h1
            · simp [h1]

/-! ## Traps and their handlers -/

@[simp] theorem trapBody_kept (x : ExtWord) (c : Ctx) (s : State) (h : Canonical s) : (trapBody x c s).Kept := by
  simp [trapBody, h]

@[simp] theorem State.stopLanes_kept (s : State) (c : Ctx) (part : Mask) (cause : Nat) (h : Canonical s) : (s.stopLanes c part cause).Kept := by
  unfold State.stopLanes
  split
  · simp [h]
  · next e =>
    split at e
    · cases e
    · have := (State.splitOff_canonical e).2 h
      simpa using this

@[simp] theorem bkptBody_kept (x : ExtWord) (c : Ctx) (s : State) (h : Canonical s) : (bkptBody x c s).Kept := by
  unfold bkptBody
  split <;> simp [h]

@[simp] theorem tretBody_kept (x : ExtWord) (c : Ctx) (s : State) (h : Canonical s) : (tretBody x c s).Kept := by
  simp only [tretBody]
  split <;> simp [h]

@[simp] theorem echkBody_kept (x : ExtWord) (c : Ctx) (s : State) (h : Canonical s) : (echkBody x c s).Kept := by
  simp only [echkBody]
  (repeat' split) <;> simp [h]

@[simp] theorem State.codeDrop_canonical (s : State) (core : Nat) (p : Nat → Bool) : Canonical (s.codeDrop core p) ↔ Canonical s := Iff.rfl

@[simp] theorem iclrBody_kept (x : ExtWord) (c : Ctx) (s : State) (h : Canonical s) : (iclrBody x c s).Kept := by
  simp [iclrBody, h]

/-! ## Swaps, spills, images and spares -/

@[simp] theorem State.dropContext_canonical (s : State) (t : Nat) : Canonical (s.dropContext t) ↔ Canonical s := Iff.rfl

@[simp] theorem State.killTeam_canonical (s : State) (t status : Nat) : Canonical (s.killTeam t status) ↔ Canonical s := by
  simp [State.killTeam]

@[simp] theorem State.setSlot_canonical (s : State) (core : Nat) (x : Slot) : Canonical (s.setSlot core x) ↔ Canonical s := Iff.rfl

@[simp] theorem State.startSwap_canonical (s : State) (id : Nat) (x : Swap) : Canonical (s.startSwap id x) ↔ Canonical s := by
  simp [State.startSwap]

@[simp] theorem State.startSwaps_canonical (s : State) : Canonical s.startSwaps ↔ Canonical s := by
  simp [State.startSwaps]

@[simp] theorem State.requestSwap_canonical (s : State) (cores : List Nat) (keep : Bool) (spare : Option (Nat × Nat)) :
    Canonical (s.requestSwap cores keep spare) ↔ Canonical s := Iff.rfl

@[simp] theorem State.turnWaits_canonical (s : State) (ts : List Nat) : Canonical (s.turnWaits ts) ↔ Canonical s := Iff.rfl

@[simp] theorem State.loseContexts_canonical (s : State) (ts : List Nat) : Canonical (s.loseContexts ts) ↔ Canonical s := by
  simp [State.loseContexts]

@[simp] theorem State.exchange_canonical (s : State) (cores : List Nat) (keep : Bool) : Canonical (s.exchange cores keep) ↔ Canonical s := by
  simp [State.exchange]

@[simp] theorem State.spillNext_canonical (s : State) (core : Nat) : Canonical (s.spillNext core) ↔ Canonical s := by
  simp only [State.spillNext]
  (repeat' split) <;> simp

@[simp] theorem State.adjImage_canonical (s : State) (id : Nat) (f : Image → Image) : Canonical (s.adjImage id f) ↔ Canonical s := Iff.rfl

@[simp] theorem State.completeImage_canonical (s : State) (id : Nat) : Canonical (s.completeImage id) ↔ Canonical s := by
  simp only [State.completeImage]
  split <;> simp

@[simp] theorem State.stirWaits_canonical (s : State) (p : Waiter → Bool) : Canonical (s.stirWaits p) ↔ Canonical s := Iff.rfl

@[simp] theorem State.moveWaves_canonical (s : State) (ws : List (Nat × Wave)) (spots : List Spot3) : Canonical (s.moveWaves ws spots) ↔ Canonical s := by
  simp [State.moveWaves]

@[simp] theorem State.moveMatrix_canonical (s : State) (t : Nat) (f : Nat → Nat) : Canonical (s.moveMatrix t f) ↔ Canonical s := Iff.rfl

@[simp] theorem State.deliverTrap_canonical (s : State) (f : Nat) (t : Trap) (h : Canonical s) : Canonical (s.deliverTrap f t) := by
  unfold State.deliverTrap
  split
  · exact h
  · extract_lets m
    split
    · exact h
    · split
      · next e =>
        split at e
        · cases e
        · simp [(State.splitOff_canonical e).2 h]
      · simp [h]

@[simp] theorem State.bringBack_canonical (s : State) (t : Nat) (T : Team) (h : Held) : Canonical (s.bringBack t T h) ↔ Canonical s := by
  simp [State.bringBack]

@[simp] theorem State.restoreImage_canonical (s : State) (id : Nat) (h : Canonical s) : Canonical (s.restoreImage id) := by
  unfold State.restoreImage
  dsimp only
  split
  · exact h
  · split
    · exact h
    · split
      · exact h
      · split
        · split
          · simp [h]
          · split
            · exact canonical_foldl _ _ _ (by simp [h]) fun t x ht => by simp [ht]
            · simp [h]
        · exact h

@[simp] theorem State.logSpare_canonical (s : State) (unit core die kind number : Nat) :
    Canonical (s.logSpare unit core die kind number) ↔ Canonical s := Iff.rfl

@[simp] theorem State.moveEngines_canonical (s : State) (cl new : Nat) : Canonical (s.moveEngines cl new) ↔ Canonical s := Iff.rfl

@[simp] theorem State.moveCluster_canonical (s : State) (cl new : Nat) : Canonical (s.moveCluster cl new) ↔ Canonical s := by
  simp [State.moveCluster]

@[simp] theorem State.replaceCluster_canonical (s : State) (cl : Nat) (new : Option Nat) : Canonical (s.replaceCluster cl new) ↔ Canonical s := Iff.rfl

@[simp] theorem State.evacuate_canonical (s : State) (cl : Nat) : Canonical (s.evacuate cl) ↔ Canonical s := by
  simp [State.evacuate]

@[simp] theorem State.substituteCluster_canonical (s : State) (cl : Nat) : Canonical (s.substituteCluster cl) ↔ Canonical s := by
  simp only [State.substituteCluster]
  (repeat' split) <;> simp

@[simp] theorem State.substituteColumn_canonical (s : State) (name : Nat) : Canonical (s.substituteColumn name) ↔ Canonical s := Iff.rfl

@[simp] theorem State.endSwap_canonical (s : State) (id : Nat) : Canonical (s.endSwap id) ↔ Canonical s := by
  simp only [State.endSwap]
  (repeat' split) <;> simp

theorem State.marked_canonical (s : State) (kind core die number : Nat) (act : State → State) (hact : Canonical s → Canonical (act s)) (h : Canonical s) :
    Canonical (s.marked kind core die number act) := by
  unfold State.marked
  split
  · exact hact h
  · simp [h]

@[simp] theorem State.wearOut_canonical (s : State) (f : AgingFinding) (h : Canonical s) : Canonical (s.wearOut f) := by
  unfold State.wearOut
  split
  · exact h
  · exact s.marked_canonical _ _ _ _ _ (fun h => by split <;> simp [h]) h
  · exact s.marked_canonical _ _ _ _ _ (fun h => by simp [h]) h
  · exact s.marked_canonical _ _ _ _ _ (fun h => by simp [h]) h

/-! ## Run selection, meetings and timers -/

@[simp] theorem State.joinWaiting_canonical (s : State) (c : Ctx) : Canonical (s.joinWaiting c) ↔ Canonical s := by
  simp only [State.joinWaiting]
  (repeat' split) <;> simp

@[simp] theorem State.review_canonical (s : State) (f : Nat) : Canonical (s.review f) ↔ Canonical s := by
  simp only [State.review]
  split <;> simp

@[simp] theorem State.takeBlocks_canonical (s : State) (f : Nat) (h : Canonical s) : Canonical (s.takeBlocks f) := by
  unfold State.takeBlocks
  split
  · exact h
  · next c _ =>
    split
    · next x _ =>
      split
      · exact h
      · have hk := racqBody_kept x c s h
        split
        · next e => exact hk.done e
        · exact h
    · exact h

@[simp] theorem State.takeRun_canonical (s : State) (f core : Nat) (h : Canonical s) : Canonical (s.takeRun f core) := by
  unfold State.takeRun
  split
  · exact h
  · split <;> simp [h]

@[simp] theorem State.runSelect_canonical (s : State) (core quadrant : Nat) (h : Canonical s) : Canonical (s.runSelect core quadrant) := by
  unfold State.runSelect
  extract_lets s1 here running runs ready
  have h1 : Canonical s1 := by simpa [s1] using h
  split
  · exact h1
  · exact (canonical_foldl _ _ _ h1 fun t f ht => t.takeRun_canonical f core ht :)

@[simp] theorem State.tickTimers_canonical (s : State) (dt : Nat) : Canonical (s.tickTimers dt) ↔ Canonical s := Iff.rfl

@[simp] theorem State.decideMeeting_canonical (s : State) (w : Nat) (W : Wave) (k : MeetKind) (h : Canonical s) : Canonical (s.decideMeeting w W k) := by
  simp only [State.decideMeeting]
  split <;> simp [h]

@[simp] theorem State.decideMeetings_canonical (s : State) (h : Canonical s) : Canonical s.decideMeetings := by
  refine canonical_foldl _ _ _ h fun t e ht => ?_
  split
  · exact ht
  · split
    · exact ht
    · split
      · exact canonical_foldl _ _ _ ht fun u k hu => by simp [hu]
      · exact ht

@[simp] theorem State.fuseTimeout_canonical (s : State) (w : Nat) (h : Canonical s) : Canonical (s.fuseTimeout w) := by
  unfold State.fuseTimeout
  split
  · exact h
  · refine canonical_foldl _ _ _ h fun t k ht => ?_
    split
    · exact ht
    · exact ht
    · split <;> simp [ht]

@[simp] theorem State.windowTimeout_canonical (s : State) (f : Nat) : Canonical (s.windowTimeout f) ↔ Canonical s := by
  simp only [State.windowTimeout]
  (repeat' split) <;> simp

@[simp] theorem State.watchdog_canonical (s : State) (w : Nat) : Canonical (s.watchdog w) ↔ Canonical s := by
  refine canonical_foldl_iff _ _ _ fun t e => ?_
  split
  · rfl
  · split
    · rfl
    · split
      · rfl
      · split <;> simp

/-! ## Samples and counters -/

@[simp] theorem State.pcSample_canonical (s : State) (core : Nat) (h : Canonical s) : Canonical (s.pcSample core) := by
  simp only [State.pcSample]
  (repeat' split) <;> simp [h]

@[simp] theorem State.syncRecord_canonical (s : State) (core : Nat) (h : Canonical s) : Canonical (s.syncRecord core) := by
  simp [State.syncRecord, h]

@[simp] theorem State.setLevel_canonical (s : State) (level : Nat) (h : Canonical s) : Canonical (s.setLevel level) := by
  unfold State.setLevel
  split
  · exact h
  · exact canonical_foldl _ _ _ h fun t c ht => by simp [ht]

@[simp] theorem State.clearCounters_canonical (s : State) (die : Nat) : Canonical (s.clearCounters die) ↔ Canonical s := Iff.rfl

@[simp] theorem State.flushCounters_canonical (s : State) (h : Canonical s) : Canonical s.flushCounters := by
  refine canonical_foldl _ _ _ h fun t die ht => ?_
  have h1 : Canonical ((t.coresOf die).foldl (fun (s : State) c => s.profile die (some c) 7 (s.countersAt c coreCounters)) t) :=
    canonical_foldl _ _ _ ht fun u c hu => by simp [hu]
  simp [h1]

/-! ## Sessions, ownership and bring-up -/

@[simp] theorem State.repeatParks_canonical (s : State) : Canonical s.repeatParks ↔ Canonical s := Iff.rfl

@[simp] theorem State.own_canonical (s : State) (id prio : Nat) : Canonical (s.own id prio) ↔ Canonical s := by
  simp [State.own]

@[simp] theorem State.elect_canonical (s : State) : Canonical s.elect ↔ Canonical s := by
  simp only [State.elect]
  split <;> simp

@[simp] theorem State.disown_canonical (s : State) : Canonical s.disown ↔ Canonical s := Iff.rfl

@[simp] theorem State.lapse_canonical (s : State) : Canonical s.lapse ↔ Canonical s := by
  simp [State.lapse]

@[simp] theorem State.resend_canonical (s : State) (n : Nat) : Canonical (s.resend n) ↔ Canonical s := by
  simp only [State.resend]
  split <;> simp

/-- Acting on a request keeps memory in canonical form, whether its answer goes out at once or later. -/
def Verdict.Kept : Verdict → Prop
  | .answer s _ _ | .later s => Canonical s

@[simp] theorem Verdict.kept_answer (s : State) (n : Nat) (bs : List Byte) : (Verdict.answer s n bs).Kept ↔ Canonical s := Iff.rfl
@[simp] theorem Verdict.kept_later (s : State) : (Verdict.later s).Kept ↔ Canonical s := Iff.rfl
@[simp] theorem Verdict.kept_ok (s : State) : (ok s).Kept ↔ Canonical s := Iff.rfl
@[simp] theorem Verdict.kept_refuse (s : State) (n : Nat) : (refuse s n).Kept ↔ Canonical s := Iff.rfl

@[simp] theorem State.reply_canonical (s : State) (session seq op status : Nat) (payload : List Byte) :
    Canonical (s.reply session seq op status payload) ↔ Canonical s := by
  simp only [State.reply]
  split <;> simp

@[simp] theorem State.renew_canonical (s : State) : Canonical s.renew ↔ Canonical s := Iff.rfl

/-- A request is answered from what is stored, refused, or acted on; what it does to memory is what its action does. -/
theorem State.request_canonical (s : State) (q : EdjorRequest) (op : Nat) (own early : Bool) (act : State → Verdict)
    (ha : ∀ t, Canonical t → (act t).Kept) (h : Canonical s) : Canonical (s.request q op own early act) := by
  have h0 : Canonical s.lapse := by simpa using h
  unfold State.request
  dsimp only
  split
  · simpa using h0
  · split
    · split <;> simp [h0]
    · next x _ _ =>
      split
      · simpa using h0
      · split
        · simpa using h0
        · have hk (u : State) (hu : Canonical u) : Canonical (match act u with
              | .answer s2 status payload => s2.reply q.session.toNat q.seq.toNat op status payload
              | .later s2 => s2) := by
            have := ha u hu
            split
            · next e => rw [e] at this; simpa using this
            · next e => rw [e] at this; exact this
          refine hk _ ?_
          split <;> exact h0

@[simp] theorem State.hello_canonical (s : State) (q : EdjorRequest) : Canonical (s.hello q) ↔ Canonical s := by
  simp [State.hello]

@[simp] theorem State.extend_canonical (s : State) (i : Nat) (component : List Byte) : Canonical (s.extend i component) ↔ Canonical s := Iff.rfl

@[simp] theorem State.measureAll_canonical (s : State) : Canonical s.measureAll ↔ Canonical s := by
  simp only [State.measureAll]
  (repeat' split) <;> simp

@[simp] theorem State.bringUpStep_canonical (s : State) (h : Canonical s) : Canonical s.bringUpStep := by
  unfold State.bringUpStep
  split
  · exact h
  · extract_lets bad s0 q s1
    have h1 : Canonical s1 := by simpa [s1, s0] using h
    clear_value s1
    split
    · split <;> simp [h1]
    · split <;> simp [h1]
    · exact ⟨rfl, rfl⟩
    · simp [h1]
    · simp [h1]

@[simp] theorem State.restart_canonical (s : State) (h : Canonical s) : Canonical s.restart := by
  simp [State.restart, h]

/-! ## Windows, ports and what is due -/

@[simp] theorem State.outsideWrite_canonical (s : State) (cells : List (Nat × Byte)) (bad : List Nat) (h : Canonical s) :
    Canonical (s.outsideWrite cells bad).2 := by
  refine List.foldlRecOn (motive := fun st : List Nat × State => Canonical st.2) _ _ h fun st hst line _ => ?_
  simp [hst]

@[simp] theorem State.outsideRead_canonical (s : State) (a n : Nat) (h : Canonical s) : Canonical (s.outsideRead a n) :=
  canonical_foldl _ _ _ h fun t k ht => by simp [ht]

@[simp] theorem State.logPoisonRead_canonical (s : State) (a n : Nat) : Canonical (s.logPoisonRead a n) ↔ Canonical s := Iff.rfl

@[simp] theorem State.serveDue_canonical (s : State) (earlier : List Due) (d : Due) (h : Canonical s) : Canonical (s.serveDue earlier d).2 := by
  simp only [State.serveDue]
  (repeat' split) <;> simp [h]

@[simp] theorem State.serveDues_canonical (s : State) (h : Canonical s) : Canonical s.serveDues := by
  have hr : Canonical (s.mgmt.due.foldl (fun (st : List Due × State) d =>
      ((match (st.2.serveDue st.1 d).1 with | some x => st.1 ++ [x] | none => st.1), (st.2.serveDue st.1 d).2)) ([], s)).2 :=
    List.foldlRecOn (motive := fun st : List Due × State => Canonical st.2) _ _ h fun st hst d _ => st.2.serveDue_canonical _ _ hst
  exact hr

@[simp] theorem State.owe_canonical (s : State) (d : Due) (h : Canonical s) : Canonical (s.owe d) := by
  simp [State.owe, h]

@[simp] theorem State.inbound_canonical (s : State) (r : PeerRequest) (h : Canonical s) : Canonical (s.inbound r) := by
  simp only [State.inbound]
  (repeat' split) <;> simp [h]

@[simp] theorem State.invalidateMaps_canonical (s : State) (asid : Option Nat) (lo hi : Nat) : Canonical (s.invalidateMaps asid lo hi) ↔ Canonical s := Iff.rfl

@[simp] theorem State.graphgo_canonical (s : State) (a : Nat) (h : Canonical s) : Canonical (s.graphgo a) := by
  simp [State.graphgo, h]

theorem State.answerPark_kept (s : State) (q : EdjorRequest) (deliver : Bool) (h : Canonical s) : (s.answerPark q deliver).Kept := by
  unfold State.answerPark
  extract_lets id
  split
  · exact h
  · split
    · exact h
    · exact (State.adjImage_canonical s id fun m => { m with pending := true, deliver := deliver, order := s.nextId }).2 h

theorem State.profileSet_canonical {s t : State} {bs : List Byte} (ht : s.profileSet bs = some t) : Canonical t ↔ Canonical s := by
  unfold State.profileSet at ht
  dsimp only at ht
  repeat' split at ht
  all_goals cases ht
  all_goals rfl

@[simp] theorem State.logCorrected_canonical (s : State) (die addr synd : Nat) : Canonical (s.logCorrected die addr synd) ↔ Canonical s := by
  simp only [State.logCorrected]
  split <;> simp

@[simp] theorem State.scrub_canonical (s : State) (sector : Nat) (u : SectorUpset) (h : Canonical s) : Canonical (s.scrub sector u) := by
  simp only [State.scrub]
  (repeat' split) <;> simp [h]

/-! ## The debugger -/

@[simp] theorem State.adjDebug_canonical (s : State) (t : Nat) (g : Debug → Debug) : Canonical (s.adjDebug t g) ↔ Canonical s := Iff.rfl

theorem State.debugRequest_canonical (s : State) (q : EdjorRequest) (act : Nat → Debug → List Byte → State → Verdict)
    (ha : ∀ t d bs u, Canonical u → (act t d bs u).Kept) (h : Canonical s) : Canonical (s.debugRequest q act) := by
  refine s.request_canonical _ _ _ _ _ (fun u hu => ?_) h
  split
  · exact hu
  · split
    · exact hu
    · exact ha _ _ _ _ hu

@[simp] theorem State.debugOk_kept (s : State) (t : Nat) : (s.debugOk t).Kept ↔ Canonical s := Iff.rfl
@[simp] theorem State.withdraw_canonical (s : State) (f : Nat) : Canonical (s.withdraw f) ↔ Canonical s := Iff.rfl

@[simp] theorem State.stopFrag_canonical (s : State) (f cause : Nat) : Canonical (s.stopFrag f cause) ↔ Canonical s := by
  simp only [State.stopFrag]
  split <;> simp

@[simp] theorem State.goOn_canonical (s : State) (f : Nat) : Canonical (s.goOn f) ↔ Canonical s := by
  simp only [State.goOn]
  split <;> simp

@[simp] theorem State.stopTeamFrags_canonical (s : State) (t cause : Nat) : Canonical (s.stopTeamFrags t cause) ↔ Canonical s := by
  simp [State.stopTeamFrags]

@[simp] theorem State.goOnTeam_canonical (s : State) (t : Nat) : Canonical (s.goOnTeam t) ↔ Canonical s := by
  simp [State.goOnTeam]

@[simp] theorem State.beginTurn_canonical (s : State) (t f : Nat) (all : Bool) (queue : List Nat) : Canonical (s.beginTurn t f all queue) ↔ Canonical s := by
  simp only [State.beginTurn]
  split <;> simp

@[simp] theorem State.endSteps_canonical (s : State) (t : Nat) : Canonical (s.endSteps t) ↔ Canonical s := by
  simp [State.endSteps]

@[simp] theorem State.nextTurn_canonical (s : State) (t : Nat) (fs : List Nat) : Canonical (s.nextTurn t fs) ↔ Canonical s := by
  induction fs with
  | nil => simp [State.nextTurn]
  | cons f fs ih =>
    simp only [State.nextTurn]
    split
    · simp
    · exact ih

@[simp] theorem State.holdOthers_canonical (s : State) (t : Nat) (x : Stepping) : Canonical (s.holdOthers t x) ↔ Canonical s := by
  simp [State.holdOthers]

@[simp] theorem State.serveStep_canonical (s : State) (t : Nat) (d : Debug) : Canonical (s.serveStep t d) ↔ Canonical s := by
  simp only [State.serveStep]
  (repeat' split) <;> simp

@[simp] theorem State.serveSteps_canonical (s : State) : Canonical s.serveSteps ↔ Canonical s := by
  refine canonical_foldl_iff _ _ _ fun t e => ?_
  split <;> simp

@[simp] theorem State.stepTimeout_canonical (s : State) (f : Nat) (h : Canonical s) : Canonical (s.stepTimeout f) := by
  unfold State.stepTimeout
  split
  · exact h
  · split
    · exact h
    · next t d _ x _ =>
      split
      · exact h
      · extract_lets s1
        have h1 : Canonical s1 := by
          simp only [s1]
          split <;> simp [h]
        split <;> simp [h1]

@[simp] theorem State.noteReplay_canonical (s : State) (t : Nat) (d : Debug) : Canonical (s.noteReplay t d) ↔ Canonical s := by
  simp only [State.noteReplay]
  split <;> simp

@[simp] theorem State.noteReplays_canonical (s : State) : Canonical s.noteReplays ↔ Canonical s := by
  refine canonical_foldl_iff _ _ _ fun t e => ?_
  split <;> simp

@[simp] theorem State.showCopy_canonical (s : State) (copy base : Nat) (c : Snapshot) : Canonical (s.showCopy copy base c) ↔ Canonical s := by
  simp only [State.showCopy]
  split <;> simp

@[simp] theorem State.dropCopy_canonical (s : State) (copy : Nat) : Canonical (s.dropCopy copy) ↔ Canonical s := Iff.rfl

@[simp] theorem State.placeCopy_canonical (s : State) (t : Nat) (T : Team) (h : Held) (c : Snapshot) : Canonical (s.placeCopy t T h c).2 ↔ Canonical s := by
  simp [State.placeCopy]

@[simp] theorem State.stepCopy_canonical (s : State) (t : Nat) (r : Replay) (copy wave num : Nat) (p : Frag → Frag → Bool) :
    Canonical (s.stepCopy t r copy wave num p) ↔ Canonical s := by
  simp only [State.stepCopy]
  (repeat' split) <;> simp

/-! ## What follows of itself -/

@[simp] theorem State.act_canonical (s : State) (id : Nat) (p : Pend) (W : Wave) (T : Team) (a : After) (h : Canonical s) : Canonical (s.act id p W T a) := by
  simp only [State.act]
  split <;> simp [h]

@[simp] theorem State.settlePend_canonical (s : State) (id : Nat) (h : Canonical s) : Canonical (s.settlePend id) := by
  simp only [State.settlePend]
  (repeat' split) <;> simp [h]

@[simp] theorem State.settlePends_canonical (s : State) (h : Canonical s) : Canonical s.settlePends :=
  canonical_foldl _ _ _ h fun t e ht => by simp [ht]

@[simp] theorem State.settleCommands_canonical (s : State) (h : Canonical s) : Canonical s.settleCommands := by
  refine canonical_foldl _ _ _ h fun t e ht => ?_
  split
  · exact ht
  · split
    · split <;> simp [ht]
    · split
      · split <;> simp [ht]
      · exact ht

@[simp] theorem State.reapTeam_canonical (s : State) (t : Nat) : Canonical (s.reapTeam t) ↔ Canonical s := Iff.rfl

@[simp] theorem State.reap_canonical (s : State) : Canonical s.reap ↔ Canonical s := by
  simp [State.reap]

@[simp] theorem State.settle_canonical (s : State) (dt : Nat) (h : Canonical s) : Canonical (s.settle dt) := by
  have h1 : Canonical (s.tickTimers dt).expireDetached.settlePends := by simp [h]
  have h2 : Canonical (s.tickTimers dt).expireDetached.settlePends.settleRows.serveClasps.serveRadiance.serveUnits := by simp [h1]
  have h3 : Canonical (s.tickTimers dt).expireDetached.settlePends.settleRows.serveClasps.serveRadiance.serveUnits.serveJoins.startSwaps.decideMeetings := by
    simp [h2]
  simp [State.settle, h3]

@[simp] theorem State.begin_canonical (s : State) (h : Canonical s) : Canonical s.begin := by
  simp [State.begin, h]

@[simp] theorem State.nextMove_canonical (s : State) (h : Canonical s) : Canonical s.nextMove.2 := by
  simp only [State.nextMove]
  split <;> simp [h]

end Sys2Proof.Machine

/-! Every step keeps memory and its poisoned sectors in canonical form. -/

namespace Sys2Proof.Machine

/-! ## From bodies to steps -/

/-- Fetching an instruction keeps memory in canonical form, whether the fragment stops at it or goes on to issue. -/
def Fetching.Kept : Fetching → Prop
  | .stop s | .go _ s => Canonical s

theorem State.fetchFor_kept (s : State) (f : Nat) (h : Canonical s) : (s.fetchFor f).Kept := by
  unfold State.fetchFor
  split
  · exact h
  · split
    · exact h
    · split
      · simp [Fetching.Kept, h]
      · split
        · exact h
        · split
          · simp [Fetching.Kept, h]
          · split
            · simp [Fetching.Kept, h]
            · simp [Fetching.Kept, h]
            · extract_lets s0 s1
              have h0 : Canonical s0 := by simp only [s0]; split <;> simp [h]
              have h1 : Canonical s1 := by simpa [s1] using s0.fillFetch_canonical _ _ _ _ _ h0
              split
              · exact h1
              · exact h1
              · exact h

/-- Where a step has a next state, memory in it is in canonical form. -/
def Stays (o : Host.Outcome State Fault Refusal) : Prop := ∀ t, o = .next t → Canonical t

@[simp] theorem stays_next (s : State) : Stays (.next s) ↔ Canonical s := ⟨fun h => h s rfl, fun h t e => by cases e; exact h⟩
theorem stays_fault (e : Fault) : Stays (.fault e) := nofun

theorem issueChecked_stays {i : Instr} {early : Ctx → State → Option Res} {body : Ctx → State → Res} (he : KeepsEarly early) (hb : Keeps body)
    {s : State} (h : Canonical s) : Stays (issueChecked i early body s) := by
  unfold issueChecked
  split
  · exact stays_fault _
  · split
    · exact stays_fault _
    · next c _ => simpa using c.issueWith_canonical i s he hb h

theorem noEarly_kept : KeepsEarly noEarly := fun _ _ _ he => by simp [noEarly] at he

theorem issue_stays {i : Instr} {body : Ctx → State → Res} (hb : Keeps body) {s : State} (h : Canonical s) : Stays (issue i body s) :=
  issueChecked_stays noEarly_kept hb h

theorem earlyTarget_kept {k : TargetCheck} {r : Res} (h : earlyTarget k = some r) : r.Kept := by
  unfold earlyTarget at h
  split at h
  · split at h
    · cases h; trivial
    · cases h
  · cases h

theorem issueTransfer_stays {i : Instr} {x : ExtWord} {target : Ctx → Nat → Word} {perLane : Bool} {s : State} (h : Canonical s) :
    Stays (issueTransfer i x target perLane s) :=
  issueChecked_stays (fun _ _ _ he _ => earlyTarget_kept he) (transferBody_kept x target perLane) h

/-! ## Events of the device -/

theorem execReservedOpcode_stays (w : BitVec 32) (bit : BitVec 8) {s : State} (h : Canonical s) : Stays (execReservedOpcode w bit s) := by
  unfold execReservedOpcode
  split
  · exact stays_fault _
  · split
    · exact stays_fault _
    · simp [h]

theorem execRdcInvalidation_stays (id die : Nat) {s : State} (h : Canonical s) : Stays (execRdcInvalidation id die s) := by
  unfold execRdcInvalidation
  split
  · simp [h]
  · split <;> simp [h]

theorem execInvalidationAck_stays (id : Nat) {s : State} (h : Canonical s) : Stays (execInvalidationAck id s) := by
  unfold execInvalidationAck
  split
  · simp [h]
  · split
    · simp [h]
    · split <;> simp [h]

theorem execDetachNotice_stays (die line : Nat) {s : State} (h : Canonical s) : Stays (execDetachNotice die line s) := by
  unfold execDetachNotice
  split
  · dsimp only
    split <;> simp [h]
  · simp [h]

theorem execDetachedLineDrop_stays (die line : Nat) {s : State} (h : Canonical s) : Stays (execDetachedLineDrop die line s) := by
  unfold execDetachedLineDrop
  split
  · rw [stays_next]
    split <;> simp [h]
  · simp [h]

theorem execPeerResponseCacheExpiry_stays (peer id : Nat) {s : State} (h : Canonical s) : Stays (execPeerResponseCacheExpiry peer id s) :=
  (stays_next _).2 h

theorem execOptimiserStep_stays (k : Nat) {s : State} (h : Canonical s) : Stays (execOptimiserStep k s) := by
  unfold execOptimiserStep
  extract_lets s0
  have h0 : Canonical s0 := by simpa [s0] using h
  split
  · simp [h0]
  · next i _ =>
    split
    · simp [h0]
    · extract_lets g P hash mlp nums offs take
      have hp := s0.paramPages_kept i.unit g offs true h0
      split
      · next e => simp [hp.wait e]
      · next e => simp [hp.fault e]
      · next e =>
        extract_lets s2 read work ts grads p1 p2 cells
        have h2 : Canonical s2 := canonical_foldl _ _ _ (hp.ok e) fun t o ht => by simp [ht]
        split
        · simp [h2]
        · split <;> simp [h2]

theorem execRcgenImageWrite_stays (k : Nat) {s : State} (h : Canonical s) : Stays (execRcgenImageWrite k s) := by
  unfold execRcgenImageWrite
  split
  · next i _ _ =>
    split
    · simp [h]
    · have hi := s.makeImage_kept k i.unit i.cfg h
      split
      · next e => simp [hi.wait e]
      · next e => simp [hi.fault e]
      · next e => simp [hi.ok e]
      · next e => simp [hi.ok e]
  · simp [h]

theorem execRcuGenerationSwitch_stays (k cluster : Nat) {s : State} (h : Canonical s) : Stays (execRcuGenerationSwitch k cluster s) := by
  unfold execRcuGenerationSwitch
  split
  · split
    · simp [h]
    · dsimp only
      split <;> simp [h]
  · simp [h]

theorem execRccfgLoadDone_stays (k : Nat) {s : State} (h : Canonical s) : Stays (execRccfgLoadDone k s) := by
  unfold execRccfgLoadDone
  split
  · simp [h]
  · next id o _ =>
    split
    · simp [h]
    · split
      · simp [h]
      · have hr := s.unitRead_kept { who := .die (dieOf o.core), unit := 4, asid := o.asid, table := o.table } o.pend (BitVec.ofNat 64 o.arg) 256 h
        split
        · next e => simp [hr.fault e]
        · next e => simp [hr.wait e]
        · next e =>
          split
          · simp [hr.ok e]
          · split <;> simp [hr.ok e]

theorem execRefitNodeProcess_stays (die : Nat) {s : State} (h : Canonical s) : Stays (execRefitNodeProcess die s) := by
  unfold execRefitNodeProcess
  split
  · simp [h]
  · dsimp only
    split
    · simp [h]
    · split <;> simp [h]

theorem execAgingCheck_stays (finding : AgingFinding) {s : State} (h : Canonical s) : Stays (execAgingCheck finding s) := by
  unfold execAgingCheck
  dsimp only
  split <;> simp [h]

theorem execInstructionFetch_stays {s : State} (h : Canonical s) : Stays (execInstructionFetch s) := by
  unfold execInstructionFetch
  split
  · simp [h]
  · next e _ =>
    rw [stays_next]
    have hf := s.fetchFor_kept e.1 h
    split
    · next e => rw [e] at hf; exact hf
    · next e => rw [e] at hf; exact hf

theorem execPowerMeasurement_stays (milliwatt : Nat) {s : State} (h : Canonical s) : Stays (execPowerMeasurement milliwatt s) := by
  simp [execPowerMeasurement, h]

theorem execNonce_stays (q : EdjorRequest) {s : State} (h : Canonical s) : Stays (execNonce q s) := by
  simp [execNonce, h]

/-! ## Requests of the host -/

theorem request_stays {s : State} {q : EdjorRequest} {op : Nat} {own early : Bool} {act : State → Verdict}
    (ha : ∀ t, Canonical t → (act t).Kept) (h : Canonical s) : Stays (.next (s.request q op own early act)) :=
  (stays_next _).2 (s.request_canonical q op own early act ha h)

theorem debugRequest_stays {s : State} {q : EdjorRequest} {act : Nat → Debug → List Byte → State → Verdict}
    (ha : ∀ t d bs u, Canonical u → (act t d bs u).Kept) (h : Canonical s) : Stays (.next (s.debugRequest q act)) :=
  (stays_next _).2 (s.debugRequest_canonical q act ha h)

theorem execEdjorOtherOp_stays (q : EdjorRequest) {s : State} (h : Canonical s) : Stays (execEdjorOtherOp q s) := by
  refine request_stays (fun t ht => ?_) h
  simp [ht]

theorem execClaim_stays (q : EdjorRequest) {s : State} (h : Canonical s) : Stays (execClaim q s) := by
  refine request_stays (fun t ht => ?_) h
  dsimp only
  split
  · exact ht
  · split <;> simp [ht]

theorem execHeartbeat_stays (q : EdjorRequest) {s : State} (h : Canonical s) : Stays (execHeartbeat q s) := by
  refine request_stays (fun t ht => ?_) h
  exact ht

theorem execRelease_stays (q : EdjorRequest) {s : State} (h : Canonical s) : Stays (execRelease q s) := by
  refine request_stays (fun t ht => ?_) h
  simp [ht]

theorem execHandover_stays (q : EdjorRequest) {s : State} (h : Canonical s) : Stays (execHandover q s) := by
  refine request_stays (fun t ht => ?_) h
  dsimp only
  split <;> simp [ht]

theorem execEvack_stays (q : EdjorRequest) {s : State} (h : Canonical s) : Stays (execEvack q s) := by
  refine request_stays (fun t ht => ?_) h
  dsimp only
  split
  · exact ht
  · simp only [Verdict.kept_ok, State.sendEvents_canonical]
    split <;> exact ht

theorem execStatus_stays (q : EdjorRequest) {s : State} (h : Canonical s) : Stays (execStatus q s) := by
  refine request_stays (fun t ht => ?_) h
  exact ht

theorem execErrring_stays (q : EdjorRequest) {s : State} (h : Canonical s) : Stays (execErrring q s) := by
  refine request_stays (fun t ht => ?_) h
  dsimp only
  split
  · exact ht
  · split
    · split <;> simp [ht]
    · exact ht

theorem execAttest_stays (q : EdjorRequest) {s : State} (h : Canonical s) : Stays (execAttest q s) := by
  refine request_stays (fun t ht => ?_) h
  split <;> exact ht

theorem execReset_stays (q : EdjorRequest) {s : State} (h : Canonical s) : Stays (execReset q s) := by
  refine request_stays (fun t ht => ?_) h
  simp [ht]

theorem execFwload_stays (q : EdjorRequest) {s : State} (h : Canonical s) : Stays (execFwload q s) := by
  refine request_stays (fun t ht => ?_) h
  dsimp only
  split <;> exact ht

theorem execThrottle_stays (q : EdjorRequest) {s : State} (h : Canonical s) : Stays (execThrottle q s) := by
  refine request_stays (fun t ht => ?_) h
  dsimp only
  split <;> simp [ht]

theorem execSpare_stays (q : EdjorRequest) {s : State} (h : Canonical s) : Stays (execSpare q s) := by
  refine request_stays (fun t ht => ?_) h
  dsimp only
  split <;> exact ht

theorem execPeermap_stays (q : EdjorRequest) {s : State} (h : Canonical s) : Stays (execPeermap q s) := by
  refine request_stays (fun t ht => ?_) h
  dsimp only
  split
  · exact ht
  · split
    · split <;> exact ht
    · exact ht

theorem execOpendmw_stays (q : EdjorRequest) {s : State} (h : Canonical s) : Stays (execOpendmw q s) := by
  refine request_stays (fun t ht => ?_) h
  dsimp only
  split
  · exact ht
  · split <;> exact ht

theorem execClosedmw_stays (q : EdjorRequest) {s : State} (h : Canonical s) : Stays (execClosedmw q s) := by
  refine request_stays (fun t ht => ?_) h
  dsimp only
  split <;> simp [ht]

theorem execOpenhw_stays (q : EdjorRequest) {s : State} (h : Canonical s) : Stays (execOpenhw q s) := by
  refine request_stays (fun t ht => ?_) h
  dsimp only
  split
  · exact ht
  · split <;> exact ht

theorem execClosehw_stays (q : EdjorRequest) {s : State} (h : Canonical s) : Stays (execClosehw q s) := by
  refine request_stays (fun t ht => ?_) h
  dsimp only
  split <;> exact ht

theorem execReadmem_stays (q : EdjorRequest) {s : State} (h : Canonical s) : Stays (execReadmem q s) := by
  refine request_stays (fun t ht => ?_) h
  dsimp only
  split <;> simp [ht]

theorem execInval_stays (q : EdjorRequest) {s : State} (h : Canonical s) : Stays (execInval q s) := by
  refine request_stays (fun t ht => ?_) h
  dsimp only
  split <;> simp [ht]

theorem execGraphgo_stays (q : EdjorRequest) {s : State} (h : Canonical s) : Stays (execGraphgo q s) := by
  refine request_stays (fun t ht => ?_) h
  simp [ht]

theorem execSwap_stays (q : EdjorRequest) {s : State} (h : Canonical s) : Stays (execSwap q s) := by
  refine request_stays (fun t ht => ?_) h
  dsimp only
  split <;> simp [ht]

theorem execSpill_stays (q : EdjorRequest) {s : State} (h : Canonical s) : Stays (execSpill q s) := by
  refine request_stays (fun t ht => ?_) h
  dsimp only
  split
  · exact ht
  · exact canonical_foldl _ _ _ ht fun u c hu => by split <;> simp [hu]

theorem execSavepool_stays (q : EdjorRequest) {s : State} (h : Canonical s) : Stays (execSavepool q s) := by
  refine request_stays (fun t ht => ?_) h
  dsimp only
  split <;> simp [ht]

theorem execParkansResolve_stays (q : EdjorRequest) {s : State} (h : Canonical s) : Stays (execParkansResolve q s) := by
  refine request_stays (fun t ht => ?_) h
  exact t.answerPark_kept q false ht

theorem execParkansDeliver_stays (q : EdjorRequest) {s : State} (h : Canonical s) : Stays (execParkansDeliver q s) := by
  refine request_stays (fun t ht => ?_) h
  exact t.answerPark_kept q true ht

theorem execEndteam_stays (q : EdjorRequest) {s : State} (h : Canonical s) : Stays (execEndteam q s) := by
  refine request_stays (fun t ht => ?_) h
  split <;> simp [ht]

theorem execProfileRead_stays (q : EdjorRequest) {s : State} (h : Canonical s) : Stays (execProfileRead q s) := by
  refine request_stays (fun t ht => ?_) h
  dsimp only
  split <;> exact ht

theorem execProfileReadClear_stays (q : EdjorRequest) {s : State} (h : Canonical s) : Stays (execProfileReadClear q s) := by
  refine request_stays (fun t ht => ?_) h
  dsimp only
  split <;> simp [ht]

theorem execProfileFlush_stays (q : EdjorRequest) {s : State} (h : Canonical s) : Stays (execProfileFlush q s) := by
  refine request_stays (fun t ht => ?_) h
  split
  · exact ht
  · next s1 e =>
    have h1 : Canonical s1 := (State.profileSet_canonical e).2 ht
    simp [h1]

theorem execDebugAttach_stays (q : EdjorRequest) {s : State} (h : Canonical s) : Stays (execDebugAttach q s) := by
  refine request_stays (fun t ht => ?_) h
  split
  · exact ht
  · split
    · rw [State.debugOk_kept]
      split <;> exact ht
    · simp [ht]

theorem execDebugSetStops_stays (q : EdjorRequest) {s : State} (h : Canonical s) : Stays (execDebugSetStops q s) := by
  refine debugRequest_stays (fun t d bs u hu => ?_) h
  dsimp only
  split
  · exact hu
  · split <;> simp [hu]

theorem execDebugStop_stays (q : EdjorRequest) {s : State} (h : Canonical s) : Stays (execDebugStop q s) := by
  refine debugRequest_stays (fun t d bs u hu => ?_) h
  split <;> simp [hu]

theorem execDebugReplayMode_stays (q : EdjorRequest) {s : State} (h : Canonical s) : Stays (execDebugReplayMode q s) := by
  refine debugRequest_stays (fun t d bs u hu => ?_) h
  dsimp only
  split
  · exact hu
  · split
    · exact hu
    · split
      · exact hu
      · split <;> simp [hu]

theorem execDebugRollback_stays (q : EdjorRequest) {s : State} (h : Canonical s) : Stays (execDebugRollback q s) := by
  refine debugRequest_stays (fun t d bs u hu => ?_) h
  extract_lets n
  split
  · extract_lets s0 img hit pos focus status p live original
    have h0 : Canonical s0 := by simp only [s0]; split <;> simp [hu]
    have ho : Canonical original := by simp only [original, live]; split <;> simp [p, h0]
    clear_value original img
    split
    · exact hu
    · split
      · simp [ho]
      · exact hu
  · exact hu

theorem execDebugDiscardReplay_stays (q : EdjorRequest) {s : State} (h : Canonical s) : Stays (execDebugDiscardReplay q s) := by
  refine debugRequest_stays (fun t d bs u hu => ?_) h
  split
  · exact hu
  · split
    · simp [hu]
    · exact hu

theorem execDebugStep_stays (q : EdjorRequest) {s : State} (h : Canonical s) : Stays (execDebugStep q s) := by
  refine debugRequest_stays (fun t d bs u hu => ?_) h
  split
  · simp [hu]
  · split <;> simp [hu]

theorem execDebugStepAll_stays (q : EdjorRequest) {s : State} (h : Canonical s) : Stays (execDebugStepAll q s) := by
  refine debugRequest_stays (fun t d bs u hu => ?_) h
  split
  · dsimp only
    rw [State.debugOk_kept]
    exact canonical_foldl _ _ _ hu fun v k hv => by split <;> simp [hv]
  · simp [hu]

theorem execRdmaWrite_stays (q : RdmaRequest) {s : State} (h : Canonical s) : Stays (execRdmaWrite q s) := by
  unfold execRdmaWrite
  split <;> simp [h]

theorem execRdmaRead_stays (q : RdmaRequest) {s : State} (h : Canonical s) : Stays (execRdmaRead q s) := by
  unfold execRdmaRead
  split <;> simp [h]

theorem execArpNeighbourDiscovery_stays (port : Nat) {s : State} (h : Canonical s) : Stays (execArpNeighbourDiscovery port s) := by
  unfold execArpNeighbourDiscovery
  split <;> simp [h]

/-! ## Every instruction, event and request -/

/-- One line for each instruction, event and request: the lemma about what it does. -/
theorem exec_stays (i : Instr) {s : State} (h : Canonical s) : Stays (exec i s) := by
  cases i with
  | seam w => exact issue_stays (seamBody_kept _) h
  | nop w => exact issue_stays noEffect_kept h
  | nopLong w => exact issue_stays noEffect_kept h
  | iaddBase w => exact issue_stays (baseVec_kept _ _) h
  | iaddBaseLit w lit => exact issue_stays (baseVec_kept _ _) h
  | isubBase w => exact issue_stays (baseVec_kept _ _) h
  | isubBaseLit w lit => exact issue_stays (baseVec_kept _ _) h
  | andBase w => exact issue_stays (baseVec_kept _ _) h
  | andBaseLit w lit => exact issue_stays (baseVec_kept _ _) h
  | orBase w => exact issue_stays (baseVec_kept _ _) h
  | orBaseLit w lit => exact issue_stays (baseVec_kept _ _) h
  | xorBase w => exact issue_stays (baseVec_kept _ _) h
  | xorBaseLit w lit => exact issue_stays (baseVec_kept _ _) h
  | shlBase w => exact issue_stays (baseVec_kept _ _) h
  | shlBaseLit w lit => exact issue_stays (baseVec_kept _ _) h
  | shrBase w => exact issue_stays (baseVec_kept _ _) h
  | shrBaseLit w lit => exact issue_stays (baseVec_kept _ _) h
  | sarBase w => exact issue_stays (baseVec_kept _ _) h
  | sarBaseLit w lit => exact issue_stays (baseVec_kept _ _) h
  | notBase w => exact issue_stays (baseVec_kept _ _) h
  | popcBase w => exact issue_stays (baseVec_kept _ _) h
  | clzBase w => exact issue_stays (baseVec_kept _ _) h
  | ctzBase w => exact issue_stays (baseVec_kept _ _) h
  | brevBase w => exact issue_stays (baseVec_kept _ _) h
  | movBase w => exact issue_stays (baseVec_kept _ _) h
  | movlBaseLit w lit => exact issue_stays (baseVec_kept _ _) h
  | pnotBase w => exact issue_stays (basePred_kept _ _) h
  | pmovBase w => exact issue_stays (basePred_kept _ _) h
  | emulationBase w lit => exact issue_stays (emulationBody_kept _) h
  | emulation w => exact issue_stays (emulationBody_kept _) h
  | bra w => exact issueTransfer_stays h
  | brx w => exact issueTransfer_stays h
  | call w => exact issueChecked_stays (fun _ _ _ he _ => earlyTarget_kept he) (callBody_kept _) h
  | retn w => exact issueTransfer_stays h
  | loop w => exact issueChecked_stays (fun _ _ _ he _ => earlyTarget_kept he) (loopBody_kept _) h
  | rcv w => exact issue_stays (meetBody_kept _ _ _) h
  | fuse w => exact issue_stays (meetBody_kept _ _ _) h
  | elect w => exact issue_stays (gather_kept _ _ (electBody_kept _)) h
  | exit w => exact issue_stays (exitBody_kept _) h
  | exitSucc w => exact issueChecked_stays (refusedSuccessor_kept _) (exitSuccBody_kept _) h
  | iadd w => exact issue_stays (intBody_kept _ _ _) h
  | isub w => exact issue_stays (intBody_kept _ _ _) h
  | iaddc w => exact issue_stays (carryBody_kept _ _ _) h
  | isubb w => exact issue_stays (carryBody_kept _ _ _) h
  | imul w => exact issue_stays (intBody_kept _ _ _) h
  | imulh w => exact issue_stays (intBody_kept _ _ _) h
  | imad w => exact issue_stays (intBody_kept _ _ _) h
  | imadc w => exact issue_stays (imadcBody_kept _) h
  | idiv w => exact issue_stays (intBody_kept _ _ _) h
  | irem w => exact issue_stays (intBody_kept _ _ _) h
  | imin w => exact issue_stays (intBody_kept _ _ _) h
  | imax w => exact issue_stays (intBody_kept _ _ _) h
  | iabs w => exact issue_stays (intBody_kept _ _ _) h
  | ineg w => exact issue_stays (intBody_kept _ _ _) h
  | and w => exact issue_stays (natBody_kept _ _ _) h
  | or w => exact issue_stays (natBody_kept _ _ _) h
  | xor w => exact issue_stays (natBody_kept _ _ _) h
  | not w => exact issue_stays (natBody_kept _ _ _) h
  | andn w => exact issue_stays (natBody_kept _ _ _) h
  | blut w => exact issue_stays (natBody_kept _ _ _) h
  | shl w => exact issue_stays (natBody_kept _ _ _) h
  | shr w => exact issue_stays (natBody_kept _ _ _) h
  | sar w => exact issue_stays (natBody_kept _ _ _) h
  | rot w => exact issue_stays (natBody_kept _ _ _) h
  | fshl w => exact issue_stays (natBody_kept _ _ _) h
  | fshr w => exact issue_stays (natBody_kept _ _ _) h
  | popc w => exact issue_stays (natBody_kept _ _ _) h
  | clz w => exact issue_stays (natBody_kept _ _ _) h
  | ctz w => exact issue_stays (natBody_kept _ _ _) h
  | brev w => exact issue_stays (natBody_kept _ _ _) h
  | bfx w => exact issue_stays (natBody_kept _ _ _) h
  | bfi w => exact issue_stays (natBody_kept _ _ _) h
  | bswz w => exact issue_stays (bswzBody_kept _) h
  | icmp w => exact issue_stays (icmpBody_kept _) h
  | pick w => exact issue_stays (pickBody_kept _) h
  | mov w => exact issue_stays (movBody_kept _) h
  | movl w => exact issue_stays (movlBody_kept _) h
  | lea w => exact issue_stays (leaBody_kept _) h
  | sad w => exact issue_stays (sadBody_kept _) h
  | pand w => exact issue_stays (predBody_kept _ _) h
  | por w => exact issue_stays (predBody_kept _ _) h
  | pxor w => exact issue_stays (predBody_kept _ _) h
  | pnot w => exact issue_stays (predBody_kept _ _) h
  | pset w => exact issue_stays (predBody_kept _ _) h
  | pmov w => exact issue_stays (predBody_kept _ _) h
  | fadd w => exact issue_stays (fpBody_kept _ _ _) h
  | fsub w => exact issue_stays (fpBody_kept _ _ _) h
  | fmul w => exact issue_stays (fpBody_kept _ _ _) h
  | ffma w => exact issue_stays (fpBody_kept _ _ _) h
  | fmin w => exact issue_stays (fpBody_kept _ _ _) h
  | fmax w => exact issue_stays (fpBody_kept _ _ _) h
  | fset w => exact issue_stays (fsetBody_kept _) h
  | fclass w => exact issue_stays (fclassBody_kept _) h
  | frnd w => exact issue_stays (fpBody_kept _ _ _) h
  | fexf w => exact issue_stays (funcBody_kept _ _) h
  | fxpi w => exact issue_stays (fxpiBody_kept _) h
  | fgetx w => exact issue_stays (fgetxBody_kept _) h
  | flog2 w => exact issue_stays (funcBody_kept _ _) h
  | frcp w => exact issue_stays (funcBody_kept _ _) h
  | frsq w => exact issue_stays (funcBody_kept _ _) h
  | fsqrt w => exact issue_stays (funcBody_kept _ _) h
  | fsin w => exact issue_stays (funcBody_kept _ _) h
  | fcos w => exact issue_stays (funcBody_kept _ _) h
  | ftanh w => exact issue_stays (funcBody_kept _ _) h
  | fdot2 w => exact issue_stays (dotBody_kept _ _ _ _) h
  | fdot4 w => exact issue_stays (dotBody_kept _ _ _ _) h
  | cvt w => exact issue_stays (cvtSrBody_kept _) h
  | cvti w => exact issue_stays (cvtBody_kept _ _) h
  | cvtf w => exact issue_stays (cvtBody_kept _ _) h
  | pack w => exact issue_stays (packBody_kept _) h
  | unpk w => exact issue_stays (unpkBody_kept _) h
  | mxq w => exact issue_stays (mxqBody_kept _) h
  | mxd w => exact issue_stays (mxdBody_kept _) h
  | tagset w => exact issue_stays (tagsetBody_kept _) h
  | shfl w => exact issue_stays (gather_kept _ _ (permBody_kept _ _)) h
  | shflx w => exact issue_stays (gather_kept _ _ (permBody_kept _ _)) h
  | shup w => exact issue_stays (gather_kept _ _ (permBody_kept _ _)) h
  | shdn w => exact issue_stays (gather_kept _ _ (permBody_kept _ _)) h
  | bcst w => exact issue_stays (gather_kept _ _ (bcstBody_kept _)) h
  | vote w => exact issue_stays (gather_kept _ _ (voteBody_kept _)) h
  | matchv w => exact issue_stays (gather_kept _ _ (matchBody_kept _)) h
  | redw w => exact issue_stays (gather_kept _ _ (redwBody_kept _)) h
  | scanw w => exact issue_stays (gather_kept _ _ (scanwBody_kept _)) h
  | mfs w => exact issue_stays (mfsBody_kept _) h
  | mts w => exact issue_stays (mtsBody_kept _) h
  | racq w => exact issueChecked_stays (blockMaskEarly_kept _) (racqBody_kept _) h
  | rrel w => exact issueChecked_stays (blockMaskEarly_kept _) (rrelBody_kept _) h
  | rgive w => exact issueChecked_stays (rgiveEarly_kept _) (rgiveBody_kept _) h
  | ld w => exact issue_stays (loadBody_kept _ _ _ _) h
  | st w => exact issue_stays (storeBody_kept _ _ _) h
  | lds w => exact issue_stays (loadBody_kept _ _ _ _) h
  | sts w => exact issue_stays (storeBody_kept _ _ _) h
  | ldc w => exact issue_stays (loadBody_kept _ _ _ _) h
  | pref w => exact issue_stays (prefBody_kept _) h
  | cctl w => exact issue_stays (cctlBody_kept _) h
  | fence w => exact issue_stays (fenceBody_kept _) h
  | atom w => exact issue_stays (atomBody_kept _ _ _) h
  | atoms w => exact issue_stays (atomBody_kept _ _ _) h
  | red w => exact issue_stays (atomBody_kept _ _ _) h
  | reds w => exact issue_stays (atomBody_kept _ _ _) h
  | wake w => exact issue_stays (wakeBody_kept _) h
  | waitB w => exact issue_stays (waitBBody_kept _) h
  | waitA w => exact issue_stays (waitABody_kept _) h
  | waitF w => exact issue_stays (waitFBody_kept _) h
  | waitK w => exact issue_stays (waitKBody_kept _) h
  | cpy w => exact issue_stays (copyBody_kept _ _) h
  | cpyt w => exact issue_stays (copyBody_kept _ _) h
  | cpym w => exact issue_stays (copyBody_kept _ _) h
  | cpyr w => exact issue_stays (copyBody_kept _ _) h
  | cpyg w => exact issue_stays (copyBody_kept _ _) h
  | qfence w => exact issue_stays (qfenceBody_kept _) h
  | binit w => exact issue_stays (binitBody_kept _) h
  | bqry w => exact issue_stays (bqryBody_kept _) h
  | barv w => exact issue_stays (barvBody_kept _) h
  | bexp w => exact issue_stays (bexpBody_kept _) h
  | omclaim w => exact issue_stays (gather_kept _ _ (omclaimBody_kept _)) h
  | omrel w => exact issue_stays (gather_kept _ _ (omrelBody_kept _)) h
  | omfill w => exact issue_stays (gather_kept _ _ (omfillBody_kept _)) h
  | omread w => exact issue_stays (gather_kept _ _ (omreadBody_kept _)) h
  | mma w => exact issue_stays (gather_kept _ _ (mmaBody_kept _ _)) h
  | mmas w => exact issue_stays (gather_kept _ _ (mmaBody_kept _ _)) h
  | accz w => exact issue_stays (gather_kept _ _ (regionBody_kept _ _ _ _ _)) h
  | accrd w => exact issue_stays (gather_kept _ _ (regionBody_kept _ _ _ _ _)) h
  | accwr w => exact issue_stays (gather_kept _ _ (regionSrcBody_kept _ _ _)) h
  | accst w => exact issue_stays (gather_kept _ _ (accstBody_kept _)) h
  | accsc w => exact issue_stays (gather_kept _ _ (regionSrcBody_kept _ _ _)) h
  | accred w => exact issue_stays (gather_kept _ _ (regionBody_kept _ _ _ _ _)) h
  | rcq w => exact issueChecked_stays (recordBlocks_kept _) (rcqBody_kept _) h
  | rct w => exact issueChecked_stays (recordBlocks_kept _) (rctBody_kept _) h
  | rcgen w => exact issue_stays (rcOpBody_kept _ _) h
  | rccfgLoad w => exact issue_stays (rcOpBody_kept _ _) h
  | rccfgDrop w => exact issue_stays (rcOpBody_kept _ _) h
  | rccfgPause w => exact issue_stays (rcOpBody_kept _ _) h
  | rccfgRun w => exact issue_stays (rcOpBody_kept _ _) h
  | rcstat w => exact issue_stays (rcOpBody_kept _ _) h
  | trace w => exact issue_stays (traceBody_kept _) h
  | rqinit w => exact issue_stays (rqinitBody_kept _) h
  | rqstep w => exact issue_stays (rqstepBody_kept _) h
  | hitget w => exact issue_stays (hitgetBody_kept _) h
  | hitacc w => exact issue_stays (decideBody_kept _ _) h
  | hitign w => exact issue_stays (decideBody_kept _ _) h
  | vbld w => exact issue_stays (vbldBody_kept _) h
  | tex w => exact issue_stays (texBody_kept _ _) h
  | texfb w => exact issue_stays (texBody_kept _ _) h
  | refit w => exact issue_stays (refitBody_kept _) h
  | mshemit w => exact issue_stays (mshemitBody_kept _) h
  | mshdone w => exact issue_stays (mshdoneBody_kept _) h
  | launch w => exact issue_stays (launchBody_kept _) h
  | tready w => exact issue_stays (treadyBody_kept _) h
  | drain w => exact issue_stays (drainBody_kept _) h
  | trap w => exact issue_stays (trapBody_kept _) h
  | tret w => exact issue_stays (tretBody_kept _) h
  | bkpt w => exact issue_stays (bkptBody_kept _) h
  | echk w => exact issue_stays (echkBody_kept _) h
  | iclr w => exact issue_stays (iclrBody_kept _) h
  | runSelect core quadrant => exact (stays_next _).2 (s.runSelect_canonical _ _ h)
  | windowTimeout meeting => exact (stays_next _).2 ((s.windowTimeout_canonical _).2 h)
  | fuseTimeout wave => exact (stays_next _).2 (s.fuseTimeout_canonical _ h)
  | watchdogExpiry wave => exact (stays_next _).2 ((s.watchdog_canonical _).2 h)
  | tableWalk die => exact (stays_next _).2 (s.walkNext_canonical _ h)
  | loadDataReturn id => exact (stays_next _).2 (s.loadReturn_canonical _ h)
  | storeQueueDrain wave => exact (stays_next _).2 (s.drainWave_canonical _ h)
  | homeWriteAccept id => exact (stays_next _).2 (s.acceptWrite_canonical _ h)
  | rdcInvalidation id die => exact execRdcInvalidation_stays id die h
  | invalidationAck id => exact execInvalidationAck_stays id h
  | l2Eviction line => exact (stays_next _).2 (s.l2Evict_canonical _ h)
  | detachNotice die line => exact execDetachNotice_stays die line h
  | detachedLineDrop die line => exact execDetachedLineDrop_stays die line h
  | atomicPerform id => exact (stays_next _).2 (s.atomicPerform_canonical _ h)
  | atomicResponse id => exact (stays_next _).2 (s.atomicResponse_canonical _ h)
  | waitTablePoll id => exact (stays_next _).2 (s.pollWait_canonical _ h)
  | ualinkResponse r => exact (stays_next _).2 ((s.respond_canonical _).2 h)
  | ualinkRetryTimeout id => exact (stays_next _).2 ((s.retry_canonical _).2 h)
  | peerResponseCacheExpiry peer id => exact execPeerResponseCacheExpiry_stays peer id h
  | ualinkInboundRequest r => exact (stays_next _).2 (s.inbound_canonical _ h)
  | copyChunkStart cluster engine => exact (stays_next _).2 ((s.chunkStart_canonical _ _).2 h)
  | copyChunkDone id => exact (stays_next _).2 (s.chunkDone_canonical _ h)
  | matrixOpStart core context => exact (stays_next _).2 ((s.matrixStart_canonical _ _).2 h)
  | matrixOpComplete core context => exact (stays_next _).2 (s.matrixComplete_canonical _ _ h)
  | rcqComplete id lane => exact (stays_next _).2 ((s.queryDone_canonical _ _).2 h)
  | rctSampleDrain wave => exact (stays_next _).2 (s.drainSamples_canonical _ h)
  | optimiserStep inst => exact execOptimiserStep_stays inst h
  | rcgenImageWrite inst => exact execRcgenImageWrite_stays inst h
  | rcuGenerationSwitch inst cluster => exact execRcuGenerationSwitch_stays inst cluster h
  | rayNodeVisit id => exact (stays_next _).2 (s.visitRay_canonical _ h)
  | shaderWavePlace die => exact (stays_next _).2 (s.placeShader_canonical _ h)
  | refitNodeProcess die => exact execRefitNodeProcess_stays die h
  | triangleRasterise die slot => exact (stays_next _).2 (s.rasterStep_canonical _ _ h)
  | nodeStart die => exact (stays_next _).2 (s.walkerStep_canonical _ h)
  | teamPlace die => exact (stays_next _).2 (s.placeOn_canonical _ h)
  | persistentGridPlace grid => exact (stays_next _).2 (s.placeGrid_canonical _ h)
  | swapComplete swap => exact (stays_next _).2 ((s.endSwap_canonical _).2 h)
  | spillComplete id => exact (stays_next _).2 ((s.spillNext_canonical _).2 h)
  | imageComplete id => exact (stays_next _).2 ((s.completeImage_canonical _).2 h)
  | restore id => exact (stays_next _).2 (s.restoreImage_canonical _ h)
  | patrolScrub sector upset => exact (stays_next _).2 (s.scrub_canonical _ _ h)
  | agingCheck finding => exact execAgingCheck_stays finding h
  | eventResend id => exact (stays_next _).2 ((s.resend_canonical _).2 h)
  | pcSample core => exact (stays_next _).2 (s.pcSample_canonical _ h)
  | syncRecord core => exact (stays_next _).2 (s.syncRecord_canonical _ h)
  | powerMeasurement milliwatt => exact execPowerMeasurement_stays milliwatt h
  | rdmaWrite q => exact execRdmaWrite_stays q h
  | rdmaRead q => exact execRdmaRead_stays q h
  | roceUnsupportedOp q => exact (stays_next _).2 ((s.say_canonical _).2 h)
  | otherTrafficDrop port => exact (stays_next s).2 h
  | nonce q => exact execNonce_stays q h
  | hello q => exact (stays_next _).2 ((s.hello_canonical _).2 h)
  | status q => exact execStatus_stays q h
  | readmem q => exact execReadmem_stays q h
  | attest q => exact execAttest_stays q h
  | errring q => exact execErrring_stays q h
  | claim q => exact execClaim_stays q h
  | heartbeat q => exact execHeartbeat_stays q h
  | release q => exact execRelease_stays q h
  | handover q => exact execHandover_stays q h
  | leaseExpiry => exact (stays_next _).2 ((s.lapse_canonical).2 h)
  | graphgo q => exact execGraphgo_stays q h
  | opendmw q => exact execOpendmw_stays q h
  | closedmw q => exact execClosedmw_stays q h
  | openhw q => exact execOpenhw_stays q h
  | closehw q => exact execClosehw_stays q h
  | inval q => exact execInval_stays q h
  | swap q => exact execSwap_stays q h
  | savepool q => exact execSavepool_stays q h
  | parkansResolve q => exact execParkansResolve_stays q h
  | parkansDeliver q => exact execParkansDeliver_stays q h
  | endteam q => exact execEndteam_stays q h
  | debugAttach q => exact execDebugAttach_stays q h
  | debugSetStops q => exact execDebugSetStops_stays q h
  | debugStop q => exact execDebugStop_stays q h
  | debugStep q => exact execDebugStep_stays q h
  | debugStepAll q => exact execDebugStepAll_stays q h
  | debugReplayMode q => exact execDebugReplayMode_stays q h
  | debugRollback q => exact execDebugRollback_stays q h
  | debugDiscardReplay q => exact execDebugDiscardReplay_stays q h
  | profileRead q => exact execProfileRead_stays q h
  | profileReadClear q => exact execProfileReadClear_stays q h
  | profileFlush q => exact execProfileFlush_stays q h
  | throttle q => exact execThrottle_stays q h
  | spare q => exact execSpare_stays q h
  | peermap q => exact execPeermap_stays q h
  | fwload q => exact execFwload_stays q h
  | reset q => exact execReset_stays q h
  | spill q => exact execSpill_stays q h
  | evack q => exact execEvack_stays q h
  | bringUp => exact (stays_next _).2 (s.bringUpStep_canonical h)
  | reservedOpcode word0 bit => exact execReservedOpcode_stays word0 bit h
  | instructionFetch => exact execInstructionFetch_stays h
  | hostWindowResponse r => exact (stays_next _).2 ((s.respond_canonical _).2 h)
  | hostWindowRetryTimeout id => exact (stays_next _).2 ((s.retry_canonical _).2 h)
  | edjorOtherOp q => exact execEdjorOtherOp_stays q h
  | arpNeighbourDiscovery port => exact execArpNeighbourDiscovery_stays port h
  | stepBlockedTimeout frag => exact (stays_next _).2 (s.stepTimeout_canonical _ h)
  | rccfgLoadDone inst => exact execRccfgLoadDone_stays inst h

/-- The next move is chosen after what follows of itself, and is an event or the instruction that a fragment fetches. -/
theorem step_stays {s : State} (h : Canonical s) : Stays (step s) := by
  have h1 := s.nextMove_canonical h
  unfold step
  split
  · next e => rw [e] at h1; exact exec_stays _ h1
  · next f s1 e =>
    rw [e] at h1
    have hf := s1.fetchFor_kept f h1
    split
    · next e => rw [e] at hf; exact (stays_next _).2 hf
    · next e => rw [e] at hf; exact exec_stays _ hf

/-- Settles O58: each operation of the model that writes memory or marks poison keeps the canonical form, and every other one leaves both as they are, so
each instruction body, each event and each request keeps it. -/
theorem everyStepKeepsCanonical : Obligations.EveryStepKeepsCanonical := by
  intro s t h e
  exact step_stays h t e

end Sys2Proof.Machine

/-! SUPPORT. What fetches leave of the machine: caches, lanes of PREF, walks (R80 to R86, R96, R128). -/

namespace Sys2Proof.Machine

/-! ## What a fetch leaves of the machine -/

/-- From `s` to `t` caches may have taken lines and translations, outstanding instructions may have ended, and counters and records may have changed;
no byte of memory, register, waiting miss or profiler's ring has, and no error at rest has come. -/
structure Fetches (s t : State) : Prop where
  mem   : t.mem = s.mem
  waves : t.waves = s.waves
  frags : t.frags = s.frags
  walkq : t.path.walkq = s.path.walkq
  rings : t.prof.rings = s.prof.rings
  rot   : s.rel.rot = [] → t.rel.rot = []

theorem Fetches.refl (s : State) : Fetches s s := ⟨rfl, rfl, rfl, rfl, rfl, id⟩

theorem Fetches.trans {s t u : State} (h : Fetches s t) (k : Fetches t u) : Fetches s u :=
  ⟨k.mem.trans h.mem, k.waves.trans h.waves, k.frags.trans h.frags, k.walkq.trans h.walkq, k.rings.trans h.rings, fun hr => k.rot (h.rot hr)⟩

/-- While no error is at rest and no die has a ring, many steps are like one. -/
theorem Fetches.foldl {α : Type} (f : State → α → State) (hf : ∀ s a, s.rel.rot = [] → s.prof.rings = [] → Fetches s (f s a)) (l : List α) (s : State)
    (hr : s.rel.rot = []) (hp : s.prof.rings = []) : Fetches s (l.foldl f s) := by
  induction l generalizing s with
  | nil => exact .refl s
  | cons a l ih =>
    have first := hf s a hr hp
    exact first.trans (ih (f s a) (first.rot hr) (first.rings.trans hp))

theorem State.fillTlb_fetches (s : State) (who : Agent) (asid root : Nat) (va : Word) : Fetches s (s.fillTlb who asid root va) := by
  unfold State.fillTlb
  split
  · exact .refl s
  · cases who <;> exact ⟨rfl, rfl, rfl, rfl, rfl, id⟩

theorem State.fillAccess_fetches (s : State) (who : Agent) (asid root : Nat) (va : Word) (n : Nat) (hr : s.rel.rot = []) (hp : s.prof.rings = []) :
    Fetches s (s.fillAccess who asid root va n) := Fetches.foldl _ (fun s _ _ _ => s.fillTlb_fetches ..) _ s hr hp

theorem State.l2Evict_walkq (s : State) (line : Nat) (hr : s.rel.rot = []) : (s.l2Evict line).path.walkq = s.path.walkq := by
  have none_ : s.rel.rot.contains line = false := by simp [hr]
  unfold State.l2Evict
  dsimp only
  simp only [none_, Bool.false_eq_true, if_false]
  split_ifs <;> rfl

theorem State.setL2_walkq (s : State) (line : Nat) (l : L2Line) (hr : s.rel.rot = []) : (s.setL2 line l).path.walkq = s.path.walkq := by
  unfold State.setL2
  dsimp only
  split_ifs
  · rfl
  · exact State.l2Evict_walkq _ _ hr

theorem State.setL2_fetches (s : State) (line : Nat) (l : L2Line) (hr : s.rel.rot = []) : Fetches s (s.setL2 line l) :=
  have kept := s.setL2_homeOnly line l (.inr hr)
  ⟨(s.setL2_data line l hr).1, kept.waves, kept.frags, s.setL2_walkq line l hr, congrArg Prof.rings kept.prof, kept.rot⟩

theorem State.homeRead_fetches (s : State) (sec : Nat) (uc : Bool) (hr : s.rel.rot = []) : Fetches s (s.homeRead sec uc) := by
  unfold State.homeRead
  dsimp only
  rw [s.findErrors_of_sound _ hr]
  split_ifs
  · exact .refl s
  · exact .refl s
  · exact s.setL2_fetches _ _ hr

theorem State.rdcFill_fetches (s : State) (die sec : Nat) (v : Sector) (hr : s.rel.rot = []) : Fetches s (s.rdcFill die sec v) := by
  unfold State.rdcFill State.addSharer
  refine .trans ?_ (State.setL2_fetches _ _ _ hr)
  exact ⟨rfl, rfl, rfl, rfl, rfl, id⟩

/-- A sector that is read comes from a cache or from its home. -/
theorem State.readSector_fetches (s : State) (core sec mt : Nat) (acq : Bool) (scope : Nat) (noL1 : Bool) (v : Sector) (t : State) (hr : s.rel.rot = [])
    (h : s.readSector core sec mt acq scope noL1 = some (v, t)) : Fetches s t := by
  have home := s.homeRead_fetches sec
  have filled (u : State) (b : Bool) (y : Sector) : Fetches u (if b = true then u.l1Fill core sec y else u) := by
    cases b <;> exact ⟨rfl, rfl, rfl, rfl, rfl, id⟩
  unfold State.readSector at h
  dsimp only at h
  split at h
  · cases h
    exact .refl s
  · split at h
    · cases h
    · split at h
      · split at h
        · cases h
        · cases h
          exact (home _ hr).trans (filled ..)
      · split at h
        · cases h
          exact filled ..
        · split at h
          · cases h
          · cases h
            have read := home false hr
            exact (read.trans (State.rdcFill_fetches _ _ _ _ (read.rot hr))).trans (filled ..)

/-- While no die has a ring, a sample is counted at most (R431). -/
theorem State.sampleSector_fetches (s : State) (core grid : Nat) (pc : Word) (kind sec : Nat) (poison rdc : Bool) (hp : s.prof.rings = []) :
    Fetches s (s.sampleSector core grid pc kind sec poison rdc) := by
  unfold State.sampleSector
  split
  · exact .refl s
  · dsimp only
    split
    · exact ⟨rfl, rfl, rfl, rfl, rfl, id⟩
    · rw [State.profile_of_no_ring (h := by rw [hp]; rfl)]
      exact ⟨rfl, rfl, rfl, rfl, rfl, id⟩

/-! ## Lanes of PREF (R128) -/

/-- What a lane of PREF ends in has come from `s` by fetches alone. -/
def PrefEnd.Fetched (s : State) : PrefEnd → Prop
  | .dropped => True
  | .present t => Fetches s t
  | .waits t _ => Fetches s t

/-- The fetch of one sector of a PREF's line, or its sector among those that wait. -/
def prefSector (core grid : Nat) (pc : Word) (mt : Nat) (rdc : Bool) (q : State × List Nat) (sec : Nat) : State × List Nat :=
  match q.1.readSector core sec mt false 0 false with
  | some (v, s2) => (s2.sampleSector core grid pc 4 sec v.poison rdc, q.2)
  | none => (q.1, q.2 ++ [sec])

theorem prefSector_fetches (core grid : Nat) (pc : Word) (mt : Nat) (rdc : Bool) (q : State × List Nat) (sec : Nat) (hr : q.1.rel.rot = [])
    (hp : q.1.prof.rings = []) : Fetches q.1 (prefSector core grid pc mt rdc q sec).1 := by
  unfold prefSector
  split
  next v s2 hread =>
    have read := q.1.readSector_fetches _ _ _ _ _ _ v s2 hr hread
    exact read.trans (s2.sampleSector_fetches _ _ _ _ _ _ _ (read.rings.trans hp))
  next => exact .refl _

theorem prefSectors_fetches (core grid : Nat) (pc : Word) (mt : Nat) (rdc : Bool) (secs : List Nat) (q : State × List Nat) (hr : q.1.rel.rot = [])
    (hp : q.1.prof.rings = []) : Fetches q.1 (secs.foldl (prefSector core grid pc mt rdc) q).1 := by
  induction secs generalizing q with
  | nil => exact .refl _
  | cons sec secs ih =>
    have first := prefSector_fetches core grid pc mt rdc q sec hr hp
    exact first.trans (ih _ (first.rot hr) (first.rings.trans hp))

theorem State.prefLane_fetched (s : State) (T : Team) (W : Wave) (pc : Word) (level : Nat) (va : Word) (hr : s.rel.rot = []) (hp : s.prof.rings = []) :
    (s.prefLane T W pc level va).Fetched s := by
  unfold State.prefLane
  split
  next p _ =>
    have filled := s.fillAccess_fetches (.core W.core) T.asid T.table va 1 hr hp
    dsimp only
    split_ifs
    · trivial
    · exact filled
    · trivial
    all_goals exact filled.trans (prefSectors_fetches _ _ _ _ _ _ (_, []) (filled.rot hr) (filled.rings.trans hp))
  next => trivial

theorem State.completeLanes_fetches (s : State) (id : Nat) (lanes : Mask) : Fetches s (s.completeLanes id lanes) := by
  unfold State.completeLanes
  split
  · exact .refl s
  · dsimp only
    split <;> exact ⟨rfl, rfl, rfl, rfl, rfl, fun hr => hr⟩

/-- A lane's end completes it, or has it wait. -/
theorem State.prefEnd_fetches (s : State) (id core lane : Nat) (va : Word) (e : PrefEnd) (h : e.Fetched s) : Fetches s (s.prefEnd id core lane va e) := by
  cases e with
  | dropped =>
    have counted : Fetches s (s.count ctrPREFDROP core 1) := ⟨rfl, rfl, rfl, rfl, rfl, fun hr => hr⟩
    exact counted.trans (State.completeLanes_fetches _ id _)
  | present t => exact Fetches.trans h (t.completeLanes_fetches id _)
  | waits t secs => exact ⟨h.mem, h.waves, h.frags, h.walkq, h.rings, h.rot⟩

theorem State.prefStep_fetches (s : State) (id level lane : Nat) (va : Word) (hr : s.rel.rot = []) (hp : s.prof.rings = []) :
    Fetches s (s.prefStep id level lane va) := by
  unfold State.prefStep
  split
  · exact .refl s
  · split
    · exact .refl s
    · split
      · exact .refl s
      · exact s.prefEnd_fetches _ _ _ _ _ (s.prefLane_fetched _ _ _ _ _ hr hp)

/-! ## TABLE_WALK (R80 to R86) -/

theorem State.logWalks_fetches (s : State) (T : Team) (W : Wave) (F : Frag) (op : Word) (mask : Mask) (walks : List (Nat × Nat))
    (hr : s.rel.rot = []) (hp : s.prof.rings = []) : Fetches s (s.logWalks T W F op mask walks) :=
  Fetches.foldl _ (fun s e hr _ => by
    rw [State.foundEntry, s.findErrors_of_sound _ hr]
    exact ⟨rfl, rfl, rfl, rfl, rfl, id⟩) walks s hr hp

theorem State.logPrefWalk_fetches (s : State) (qs : List WalkRequest) (x : XFault) (hr : s.rel.rot = []) (hp : s.prof.rings = []) :
    Fetches s (s.logPrefWalk qs x) := by
  unfold State.logPrefWalk
  split
  · split
    · exact s.logWalks_fetches _ _ _ _ _ _ hr hp
    · exact .refl s
  · exact .refl s

/-- The state in which a die's walker has taken the misses of a page from the queue. -/
def State.walkTaken (s : State) (die : Nat) (r : WalkRequest) : State :=
  { s with path := { s.path with walkq := s.path.walkq.filter (fun q => !(q.die == die && q.same r.asid r.va)) } }

theorem State.mem_walkTaken (s : State) (die : Nat) (r q : WalkRequest) :
    q ∈ (s.walkTaken die r).path.walkq ↔ q ∈ s.path.walkq ∧ ¬(q.die = die ∧ q.asid = r.asid ∧ vaPage q.va = vaPage r.va) := by
  refine List.mem_filter.trans (and_congr_right fun _ => ?_)
  simp [WalkRequest.same, -not_and, not_and_or]

/-- Beyond the misses that a walk takes, its work are fetches. -/
theorem State.walkNext_fetches (s : State) (die : Nat) (r : WalkRequest) (hq : s.path.walkq.find? (fun q => q.die == die) = some r)
    (hr : s.rel.rot = []) (hp : s.prof.rings = []) : Fetches (s.walkTaken die r) (s.walkNext die) := by
  have steps (t : State) (h : Fetches (s.walkTaken die r) t) (qs : List WalkRequest) :
      Fetches (s.walkTaken die r) (qs.foldl (fun (s : State) q => s.prefStep (q.pend.getD 0) q.level q.lane q.va) t) :=
    h.trans (Fetches.foldl _ (fun s q hr hp => s.prefStep_fetches _ _ _ _ hr hp) qs t (h.rot hr) (h.rings.trans hp))
  unfold State.walkNext
  rw [hq]
  refine steps _ ?_ _
  split
  · exact Fetches.foldl _ (fun s q _ _ => s.fillTlb_fetches ..) _ _ hr hp
  · split
    · exact State.logPrefWalk_fetches _ _ _ hr hp
    · exact .refl _

end Sys2Proof.Machine

/-! SUPPORT. Cache, walk and wait-table events (R86, R96, R98 to R100, R327). -/

namespace Sys2Proof.Machine

open Claims

/-! ## Lines and copies (R96, R98 to R100) -/

/-- Without an error at rest a line that leaves the L2 leaves it empty, and sends its sharers notices. -/
theorem State.l2Evict_path (s : State) (line : Nat) (hr : s.rel.rot = []) :
    (s.l2Evict line).path.l2 = Tbl.set ⟨[], [], []⟩ s.path.l2 line ⟨[], [], []⟩ ∧
      (s.l2Evict line).path.detach = s.path.detach ++ (s.l2Line line).sharers.map (fun d => (d, line)) := by
  have none_ : s.rel.rot.contains line = false := by simp [hr]
  unfold State.l2Evict
  dsimp only
  simp only [none_, Bool.false_eq_true, if_false]
  split_ifs <;> exact ⟨rfl, rfl⟩

theorem execDetachNotice_sent (s : State) (d line : Nat) (h : (d, line) ∈ s.path.detach) :
    ∃ t, exec (.detachNotice d line) s = .next t ∧ t.mem = s.mem ∧ t.waves = s.waves ∧ t.path.detach = s.path.detach.erase (d, line) ∧
      t.rdcLine d line = (s.rdcLine d line).map (fun l => { l with detached := some s.ticks }) := by
  show ∃ t, execDetachNotice d line s = .next t ∧ _
  unfold execDetachNotice
  rw [if_pos (List.contains_iff_mem.2 h)]
  have here : State.rdcLine { s with path := { s.path with detach := s.path.detach.erase (d, line) } } d line = s.rdcLine d line := rfl
  dsimp only
  rw [here]
  cases hl : s.rdcLine d line with
  | none => exact ⟨_, rfl, rfl, rfl, rfl, here.trans hl⟩
  | some l =>
    refine ⟨_, rfl, rfl, rfl, rfl, ?_⟩
    unfold State.rdcLine State.setRdc
    rw [Tbl.get_set_same, Tbl.find_put_same]
    rfl

theorem State.rdcDrop_rdcLine (s : State) (d line : Nat) : (s.rdcDrop d line).rdcLine d line = none := by
  unfold State.rdcLine State.rdcDrop State.setRdc
  rw [Tbl.get_set_same, Tbl.find_drop_same]

theorem execDetachedLineDrop_detached (s : State) (d line : Nat) (l : RdcLine) (hl : s.rdcLine d line = some l) (hd : l.detached.isSome = true) :
    exec (.detachedLineDrop d line) s = .next (s.rdcDrop d line) := by
  show execDetachedLineDrop d line s = _
  simp [execDetachedLineDrop, hl, hd]

theorem execDetachedLineDrop_attached (s : State) (d line : Nat) (h : ∀ l, s.rdcLine d line = some l → l.detached = none) :
    exec (.detachedLineDrop d line) s = .next s := by
  show execDetachedLineDrop d line s = _
  unfold execDetachedLineDrop
  split
  next l hl => simp [h l hl]
  next => rfl

/-! ## WAIT_TABLE_POLL (R327) -/

section poll

variable {s : State} {id : Nat} {w : Waiter} (hw : Tbl.find s.path.waits id = some w) (hl : w.listed = false) (hd : w.done = false)
  (hh : s.homeHolds (w.pa / 128) = false)
include hw

theorem State.pollWait_undue (h : ¬1024 ≤ s.clocksSince w.since) : s.pollWait id = s := by
  unfold State.pollWait
  rw [hw]
  exact if_pos (by simp [Nat.not_le.1 h])

include hl hd hh

/-- A poll that is due, of a word that reads as no poison, finds it changed, takes an entry, or has to poll again. -/
theorem State.pollWait_due (hr : s.rel.rot = []) (hp : s.memPoisoned w.pa 4 = false) (h : 1024 ≤ s.clocksSince w.since) :
    s.pollWait id =
      if s.memNat w.pa (if w.wide then 8 else 4) != w.value.toNat then
        { s with path := { s.path with waits := Tbl.put s.path.waits id { w with done := true } } }
      else if s.tableRoom w.die then
        { s with path := { s.path with waits := Tbl.put (Tbl.drop s.path.waits id) s.nextId { w with listed := true, since := s.ticks } }, nextId := s.nextId + 1 }
      else { s with path := { s.path with waits := Tbl.put s.path.waits id { w with since := s.ticks } } } := by
  have goes : ¬(w.listed || w.done || decide (s.clocksSince w.since < 1024) || s.homeHolds (w.pa / 128)) = true := by simp [hl, hd, hh, h]
  unfold State.pollWait
  rw [hw]
  dsimp only
  rw [if_neg goes, State.findIn, s.findErrors_of_sound _ hr, if_neg (by simp [hp])]

end poll

/-- Caches, translations and table polls. -/
theorem cachesMove : Claims.cachesMove := by
  refine ⟨fun s line hr => ?_, execDetachNotice_sent, fun s d line h => ?_, fun s d line => ⟨?_, execDetachedLineDrop_attached s d line⟩,
    fun s d r hq hp hr => ?_, fun s id w hw hl hd hr hpo hh => ⟨fun hne => ?_, fun heq hroom => ?_⟩⟩
  · have kept := s.l2Evict_homeOnly line (.inr hr)
    obtain ⟨hmem, hpoison⟩ := s.l2Evict_data line hr
    obtain ⟨hl2, hdetach⟩ := s.l2Evict_path line hr
    refine ⟨s.l2Evict line, rfl, hmem, hpoison, kept.waves, kept.frags, ?_, hdetach, fun l hne => ?_⟩
    · rw [State.l2Line, hl2]
      exact Tbl.get_set_same ..
    · rw [State.l2Line, hl2]
      exact Tbl.get_set_ne _ _ _ _ _ hne
  · exact if_neg (by simpa using h)
  · rintro ⟨l, hl, hdet⟩
    exact ⟨_, execDetachedLineDrop_detached s d line l hl hdet, s.rdcDrop_rdcLine d line, rfl, rfl⟩
  · have kept := s.walkNext_fetches d r hq hr hp
    exact ⟨s.walkNext d, rfl, fun q => by rw [kept.walkq]; exact s.mem_walkTaken d r q, kept.mem, kept.waves, kept.frags⟩
  · refine ⟨s.pollWait id, rfl, ?_⟩
    by_cases hdue : 1024 ≤ s.clocksSince w.since
    · rw [State.pollWait_due hw hl hd hh hr hpo hdue, if_pos (by simpa using hne)]
      exact .inl ⟨hdue, Tbl.find_put_same .., rfl, rfl⟩
    · exact .inr ⟨hdue, State.pollWait_undue hw hdue⟩
  · refine ⟨s.pollWait id, rfl, ?_⟩
    by_cases hdue : 1024 ≤ s.clocksSince w.since
    · rw [State.pollWait_due hw hl hd hh hr hpo hdue, if_neg (by simpa using heq), if_pos hroom]
      exact .inl ⟨hdue, rfl, rfl, s.nextId, Tbl.find_put_same ..⟩
    · exact .inr ⟨hdue, State.pollWait_undue hw hdue⟩

end Sys2Proof.Machine

/-! SUPPORT. Writes whose later cells win, and requests of peers (R440). -/

namespace Sys2Proof.Machine

open Claims

/-! ## Writes whose later cells win -/

/-- What cells store at a byte that was `old`: the last cell that names the byte wins. -/
def lastAt (cells : List (Nat × Byte)) (b : Nat) (old : Byte) : Byte := ((cells.reverse.find? (fun c => c.1 == b)).map Prod.snd).getD old

theorem lastAt_cons (c : Nat × Byte) (cells : List (Nat × Byte)) (b : Nat) (old : Byte) :
    lastAt (c :: cells) b old = lastAt cells b (if b = c.1 then c.2 else old) := by
  unfold lastAt
  rw [List.reverse_cons, List.find?_append]
  cases cells.reverse.find? (fun c => c.1 == b) with
  | some d => rfl
  | none =>
    by_cases h : c.1 = b
    · simp [h]
    · simp [h, Ne.symm h]

theorem get_writeCells (m : Tbl Byte) (cells : List (Nat × Byte)) (b : Nat) : Tbl.get 0 (writeCells m cells) b = lastAt cells b (Tbl.get 0 m b) := by
  induction cells generalizing m with
  | nil => rfl
  | cons c cells ih =>
    rw [lastAt_cons, ← Tbl.get_set]
    exact ih _

/-- A byte that no cell names keeps its value. -/
theorem lastAt_of_unnamed (cells : List (Nat × Byte)) (b : Nat) (old : Byte) (h : ∀ c ∈ cells, c.1 ≠ b) : lastAt cells b old = old := by
  rw [lastAt, List.find?_eq_none.2 fun c hc => by simpa using h c (List.mem_reverse.1 hc)]
  rfl

/-- A byte is stored by the cells of its line. -/
theorem lastAt_line (cells : List (Nat × Byte)) (line b : Nat) (old : Byte) :
    lastAt (cells.filter (fun c => c.1 / 128 == line)) b old = if b / 128 = line then lastAt cells b old else old := by
  split_ifs with h
  · unfold lastAt
    rw [← List.filter_reverse, List.find?_filter]
    congr 3
    funext c
    by_cases hc : c.1 = b <;> simp [hc, h]
  · refine lastAt_of_unnamed _ _ _ fun c hc hcb => h ?_
    rw [← hcb]
    exact beq_iff_eq.1 (List.mem_filter.1 hc).2

theorem lastAt_lastAt (cells : List (Nat × Byte)) (b : Nat) (old : Byte) : lastAt cells b (lastAt cells b old) = lastAt cells b old := by
  unfold lastAt
  cases cells.reverse.find? (fun c => c.1 == b) <;> rfl

/-- Writes of the parts of some cells, a line at a time: on those lines the last cell of a byte wins. -/
theorem lineWrites_last (cells : List (Nat × Byte)) (f : List Nat × State → Nat → List Nat × State)
    (hf : ∀ st line, st.2.path.waits = [] → st.2.rel.rot = [] →
      HomeOnly st.2 (f st line).2 ∧ (f st line).2.mem = writeCells st.2.mem (cells.filter (fun c => c.1 / 128 == line)))
    (lines : List Nat) (st : List Nat × State) (hw : st.2.path.waits = []) (hr : st.2.rel.rot = []) :
    HomeOnly st.2 (lines.foldl f st).2 ∧
      ∀ b, (lines.foldl f st).2.byte b = if b / 128 ∈ lines then lastAt cells b (st.2.byte b) else st.2.byte b := by
  induction lines generalizing st with
  | nil => exact ⟨.refl _, fun b => by simp⟩
  | cons line lines ih =>
    obtain ⟨hkept, hmem⟩ := hf st line hw hr
    obtain ⟨hkept', hbyte⟩ := ih (f st line) (hkept.waits.trans hw) (hkept.rot hr)
    refine ⟨hkept.trans hkept', fun b => ?_⟩
    have first : (f st line).2.byte b = if b / 128 = line then lastAt cells b (st.2.byte b) else st.2.byte b := by
      rw [State.byte, hmem, get_writeCells, lastAt_line, State.byte]
    rw [List.foldl_cons, hbyte b, first]
    by_cases hl : b / 128 = line <;> by_cases hls : b / 128 ∈ lines <;> simp [hl, hls, lastAt_lastAt]

/-- A write from outside, while no fragment waits on an address and no error is at rest: the last cell of a byte wins. -/
theorem State.outsideWrite_last (s : State) (cells : List (Nat × Byte)) (bad : List Nat) (hw : s.path.waits = []) (hr : s.rel.rot = []) :
    HomeOnly s (s.outsideWrite cells bad).2 ∧ ∀ b, (s.outsideWrite cells bad).2.byte b = lastAt cells b (s.byte b) := by
  unfold State.outsideWrite
  have lined (b : Nat) : (if b / 128 ∈ (cells.map (fun c => c.1 / 128)).dedup then lastAt cells b (s.byte b) else s.byte b) = lastAt cells b (s.byte b) := by
    split_ifs with h
    · rfl
    · refine (lastAt_of_unnamed _ _ _ fun c hc hcb => h ?_).symm
      exact List.mem_dedup.2 (List.mem_map.2 ⟨c, hc, by rw [hcb]⟩)
  refine And.imp_right (fun hbyte b => (hbyte b).trans (lined b)) (lineWrites_last cells _ ?_ _ ([], s) hw hr)
  intro st line hw hr
  refine And.imp_left (HomeOnly.trans ?_) (State.lineWrite_of_sound _ _ _ _ _ _ (by exact hw) (by exact hr))
  exact ⟨rfl, rfl, rfl, rfl, rfl, rfl, id⟩

/-- Cells moved to an address. -/
theorem lastAt_moved (a : Nat) (cells : List (Nat × Byte)) (b : Nat) (old : Byte) :
    lastAt (cells.map (fun c => (a + c.1, c.2))) b old = ((cells.reverse.find? (fun c => a + c.1 == b)).map Prod.snd).getD old := by
  unfold lastAt
  rw [← List.map_reverse, List.find?_map, Option.map_map]
  rfl

/-- Bytes that are written are read back. -/
theorem readBytes_writeBytes (m : Tbl Byte) (a : Nat) (bs : List Byte) : readBytes (writeBytes m a bs) a bs.length = bs := by
  refine List.ext_getElem (by simp [readBytes]) fun i _ hi => ?_
  simp only [readBytes, List.getElem_map, List.getElem_range]
  exact get_writeBytes_in m a bs i hi

theorem natBytes_length (n v : Nat) : (natBytes n v).length = n := by
  induction n generalizing v with
  | zero => rfl
  | succ n ih => exact congrArg (· + 1) (ih _)

theorem readBytes_writeNat (m : Tbl Byte) (a n v : Nat) : readBytes (writeNat m a n v) a n = natBytes n v := by
  have back := readBytes_writeBytes m a (natBytes n v)
  rwa [natBytes_length] at back

/-! ## Requests of peers (R440) -/

section inbound

variable (s : State) (r : PeerRequest)

theorem execUalinkInboundRequest_stale (h : s.ready = false ∨ (r.retry = true ∧ r.epoch ≠ s.links.epoch)) :
    exec (.ualinkInboundRequest r) s = .next (s.say (.peer r.peer r.id s.links.epoch none)) :=
  congrArg Host.Outcome.next (if_pos (by rcases h with h | ⟨h, h'⟩ <;> simp [*]))

variable (hon : s.ready = true) (hep : r.retry = true → r.epoch = s.links.epoch)
include hon hep

/-- The device takes the request. -/
theorem State.inbound_taken : ¬(!s.ready || (r.retry && r.epoch != s.links.epoch)) = true := by
  cases hretry : r.retry <;> simp [hon, hretry, hep]

theorem execUalinkInboundRequest_kept (c : CachedResponse) (hc : s.path.cached.find? (fun c => c.peer == r.peer && c.id == r.id) = some c) :
    exec (.ualinkInboundRequest r) s = .next (s.say (.peer r.peer r.id s.links.epoch (some (c.data, c.poison)))) := by
  refine congrArg Host.Outcome.next ((if_neg (s.inbound_taken r hon hep)).trans ?_)
  rw [hc]

variable (hnew : s.path.cached.find? (fun c => c.peer == r.peer && c.id == r.id) = none) (hdue : s.mgmt.due = []) (hr : s.rel.rot = [])

/-- The state in which the request is due. -/
def State.peerDue : State := { s with mgmt := { s.mgmt with due := [.peer r false [] [] false] } }

include hnew hdue

/-- A request that has no kept response, while none is due, is served at once as far as it can be. -/
theorem execUalinkInboundRequest_new : ∃ t, exec (.ualinkInboundRequest r) s = .next t ∧
    t = { ((s.peerDue r).serveDue [] (.peer r false [] [] false)).2 with mgmt :=
      { ((s.peerDue r).serveDue [] (.peer r false [] [] false)).2.mgmt with due := ((s.peerDue r).serveDue [] (.peer r false [] [] false)).1.toList } } := by
  refine ⟨_, rfl, (if_neg (s.inbound_taken r hon hep)).trans ?_⟩
  rw [hnew]
  simp only [hdue, List.any_nil, Bool.false_eq_true, if_false]
  exact s.owe_of_idle _ hdue

include hr

theorem execUalinkInboundRequest_read (n : Nat) (hop : r.op = .read n) (hfree : s.heldRange (r.pa % 2 ^ 38) n = false) :
    ∃ t, exec (.ualinkInboundRequest r) s = .next t ∧ t.mem = s.mem ∧ t.waves = s.waves ∧ t.frags = s.frags ∧
      t.mgmt.out = .peer r.peer r.id s.links.epoch (some (readBytes s.mem (r.pa % 2 ^ 38) n, s.memPoisoned (r.pa % 2 ^ 38) n)) :: s.mgmt.out := by
  obtain ⟨t, hexec, rfl⟩ := execUalinkInboundRequest_new s r hon hep hnew hdue
  obtain ⟨hkept, hmem, hpoison⟩ := (s.peerDue r).outsideRead_of_sound (r.pa % 2 ^ 38) n hr
  have poisoned : ((s.peerDue r).outsideRead (r.pa % 2 ^ 38) n).memPoisoned (r.pa % 2 ^ 38) n = s.memPoisoned (r.pa % 2 ^ 38) n := by
    rw [State.memPoisoned_of_sound _ _ _ (hkept.rot hr), State.memPoisoned_of_sound _ _ _ hr, hpoison]
    rfl
  have free_ : (s.peerDue r).heldRange (r.pa % 2 ^ 38) n = false := hfree
  have out : ((s.peerDue r).outsideRead (r.pa % 2 ^ 38) n).mgmt.out = s.mgmt.out := by rw [hkept.mgmt]; rfl
  have served : (s.peerDue r).serveDue [] (.peer r false [] [] false) = (none, ((s.peerDue r).outsideRead (r.pa % 2 ^ 38) n).say
      (.peer r.peer r.id s.links.epoch (some (readBytes s.mem (r.pa % 2 ^ 38) n, s.memPoisoned (r.pa % 2 ^ 38) n)))) := by
    simp only [State.serveDue, hop, free_, poisoned, hmem]
    rfl
  refine ⟨_, hexec, ?_⟩
  rw [served]
  exact ⟨hmem, hkept.waves, hkept.frags, congrArg (List.cons _) out⟩

variable (hgood : r.poison = false) (hw : s.path.waits = [])
include hgood hw

theorem execUalinkInboundRequest_write (cells : List (Nat × Byte)) (hop : r.op = .write cells) :
    ∃ t, exec (.ualinkInboundRequest r) s = .next t ∧ t.waves = s.waves ∧ t.frags = s.frags ∧
      ∀ b, t.byte b = ((cells.reverse.find? (fun c => r.pa % 2 ^ 38 + c.1 == b)).map Prod.snd).getD (s.byte b) := by
  obtain ⟨t, hexec, rfl⟩ := execUalinkInboundRequest_new s r hon hep hnew hdue
  obtain ⟨hkept, hbyte⟩ := (s.peerDue r).outsideWrite_last (cells.map (fun c => (r.pa % 2 ^ 38 + c.1, c.2))) [] hw hr
  have served : (s.peerDue r).serveDue [] (.peer r false [] [] false) =
      (some (.peer r true ((s.peerDue r).outsideWrite (cells.map (fun c => (r.pa % 2 ^ 38 + c.1, c.2))) []).1 [] false),
        ((s.peerDue r).outsideWrite (cells.map (fun c => (r.pa % 2 ^ 38 + c.1, c.2))) []).2) := by
    simp only [State.serveDue, hop, hgood]
    rfl
  refine ⟨_, hexec, ?_⟩
  rw [served]
  exact ⟨hkept.waves, hkept.frags, fun b => (hbyte b).trans (lastAt_moved ..)⟩

theorem execUalinkInboundRequest_atomic (o f : BitVec 4) (sg ftz ret : Bool) (x y : Word) (n : Nat) (hop : r.op = .atomic o f sg ftz ret x y n)
    (hfree : s.heldRange (r.pa % 2 ^ 38) n = false) (hp : s.memPoisoned (r.pa % 2 ^ 38) n = false) :
    ∃ t, exec (.ualinkInboundRequest r) s = .next t ∧ t.waves = s.waves ∧ t.frags = s.frags ∧
      ∀ b, t.byte b = if r.pa % 2 ^ 38 ≤ b then
        ((natBytes n (atomOp o.toNat f.toNat sg ftz (s.memNat (r.pa % 2 ^ 38) n) x.toNat y.toNat))[b - r.pa % 2 ^ 38]?).getD (s.byte b) else s.byte b := by
  obtain ⟨t, hexec, rfl⟩ := execUalinkInboundRequest_new s r hon hep hnew hdue
  obtain ⟨hkept, hbyte⟩ := (s.peerDue r).outsideWrite_of_sound (r.pa % 2 ^ 38)
    (natBytes n (atomOp o.toNat f.toNat sg ftz (s.memNat (r.pa % 2 ^ 38) n) x.toNat y.toNat)) hw hr
  have free_ : (s.peerDue r).heldRange (r.pa % 2 ^ 38) n = false := hfree
  have clean : (s.peerDue r).memPoisoned (r.pa % 2 ^ 38) n = false := hp
  have sound : (s.peerDue r).findIn (r.pa % 2 ^ 38) n = s.peerDue r := State.findErrors_of_sound _ _ hr
  have served : ∃ d, (s.peerDue r).serveDue [] (.peer r false [] [] false) = (d, ((s.peerDue r).outsideWrite (cellsAt (r.pa % 2 ^ 38)
      (natBytes n (atomOp o.toNat f.toNat sg ftz (s.memNat (r.pa % 2 ^ 38) n) x.toNat y.toNat))) []).2) := by
    simp only [State.serveDue, hop, free_, sound, clean, hgood, outsideStep, readBytes_writeNat, Bool.false_eq_true, if_false]
    exact ⟨_, rfl⟩
  obtain ⟨d, served⟩ := served
  refine ⟨_, hexec, ?_⟩
  rw [served]
  exact ⟨hkept.waves, hkept.frags, hbyte⟩

end inbound
end Sys2Proof.Machine

/-! SUPPORT. The ends of remote requests (R324, R325). -/

namespace Sys2Proof.Machine

open Claims

/-! ## Requests to peers and host windows (R324, R325) -/

/-- From `s` to `t` remote requests may have been sent, under identities that were not in use. -/
structure SendsRemote (s t : State) : Prop where
  mem    : t.mem = s.mem
  waves  : t.waves = s.waves
  rel    : t.rel = s.rel
  writes : t.path.writes = s.path.writes
  next   : s.nextId ≤ t.nextId
  older  : ∀ id, id < s.nextId → Tbl.find t.path.remote id = Tbl.find s.path.remote id

theorem SendsRemote.refl (s : State) : SendsRemote s s := ⟨rfl, rfl, rfl, rfl, Nat.le_refl _, fun _ _ => rfl⟩

theorem SendsRemote.trans {s t u : State} (h : SendsRemote s t) (k : SendsRemote t u) : SendsRemote s u :=
  ⟨k.mem.trans h.mem, k.waves.trans h.waves, k.rel.trans h.rel, k.writes.trans h.writes, h.next.trans k.next,
    fun id hid => (k.older id (Nat.lt_of_lt_of_le hid h.next)).trans (h.older id hid)⟩

theorem State.sendRemote_sends (s : State) (pend write : Option Nat) (lane : Nat) (va : Word) (region : Region) (addr : Nat) (op : PeerOp) (poison : Bool) :
    SendsRemote s (s.sendRemote pend write lane va region addr op poison) :=
  ⟨rfl, rfl, rfl, rfl, Nat.le_succ _, fun _ hid => Tbl.find_put_ne _ _ _ _ (Nat.ne_of_lt hid)⟩

theorem SendsRemote.foldl {α : Type} (f : State → α → State) (hf : ∀ s a, SendsRemote s (f s a)) (l : List α) (s : State) : SendsRemote s (l.foldl f s) := by
  induction l generalizing s with
  | nil => exact .refl s
  | cons a l ih => exact (hf s a).trans (ih _)

theorem State.sendFront_sends (s : State) : SendsRemote s s.sendFront := by
  refine SendsRemote.foldl _ (fun s e => ?_) _ s
  split
  · split
    · exact .refl s
    · exact s.sendRemote_sends ..
  · exact .refl s

/-- The state in which a request's end is noted. -/
def State.remoteEnded (s : State) (id : Nat) (q : RemoteReq) (e : RemoteEnd) : State :=
  { s with path := { s.path with remote := Tbl.put s.path.remote id { q with result := some e } } }

section ended

variable {s : State} {id : Nat} {q : RemoteReq}

/-- What noting an end leaves: the record of a failure apart, all as it was. -/
structure Ended (s : State) (id : Nat) (q : RemoteReq) (e : RemoteEnd) (t : State) : Prop where
  mem   : t.mem = s.mem
  waves : t.waves = s.waves
  path  : t.path = (s.remoteEnded id q e).path
  next  : t.nextId = s.nextId

variable (hq : Tbl.find s.path.remote id = some q) (hopen : q.result = none)
include hq hopen

theorem State.endRemote_ok (data : List Byte) (poison : Bool) : s.endRemote id (.ok data poison) = s.remoteEnded id q (.ok data poison) := by
  unfold State.endRemote
  rw [hq]
  simp [hopen, State.remoteEnded]

theorem State.endRemote_ended (e : RemoteEnd) : Ended s id q e (s.endRemote id e) := by
  unfold State.endRemote
  rw [hq]
  dsimp only
  rw [if_neg (by simp [hopen])]
  split_ifs
  · exact ⟨rfl, rfl, rfl, rfl⟩
  · cases (q.pend.bind (fun k => Tbl.find s.pend k)).bind (fun p => (s.ownerOf p.wave q.lane).map (fun o => (p, o))) <;> exact ⟨rfl, rfl, rfl, rfl⟩

end ended

section stored

variable {s : State} {id : Nat} {q : RemoteReq} (hq : Tbl.find s.path.remote id = some q)
include hq

/-- An ended request that is no write is kept for its reader. -/
theorem State.remoteStored_kept (h : q.pend.isSome = true ∨ q.write = none) : s.remoteStored id = s := by
  unfold State.remoteStored
  rw [hq]
  dsimp only
  split
  next hp hw _ => simp [hp, hw] at h
  next => rfl

variable (hp : q.pend = none) {k : Nat} (hk : q.write = some k) {e : RemoteEnd} (he : q.result = some e)
include hp hk he

/-- An ended write of a unit is kept for the unit. -/
theorem State.remoteStored_unit (j : Nat) (hsrc : (Tbl.find s.path.writes k).map WriteRec.source = some (.op j)) : s.remoteStored id = s := by
  unfold State.remoteStored
  rw [hq]
  simp only [hp, hk, he, hsrc]

theorem State.remoteStored_done (hsrc : ∀ j, (Tbl.find s.path.writes k).map WriteRec.source ≠ some (.op j)) (data : List Byte) (poison : Bool)
    (hok : e = .ok data poison) : s.remoteStored id = s.awayDone id q := by
  subst hok
  unfold State.remoteStored
  rw [hq]
  simp only [hp, hk, he]

theorem State.remoteStored_failed {rec_ : WriteRec} {w o : Nat} (hrec : Tbl.find s.path.writes k = some rec_) (hsrc : rec_.source = .wave w o)
    (r : RemoteReq) (hlost : e = r.lostEnd) :
    s.remoteStored id = (s.awayDone id q).adjWave w (fun W => { W with failed := W.failed ++ [⟨W.live, q.va, r.delivered⟩] }) := by
  subst hlost
  unfold State.remoteStored
  rw [hq]
  simp only [hp, hk, he, hrec, Option.map_some, hsrc]
  unfold RemoteReq.lostEnd
  cases r.delivered <;> rfl

end stored

/-- A performed or failed write is gone, and its request with it. -/
theorem State.awayDone_spec (s : State) (id : Nat) (q : RemoteReq) (k : Nat) (hk : q.write = some k) (hid : id < s.nextId) :
    Tbl.find (s.awayDone id q).path.remote id = none ∧ Tbl.find (s.awayDone id q).path.writes k = none ∧ (s.awayDone id q).mem = s.mem ∧
      (s.awayDone id q).waves = s.waves ∧ (s.awayDone id q).rel = s.rel := by
  unfold State.awayDone
  have sent := State.sendFront_sends
    { s with path := { s.path with remote := Tbl.drop s.path.remote id, writes := Tbl.drop s.path.writes (q.write.getD 0) } }
  refine ⟨(sent.older id hid).trans (Tbl.find_drop_same ..), ?_, sent.mem, sent.waves, sent.rel⟩
  rw [sent.writes, hk]
  exact Tbl.find_drop_same ..

section respond

variable {s : State} {r : RemoteResponse} {id : Nat} {q : RemoteReq}
  (hfirst : s.path.remote.find? (fun e => BitVec.ofNat 32 e.1 == r.id && e.2.result.isNone) = some (id, q))
include hfirst

/-- A response ends the request that it answers. -/
theorem State.respond_eq : s.respond r = (s.endRemote id (if r.ok then .ok r.data r.poison else q.lostEnd)).remoteStored id := by
  unfold State.respond
  rw [hfirst]

theorem RemoteReq.open_of_first : q.result = none := by
  have open_ := List.find?_some hfirst
  simpa using (Bool.and_eq_true_iff.1 open_).2

end respond

/-- Both responses are one. -/
theorem exec_response (s : State) (r : RemoteResponse) (i : Instr) (hi : i ∈ [Instr.ualinkResponse r, Instr.hostWindowResponse r]) :
    exec i s = .next (s.respond r) := by
  rcases List.mem_pair.1 hi with rfl | rfl <;> rfl

theorem exec_retry (s : State) (id : Nat) (i : Instr) (hi : i ∈ [Instr.ualinkRetryTimeout id, Instr.hostWindowRetryTimeout id]) :
    exec i s = .next (s.retry id) := by
  rcases List.mem_pair.1 hi with rfl | rfl <;> rfl

/-- What a response does to the request that it answers. -/
theorem responses (s : State) (r : RemoteResponse) (id : Nat) (q : RemoteReq)
    (hfirst : s.path.remote.find? (fun e => BitVec.ofNat 32 e.1 == r.id && e.2.result.isNone) = some (id, q))
    (hq : Tbl.find s.path.remote id = some q) (hid : id < s.nextId) :
    (∀ k j, r.ok = true → q.pend = none → q.write = some k → (Tbl.find s.path.writes k).map WriteRec.source = some (.op j) →
      s.respond r = s.remoteEnded id q (.ok r.data r.poison)) ∧
    (r.ok = true → (q.pend.isSome = true ∨ q.write = none) → s.respond r = s.remoteEnded id q (.ok r.data r.poison)) ∧
    (∀ k, r.ok = true → q.pend = none → q.write = some k → (∀ j, (Tbl.find s.path.writes k).map WriteRec.source ≠ some (.op j)) →
      Tbl.find (s.respond r).path.remote id = none ∧ Tbl.find (s.respond r).path.writes k = none ∧ (s.respond r).mem = s.mem ∧
        (s.respond r).waves = s.waves ∧ (s.respond r).rel = s.rel) ∧
    (∀ k rec_ w o W, r.ok = false → q.pend = none → q.write = some k → Tbl.find s.path.writes k = some rec_ → rec_.source = .wave w o → s.wave? w = some W →
      Tbl.find (s.respond r).path.writes k = none ∧ (s.respond r).wave? w = some { W with failed := W.failed ++ [⟨W.live, q.va, q.delivered⟩] } ∧
        (s.respond r).mem = s.mem) := by
  have hopen := RemoteReq.open_of_first hfirst
  have answered (hok : r.ok = true) : s.respond r = (s.remoteEnded id q (.ok r.data r.poison)).remoteStored id := by
    rw [State.respond_eq hfirst, hok, if_pos rfl, State.endRemote_ok hq hopen]
  have kept (e : RemoteEnd) : Tbl.find (s.remoteEnded id q e).path.remote id = some { q with result := some e } := Tbl.find_put_same ..
  refine ⟨fun k j hok hp hk hsrc => ?_, fun hok h => ?_, fun k hok hp hk hsrc => ?_, fun k rec_ w o W hok hp hk hrec hsrc hW => ?_⟩
  · exact (answered hok).trans (State.remoteStored_unit (kept _) hp hk rfl j hsrc)
  · exact (answered hok).trans (State.remoteStored_kept (kept _) h)
  · rw [answered hok, State.remoteStored_done (kept _) hp hk rfl hsrc _ _ rfl]
    exact State.awayDone_spec _ id _ k hk hid
  · have lost : s.respond r = (s.endRemote id q.lostEnd).remoteStored id := by rw [State.respond_eq hfirst, hok]; rfl
    obtain ⟨hmem, hwaves, hpath, hnext⟩ := State.endRemote_ended hq hopen q.lostEnd
    have found : Tbl.find (s.endRemote id q.lostEnd).path.remote id = some { q with result := some q.lostEnd } := by rw [hpath]; exact kept _
    have written : Tbl.find (s.endRemote id q.lostEnd).path.writes k = some rec_ := by rw [hpath]; exact hrec
    obtain ⟨-, hgone, hmem', hwaves', -⟩ := (s.endRemote id q.lostEnd).awayDone_spec id { q with result := some q.lostEnd } k hk (by rw [hnext]; exact hid)
    rw [lost, State.remoteStored_failed found hp hk rfl written hsrc q rfl]
    refine ⟨hgone, ?_, hmem'.trans hmem⟩
    rw [State.wave?_adjWave_same, State.wave?, hwaves', hwaves]
    exact congrArg (Option.map _) hW

/-- A request without a response for 2 ms is sent again, 3 times at most. -/
theorem State.retry_again (s : State) (id : Nat) (r : RemoteReq) (hr : Tbl.find s.path.remote id = some r) (hopen : r.result = none) (htries : r.tries ≤ 3)
    (hdue : 2000000 * 17 ≤ s.time - timeAt r.since) :
    s.retry id = { s with
      path := { s.path with remote := Tbl.put s.path.remote id { r with tries := r.tries + 1, since := s.ticks, delivered := r.delivered || Config.freeBool s.free } }
      free := s.free + 1 } := by
  unfold State.retry
  rw [hr]
  simp [hopen, htries, Nat.not_lt.2 hdue]

theorem State.retry_undue (s : State) (id : Nat) (r : RemoteReq) (hr : Tbl.find s.path.remote id = some r) (hdue : ¬2000000 * 17 ≤ s.time - timeAt r.since) :
    s.retry id = s := by
  unfold State.retry
  rw [hr]
  exact if_pos (by simp [Nat.not_le.1 hdue])

/-- After the third time it ends. -/
theorem State.retry_ended (s : State) (id : Nat) (r : RemoteReq) (hr : Tbl.find s.path.remote id = some r) (hopen : r.result = none) (htries : 3 < r.tries)
    (hwrite : r.write = none) (hdue : 2000000 * 17 ≤ s.time - timeAt r.since) :
    (s.retry id).mem = s.mem ∧ Tbl.find (s.retry id).path.remote id = some { r with result := some r.lostEnd } := by
  obtain ⟨hmem, -, hpath, -⟩ := State.endRemote_ended hr hopen r.lostEnd
  have found : Tbl.find (s.endRemote id r.lostEnd).path.remote id = some { r with result := some r.lostEnd } := by rw [hpath]; exact Tbl.find_put_same ..
  have ends : s.retry id = s.endRemote id r.lostEnd := by
    refine Eq.trans ?_ (State.remoteStored_kept found (.inr hwrite))
    unfold State.retry
    rw [hr]
    simp [hopen, Nat.not_le.2 htries, Nat.not_lt.2 hdue]
  rw [ends]
  exact ⟨hmem, found⟩

/-- Requests to peers and host windows, and from peers. -/
theorem remoteRequests : Claims.remoteRequests := by
  refine ⟨fun s r id q hfirst hq hid i hi => ?_, fun s id r hr hopen i hi => ⟨fun htries => ?_, fun htries hwrite => ?_⟩, fun s r hon hep => ⟨?_, ?_⟩,
    execUalinkInboundRequest_stale, fun s peer id => ⟨_, rfl, rfl, rfl, fun c => ?_⟩⟩
  · obtain ⟨unit_, read, done, failed⟩ := responses s r id q hfirst hq hid
    rw [exec_response s r i hi]
    refine ⟨fun k j hok hp hk hsrc => ?_, fun hok h => ?_, fun k hok hp hk hsrc => ⟨_, rfl, done k hok hp hk hsrc⟩,
      fun k rec_ w o W hok hp hk hrec hsrc hW => ⟨_, rfl, failed k rec_ w o W hok hp hk hrec hsrc hW⟩⟩
    · exact ⟨_, congrArg _ (unit_ k j hok hp hk hsrc), Tbl.find_put_same .., rfl, rfl, rfl⟩
    · exact ⟨_, congrArg _ (read hok h), Tbl.find_put_same .., rfl, rfl, rfl, rfl⟩
  · refine ⟨_, exec_retry s id i hi, ?_⟩
    by_cases hdue : 2000000 * 17 ≤ s.time - timeAt r.since
    · rw [s.retry_again id r hr hopen htries hdue]
      exact .inl ⟨hdue, rfl, rfl, _, Tbl.find_put_same .., rfl, rfl, rfl, rfl⟩
    · exact .inr ⟨hdue, s.retry_undue id r hr hdue⟩
  · refine ⟨_, exec_retry s id i hi, ?_⟩
    by_cases hdue : 2000000 * 17 ≤ s.time - timeAt r.since
    · obtain ⟨hmem, hend⟩ := s.retry_ended id r hr hopen htries hwrite hdue
      exact .inl ⟨hdue, hmem, _, hend, rfl⟩
    · exact .inr ⟨hdue, s.retry_undue id r hr hdue⟩
  · exact execUalinkInboundRequest_kept s r hon hep
  · intro hnew hdue hr
    exact ⟨execUalinkInboundRequest_read s r hon hep hnew hdue hr,
      fun cells hop hgood hw => execUalinkInboundRequest_write s r hon hep hnew hdue hr hgood hw cells hop,
      fun o f sg ftz ret x y n hop hgood hw hfree hp =>
        execUalinkInboundRequest_atomic s r hon hep hnew hdue hr hgood hw o f sg ftz ret x y n hop hfree hp⟩
  · refine List.mem_filter.trans (and_congr_right fun _ => ?_)
    simp [-not_and, not_and_or, or_assoc]

/-- Settles O41: cache and translation events by what a fetch leaves of the machine, remote requests by what the end of one does, writes of peers line by
line. -/
theorem cachesAndRemotes : Obligations.CachesAndRemotes := ⟨cachesMove, remoteRequests⟩

end Sys2Proof.Machine

/-! SUPPORT. PREF under an identity that is taken (R109, R128). -/

namespace Sys2Proof.Machine

/-- PREF.L1 of the line at s4. -/
def prefS4 : ExtWord := { blankExt with d := ⟨.vec, 0⟩, a := ⟨.scal, 4⟩, b := ⟨.imm, 0⟩, c := ⟨.imm, 0⟩, x := 0 }

/-- A fragment with one active lane is about to issue PREF.L1 of an address whose page is at hand. The next identity, 2, is taken: an instruction that
is outstanding under it has every request entry of the core. -/
def takenIdentity : State :=
  let s := State.reset.withCode []
  { s.adjFrag 1 (fun F => { F.setScalar 4 0x800 with active := 1 }) with
    cur := some 1
    path := { s.path with tlbCore := [(0, [⟨0, 0, false, 0x40033⟩])] }
    pend := [(2, { wave := 1, lanes := 0, own := 0, ord := 0, tok := 0, dst := .none, pc := 0, op := 0, kind := .other, rwc := 0, cls := 0
                   reads := List.range 1024 })] }

/-- The context in which it issues. -/
def takenCtx : Ctx :=
  { f := 1, F := { startFrag 1 0 0x100 64 [] plainHeader 1 0 with fstate := .running, scal := [(4, 0x800)], active := 1 }, w := 1
    W := startWave 1 0 0 0 0 0 0 64 8, t := 1, T := plainTeam, len := 12, op := (Instr.word0 (.pref prefS4)).extractLsb' 4 8 |>.toNat, cls := 1 }

theorem takenIdentity_ready : Ready takenIdentity takenCtx (.pref prefS4) where
  current := rfl
  context := by decide +kernel
  legal   := by decide +kernel
  allowed := rfl
  order   := by decide +kernel
  blocks  := by decide +kernel
  results := by decide +kernel
  tokens  := by decide +kernel
  calm    := rfl
  sound   := rfl

/-- The line's first byte, in write-back memory of the die. -/
def takenPiece : Piece := ⟨.loc, 0x40800, 1, 0⟩

/-- The lane's page is at hand, and its byte may be read. -/
theorem takenIdentity_access : takenIdentity.access (.core 0) 0 0x10000 0x800 1 .read .none = .ok [takenPiece] := by rfl

/-- The line's four sectors are in no L1, and the outstanding instruction leaves no request entry free. -/
theorem takenIdentity_entries : takenIdentity.freeEntries 0 <
    ((lineSecs (0x40800 / 128)).filter (fun k => prefType 0 0 != 0 || (takenIdentity.l1Find 0 k).isNone)).length := by decide +kernel

/-- PREF takes the identity, and with it the entries: it drops no lane. -/
theorem takenIdentity_exec : ∃ t, exec (.pref prefS4) takenIdentity = .next t ∧ Tbl.get 0 t.rel.counters ctrPREFDROP = 0 := by
  refine ⟨_, issue_ready _ _ _ _ takenIdentity_ready, ?_⟩
  decide +kernel

/-- The clause on a lane alone fails: it says that the lane is dropped and counted, and PREF counts none. -/
theorem not_prefetches : ¬ Claims.prefetches := by
  intro h
  obtain ⟨-, -, passes⟩ := h takenIdentity takenCtx prefS4 takenIdentity_ready
  obtain ⟨t, id, next, -, -, -, -, lane⟩ := passes (by decide +kernel) (by decide +kernel) ⟨rfl, rfl⟩ rfl
  obtain ⟨drops, -⟩ := lane 0 (by decide +kernel) (by decide +kernel)
  obtain ⟨-, counted⟩ := drops (.inr ⟨takenPiece, takenIdentity_access, .inr ⟨by decide, takenIdentity_entries⟩⟩)
  obtain ⟨t', next', uncounted⟩ := takenIdentity_exec
  cases next.symm.trans next'
  exact absurd (uncounted.symm.trans counted) (by decide)

/-- Refutes O28: where an instruction is outstanding under the identity that PREF takes, it holds request entries before PREF and none after, so that PREF
drops no lane although fewer entries are free than its line needs. The clause on a lane alone lacks the condition that no instruction is outstanding
under the next identity. -/
theorem not_cacheAndFence : ¬ Obligations.CacheAndFence := fun h => not_prefetches h.1

end Sys2Proof.Machine

/-! SUPPORT. Requests of the owner, once for all of them (R441 to R443). -/

namespace Sys2Proof.Machine

open Claims

/-! ## Requests that act (R441 to R443) -/

/-- The state in which a request of the owner acts: its session has its port and number, and the lease is renewed. -/
def State.heard (s : State) (q : EdjorRequest) (x : Session) : State :=
  { s with mgmt := { s.mgmt with sessions := Tbl.put s.mgmt.sessions q.session.toNat { x with port := q.port, top := q.seq.toNat }, lease := s.ticks } }

/-- A state in which an answer has been kept and has left. -/
def State.answered (s : State) (sessions : Tbl Session) (out : List Message) : State := { s with mgmt := { s.mgmt with sessions := sessions, out := out } }

/-- The session of a request can be answered on its port. -/
def State.Answerable (s : State) (q : EdjorRequest) : Prop := ∃ x, Tbl.find s.mgmt.sessions q.session.toNat = some x ∧ x.port = q.port

theorem State.heard_answerable (s : State) (q : EdjorRequest) (x : Session) : (s.heard q x).Answerable q := ⟨_, Tbl.find_put_same .., rfl⟩

theorem State.Answerable.of_sessions {s t : State} {q : EdjorRequest} (h : s.Answerable q) (hs : t.mgmt.sessions = s.mgmt.sessions) : t.Answerable q := by
  unfold State.Answerable
  rw [hs]
  exact h

theorem State.reply_answered {s : State} {q : EdjorRequest} (h : s.Answerable q) (op status : Nat) (payload : List Byte) :
    ∃ sessions, s.reply q.session.toNat q.seq.toNat op status payload =
      s.answered sessions (.edjor q.port op q.session.toNat q.seq.toNat status payload :: s.mgmt.out) := by
  obtain ⟨x, hx, hport⟩ := h
  refine ⟨Tbl.put s.mgmt.sessions q.session.toNat { x with stored := ((q.seq.toNat, op, status, payload) :: x.stored).take 64 }, ?_⟩
  unfold State.reply
  rw [hx, ← hport]
  rfl

/-- What a request of the owner leaves, after what acting on it ended in. -/
def Verdict.close (q : EdjorRequest) (op : Nat) : Verdict → State
  | .answer t status payload => t.reply q.session.toNat q.seq.toNat op status payload
  | .later t => t

/-- A request of the owner acts. -/
theorem owner_request {s : State} {q : EdjorRequest} (h : Owns s q) {early : Bool} (hon : s.ready = true ∨ early = true) (op : Nat) (act : State → Verdict) :
    ∃ x, Tbl.find s.mgmt.sessions q.session.toNat = some x ∧ s.request q op true early act = (act (s.heard q x)).close q op := by
  obtain ⟨hlapse, howner, x, hx, htop⟩ := h
  refine ⟨x, hx, ?_⟩
  have stays : s.lapse = s := s.lapse_not (by simp [hlapse])
  have owned : ¬(true && s.mgmt.owner != some q.session.toNat) = true := by simp [howner]
  have runs : ¬(!s.ready && !early) = true := by rcases hon with hon | hon <;> simp [hon]
  unfold State.request
  dsimp only
  rw [stays, hx]
  dsimp only
  rw [if_neg (Nat.not_le.2 htop), if_neg owned, if_neg runs, if_pos rfl]
  rfl

section answers

variable {s : State} {q : EdjorRequest} {i : Instr} {op status : Nat} (payload : List Byte) {act : State → Verdict} {P : State → List Byte → Prop}

/-- A request of the owner that is answered at once: what holds of the state it leaves, however its answer is kept and leaves, holds at the end. -/
theorem answers_of_owner {early : Bool} (h : Owns s q) (hon : s.ready = true ∨ early = true) (hexec : exec i s = .next (s.request q op true early act))
    (hact : ∀ x, Tbl.find s.mgmt.sessions q.session.toNat = some x →
      ∃ t, act (s.heard q x) = .answer t status payload ∧ t.Answerable q ∧ ∀ sessions out, P (t.answered sessions out) payload) :
    Answers s q i op status P := by
  obtain ⟨x, hx, hreq⟩ := owner_request h hon op act
  obtain ⟨t, ht, hans, hP⟩ := hact x hx
  obtain ⟨sessions, hreply⟩ := State.reply_answered hans op status payload
  rw [ht] at hreq
  exact ⟨_, payload, _, hexec.trans (congrArg _ (hreq.trans hreply)), rfl, hP _ _⟩

/-- An accepted request that is answered at once. -/
theorem answers_of_accepted (h : Accepted s q) (hexec : exec i s = .next (s.request q op true false act))
    (hact : ∀ x, ∃ t, act (s.heard q x) = .answer t status payload ∧ t.mgmt.sessions = (s.heard q x).mgmt.sessions ∧
      ∀ sessions out, P (t.answered sessions out) payload) : Answers s q i op status P :=
  answers_of_owner payload ⟨h.1, h.2.2⟩ (.inl h.2.1) hexec fun x _ =>
    let ⟨t, ht, hs, hP⟩ := hact x
    ⟨t, ht, (s.heard_answerable q x).of_sessions hs, hP⟩

/-- The state in which these requests are due. -/
def State.withDue (s : State) (due : List Due) : State := { s with mgmt := { s.mgmt with due := due } }

/-- An accepted request that becomes due while no other is, and is answered at once. -/
theorem answers_of_due (h : Accepted s q) (hexec : exec i s = .next (s.request q op true false act)) (hdue : s.mgmt.due = [])
    (hact : ∀ x, ∃ (t : State) (d : Due), act (s.heard q x) = .later (t.owe d) ∧ t.mgmt.due = s.mgmt.due ∧ t.mgmt.sessions = (s.heard q x).mgmt.sessions ∧
      (t.withDue [d]).serveDue [] d = (none, (t.withDue [d]).reply q.session.toNat q.seq.toNat op status payload) ∧
      ∀ sessions out, P ((t.withDue []).answered sessions out) payload) : Answers s q i op status P := by
  obtain ⟨x, -, hreq⟩ := owner_request ⟨h.1, h.2.2⟩ (.inl h.2.1) op act
  obtain ⟨t, d, ht, hd, hs, hserved, hP⟩ := hact x
  obtain ⟨sessions, hreply⟩ := State.reply_answered (s := t.withDue [d]) ((s.heard_answerable q x).of_sessions hs) op status payload
  have served : ({ t with mgmt := { t.mgmt with due := [d] } } : State).serveDue [] d = _ := hserved.trans (congrArg (Prod.mk none) hreply)
  rw [ht, Verdict.close, t.owe_of_idle d (hd.trans hdue), served] at hreq
  exact ⟨_, payload, _, hexec.trans (congrArg _ hreq), rfl, hP _ _⟩

/-- An accepted request that becomes due while no other is, and has to wait. -/
theorem exec_of_waiting {P : State → Prop} (h : Accepted s q) (hexec : exec i s = .next (s.request q op true false act)) (hdue : s.mgmt.due = [])
    (hact : ∀ x, ∃ (t : State) (d : Due), act (s.heard q x) = .later (t.owe d) ∧ t.mgmt.due = s.mgmt.due ∧
      (t.withDue [d]).serveDue [] d = (some d, t.withDue [d]) ∧ P (t.withDue [d])) : ∃ t, exec i s = .next t ∧ P t := by
  obtain ⟨x, -, hreq⟩ := owner_request ⟨h.1, h.2.2⟩ (.inl h.2.1) op act
  obtain ⟨t, d, ht, hd, hserved, hP⟩ := hact x
  have served : ({ t with mgmt := { t.mgmt with due := [d] } } : State).serveDue [] d = _ := hserved
  rw [ht, Verdict.close, t.owe_of_idle d (hd.trans hdue), served] at hreq
  exact ⟨_, hexec.trans (congrArg _ hreq), hP⟩

end answers

/-- A request that is refused changes only the management's part. -/
theorem refused_onlyManages {s : State} {q : EdjorRequest} {x : Session} (sessions : Tbl Session) (out : List Message) :
    OnlyManages s ((s.heard q x).answered sessions out) := ⟨rfl, rfl⟩

end Sys2Proof.Machine

/-! SUPPORT. Windows, maps and invalidation (R88, R436, R438, R440). -/

namespace Sys2Proof.Machine

open Claims

/-! ## Keys of windows (R436) -/

/-- Of 257 keys in a row one is no window's. -/
theorem State.freshKey_fresh (s : State) (h : s.mgmt.windows.length ≤ 256) : ∀ e ∈ s.mgmt.windows, e.2.rkey ≠ s.freshKey := by
  let k := (Config.freeWord s.free).extractLsb' 0 32
  let keys := (List.range 257).map (fun i => k + BitVec.ofNat 32 i)
  have distinct : keys.Nodup := by
    refine List.Nodup.map_on (fun i hi j hj hij => ?_) List.nodup_range
    have same := congrArg BitVec.toNat (add_left_cancel hij)
    rw [BitVec.toNat_ofNat, BitVec.toNat_ofNat] at same
    have := List.mem_range.1 hi
    have := List.mem_range.1 hj
    omega
  have found : ∃ r ∈ keys, r ∉ s.mgmt.windows.map (fun e => e.2.rkey) := by
    by_contra! hall
    have := (List.subperm_of_subset distinct hall).length_le
    simp [keys] at this
    omega
  obtain ⟨r, hr, hfree⟩ := found
  have some_ : (keys.find? (fun r => !s.mgmt.windows.any (fun e => e.2.rkey == r))).isSome = true := by
    refine List.find?_isSome.2 ⟨r, hr, ?_⟩
    simpa using fun a b hab heq => hfree (List.mem_map.2 ⟨(a, b), hab, heq⟩)
  obtain ⟨r', hr'⟩ := Option.isSome_iff_exists.1 some_
  have key : s.freshKey = r' := by
    show (keys.find? (fun r => !s.mgmt.windows.any (fun e => e.2.rkey == r))).getD k = r'
    rw [hr', Option.getD_some]
  intro e he heq
  have := List.find?_some hr'
  simp only [Bool.not_eq_true', List.any_eq_false, beq_iff_eq] at this
  exact this e he (heq.trans key)

/-! ## Invalidation (R88) -/

/-- Every list of a table is filtered. -/
theorem get_foldl_set (d : TlbEntry → Bool) (t : Tbl (List TlbEntry)) (hwf : Tbl.wf [] t = true) (k : Nat) :
    Tbl.get [] (t.foldl (fun u e => Tbl.set [] u e.1 (e.2.filter d)) t) k = (Tbl.get [] t k).filter d := by
  have go (l : List (Nat × List TlbEntry)) (hl : ∀ e ∈ l, Tbl.get [] t e.1 = e.2) (u : Tbl (List TlbEntry)) :
      Tbl.get [] (l.foldl (fun u e => Tbl.set [] u e.1 (e.2.filter d)) u) k =
        if k ∈ l.map Prod.fst then (Tbl.get [] t k).filter d else Tbl.get [] u k := by
    induction l generalizing u with
    | nil => simp
    | cons e l ih =>
      have here := hl e (List.mem_cons_self ..)
      rw [List.foldl_cons, ih (fun e he => hl e (List.mem_cons_of_mem _ he)), Tbl.get_set]
      by_cases hk : k = e.1
      · subst hk
        simp [here]
      · simp only [List.map_cons, List.mem_cons, hk, false_or, if_false]
  rw [go t (fun e he => Tbl.get_of_mem [] t hwf e he)]
  split_ifs with hk
  · rfl
  · have none_ : Tbl.get [] t k = [] := by
      clear go hwf
      induction t with
      | nil => rfl
      | cons e t ih =>
        rw [List.map_cons, List.mem_cons, not_or] at hk
        exact (if_neg hk.1).trans (ih hk.2)
    rw [none_, List.filter_nil]

/-- What an invalidation leaves: every translation that matches is gone, and beyond waits on addresses nothing else has changed. -/
theorem State.invalidateMaps_spec (s : State) (asid : Option Nat) (lo hi : Nat) :
    (s.invalidateMaps asid lo hi).mem = s.mem ∧ (s.invalidateMaps asid lo hi).frags = s.frags ∧ (s.invalidateMaps asid lo hi).waves = s.waves ∧
      (s.invalidateMaps asid lo hi).mgmt = s.mgmt ∧
      ∀ place, (s.invalidateMaps asid lo hi).oldAccessesDone asid place = s.oldAccessesDone asid place := ⟨rfl, rfl, rfl, rfl, fun _ => rfl⟩

theorem mem_invalidated (asid : Option Nat) (lo hi : Nat) (t : Tbl (List TlbEntry)) (hwf : Tbl.wf [] t = true) (k : Nat) (e : TlbEntry) :
    e ∈ Tbl.get [] (t.foldl (fun t e => Tbl.set [] t e.1 (e.2.filter (fun e => !e.hit asid lo hi))) t) k ↔
      e ∈ Tbl.get [] t k ∧ e.hit asid lo hi = false := by
  rw [get_foldl_set _ t hwf, List.mem_filter, Bool.not_eq_true']

/-! ## The statement on windows and maps -/

section windows

variable {s : State} {q : EdjorRequest} (h : Accepted s q)
include h

theorem execOpendmw_answers (hk : field q.body 0 4 < 256) (hbase : field q.body 8 8 % 65536 = 0) (hsize : field q.body 16 8 % 65536 = 0)
    (hsome : field q.body 16 8 ≠ 0) (hend : field q.body 8 8 + field q.body 16 8 ≤ 2 ^ 38) (hrights : field q.body 24 1 ≠ 0) (hrights3 : field q.body 24 1 ≤ 3) :
    (Tbl.find s.mgmt.windows (field q.body 0 4) = none → s.mgmt.windows.length ≤ 256 →
      ∃ key : BitVec 32, Answers s q (.opendmw q) 0x21 0 (fun t p => p = natBytes 4 key.toNat ∧ t.mem = s.mem ∧ t.frags = s.frags ∧ t.waves = s.waves ∧
        Tbl.find t.mgmt.windows (field q.body 0 4) = some ⟨field q.body 8 8, field q.body 16 8, BitVec.ofNat 8 (field q.body 24 1), key⟩ ∧
        ∀ e ∈ s.mgmt.windows, e.2.rkey ≠ key)) ∧
    (Tbl.find s.mgmt.windows (field q.body 0 4) ≠ none →
      Answers s q (.opendmw q) 0x21 4 (fun t p => p = [] ∧ OnlyManages s t ∧ t.mgmt.windows = s.mgmt.windows)) := by
  have good : ¬(decide (256 ≤ field q.body 0 4) || field q.body 8 8 % 65536 != 0 || field q.body 16 8 % 65536 != 0 || decide (field q.body 16 8 = 0) ||
      decide (2 ^ 38 < field q.body 16 8) || decide (2 ^ 38 < field q.body 8 8 + field q.body 16 8) || decide (field q.body 24 1 = 0) ||
      decide (3 < field q.body 24 1)) = true := by
    simp only [Bool.or_eq_true, decide_eq_true_eq, bne_iff_ne, ne_eq]
    omega
  refine ⟨fun hfree hlen => ⟨s.freshKey, answers_of_accepted (natBytes 4 s.freshKey.toNat) h rfl fun x => ?_⟩, fun htaken => answers_of_accepted [] h rfl fun x => ?_⟩
  · refine ⟨_, (if_neg good).trans (if_neg ?_), rfl, fun _ _ => ⟨rfl, rfl, rfl, rfl, Tbl.find_put_same .., s.freshKey_fresh hlen⟩⟩
    show ¬(Tbl.find s.mgmt.windows (field q.body 0 4)).isSome = true
    simp [hfree]
  · exact ⟨_, (if_neg good).trans (if_pos (Option.isSome_iff_ne_none.2 htaken)), rfl, fun _ _ => ⟨rfl, refused_onlyManages _ _, rfl⟩⟩

theorem execClosedmw_answers (hopen : Tbl.find s.mgmt.windows (field q.body 0 4) ≠ none) (hdue : s.mgmt.due = []) :
    Answers s q (.closedmw q) 0x22 0 (fun t p => p = [] ∧ OnlyManages s t ∧ t.mgmt.windows = Tbl.drop s.mgmt.windows (field q.body 0 4)) := by
  refine answers_of_due [] h rfl hdue fun x => ⟨_, _, if_neg ?_, rfl, rfl, rfl, fun _ _ => ⟨rfl, ⟨?_, rfl⟩, rfl⟩⟩
  · show ¬(Tbl.find s.mgmt.windows (field q.body 0 4)).isNone = true
    simpa using hopen
  · rfl

theorem execOpenhw_answers (w : HostWindow) (hw : parseHostWindow (q.body.drop 8) = some w) (hk : field q.body 0 8 < 1024)
    (hapart : ∀ e ∈ s.links.windows, e.1 ≠ field q.body 0 8 → e.2.offset + e.2.size ≤ w.offset ∨ w.offset + w.size ≤ e.2.offset) :
    Answers s q (.openhw q) 0x23 0 (fun t p => p = [] ∧ Tbl.find t.links.windows (field q.body 0 8) = some w ∧ t.mem = s.mem ∧ t.frags = s.frags ∧
      ∀ k, k ≠ field q.body 0 8 → Tbl.find t.links.windows k = Tbl.find s.links.windows k) := by
  have apart : ¬(decide (1024 ≤ field q.body 0 8) || s.links.windows.any (fun e => e.1 != field q.body 0 8 && decide (e.2.offset < w.offset + w.size) &&
      decide (w.offset < e.2.offset + e.2.size))) = true := by
    simp only [Bool.or_eq_true, decide_eq_true_eq, List.any_eq_true, Bool.and_eq_true, bne_iff_ne, not_or, not_exists, not_and, Nat.not_le, Nat.not_lt]
    refine ⟨hk, fun e he hne => ?_⟩
    rcases hapart e he hne.1 with h | h <;> omega
  refine answers_of_accepted [] h rfl fun x => ⟨{ s.heard q x with links := { s.links with windows := Tbl.put s.links.windows (field q.body 0 8) w } }, ?_, rfl,
    fun _ _ => ⟨rfl, Tbl.find_put_same .., rfl, rfl, fun k hne => Tbl.find_put_ne _ _ _ _ hne⟩⟩
  dsimp only
  rw [hw]
  exact if_neg apart

theorem execClosehw_answers (hopen : Tbl.find s.links.windows (field q.body 0 8) ≠ none) :
    Answers s q (.closehw q) 0x24 0 (fun t p => p = [] ∧ t.links = { s.links with windows := Tbl.drop s.links.windows (field q.body 0 8) } ∧ t.mem = s.mem ∧
      t.frags = s.frags) := by
  refine answers_of_accepted [] h rfl fun x => ⟨_, if_neg ?_, rfl, fun _ _ => ⟨rfl, rfl, rfl, rfl⟩⟩
  show ¬(Tbl.find s.links.windows (field q.body 0 8)).isNone = true
  simpa using hopen

theorem execPeermap_answers_ports (hkind : field q.body 0 1 = 0) (hid : field q.body 2 2 ≤ 1023) (hports : field q.body 4 2 ≠ 0) :
    Answers s q (.peermap q) 0x2E 0 (fun t p => p = [] ∧ Tbl.find t.links.peers (field q.body 2 2) = some (field q.body 4 2) ∧ t.links.self = s.links.self ∧
      t.mem = s.mem ∧ t.frags = s.frags) := by
  refine answers_of_accepted [] h rfl fun x => ⟨{ s.heard q x with links := { s.links with peers := Tbl.put s.links.peers (field q.body 2 2) (field q.body 4 2) } },
    ?_, rfl, fun _ _ => ⟨rfl, Tbl.find_put_same .., rfl, rfl, rfl⟩⟩
  simp only [hkind, Nat.not_lt.2 hid, hports, decide_false, Bool.or_false, Bool.false_eq_true, if_false, Nat.not_lt_zero, zero_ne_one]
  rfl

theorem execPeermap_answers_self (hkind : field q.body 0 1 = 1) (hid : field q.body 2 2 ≤ 1023) :
    (s.anyResident = false → Answers s q (.peermap q) 0x2E 0 (fun t p => p = [] ∧ t.links = { s.links with self := field q.body 2 2 } ∧ t.mem = s.mem)) ∧
    (s.anyResident = true → Answers s q (.peermap q) 0x2E 4 (fun t p => p = [] ∧ OnlyManages s t)) := by
  refine ⟨fun hfree => answers_of_accepted [] h rfl fun x => ⟨{ s.heard q x with links := { s.links with self := field q.body 2 2 } }, ?_, rfl, fun _ _ => ⟨rfl, rfl, rfl⟩⟩,
    fun hbusy => answers_of_accepted [] h rfl fun x => ⟨s.heard q x, ?_, rfl, fun _ _ => ⟨rfl, refused_onlyManages _ _⟩⟩⟩
  · have none_ : (s.heard q x).anyResident = false := hfree
    simp only [hkind, Nat.not_lt.2 hid, none_, decide_false, Bool.or_false, Bool.false_eq_true, if_false, if_true, Nat.lt_irrefl]
    rfl
  · have some_ : (s.heard q x).anyResident = true := hbusy
    simp only [hkind, Nat.not_lt.2 hid, some_, decide_false, Bool.or_false, Bool.false_eq_true, if_false, if_true, Nat.lt_irrefl]
    rfl

/-- The address space, and the first and last page, that INVAL names (R88). -/
def invalAsid (b : List Byte) : Option Nat := if field b 2 1 = 0 then some (field b 0 2 % 2 ^ 12) else none
def invalLo (b : List Byte) : Nat := if field b 3 1 != 0 then 0 else vaPage (BitVec.ofNat 64 (field b 8 8))
def invalHi (b : List Byte) : Nat :=
  if field b 3 1 != 0 then 2 ^ 39 - 1 else vaPage (BitVec.ofNat 64 (field b 8 8) + BitVec.ofNat 64 (field b 16 8 - 1))

/-- Every translation that INVAL names has left a cache. -/
def InvalLeft (b : List Byte) (old new : Tbl (List TlbEntry)) : Prop :=
  ∀ k e, e ∈ Tbl.get [] new k ↔ e ∈ Tbl.get [] old k ∧ e.hit (invalAsid b) (invalLo b) (invalHi b) = false

theorem execInval_answers (hrange : (field q.body 3 1 != 0) = true ∨ field q.body 16 8 ≠ 0) (hcore : Tbl.wf [] s.path.tlbCore = true)
    (hclus : Tbl.wf [] s.path.tlbClus = true) (hdie : Tbl.wf [] s.path.tlbDie = true) (hdue : s.mgmt.due = []) :
    (s.oldAccessesDone (invalAsid q.body) s.nextId = true →
      Answers s q (.inval q) 0x25 0 (fun t p => p = [] ∧ t.mem = s.mem ∧ t.frags = s.frags ∧ t.waves = s.waves ∧
        InvalLeft q.body s.path.tlbCore t.path.tlbCore ∧ InvalLeft q.body s.path.tlbClus t.path.tlbClus ∧ InvalLeft q.body s.path.tlbDie t.path.tlbDie)) ∧
    (s.oldAccessesDone (invalAsid q.body) s.nextId = false →
      ∃ t, exec (.inval q) s = .next t ∧ t.mgmt.out = s.mgmt.out ∧ t.mgmt.due = [.inval q.session.toNat q.seq.toNat (invalAsid q.body) s.nextId] ∧
        t.mem = s.mem ∧ t.frags = s.frags ∧ InvalLeft q.body s.path.tlbCore t.path.tlbCore ∧ InvalLeft q.body s.path.tlbClus t.path.tlbClus ∧
        InvalLeft q.body s.path.tlbDie t.path.tlbDie) := by
  have good : ¬(!(field q.body 3 1 != 0) && decide (field q.body 16 8 = 0)) = true := by
    rcases hrange with h | h <;> simp [h]
  have left (t : Tbl (List TlbEntry)) (hwf : Tbl.wf [] t = true) := mem_invalidated (invalAsid q.body) (invalLo q.body) (invalHi q.body) t hwf
  refine ⟨fun hdone => ?_, fun hopen => ?_⟩
  · refine answers_of_due [] h rfl hdue fun x => ⟨(s.heard q x).invalidateMaps (invalAsid q.body) (invalLo q.body) (invalHi q.body), _, if_neg good, rfl, rfl, ?_,
      fun _ _ => ⟨rfl, rfl, rfl, rfl, left _ hcore, left _ hclus, left _ hdie⟩⟩
    exact if_pos hdone
  · refine exec_of_waiting h rfl hdue fun x => ⟨(s.heard q x).invalidateMaps (invalAsid q.body) (invalLo q.body) (invalHi q.body), _, if_neg good, rfl, ?_,
      rfl, rfl, rfl, rfl, left _ hcore, left _ hclus, left _ hdie⟩
    exact if_neg (ne_true_of_eq_false hopen)

end windows

/-- Windows, maps and invalidation. -/
theorem windowsOpen : Claims.windowsOpen := by
  intro s q h
  exact ⟨fun hk hbase hsize hsome hend hrights hrights3 => execOpendmw_answers h hk hbase hsize hsome hend hrights hrights3, execClosedmw_answers h,
    execOpenhw_answers h, execClosehw_answers h, execPeermap_answers_ports h, execPeermap_answers_self h, execInval_answers h⟩

end Sys2Proof.Machine

/-! SUPPORT. GRAPHGO: one decrement of a node (R340, R368). -/

namespace Sys2Proof.Machine

open Claims

/-! ## GRAPHGO (R340, R368) -/

theorem State.addTask_tasks (s : State) (die : Nat) (t : WalkTask) :
    Tbl.get [] (s.addTask die t).sched.tasks die = Tbl.get [] s.sched.tasks die ++ [t] := Tbl.get_set_same ..

/-- Where the home of a node does not hold it, no write is on its way there; the four bytes of its counter lie in one line. -/
theorem counter_lines (a v : Nat) (ha : nodeAddr a = true) :
    ((cellsAt (a + 4) (natBytes 4 v)).map (fun c => c.1 / 128)).eraseDups = [a / 128] ∧
      (cellsAt (a + 4) (natBytes 4 v)).filter (fun c => c.1 / 128 == a / 128) = cellsAt (a + 4) (natBytes 4 v) := by
  obtain ⟨m, rfl⟩ : ∃ m, a = 128 * m := by
    have := (Bool.and_eq_true_iff.1 ha).1
    exact ⟨a / 128, by simp at this; omega⟩
  have line (i : Nat) (hi : i < 8) : (128 * m + i) / 128 = 128 * m / 128 := by omega
  have lines : ∀ c ∈ cellsAt (128 * m + 4) (natBytes 4 v), c.1 / 128 = 128 * m / 128 := fun c hc => by
    obtain ⟨i, hi, hat⟩ := (mem_cellsAt _ _ c).1 hc
    obtain ⟨hlt, -⟩ := List.getElem?_eq_some_iff.1 hi
    have : i < 4 := hlt
    omega
  refine ⟨?_, List.filter_eq_self.2 fun c hc => beq_iff_eq.2 (lines c hc)⟩
  have same : (cellsAt (128 * m + 4) (natBytes 4 v)).map (fun c => c.1 / 128) = List.replicate 4 (128 * m / 128) :=
    List.eq_replicate_iff.2 ⟨rfl, fun l hl => by
      obtain ⟨c, hc, rfl⟩ := List.mem_map.1 hl
      exact lines c hc⟩
  rw [same]
  simp [List.replicate, List.eraseDups_cons]

/-- What the homes do with lines of the L2 and with a write is no walker's work. -/
theorem State.l2Evict_sched (s : State) (line : Nat) (hr : s.rel.rot = []) : (s.l2Evict line).sched = s.sched := by
  have none_ : s.rel.rot.contains line = false := by simp [hr]
  unfold State.l2Evict
  dsimp only
  simp only [none_, Bool.false_eq_true, if_false]
  split_ifs <;> rfl

theorem State.setL2_sched (s : State) (line : Nat) (l : L2Line) (hr : s.rel.rot = []) : (s.setL2 line l).sched = s.sched := by
  unfold State.setL2
  dsimp only
  split_ifs
  · rfl
  · exact State.l2Evict_sched _ _ hr

theorem State.homeWrites_sched (s : State) (id : Nat) (r : WriteRec) (secs : List Nat) (hw : s.path.waits = []) (hr : s.rel.rot = []) :
    (s.homeWrites id r secs).sched = s.sched := by
  unfold State.homeWrites
  dsimp only
  rw [State.recheck_of_no_waits (h := ?asleep)]
  case asleep => exact (State.setL2_homeOnly _ _ _ (.inl (by exact hw))).waits.trans hw
  exact State.setL2_sched _ _ _ (by exact hr)

/-- A write to device memory that no earlier one to its line precedes is performed as it comes in. -/
theorem State.acceptWrite_first (s : State) (id : Nat) (r : WriteRec) (hid : Tbl.find s.path.writes id = some r) (hnew : r.accepted = false)
    (hloc : r.region = .loc) (hst : r.op = .st) (hfirst : ∀ e ∈ s.path.writes, e.1 < id → e.2.line ≠ r.line) :
    s.acceptWrite id = (s.storeHome r.cells r.bad).homeWrites id r ((r.cells.map (fun c => c.1 / 32)).eraseDups) := by
  have front : s.frontWrite id r = true := by
    simp only [State.frontWrite, Bool.not_eq_true', List.any_eq_false, Bool.and_eq_true, decide_eq_true_eq, not_and]
    intro e he hlt hkeeps
    simp [WriteRec.keeps, hfirst e he hlt] at hkeeps
  unfold State.acceptWrite
  rw [hid]
  simp [hnew, hloc, hst, front]

/-- A walker's write of a counter, while no write is on its way to the line, no fragment waits and no error is at rest, is performed at once. -/
theorem State.walkerWrite_of_sound (s : State) (source : WriteSource) (a v : Nat) (ha : nodeAddr a = true) (hfree : ∀ e ∈ s.path.writes, e.2.line ≠ a / 128)
    (hw : s.path.waits = []) (hr : s.rel.rot = []) :
    HomeOnly s (s.walkerWrite source (a + 4) 4 v) ∧ (s.walkerWrite source (a + 4) 4 v).mem = writeCells s.mem (cellsAt (a + 4) (natBytes 4 v)) ∧
      (s.walkerWrite source (a + 4) 4 v).sched = s.sched := by
  obtain ⟨hlines, hmine⟩ := counter_lines a v ha
  unfold State.walkerWrite State.unitWrite
  dsimp only
  rw [hlines, List.foldl_cons, List.foldl_nil, hmine, State.acceptWrite_first (hid := Tbl.find_put_same ..) (hnew := rfl) (hloc := rfl) (hst := rfl)
    (hfirst := fun e he hlt => ?first)]
  case first =>
    rcases Tbl.mem_put _ _ _ _ he with rfl | he
    · exact absurd hlt (Nat.lt_irrefl _)
    · exact hfree e he
  refine And.imp (HomeOnly.trans ?_) (fun hmem => ⟨hmem, ?_⟩) (State.lineWrite_of_sound _ _ _ _ _ _ (by exact hw) (by exact hr))
  · exact ⟨rfl, rfl, rfl, rfl, rfl, rfl, id⟩
  · rw [State.storeHome_of_sound _ _ _ (by exact hw) (by exact hr)]
    exact State.homeWrites_sched _ _ _ _ (by exact hw) (by simp [State.writeMem, hr, State.putWrite, State.rdcDropSectors, State.setRdc])

theorem eq_zero_of_bytesNat (bs : List Byte) (h : bytesNat bs = 0) : ∀ b ∈ bs, b = 0 := by
  induction bs with
  | nil => simp
  | cons c bs ih =>
    have split_ : c.toNat + 256 * bytesNat bs = 0 := h
    have first : c = 0 := BitVec.eq_of_toNat_eq (by simp; omega)
    intro b hb
    rcases List.mem_cons.1 hb with rfl | hb
    · exact first
    · exact ih (by omega) b hb

theorem natBytes_zero (n : Nat) : natBytes n 0 = List.replicate n 0 := by
  induction n with
  | zero => rfl
  | succ n ih => exact congrArg (List.cons _) ih

/-- A field of memory that reads as zero holds the bytes of zero. -/
theorem byte_of_memNat_zero (s : State) (a n : Nat) (h : s.memNat a n = 0) (b : Nat) :
    s.byte b = if a ≤ b then ((natBytes n 0)[b - a]?).getD (s.byte b) else s.byte b := by
  split_ifs with hle
  · by_cases hlt : b - a < n
    · have zero := eq_zero_of_bytesNat _ h (Tbl.get 0 s.mem (a + (b - a))) (List.mem_map.2 ⟨b - a, List.mem_range.2 hlt, rfl⟩)
      rw [Nat.add_sub_of_le hle] at zero
      simpa [natBytes_zero, List.getElem?_replicate, hlt, State.byte] using zero
    · simp [natBytes_zero, hlt]
  · rfl

/-- What a decrement of a node's counter leaves (R340): the counter one less, and the node to start where that was the last. -/
structure CountsDown (s : State) (a : Nat) (t : State) : Prop where
  frags : t.frags = s.frags
  waves : t.waves = s.waves
  mgmt  : t.mgmt = s.mgmt
  bytes : ∀ x, t.byte x = if a + 4 ≤ x then ((natBytes 4 (s.memNat (a + 4) 4 - 1))[x - (a + 4)]?).getD (s.byte x) else s.byte x
  tasks : Tbl.get [] t.sched.tasks (homeOf a) = Tbl.get [] s.sched.tasks (homeOf a) ++ if s.memNat (a + 4) 4 = 1 then [.start a] else []

/-- A node's home that has no write on its way to the node's line does not hold it. -/
theorem State.graphgo_free (s : State) (a : Nat) (hfree : ∀ e ∈ s.path.writes, e.2.line ≠ a / 128) : s.graphgo a = (s.decrement a).2 := by
  have free_ : s.nodeFree a = true := by
    simp only [State.nodeFree, State.homeHolds, Bool.not_eq_true', List.any_eq_false]
    intro e he
    simp [hfree e he]
  exact if_neg (by simp [free_])

section countdown

variable (s : State) (a : Nat) (ha : nodeAddr a = true) (hfree : ∀ e ∈ s.path.writes, e.2.line ≠ a / 128) (hr : s.rel.rot = [])
include ha hfree hr

theorem State.decrement_countsDown (hp : s.memPoisoned (a + 4) 4 = false) (hw : s.path.waits = []) : CountsDown s a (s.decrement a).2 := by
  have clean : ¬(!nodeAddr a || s.memPoisoned (a + 4) 4) = true := by simp [ha, hp]
  unfold State.decrement
  rw [if_pos ha, State.findIn, s.findErrors_of_sound _ hr]
  dsimp only
  rw [if_neg clean]
  obtain ⟨hkept, hmem, hsched⟩ := s.walkerWrite_of_sound .agent a (s.memNat (a + 4) 4 - 1) ha hfree hw hr
  have bytes (x : Nat) : (s.walkerWrite .agent (a + 4) 4 (s.memNat (a + 4) 4 - 1)).byte x =
      if a + 4 ≤ x then ((natBytes 4 (s.memNat (a + 4) 4 - 1))[x - (a + 4)]?).getD (s.byte x) else s.byte x := by
    rw [State.byte, hmem, get_writeCells_cellsAt, State.byte]
  split_ifs with hzero hone
  · refine ⟨rfl, rfl, rfl, fun x => ?_, by simp [hzero, State.count]⟩
    rw [hzero]
    exact byte_of_memNat_zero s _ _ hzero x
  · exact ⟨hkept.frags, hkept.waves, hkept.mgmt, bytes, by rw [State.addTask_tasks, hsched, if_pos hone]⟩
  · exact ⟨hkept.frags, hkept.waves, hkept.mgmt, bytes, by rw [hsched, if_neg hone, List.append_nil]⟩

end countdown

section node

variable {s : State} {q : EdjorRequest} (h : Accepted s q) (ha : nodeAddr (field q.body 0 8) = true)
include h ha

theorem execGraphgo_answers_held (hheld : s.nodeFree (field q.body 0 8) = false) :
    Answers s q (.graphgo q) 0x20 0 (fun t p => p = [] ∧ t.mem = s.mem ∧ t.frags = s.frags ∧ t.waves = s.waves ∧
      Tbl.get [] t.sched.tasks (homeOf (field q.body 0 8)) = Tbl.get [] s.sched.tasks (homeOf (field q.body 0 8)) ++ [.follow [field q.body 0 8] 0]) := by
  refine answers_of_accepted [] h rfl fun x => ⟨(s.heard q x).addTask (homeOf (field q.body 0 8)) (.follow [field q.body 0 8] 0), ?_, rfl,
    fun _ _ => ⟨rfl, rfl, rfl, rfl, State.addTask_tasks ..⟩⟩
  have held : (s.heard q x).nodeFree (field q.body 0 8) = false := hheld
  exact congrArg ok (if_pos (by simp [ha, held]))

theorem execGraphgo_answers (hfree : ∀ e ∈ s.path.writes, e.2.line ≠ field q.body 0 8 / 128) (hr : s.rel.rot = [])
    (hp : s.memPoisoned (field q.body 0 8 + 4) 4 = false) (hw : s.path.waits = []) :
    Answers s q (.graphgo q) 0x20 0 (fun t p => p = [] ∧ t.frags = s.frags ∧ t.waves = s.waves ∧
      (∀ x, t.byte x = if field q.body 0 8 + 4 ≤ x then
        ((natBytes 4 (s.memNat (field q.body 0 8 + 4) 4 - 1))[x - (field q.body 0 8 + 4)]?).getD (s.byte x) else s.byte x) ∧
      Tbl.get [] t.sched.tasks (homeOf (field q.body 0 8)) =
        Tbl.get [] s.sched.tasks (homeOf (field q.body 0 8)) ++ if s.memNat (field q.body 0 8 + 4) 4 = 1 then [.start (field q.body 0 8)] else []) := by
  refine answers_of_accepted [] h rfl fun x => ?_
  have counts := (s.heard q x).decrement_countsDown _ ha hfree hr hp hw
  rw [← (s.heard q x).graphgo_free _ hfree] at counts
  exact ⟨_, rfl, congrArg Mgmt.sessions counts.mgmt, fun _ _ => ⟨rfl, counts.frags, counts.waves, counts.bytes, counts.tasks⟩⟩

end node

end Sys2Proof.Machine

/-! SUPPORT. Swaps, slots, save pools and parked teams (R389, R391, R392, R394). -/

namespace Sys2Proof.Machine

open Claims

/-! ## SWAP (R394) -/

/-- Steps that each keep a number in a set keep it. -/
theorem mem_foldl_of_mem {α : Type} (f : List Nat → α → List Nat) (k : Nat) (hf : ∀ cs a, k ∈ cs → k ∈ f cs a) (l : List α) (cs : List Nat) (h : k ∈ cs) :
    k ∈ l.foldl f cs := by
  induction l generalizing cs with
  | nil => exact h
  | cons a l ih => exact ih _ (hf cs a h)

theorem State.mem_widenSwap (s : State) (cores : List Nat) (c : Nat) (h : c ∈ cores) : c ∈ s.widenSwap cores :=
  mem_foldl_of_mem _ c (fun _ _ hc => (foldl_insert_mem _ _ _).2 (.inr hc)) _ _ h

/-- A swap covers the cores that it names. -/
theorem State.mem_swapSet (s : State) (cores : List Nat) (c : Nat) (h : c ∈ cores) : c ∈ s.swapSet cores :=
  s.mem_widenSwap _ c (s.mem_widenSwap _ c (s.mem_widenSwap _ c ((foldl_insert_mem _ _ _).2 (.inl h))))

/-- From `s` to `t` swaps may have started. -/
structure StartsSwaps (s t : State) : Prop where
  mem   : t.mem = s.mem
  waves : t.waves = s.waves
  teams : t.teams = s.teams
  mgmt  : t.mgmt = s.mgmt

/-- Swap `id` is asked for, or under way, for at least these cores. -/
def State.asksSwap (s : State) (id : Nat) (cores : List Nat) (keep : Bool) : Prop :=
  ∃ y, Tbl.find s.saves.swaps id = some y ∧ y.keep = keep ∧ y.spare = none ∧ ∀ c ∈ cores, c ∈ y.cores

theorem State.stopTeams_kept (l : List (Nat × Team)) (s : State) :
    StartsSwaps s (l.foldl (fun s e => s.stopTeam e.1) s) ∧ (l.foldl (fun s e => s.stopTeam e.1) s).saves = s.saves := by
  induction l generalizing s with
  | nil => exact ⟨⟨rfl, rfl, rfl, rfl⟩, rfl⟩
  | cons e l ih =>
    obtain ⟨hkept, hsaves⟩ := ih (s.stopTeam e.1)
    exact ⟨⟨hkept.mem, hkept.waves, hkept.teams, hkept.mgmt⟩, hsaves⟩

/-- A swap's start stops teams, and notes at its own entry that it is under way. -/
theorem State.startSwap_cases (s : State) (id : Nat) (x : Swap) :
    StartsSwaps s (s.startSwap id x) ∧ ((s.startSwap id x).saves.swaps = s.saves.swaps ∨
      (s.startSwap id x).saves.swaps = Tbl.put s.saves.swaps id { x with cores := s.swapSet x.cores, since := some s.ticks }) := by
  unfold State.startSwap
  dsimp only
  split_ifs
  · exact ⟨⟨rfl, rfl, rfl, rfl⟩, .inl rfl⟩
  · obtain ⟨hkept, hsaves⟩ := State.stopTeams_kept (s.teams.filter (fun e => e.2.where_ == .live && e.2.cores.any (s.swapSet x.cores).contains)) s
    exact ⟨⟨hkept.mem, hkept.waves, hkept.teams, hkept.mgmt⟩, .inr (by rw [hsaves])⟩

/-- Starting swaps keeps what is asked for of one whose entry among them says as much. -/
theorem State.startSwaps_kept (id : Nat) (cores : List Nat) (keep : Bool) (l : List (Nat × Swap))
    (hl : ∀ e ∈ l, e.1 = id → e.2.keep = keep ∧ e.2.spare = none ∧ ∀ c ∈ cores, c ∈ e.2.cores) (s : State) (h : s.asksSwap id cores keep) :
    StartsSwaps s (l.foldl (fun s e => s.startSwap e.1 e.2) s) ∧ (l.foldl (fun s e => s.startSwap e.1 e.2) s).asksSwap id cores keep := by
  induction l generalizing s with
  | nil => exact ⟨⟨rfl, rfl, rfl, rfl⟩, h⟩
  | cons e l ih =>
    obtain ⟨hkept, hcases⟩ := s.startSwap_cases e.1 e.2
    have step : (s.startSwap e.1 e.2).asksSwap id cores keep := by
      unfold State.asksSwap
      rcases hcases with hsame | hput
      · rw [hsame]
        exact h
      · rw [hput]
        by_cases he : e.1 = id
        · obtain ⟨hkeep, hspare, hcores⟩ := hl e (List.mem_cons_self ..) he
          rw [he]
          exact ⟨_, Tbl.find_put_same .., hkeep, hspare, fun c hc => s.mem_swapSet _ c (hcores c hc)⟩
        · rw [Tbl.find_put_ne _ _ _ _ (Ne.symm he)]
          exact h
    obtain ⟨hkept', hswap⟩ := ih (fun e he => hl e (List.mem_cons_of_mem _ he)) _ step
    exact ⟨⟨hkept'.mem.trans hkept.mem, hkept'.waves.trans hkept.waves, hkept'.teams.trans hkept.teams, hkept'.mgmt.trans hkept.mgmt⟩, hswap⟩

/-- A swap that is asked for under a free identity stays asked for as swaps start. -/
theorem State.requestSwap_started (s : State) (cores : List Nat) (keep : Bool) (hfree : ∀ e ∈ s.saves.swaps, e.1 ≠ s.nextId) :
    StartsSwaps s (s.requestSwap cores keep none).startSwaps ∧ (s.requestSwap cores keep none).startSwaps.asksSwap s.nextId cores keep := by
  have own : ∀ e ∈ (s.requestSwap cores keep none).saves.swaps, e.1 = s.nextId → e.2.keep = keep ∧ e.2.spare = none ∧ ∀ c ∈ cores, c ∈ e.2.cores := by
    intro e he hid
    rcases Tbl.mem_put _ _ _ _ he with rfl | he
    · exact ⟨rfl, rfl, fun _ hc => hc⟩
    · exact absurd hid (hfree e he)
  have asked : (s.requestSwap cores keep none).asksSwap s.nextId cores keep := ⟨_, Tbl.find_put_same .., rfl, rfl, fun _ hc => hc⟩
  obtain ⟨hkept, hswap⟩ := State.startSwaps_kept _ _ _ _ own _ asked
  exact ⟨⟨hkept.mem, hkept.waves, hkept.teams, hkept.mgmt⟩, hswap⟩

/-! ## SPILL (R391) -/

theorem State.mem_slotSet (s : State) (cores : List Nat) (c : Nat) (h : c ∈ cores) : c ∈ s.slotSet cores := by
  have grows (cs : List Nat) (l : List Nat) (hc : c ∈ cs) :
      c ∈ l.foldl (fun cs t => match s.team? t with | some T => T.cores.foldl NSet.insert cs | none => cs) cs := by
    refine mem_foldl_of_mem _ c (fun cs t hc => ?_) l cs hc
    cases s.team? t with
    | none => exact hc
    | some T => exact (foldl_insert_mem _ _ _).2 (.inr hc)
  exact grows _ _ (grows _ _ (grows _ _ ((foldl_insert_mem _ _ _).2 (.inl h))))

/-- What SPILL makes of a slot: a HELD one spills, or is EMPTY where it holds no team. -/
def Slot.spilled : Slot → Slot
  | .held ts => if ts.isEmpty then .empty else .spilling ts
  | x => x

theorem Slot.spilled_spilled (x : Slot) : x.spilled.spilled = x.spilled := by
  cases x with
  | held ts => cases ts <;> rfl
  | _ => rfl

/-- SPILL of one core's slot. -/
def State.spillSlot (s : State) (c : Nat) : State :=
  match s.slot c with
  | .held ts => s.setSlot c (if ts.isEmpty then .empty else .spilling ts)
  | _ => s

/-- From `s` to `t` only slots have changed. -/
def SlotsOnly (s t : State) : Prop := ∃ slots, t = { s with saves := { s.saves with slots := slots } }

theorem SlotsOnly.trans {s t u : State} (h : SlotsOnly s t) (k : SlotsOnly t u) : SlotsOnly s u := by
  obtain ⟨_, rfl⟩ := h
  obtain ⟨slots, rfl⟩ := k
  exact ⟨slots, rfl⟩

theorem State.spillSlot_spec (s : State) (c : Nat) :
    SlotsOnly s (s.spillSlot c) ∧ ∀ k, (s.spillSlot c).slot k = if k = c then (s.slot k).spilled else s.slot k := by
  unfold State.spillSlot
  split
  next ts hts =>
    refine ⟨⟨_, rfl⟩, fun k => (Tbl.get_set ..).trans ?_⟩
    by_cases hk : k = c
    · rw [if_pos hk, if_pos hk, hk, hts]
      rfl
    · rw [if_neg hk, if_neg hk]
      rfl
  next hnone =>
    refine ⟨⟨_, rfl⟩, fun k => ?_⟩
    split_ifs with hk
    · subst hk
      cases hslot : s.slot k with
      | held ts => exact absurd hslot (hnone ts)
      | _ => rfl
    · rfl

theorem State.spillSlots_spec (l : List Nat) (s : State) :
    SlotsOnly s (l.foldl State.spillSlot s) ∧ ∀ k, (l.foldl State.spillSlot s).slot k = if k ∈ l then (s.slot k).spilled else s.slot k := by
  induction l generalizing s with
  | nil => exact ⟨⟨_, rfl⟩, fun k => by simp⟩
  | cons c l ih =>
    obtain ⟨hkept, hslot⟩ := s.spillSlot_spec c
    obtain ⟨hkept', hslot'⟩ := ih (s.spillSlot c)
    refine ⟨hkept.trans hkept', fun k => ?_⟩
    rw [List.foldl_cons, hslot' k, hslot k]
    by_cases hk : k = c <;> by_cases hl : k ∈ l <;> simp [hk, hl, Slot.spilled_spilled]

def Slot.isHeld : Slot → Bool
  | .held _ => true
  | _ => false

/-- What SPILL does once it is accepted. -/
def spillAct (q : EdjorRequest) (s : State) : Verdict :=
  if (coresIn q.body 0).isEmpty || !(coresIn q.body 0).all (fun c => (s.slot c).isHeld) then refuse s stBADARG
  else ok ((s.slotSet (coresIn q.body 0)).foldl State.spillSlot s)

theorem execSpill_eq (s : State) (q : EdjorRequest) : exec (.spill q) s = .next (s.request q 0x31 true false (spillAct q)) := rfl

/-! ## The statement's clauses on swaps, slots, pools and images -/

section saves

variable {s : State} {q : EdjorRequest} (h : Accepted s q)
include h

theorem execSwap_answers (hsome : coresIn q.body 2 ≠ [])
    (hcores : ∀ c ∈ coresIn q.body 2, c < 1280 ∧ s.coreEnabled c = true ∧ clusterOf c = clusterOf ((coresIn q.body 2).headD 0))
    (hfree : ∀ e ∈ s.saves.swaps, e.1 ≠ s.nextId) :
    Answers s q (.swap q) 0x26 0 (fun t p => p = [] ∧ t.mem = s.mem ∧ t.waves = s.waves ∧ t.teams = s.teams ∧
      ∃ y, Tbl.find t.saves.swaps s.nextId = some y ∧ y.keep = (field q.body 0 1 != 0) ∧ y.spare = none ∧ ∀ c ∈ coresIn q.body 2, c ∈ y.cores) := by
  refine answers_of_accepted [] h rfl fun x => ?_
  have good : ¬((coresIn q.body 2).isEmpty || !(coresIn q.body 2).all (fun c => decide (c < 1280) && (s.heard q x).coreEnabled c &&
      clusterOf c == clusterOf ((coresIn q.body 2).headD 0))) = true := by
    have all_ : (coresIn q.body 2).all (fun c => decide (c < 1280) && (s.heard q x).coreEnabled c &&
        clusterOf c == clusterOf ((coresIn q.body 2).headD 0)) = true := by
      refine List.all_eq_true.2 fun c hc => ?_
      obtain ⟨hlt, hon, hclus⟩ := hcores c hc
      have on_ : (s.heard q x).coreEnabled c = true := hon
      simp only [hlt, on_, hclus, decide_true, Bool.and_self, beq_self_eq_true]
    rw [all_]
    simpa using hsome
  obtain ⟨hkept, hswap⟩ := (s.heard q x).requestSwap_started (coresIn q.body 2) (field q.body 0 1 != 0) hfree
  exact ⟨_, if_neg good, congrArg Mgmt.sessions hkept.mgmt, fun _ _ => ⟨rfl, hkept.mem, hkept.waves, hkept.teams, hswap⟩⟩

theorem execSpill_answers (hsome : coresIn q.body 0 ≠ []) (hheld : ∀ c ∈ coresIn q.body 0, ∃ ts, s.slot c = .held ts) :
    Answers s q (.spill q) 0x31 0 (fun t p => p = [] ∧ t.mem = s.mem ∧ t.waves = s.waves ∧ t.frags = s.frags ∧ t.teams = s.teams ∧
      ∀ c ∈ coresIn q.body 0, ∀ ts, s.slot c = .held ts → t.slot c = if ts.isEmpty then .empty else .spilling ts) := by
  refine answers_of_accepted [] h (execSpill_eq s q) fun x => ?_
  have all_ : (coresIn q.body 0).all (fun c => ((s.heard q x).slot c).isHeld) = true := by
    refine List.all_eq_true.2 fun c hc => ?_
    obtain ⟨ts, hts⟩ := hheld c hc
    have held_ : (s.heard q x).slot c = .held ts := hts
    rw [held_]
    rfl
  have good : ¬((coresIn q.body 0).isEmpty || !(coresIn q.body 0).all (fun c => ((s.heard q x).slot c).isHeld)) = true := by
    rw [all_]
    simpa using hsome
  obtain ⟨⟨slots, hkept⟩, hslot⟩ := State.spillSlots_spec ((s.heard q x).slotSet (coresIn q.body 0)) (s.heard q x)
  have spilled (c : Nat) (hc : c ∈ coresIn q.body 0) : Tbl.get .empty slots c = (s.slot c).spilled := by
    have at_ := hslot c
    rw [if_pos ((s.heard q x).mem_slotSet _ c hc), hkept] at at_
    exact at_
  exact ⟨_, (if_neg good).trans (congrArg ok hkept), rfl, fun _ _ => ⟨rfl, rfl, rfl, rfl, rfl,
    fun c hc ts hts => (spilled c hc).trans (congrArg Slot.spilled hts)⟩⟩

theorem execSavepool_answers (hdie : field q.body 0 1 ≤ 7) (hend : field q.body 8 8 + field q.body 16 8 ≤ 2 ^ 38) :
    Answers s q (.savepool q) 0x27 0 (fun t p => p = [] ∧
      t.saves = { s.saves with pools := Tbl.put s.saves.pools (field q.body 0 1) (field q.body 8 8, field q.body 16 8) } ∧ t.mem = s.mem ∧ t.frags = s.frags) := by
  refine answers_of_accepted [] h rfl fun x => ⟨_, if_neg ?_, rfl, fun _ _ => ⟨rfl, rfl, rfl, rfl⟩⟩
  simp only [Bool.or_eq_true, decide_eq_true_eq]
  omega

omit h in
/-- The answer for a team that is parked makes its image pending, whatever it says about delivery. -/
theorem State.answerPark_parked (deliver : Bool) (x : Session) (m : Image) (hm : Tbl.find s.saves.images (field q.body 0 4) = some m) (hkind : m.kind = .park)
    (hfirst : m.pending = false) (hpages : m.pages ≠ []) :
    ∃ t, (s.heard q x).answerPark q deliver = .answer t 0 [] ∧ t.mgmt.sessions = (s.heard q x).mgmt.sessions ∧ ∀ sessions out,
      (t.answered sessions out).mem = s.mem ∧ (t.answered sessions out).frags = s.frags ∧
      Tbl.find (t.answered sessions out).saves.images (field q.body 0 4) = some { m with pending := true, deliver := deliver, order := s.nextId } := by
  have found : Tbl.find (s.heard q x).saves.images (field q.body 0 4) = some m := hm
  unfold State.answerPark
  dsimp only
  rw [found]
  have pends : Tbl.find (Tbl.adjust s.saves.images (field q.body 0 4) (fun m => { m with pending := true, deliver := deliver, order := s.nextId }))
      (field q.body 0 4) = some { m with pending := true, deliver := deliver, order := s.nextId } := by
    rw [Tbl.find_adjust_same, hm, Option.map_some]
  exact ⟨_, if_neg (by simp [hkind, hfirst, hpages]), rfl, fun _ _ => ⟨rfl, rfl, pends⟩⟩

omit h in
theorem State.answerPark_unknown (deliver : Bool) (x : Session) (hm : Tbl.find s.saves.images (field q.body 0 4) = none) :
    (s.heard q x).answerPark q deliver = .answer (s.heard q x) 3 [] := by
  have found : Tbl.find (s.heard q x).saves.images (field q.body 0 4) = none := hm
  unfold State.answerPark
  dsimp only
  rw [found]
  rfl

omit h in
/-- PARKANS comes in two forms (R389). -/
theorem execParkans_eq (s : State) (q : EdjorRequest) (deliver : Bool) :
    exec (if deliver then .parkansDeliver q else .parkansResolve q) s = .next (s.request q 0x28 true false (fun s => s.answerPark q deliver)) := by
  cases deliver <;> rfl

theorem execParkans_answers (deliver : Bool) :
    (∀ m, Tbl.find s.saves.images (field q.body 0 4) = some m → m.kind = .park → m.pending = false → m.pages ≠ [] →
      Answers s q (if deliver then .parkansDeliver q else .parkansResolve q) 0x28 0 (fun t p => p = [] ∧ t.mem = s.mem ∧ t.frags = s.frags ∧
        Tbl.find t.saves.images (field q.body 0 4) = some { m with pending := true, deliver := deliver, order := s.nextId })) ∧
    (Tbl.find s.saves.images (field q.body 0 4) = none →
      Answers s q (if deliver then .parkansDeliver q else .parkansResolve q) 0x28 3 (fun t p => p = [] ∧ OnlyManages s t)) := by
  refine ⟨fun m hm hkind hfirst hpages => answers_of_accepted [] h (execParkans_eq s q deliver) fun x => ?_,
    fun hm => answers_of_accepted [] h (execParkans_eq s q deliver) fun x => ⟨_, State.answerPark_unknown deliver x hm, rfl, fun _ _ => ⟨rfl, refused_onlyManages _ _⟩⟩⟩
  obtain ⟨t, hact, hsess, hP⟩ := State.answerPark_parked deliver x m hm hkind hfirst hpages
  exact ⟨t, hact, hsess, fun sessions out => ⟨rfl, hP sessions out⟩⟩

end saves

end Sys2Proof.Machine

/-! SUPPORT. ENDTEAM: a team's waves end (R386). -/

namespace Sys2Proof.Machine

open Claims

/-! ## ENDTEAM (R386) -/

theorem Tbl.find_isSome_of_mem {α : Type} (t : Tbl α) (e : Nat × α) (h : e ∈ t) : (Tbl.find t e.1).isSome = true := by
  induction t with
  | nil => exact absurd h List.not_mem_nil
  | cons a t ih =>
    show (if e.1 = a.1 then some a.2 else Tbl.find t e.1).isSome = true
    split_ifs with he
    · rfl
    · rcases List.mem_cons.1 h with rfl | h
      · exact absurd rfl he
      · exact ih h

theorem Tbl.mem_of_find {α : Type} (t : Tbl α) (k : Nat) (v : α) (h : Tbl.find t k = some v) : (k, v) ∈ t := by
  induction t with
  | nil => cases h
  | cons a t ih =>
    have here : (if k = a.1 then some a.2 else Tbl.find t k) = some v := h
    split_ifs at here with hk
    · cases here
      rw [hk]
      exact List.mem_cons_self ..
    · exact List.mem_cons_of_mem _ (ih here)

theorem Tbl.find_isSome_map {α : Type} (t : Tbl α) (f : Nat × α → α) (k : Nat) :
    (Tbl.find (List.map (fun e => (e.1, f e)) t) k).isSome = (Tbl.find t k).isSome := by
  induction t with
  | nil => rfl
  | cons a t ih =>
    show (if k = a.1 then some (f a) else Tbl.find (List.map (fun e => (e.1, f e)) t) k).isSome = (if k = a.1 then some a.2 else Tbl.find t k).isSome
    split_ifs
    · rfl
    · exact ih

/-- Every lane that is live in `V` is live in `W`. -/
def Wave.LiveIn (V W : Wave) : Prop := ∀ l, V.live.getLsbD l = true → W.live.getLsbD l = true

/-- From `s` to `t` fragments and lanes may have ended: memory, the walkers' state and the management's are as they were, the same teams are known,
and no lane has come to life. -/
structure Winds (s t : State) : Prop where
  mem   : t.mem = s.mem
  mgmt  : t.mgmt = s.mgmt
  sched : t.sched = s.sched
  teams : ∀ k, (t.team? k).isSome = (s.team? k).isSome
  lives : ∀ w V, s.wave? w = some V → ∃ U, t.wave? w = some U ∧ U.LiveIn V

theorem Winds.refl (s : State) : Winds s s := ⟨rfl, rfl, rfl, fun _ => rfl, fun _ V hV => ⟨V, hV, fun _ h => h⟩⟩

theorem Winds.trans {s t u : State} (h : Winds s t) (k : Winds t u) : Winds s u := by
  refine ⟨k.mem.trans h.mem, k.mgmt.trans h.mgmt, k.sched.trans h.sched, fun n => (k.teams n).trans (h.teams n), fun w V hV => ?_⟩
  obtain ⟨U, hU, hin⟩ := h.lives w V hV
  obtain ⟨T, hT, hin'⟩ := k.lives w U hU
  exact ⟨T, hT, fun l hl => hin l (hin' l hl)⟩

theorem State.noteExit_winds (s : State) (f : Nat) : Winds s (s.noteExit f) := by
  have same : Winds s s := .refl s
  unfold State.noteExit
  split
  · exact same
  · split
    · exact same
    · split
      · exact same
      · split
        · exact ⟨rfl, rfl, rfl, fun _ => rfl, same.lives⟩
        · exact same

theorem State.forget_winds (s : State) (f : Nat) : Winds s (s.forget f) :=
  ⟨rfl, rfl, rfl, fun k => Tbl.find_isSome_map s.teams _ k, fun _ V hV => ⟨V, hV, fun _ h => h⟩⟩

/-- A wave without some of its lanes. -/
def Wave.stripped (W : Wave) (gone : Mask) : Wave :=
  { W with live := W.live &&& ~~~gone, stack := (W.stack.map (fun e => { e with lanes := e.lanes &&& ~~~gone })).filter (fun e => e.lanes != 0) }

/-- The tables of teams and waves after lanes are dropped; memory, the walkers and the management are as they were. -/
theorem State.dropLanes_tables (s : State) (w : Nat) (lanes : Mask) (W : Wave) (hW : s.wave? w = some W) :
    (∃ g, (s.dropLanes w lanes).teams = Tbl.adjust s.teams W.team g) ∧
      (s.dropLanes w lanes).waves = Tbl.adjust s.waves w (fun V => V.stripped (lanes &&& W.live)) ∧
      (s.dropLanes w lanes).mem = s.mem ∧ (s.dropLanes w lanes).mgmt = s.mgmt ∧ (s.dropLanes w lanes).sched = s.sched := by
  unfold State.dropLanes
  rw [hW]
  exact ⟨⟨fun T => (lanes &&& W.live).lanes.foldl (fun T l => T.killLane W.role (tliBase T W + l)) T, rfl⟩, rfl, rfl, rfl, rfl⟩

/-- Lanes that are dropped from a wave live in it no more. -/
theorem State.dropLanes_winds (s : State) (w : Nat) (lanes : Mask) : Winds s (s.dropLanes w lanes) ∧
    ∀ V, s.wave? w = some V → (∀ l, V.live.getLsbD l = true → lanes.getLsbD l = true) → ∃ U, (s.dropLanes w lanes).wave? w = some U ∧ U.live = 0 := by
  cases hW : s.wave? w with
  | none =>
    have same : s.dropLanes w lanes = s := by
      unfold State.dropLanes
      rw [hW]
    rw [same]
    exact ⟨.refl s, fun V hV => nomatch hV⟩
  | some W =>
    obtain ⟨⟨g, hteams⟩, hwaves, hmem, hmgmt, hsched⟩ := s.dropLanes_tables w lanes W hW
    have stripped : (s.dropLanes w lanes).wave? w = some (W.stripped (lanes &&& W.live)) := by
      rw [State.wave?, hwaves, Tbl.find_adjust_same]
      exact congrArg (Option.map _) hW
    refine ⟨⟨hmem, hmgmt, hsched, fun n => ?_, fun k V hV => ?_⟩, fun V hV hall => ⟨_, stripped, ?_⟩⟩
    · rw [State.team?, hteams]
      by_cases hn : n = W.team
      · rw [hn, Tbl.find_adjust_same, Option.isSome_map]
        rfl
      · rw [Tbl.find_adjust_ne _ _ _ _ hn]
        rfl
    · by_cases hk : k = w
      · subst hk
        cases hW.symm.trans hV
        refine ⟨_, stripped, fun l hl => ?_⟩
        rw [Wave.stripped, BitVec.getLsbD_and, Bool.and_eq_true] at hl
        exact hl.1
      · refine ⟨V, ?_, fun _ h => h⟩
        rw [State.wave?, hwaves, Tbl.find_adjust_ne _ _ _ _ hk]
        exact hV
    · cases hV
      refine BitVec.eq_of_getLsbD_eq fun l hl => ?_
      have lane := hall l
      cases hlive : W.live.getLsbD l <;> simp_all [Wave.stripped]

/-- What ENDTEAM does to one wave. -/
def State.killWave (s : State) (e : Nat × Wave) : State :=
  let s1 := (s.fragsOf e.1).foldl (fun s f => (s.noteExit f.1).forget f.1) s
  let s2 := s1.dropLanes e.1 e.2.live
  { s2 with frags := List.filter (fun f => f.2.wave != e.1) s2.frags }

theorem State.exits_winds (l : List (Nat × Frag)) (s : State) : Winds s (l.foldl (fun s f => (s.noteExit f.1).forget f.1) s) := by
  induction l generalizing s with
  | nil => exact .refl s
  | cons f l ih => exact ((s.noteExit_winds f.1).trans (State.forget_winds _ _)).trans (ih _)

theorem State.killWave_winds (s : State) (e : Nat × Wave) :
    Winds s (s.killWave e) ∧ ∀ V, s.wave? e.1 = some V → V.LiveIn e.2 → ∃ U, (s.killWave e).wave? e.1 = some U ∧ U.live = 0 := by
  have left := State.exits_winds (s.fragsOf e.1) s
  obtain ⟨drop, dead⟩ := State.dropLanes_winds ((s.fragsOf e.1).foldl (fun s f => (s.noteExit f.1).forget f.1) s) e.1 e.2.live
  have whole := left.trans drop
  refine ⟨⟨whole.mem, whole.mgmt, whole.sched, whole.teams, whole.lives⟩, fun V hV hin => ?_⟩
  obtain ⟨U, hU, hin'⟩ := left.lives e.1 V hV
  exact dead U hU fun l hl => hin l (hin' l hl)

/-- A wave without a live lane has none later. -/
theorem Winds.dead {s t : State} (h : Winds s t) {w : Nat} {V : Wave} (hV : s.wave? w = some V) (hdead : V.live = 0) :
    ∃ U, t.wave? w = some U ∧ U.live = 0 := by
  obtain ⟨U, hU, hin⟩ := h.lives w V hV
  refine ⟨U, hU, BitVec.eq_of_getLsbD_eq fun l _ => ?_⟩
  have none_ := hin l
  rw [hdead] at none_
  simpa using none_

/-- Of the waves that are killed no lane lives. -/
theorem State.killWaves_winds (l : List (Nat × Wave)) (s : State) : Winds s (l.foldl State.killWave s) ∧
    ∀ e ∈ l, ∀ V, s.wave? e.1 = some V → V.LiveIn e.2 → ∃ U, (l.foldl State.killWave s).wave? e.1 = some U ∧ U.live = 0 := by
  induction l generalizing s with
  | nil => exact ⟨.refl s, fun _ he => absurd he List.not_mem_nil⟩
  | cons a l ih =>
    obtain ⟨first, dead⟩ := s.killWave_winds a
    obtain ⟨rest, dead'⟩ := ih (s.killWave a)
    refine ⟨first.trans rest, fun e he V hV hin => ?_⟩
    rcases List.mem_cons.1 he with rfl | he
    · obtain ⟨U, hU, hzero⟩ := dead V hV hin
      exact rest.dead hU hzero
    · obtain ⟨U, hU, hin'⟩ := first.lives e.1 V hV
      exact dead' e he U hU fun l hl => hin l (hin' l hl)

/-- A team that had not ended has the status of its end. -/
theorem State.teamEnded_spec (s : State) (t status : Nat) (ht : (s.team? t).isSome = true) (hopen : Tbl.get 0 s.sched.ended t = 0) :
    (s.teamEnded t status).mem = s.mem ∧ (s.teamEnded t status).mgmt = s.mgmt ∧ (s.teamEnded t status).waves = s.waves ∧
      Tbl.get 0 (s.teamEnded t status).sched.ended t = status := by
  obtain ⟨T, hT⟩ := Option.isSome_iff_exists.1 ht
  have ended : Tbl.get 0 (Tbl.set 0 s.sched.ended t status) t = status := Tbl.get_set_same ..
  unfold State.teamEnded
  rw [hT]
  dsimp only
  rw [if_neg (not_not.2 hopen)]
  split
  · exact ⟨rfl, rfl, rfl, ended⟩
  · split <;> exact ⟨rfl, rfl, rfl, ended⟩

theorem State.killTeam_spec (s : State) (t status : Nat) (ht : (s.team? t).isSome = true) (hopen : Tbl.get 0 s.sched.ended t = 0) :
    (s.killTeam t status).mem = s.mem ∧ (s.killTeam t status).mgmt = s.mgmt ∧ Tbl.get 0 (s.killTeam t status).sched.ended t = status ∧
      ∀ w W, s.wave? w = some W → W.team = t → ∃ V, (s.killTeam t status).wave? w = some V ∧ V.live = 0 := by
  obtain ⟨winds, dead⟩ := State.killWaves_winds (s.wavesOf t) s
  obtain ⟨hmem, hmgmt, hwaves, hended⟩ := State.teamEnded_spec ((s.wavesOf t).foldl State.killWave s) t status ((winds.teams t).trans ht) (by rw [winds.sched]; exact hopen)
  have killed : s.killTeam t status = (((s.wavesOf t).foldl State.killWave s).teamEnded t status).dropContext t := rfl
  rw [killed]
  refine ⟨hmem.trans winds.mem, hmgmt.trans winds.mgmt, hended, fun w W hW hteam => ?_⟩
  have mine : (w, W) ∈ s.wavesOf t := List.mem_filter.2 ⟨Tbl.mem_of_find s.waves w W hW, by simpa using hteam⟩
  obtain ⟨V, hV, hzero⟩ := dead (w, W) mine W hW fun _ h => h
  refine ⟨V, ?_, hzero⟩
  show Tbl.find _ w = some V
  rw [show ((((s.wavesOf t).foldl State.killWave s).teamEnded t status).dropContext t).waves = ((s.wavesOf t).foldl State.killWave s).waves from hwaves]
  exact hV

/-- A team that a request names is known, and has not ended. -/
theorem State.teamNamed_spec (s : State) (bs : List Byte) (t : Nat) (h : s.teamNamed bs = some t) :
    (s.team? t).isSome = true ∧ Tbl.get 0 s.sched.ended t = 0 := by
  obtain ⟨e, he, rfl⟩ := Option.map_eq_some_iff.1 h
  have named := List.find?_some he
  simp only [Bool.and_eq_true, beq_iff_eq] at named
  exact ⟨Tbl.find_isSome_of_mem _ e (List.mem_of_find?_eq_some he), named.1.2⟩

theorem execEndteam_answers {s : State} {q : EdjorRequest} (h : Accepted s q) :
    (∀ k, s.teamNamed q.body = some k →
      Answers s q (.endteam q) 0x29 0 (fun t p => p = [] ∧ t.mem = s.mem ∧ Tbl.get 0 t.sched.ended k = 5 ∧
        ∀ w W, s.wave? w = some W → W.team = k → ∃ V, t.wave? w = some V ∧ V.live = 0)) ∧
    (s.teamNamed q.body = none → Answers s q (.endteam q) 0x29 3 (fun t p => p = [] ∧ OnlyManages s t)) := by
  refine ⟨fun k hk => answers_of_accepted [] h rfl fun x => ?_, fun hnone => answers_of_accepted [] h rfl fun x => ?_⟩
  · have named : (s.heard q x).teamNamed q.body = some k := hk
    obtain ⟨hteam, hopen⟩ := (s.heard q x).teamNamed_spec q.body k named
    obtain ⟨hmem, hmgmt, hended, hdead⟩ := (s.heard q x).killTeam_spec k 5 hteam hopen
    refine ⟨(s.heard q x).killTeam k 5, ?_, congrArg Mgmt.sessions hmgmt, fun _ _ => ⟨rfl, hmem, hended, hdead⟩⟩
    simp only [named]
    rfl
  · have named : (s.heard q x).teamNamed q.body = none := hnone
    refine ⟨s.heard q x, ?_, rfl, fun _ _ => ⟨rfl, refused_onlyManages _ _⟩⟩
    simp only [named]
    rfl

/-- Graphs, swaps, slots, pools, parked teams and their end. -/
theorem graphsAndTeams : Claims.ownerDirects := by
  intro s q h
  obtain ⟨resolve, resolve_unknown⟩ := execParkans_answers h false
  obtain ⟨deliver, deliver_unknown⟩ := execParkans_answers h true
  obtain ⟨endteam, endteam_unknown⟩ := execEndteam_answers h
  exact ⟨fun ha hheld => execGraphgo_answers_held h ha hheld, fun ha hfree hr hp hw => execGraphgo_answers h ha hfree hr hp hw, execSwap_answers h,
    execSpill_answers h, execSavepool_answers h, fun m hm hkind hfirst hpages => ⟨resolve m hm hkind hfirst hpages, deliver m hm hkind hfirst hpages⟩,
    fun hm => ⟨resolve_unknown hm, deliver_unknown hm⟩, endteam, endteam_unknown⟩

end Sys2Proof.Machine

/-! SUPPORT. Profiles, throttling, spares, firmware and RESET (R415, R428 to R433, R447, R448, R450). -/

namespace Sys2Proof.Machine

open Claims

/-! ## Profiles (R428 to R433) -/

theorem Tbl.get_filter {α : Type} (d : α) (t : Tbl α) (p : Nat → Bool) (k : Nat) :
    Tbl.get d (List.filter (fun e => p e.1) t) k = if p k then Tbl.get d t k else d := by
  induction t with
  | nil => simp [Tbl.get]
  | cons e t ih =>
    have here : Tbl.get d (e :: t) k = if k = e.1 then e.2 else Tbl.get d t k := rfl
    rw [List.filter_cons, here]
    by_cases hp : p e.1 = true
    · rw [if_pos hp]
      have there : Tbl.get d (e :: List.filter (fun e => p e.1) t) k = if k = e.1 then e.2 else Tbl.get d (List.filter (fun e => p e.1) t) k := rfl
      rw [there, ih]
      by_cases hk : k = e.1
      · simp [hk, hp]
      · simp [hk]
    · rw [if_neg hp, ih]
      by_cases hk : k = e.1
      · simp [hk, hp]
      · simp [hk]

/-- Clearing a die's counters makes them, and those of its cores, zero, and no others. -/
theorem State.clearCounters_get (s : State) (die k : Nat) :
    Tbl.get 0 (s.clearCounters die).rel.counters k =
      if k / 16 = 10000 + die ∨ (k / 16 < 1280 ∧ k / 16 / 160 = die) then 0 else Tbl.get 0 s.rel.counters k := by
  refine (Tbl.get_filter 0 s.rel.counters (fun k => !(k / 16 == 10000 + die || (decide (k / 16 < 1280) && k / 16 / 160 == die))) k).trans ?_
  have named : (!(k / 16 == 10000 + die || (decide (k / 16 < 1280) && k / 16 / 160 == die))) = true ↔
      ¬(k / 16 = 10000 + die ∨ (k / 16 < 1280 ∧ k / 16 / 160 = die)) := by
    simp only [Bool.not_eq_true', ← Bool.not_eq_true, Bool.or_eq_true, Bool.and_eq_true, beq_iff_eq, decide_eq_true_eq]
  rw [if_congr named rfl rfl, ite_not]

section device

variable {s : State} {q : EdjorRequest}

theorem execProfileRead_answers (h : Accepted s q) (hdie : field q.body 0 1 ≤ 7) :
    Answers s q (.profileRead q) 0x2B 0 (fun t p => p = wordBytes (s.dieReport (field q.body 0 1)) ∧ OnlyManages s t) :=
  answers_of_accepted (wordBytes (s.dieReport (field q.body 0 1))) h rfl fun _ => ⟨_, if_neg (Nat.not_lt.2 hdie), rfl, fun _ _ => ⟨rfl, refused_onlyManages _ _⟩⟩

theorem execProfileReadClear_answers (h : Accepted s q) (hdie : field q.body 0 1 ≤ 7) :
    Answers s q (.profileReadClear q) 0x2B 0 (fun t p => p = wordBytes (s.dieReport (field q.body 0 1)) ∧ t.mem = s.mem ∧ t.frags = s.frags ∧
      ∀ k, Tbl.get 0 t.rel.counters k =
        if k / 16 = 10000 + field q.body 0 1 ∨ (k / 16 < 1280 ∧ k / 16 / 160 = field q.body 0 1) then 0 else Tbl.get 0 s.rel.counters k) :=
  answers_of_accepted (wordBytes (s.dieReport (field q.body 0 1))) h rfl fun x =>
    ⟨_, if_neg (Nat.not_lt.2 hdie), rfl, fun _ _ => ⟨rfl, rfl, rfl, (s.heard q x).clearCounters_get (field q.body 0 1)⟩⟩

/-- The sampling exponents are set, and without rings nothing is flushed (R429, R431). -/
theorem execProfileFlush_answers (h : Accepted s q) (hset : field q.body 0 1 = 4) (ha : 10 ≤ field q.body 8 8) (ha' : field q.body 8 8 ≤ 24)
    (hb : 6 ≤ field q.body 16 8) (hb' : field q.body 16 8 ≤ 20) (hrings : s.prof.rings = []) :
    Answers s q (.profileFlush q) 0x2B 0 (fun t p => p = [] ∧ t.prof = { s.prof with pcK := field q.body 8 8, memK := field q.body 16 8 } ∧ t.mem = s.mem ∧
      t.frags = s.frags) := by
  refine answers_of_accepted [] h rfl fun x => ?_
  let set_ : State := { s.heard q x with prof := { s.prof with pcK := field q.body 8 8, memK := field q.body 16 8 } }
  have sets : (s.heard q x).profileSet q.body = some set_ := by
    have good : ¬(decide (field q.body 8 8 < 10) || decide (24 < field q.body 8 8) || decide (field q.body 16 8 < 6) || decide (20 < field q.body 16 8)) = true := by
      simp only [Bool.or_eq_true, decide_eq_true_eq]
      omega
    unfold State.profileSet
    rw [hset]
    exact if_neg good
  have flushes : set_.flushCounters = set_ := by
    unfold State.flushCounters
    rw [show set_.prof.rings = [] from hrings]
    rfl
  refine ⟨set_, ?_, rfl, fun _ _ => ⟨rfl, rfl, rfl, rfl⟩⟩
  simp only [sets, flushes]
  rw [show set_.prof.rings = [] from hrings]
  rfl

/-! ## Throttling, spares and firmware (R415, R448, R450) -/

theorem execThrottle_answers (h : Accepted s q) :
    (field q.body 0 1 ≤ 7 → s.path.waits = [] →
      Answers s q (.throttle q) 0x2C 0 (fun t p => p = [] ∧ t.mgmt.floor = field q.body 0 1 ∧ t.mgmt.level = max (field q.body 0 1) s.mgmt.level ∧
        t.frags = s.frags ∧ t.waves = s.waves)) ∧
    (7 < field q.body 0 1 → Answers s q (.throttle q) 0x2C 3 (fun t p => p = [] ∧ OnlyManages s t ∧ t.mgmt.floor = s.mgmt.floor)) := by
  refine ⟨fun hlevel hw => answers_of_accepted [] h rfl fun x => ?_,
    fun hlevel => answers_of_accepted [] h rfl fun x => ⟨_, if_pos hlevel, rfl, fun _ _ => ⟨rfl, refused_onlyManages _ _, rfl⟩⟩⟩
  let floored : State := { s.heard q x with mgmt := { (s.heard q x).mgmt with floor := field q.body 0 1 } }
  obtain ⟨⟨rs, hkept⟩, -⟩ := floored.setLevel_records (max (field q.body 0 1) s.mgmt.level) hw
  have hsessions := congrArg Mgmt.sessions hkept.mgmt
  have hfloor := congrArg Mgmt.floor hkept.mgmt
  have hnew := congrArg Mgmt.level hkept.mgmt
  exact ⟨floored.setLevel (max (field q.body 0 1) s.mgmt.level), if_neg (Nat.not_lt.2 hlevel), hsessions, fun _ _ =>
    ⟨rfl, hfloor, hnew, hkept.frags, hkept.waves⟩⟩

theorem execSpare_answers (h : Accepted s q) (hn : field q.body 0 1 ≤ 1) :
    Answers s q (.spare q) 0x2D 0 (fun t p => p = [] ∧ OnlyManages s t ∧ (t.mgmt.autoSpare = true ↔ field q.body 0 1 = 1)) :=
  answers_of_accepted [] h rfl fun _ => ⟨_, if_neg (Nat.not_lt.2 hn), rfl, fun _ _ => ⟨rfl, ⟨rfl, rfl⟩, beq_iff_eq⟩⟩

/-- An image is staged where its signature is good (R448). -/
theorem execFwload_answers (h : Accepted s q) :
    let n := q.body.length - 3309
    let good := Config.signed Config.firmwareKey (q.body.take n) (q.body.drop n)
    Answers s q (.fwload q) 0x2F (if good then 0 else 3) (fun t p => p = [] ∧ OnlyManages s t ∧
      t.mgmt.staged = if good then some (q.body.take n) else s.mgmt.staged) := by
  intro n good
  by_cases hgood : good = true
  · rw [if_pos hgood, if_pos hgood]
    exact answers_of_accepted [] h rfl fun _ => ⟨_, if_pos hgood, rfl, fun _ _ => ⟨rfl, ⟨rfl, rfl⟩, rfl⟩⟩
  · rw [if_neg hgood, if_neg hgood]
    exact answers_of_accepted [] h rfl fun _ => ⟨_, if_neg hgood, rfl, fun _ _ => ⟨rfl, refused_onlyManages _ _, rfl⟩⟩

/-! ## RESET (R324, R447) -/

/-- The device that RESET leaves: nothing runs, bring-up is to start, and the state epoch has changed. -/
structure StartsAgain (s t : State) : Prop where
  ready   : t.ready = false
  stage   : t.mgmt.stage = 0
  fail    : t.mgmt.fail = 0
  teams   : t.teams = []
  waves   : t.waves = []
  frags   : t.frags = []
  images  : t.saves.images = []
  slots   : t.saves.slots = []
  mwins   : t.mgmt.windows = []
  hwins   : t.links.windows = []
  insts   : t.rc.insts = []
  epoch   : t.links.epoch = s.links.epoch + 1

/-- Without a pending claim nobody wins the device that RESET has left. -/
theorem State.restart_elect (s : State) (h : ∀ e ∈ s.mgmt.sessions, e.2.claim = none) : s.restart.elect = s.restart := by
  have nobody : s.restart.winner = none := by
    have none_ : s.mgmt.sessions.filter (fun e => e.2.claim.isSome) = [] := List.filter_eq_nil_iff.2 fun e he => by simp [h e he]
    show (match s.mgmt.sessions.filter (fun e => e.2.claim.isSome) with | [] => none | x :: rest => some (rest.foldl betterClaim x)) = none
    rw [none_]
  unfold State.elect
  rw [nobody]
  split
  next hsome => cases hsome
  next => rfl

/-- RESET while no claim is pending. -/
theorem execReset_answers (h : Owns s q) (hclaims : ∀ e ∈ s.mgmt.sessions, e.2.claim = none) :
    Answers s q (.reset q) 0x30 0 (fun t p => p = [] ∧ StartsAgain s t ∧ t.mgmt.owner = none) := by
  refine answers_of_owner [] h (.inr rfl) rfl fun x hx => ⟨(s.heard q x).restart, congrArg ok ((s.heard q x).restart_elect fun e he => ?_),
    (s.heard_answerable q x).of_sessions rfl, fun _ _ => ⟨rfl, ⟨rfl, rfl, rfl, rfl, rfl, rfl, rfl, rfl, rfl, rfl, rfl, rfl⟩, rfl⟩⟩
  have unclaimed : x.claim = none := hclaims _ (Tbl.mem_of_find _ _ _ hx)
  rcases Tbl.mem_put _ _ _ _ he with rfl | he
  · exact unclaimed
  · exact hclaims e he

end device

end Sys2Proof.Machine

/-! SUPPORT. RESET where a session is listed twice (R441, R447). -/

namespace Sys2Proof.Machine

open Claims

/-! ## RESET where two entries of the session table have one key -/

/-- RESET of session 1, on port 0. -/
def resetRequest : EdjorRequest := { port := 0, source := 0, op := 0x30, session := 1, seq := 1, body := [] }

/-- Session 1, the owner's, as it was last heard: on port 0. -/
def heardOwner : Session := { master := 0, port := 0, top := 0, stored := [], claim := none, evSeq := 0 }

/-- The table lists session 1 a second time, on port 1 and with a claim to the device. -/
def sessionTwice : State :=
  { State.reset with mgmt := { State.reset.mgmt with owner := some 1, sessions := [(1, heardOwner), (1, { heardOwner with port := 1, claim := some 0 })] } }

theorem sessionTwice_owns : Owns sessionTwice resetRequest := ⟨by decide, rfl, heardOwner, rfl, by decide⟩

/-- The claim wins the device that RESET has left without an owner, and the second entry takes the place of the first: RESET is answered on its port. -/
theorem sessionTwice_exec : ∃ t, exec (.reset resetRequest) sessionTwice = .next t ∧ t.mgmt.out.head? = some (.edjor 1 0x30 1 1 0 []) :=
  ⟨_, rfl, by decide +kernel⟩

/-- The clause on RESET fails: it says that the answer leaves on the port of the request. -/
theorem not_deviceIsSet : ¬ Claims.deviceIsSet := by
  intro h
  obtain ⟨-, -, -, -, -, -, reset⟩ := h sessionTwice resetRequest
  obtain ⟨t, payload, rest, next, out, -⟩ := reset sessionTwice_owns
  obtain ⟨t', next', head⟩ := sessionTwice_exec
  cases next.symm.trans next'
  rw [out] at head
  exact absurd head (by simp [resetRequest])

/-- Refutes O51: where the session table lists the owner's session twice, the second time with a pending claim, RESET's election puts that entry in the
place of the one that was heard, and the answer leaves on its port. The clause on RESET lacks the condition that no session is listed twice; while no
claim is pending it holds (`execReset_answers`), and so do the claims on windows and maps (`windowsOpen`) and on graphs, swaps and teams
(`graphsAndTeams`). -/
theorem not_ownerDirects : ¬ Obligations.OwnerDirects := fun h => not_deviceIsSet h.2.2

end Sys2Proof.Machine

/-! SUPPORT. Writes on their way and at their homes, while no error is at rest (R95 to R100). -/

namespace Sys2Proof.Machine

open Claims

/-! ## Lines of the L2 -/

/-- From `s` to `t` only lines of the L2s, notices to their sharers and open values differ. -/
def MovesLines (s t : State) : Prop := ∃ l2 detach free, t = { s with path := { s.path with l2 := l2, detach := detach }, free := free }

theorem State.l2Evict_movesLines (s : State) (line : Nat) (hr : s.rel.rot = []) : MovesLines s (s.l2Evict line) := by
  have none_ : s.rel.rot.contains line = false := by simp [hr]
  have kept : { s.rel with rot := s.rel.rot.filter (fun x => x != line) } = s.rel := by rw [hr, List.filter_nil, ← hr]
  unfold State.l2Evict
  simp only [none_, kept, Bool.false_eq_true, if_false, ite_self]
  exact ⟨_, _, _, rfl⟩

theorem State.setL2_movesLines (s : State) (line : Nat) (l : L2Line) (hr : s.rel.rot = []) : MovesLines s (s.setL2 line l) := by
  unfold State.setL2
  dsimp only
  split_ifs
  · exact ⟨_, _, _, rfl⟩
  · obtain ⟨l2, detach, free, h⟩ := State.l2Evict_movesLines { s with path := { s.path with l2 := Tbl.set ⟨[], [], []⟩ s.path.l2 line l }, free := s.free + 1 } _ hr
    exact ⟨l2, detach, free, h⟩

/-- The line that an L2 gives up for another is not that one. -/
theorem State.setL2_l2Line (s : State) (line : Nat) (l : L2Line) (hr : s.rel.rot = []) : (s.setL2 line l).l2Line line = l := by
  unfold State.setL2
  dsimp only
  split_ifs with hroom
  · exact Tbl.get_set_same ..
  · generalize hthere : List.filter _ (Tbl.set ⟨[], [], []⟩ s.path.l2 line l) = there at hroom ⊢
    have full : 0 < there.length := Nat.lt_of_lt_of_le (by decide : 0 < l2Lines) (Nat.not_lt.1 hroom)
    have pick : Config.freeNat s.free % there.length < there.length := Nat.mod_lt _ full
    have other : (there.getD (Config.freeNat s.free % there.length) (line, l)).1 ≠ line := by
      rw [List.getD_eq_getElem _ _ pick]
      have all : ∀ e ∈ there, e.1 ≠ line := fun e he => by
        rw [← hthere] at he
        simpa using (Bool.and_eq_true_iff.1 (List.mem_filter.1 he).2).2
      exact all _ (List.getElem_mem pick)
    rw [State.l2Line, (State.l2Evict_path _ _ (by exact hr)).1, Tbl.get_set_ne _ _ _ _ _ other.symm]
    exact Tbl.get_set_same ..

/-! ## HOME_WRITE_ACCEPT (R97, R99) -/

/-- Without an error at rest, a write to bytes whose sectors no fragment waits on is the write alone. -/
theorem State.storeHome_of_unwatched (s : State) (cells : List (Nat × Byte)) (bad : List Nat) (hr : s.rel.rot = []) (hw : ∀ c ∈ cells, NoWaitAt s c.1) :
    s.storeHome cells bad = s.writeMem cells bad := by
  unfold State.storeHome
  dsimp only
  rw [State.findErrors_of_sound _ _ hr, State.recheck_of_none (h := ?asleep)]
  case asleep =>
    intro e he hsec
    obtain ⟨c, hc, hsec⟩ := List.mem_map.1 (List.mem_dedup.1 hsec)
    exact hw c hc e he hsec.symm

/-- What becomes of a write that its home has accepted: it is done, or the other sharers are sent invalidations (R99). -/
def State.acceptedWrites (s : State) (id : Nat) (r : WriteRec) : Tbl WriteRec :=
  let others := (s.l2Line r.line).sharers.filter (fun d => d != r.die)
  if others = [] then Tbl.drop s.path.writes id else Tbl.put s.path.writes id { r with accepted := true, invals := others }

theorem State.find_acceptedWrites (s : State) (id : Nat) (r : WriteRec) : Tbl.find (s.acceptedWrites id r) id =
    (if (s.l2Line r.line).sharers.filter (fun d => d != r.die) = [] then none
      else some { r with accepted := true, invals := (s.l2Line r.line).sharers.filter (fun d => d != r.die) }) := by
  unfold State.acceptedWrites
  dsimp only
  split_ifs
  · exact Tbl.find_drop_same ..
  · exact Tbl.find_put_same ..

/-- The home directory after a write to sectors that no fragment waits on. -/
theorem State.homeWrites_movesLines (s : State) (id : Nat) (r : WriteRec) (secs : List Nat) (hr : s.rel.rot = [])
    (hw : ∀ e ∈ s.path.waits, e.2.pa / 32 ∉ secs) : MovesLines { s with path := { s.path with writes := s.acceptedWrites id r } } (s.homeWrites id r secs) := by
  unfold State.homeWrites
  simp only [List.isEmpty_iff]
  obtain ⟨l2, detach, free, h⟩ := State.setL2_movesLines { s with path := { s.path with writes := s.acceptedWrites id r } } r.line
    { s.l2Line r.line with
      valid := (if r.uc = true then secs.filter (s.l2Line r.line).valid.contains else secs).foldl NSet.insert (s.l2Line r.line).valid
      dirty := (if r.uc = true then secs.filter (s.l2Line r.line).valid.contains else secs).foldl NSet.insert (s.l2Line r.line).dirty } hr
  refine ⟨l2, detach, free, ?_⟩
  refine Eq.trans (congrArg (fun t => State.recheck t secs) h) (State.recheck_of_none _ _ hw)

/-- A write that its home can take. -/
theorem State.acceptWrite_front (s : State) (id : Nat) (r : WriteRec) (hid : Tbl.find s.path.writes id = some r) (hnew : r.accepted = false)
    (hloc : r.region = .loc) (hst : r.op = .st) (hfront : s.frontWrite id r = true) :
    s.acceptWrite id = (s.storeHome r.cells r.bad).homeWrites id r ((r.cells.map (fun c => c.1 / 32)).eraseDups) := by
  unfold State.acceptWrite
  rw [hid]
  simp [hnew, hloc, hst, hfront]

theorem execHomeWriteAccept_front (s : State) (id : Nat) (r : WriteRec) (hid : Tbl.find s.path.writes id = some r) (hr : s.rel.rot = [])
    (hnew : r.accepted = false) (hloc : r.region = .loc) (hst : r.op = .st) (hfront : s.frontWrite id r = true) (hw : ∀ c ∈ r.cells, NoWaitAt s c.1) :
    ∃ t, exec (.homeWriteAccept id) s = .next t ∧ t.mem = writeCells s.mem r.cells ∧ t.poison = poisonAfter s.poison r.cells r.bad ∧
      t.frags = s.frags ∧ t.waves = s.waves ∧ Tbl.find t.path.writes id =
        (if (s.l2Line r.line).sharers.filter (fun d => d != r.die) = [] then none
          else some { r with accepted := true, invals := (s.l2Line r.line).sharers.filter (fun d => d != r.die) }) := by
  have asleep : ∀ e ∈ (s.writeMem r.cells r.bad).path.waits, e.2.pa / 32 ∉ (r.cells.map (fun c => c.1 / 32)).eraseDups := fun e he hsec => by
    obtain ⟨c, hc, hsec⟩ := List.mem_map.1 (List.mem_eraseDups.1 hsec)
    exact hw c hc e he hsec.symm
  have sound : (s.writeMem r.cells r.bad).rel.rot = [] := congrArg (List.filter _) hr
  obtain ⟨l2, detach, free, h⟩ := State.homeWrites_movesLines (s.writeMem r.cells r.bad) id r _ sound asleep
  have performed := s.acceptWrite_front id r hid hnew hloc hst hfront
  rw [s.storeHome_of_unwatched _ _ hr hw, h] at performed
  exact ⟨_, congrArg Host.Outcome.next performed, rfl, rfl, rfl, rfl, State.find_acceptedWrites (s.writeMem r.cells r.bad) id r⟩

theorem execHomeWriteAccept_held (s : State) (id : Nat) (r : WriteRec) (hid : Tbl.find s.path.writes id = some r) (h : s.frontWrite id r = false) :
    exec (.homeWriteAccept id) s = .next s := by
  refine congrArg Host.Outcome.next ?_
  unfold State.acceptWrite
  rw [hid]
  simp [h]

/-! ## RDC_INVALIDATION and INVALIDATION_ACK (R99) -/

/-- A die that a home stops listing stands in its line no more. -/
theorem State.dropSharer_spec (s : State) (line die : Nat) (hr : s.rel.rot = []) :
    MovesLines s (s.dropSharer line die) ∧ die ∉ ((s.dropSharer line die).l2Line line).sharers := by
  unfold State.dropSharer
  dsimp only
  split_ifs with h
  · refine ⟨s.setL2_movesLines _ _ hr, ?_⟩
    rw [s.setL2_l2Line _ _ hr]
    simp
  · exact ⟨⟨_, _, _, rfl⟩, by simpa using h⟩

theorem State.rdcDrop_rdcLine_ne (s : State) (d line k l : Nat) (h : (k, l) ≠ (d, line)) : (s.rdcDrop d line).rdcLine k l = s.rdcLine k l := by
  unfold State.rdcLine State.rdcDrop State.setRdc
  rw [Tbl.get_set]
  split_ifs with hk
  · subst hk
    exact Tbl.find_drop_ne _ _ _ (by simpa using h)
  · rfl

/-- The state in which a die's acknowledgement of an invalidation is on its way. -/
def State.invalidated (s : State) (id d : Nat) (r : WriteRec) : State :=
  { s with path := { s.path with writes := Tbl.put s.path.writes id { r with invals := NSet.remove r.invals d, acks := NSet.insert r.acks d } } }

theorem execRdcInvalidation_sent (s : State) (id d : Nat) (r : WriteRec) (hid : Tbl.find s.path.writes id = some r) (hr : s.rel.rot = []) (hd : d ∈ r.invals) :
    ∃ t q, exec (.rdcInvalidation id d) s = .next t ∧ t.rdcLine d r.line = none ∧ t.mem = s.mem ∧ t.pend = s.pend ∧
      d ∉ (t.l2Line r.line).sharers ∧ Tbl.find t.path.writes id = some q ∧ d ∉ q.invals ∧ d ∈ q.acks ∧ (∀ k, k ≠ d → (k ∈ q.invals ↔ k ∈ r.invals)) ∧
      ∀ k l, (k, l) ≠ (d, r.line) → t.rdcLine k l = s.rdcLine k l := by
  obtain ⟨⟨l2, detach, free, h⟩, hgone⟩ := ((s.invalidated id d r).rdcDrop d r.line).dropSharer_spec r.line d hr
  have goes : exec (.rdcInvalidation id d) s = .next (((s.invalidated id d r).rdcDrop d r.line).dropSharer r.line d) := by
    show execRdcInvalidation id d s = _
    unfold execRdcInvalidation
    rw [hid]
    exact if_pos (List.contains_iff_mem.2 hd)
  rw [h] at goes hgone
  refine ⟨_, _, goes, ?_, rfl, rfl, hgone, Tbl.find_put_same .., ?_, ?_, fun k hk => ?_, fun k l hkl => ?_⟩
  · exact (s.invalidated id d r).rdcDrop_rdcLine d r.line
  · simp
  · simp
  · simp [hk]
  · exact (s.invalidated id d r).rdcDrop_rdcLine_ne d r.line k l hkl

theorem execRdcInvalidation_unsent (s : State) (id d : Nat) (r : WriteRec) (hid : Tbl.find s.path.writes id = some r) (hd : d ∉ r.invals) :
    exec (.rdcInvalidation id d) s = .next s := by
  show execRdcInvalidation id d s = _
  unfold execRdcInvalidation
  rw [hid]
  exact if_neg (by simpa using hd)

theorem execInvalidationAck_unwatched (s : State) (id : Nat) (r : WriteRec) (hid : Tbl.find s.path.writes id = some r)
    (hw : ∀ e ∈ s.path.waits, e.2.pa / 128 ≠ r.line) : ∃ t, exec (.invalidationAck id) s = .next t ∧ t.mem = s.mem ∧ t.pend = s.pend ∧
      Tbl.find t.path.writes id = (if r.accepted = false then some r else if r.invals = [] then none else some { r with acks := [] }) := by
  have asleep : ∀ e ∈ s.path.waits, e.2.pa / 32 ∉ lineSecs r.line := fun e he hsec => hw e he (by have := (mem_lineSecs _ _).1 hsec; omega)
  show ∃ t, execInvalidationAck id s = .next t ∧ _
  unfold execInvalidationAck
  rw [hid]
  dsimp only
  cases hacc : r.accepted with
  | false => exact ⟨s, rfl, rfl, rfl, hid⟩
  | true =>
    by_cases hinv : r.invals = []
    · rw [if_neg (by decide), if_pos (List.isEmpty_iff.2 hinv), State.recheck_of_none (h := ?asleep)]
      case asleep => exact asleep
      refine ⟨_, rfl, rfl, rfl, ?_⟩
      simp [hinv]
    · rw [if_neg (by decide), if_neg (by simpa using hinv)]
      refine ⟨_, rfl, rfl, rfl, ?_⟩
      simp [hinv]

end Sys2Proof.Machine

/-! SUPPORT. The oldest entry of a store queue leaves it (R97, R99, R105, R110). -/

namespace Sys2Proof.Machine

open Claims

/-! ## The end of an entry -/

theorem completeAll_foldl (ids : List Nat) (s : State) : ids.foldl (fun s id => s.completeAll id) s = { s with pend := ids.foldl Tbl.drop s.pend } := by
  induction ids generalizing s with
  | nil => rfl
  | cons id ids ih => exact ih _

theorem Tbl.find_drops_none {α : Type} (ids : List Nat) (t : Tbl α) (id : Nat) (h : id ∈ ids ∨ Tbl.find t id = none) : Tbl.find (ids.foldl Tbl.drop t) id = none := by
  induction ids generalizing t with
  | nil => simpa using h
  | cons k ids ih =>
    refine ih _ ?_
    by_cases hk : id = k
    · subst hk
      exact .inr (Tbl.find_drop_same ..)
    · rw [Tbl.find_drop_ne _ _ _ hk]
      simpa [hk] using h

theorem State.admitWaiting_none (s : State) (w : Nat) (W : Wave) (hW : s.wave? w = some W) (h : W.admits = []) : s.admitWaiting w = s := by
  unfold State.admitWaiting
  simp only [hW, h, List.foldl_nil]

/-- A scratchpad in which a store has been performed (R105). -/
def Team.withStore (T : Team) (e : StoreEntry) : Team :=
  { T with scratch := writeCells T.scratch e.bytes
           spoison := poisonAfter T.spoison e.bytes (if e.poison then (e.bytes.map (fun b => b.1 / 32)).eraseDups else []) }

/-- The store that the oldest entry of a queue does as it leaves, or its local part on its way. -/
def State.headOut (s : State) (w : Nat) (W : Wave) (e : StoreEntry) : State :=
  let s1 := s.adjWave w (fun W => { W with storeq := W.storeq.drop 1 })
  if e.scratch then
    match s1.team? W.team with
    | none => s1
    | some T =>
      if e.op == .st then
        s1.adjTeam W.team (fun T => T.withStore e)
      else
        let q := runSteps e.op e.release s1.free e.accs T.scratch T.spoison
        (s1.adjTeam W.team (fun T => { T with scratch := q.mem })).stepped e.op ((e.pends.headD 0)) (10000 + dieOf W.core) q
  else (((s1.leaveCaches W e).sendLines w W e).putAway w W e).sendFront

/-- The stores that end with their entry: those that are no releases. -/
def State.storesEnded (s : State) (e : StoreEntry) : List Nat :=
  e.pends.filter (fun id => match (Tbl.find s.pend id).map Pend.kind with | some (.store _ false) => true | _ => false)

theorem State.drainHead_eq (s : State) (w : Nat) (W : Wave) (e : StoreEntry) :
    s.drainHead w W e = (((s.headOut w W e).storesEnded e).foldl (fun s id => s.completeAll id) (s.headOut w W e)).admitWaiting w := rfl

theorem State.mem_storesEnded (s : State) (e : StoreEntry) (id : Nat) (h : id ∈ e.pends) (P : Pend) (n : Nat) (hP : Tbl.find s.pend id = some P)
    (hk : P.kind = .store n false) : id ∈ s.storesEnded e := by
  refine List.mem_filter.2 ⟨h, ?_⟩
  rw [hP, Option.map_some, hk]

section head

variable {s : State} {w : Nat} {W : Wave} {e : StoreEntry} {rest : List StoreEntry} (hW : s.wave? w = some W) (hq : W.storeq = e :: rest)
  (hadm : W.admits = [])
include hW hq

theorem execStoreQueueDrain_held (h : s.drainReady w W e = false) : exec (.storeQueueDrain w) s = .next s := by
  refine congrArg Host.Outcome.next ?_
  unfold State.drainWave
  simp only [hW, hq, h, Bool.false_eq_true, if_false]

theorem State.wave?_popped : (s.adjWave w (fun W => { W with storeq := W.storeq.drop 1 })).wave? w = some { W with storeq := rest } := by
  rw [State.wave?_adjWave_same, hW, Option.map_some, hq]
  rfl

include hadm

/-- Where no store waits for room, the queue has lost its oldest entry, and the entry's stores end. -/
theorem execStoreQueueDrain_ready (h : s.drainReady w W e = true) (hwaves : (s.headOut w W e).waves = (s.adjWave w (fun W => { W with storeq := W.storeq.drop 1 })).waves) :
    exec (.storeQueueDrain w) s = .next { s.headOut w W e with pend := ((s.headOut w W e).storesEnded e).foldl Tbl.drop (s.headOut w W e).pend } := by
  have popped : (s.headOut w W e).wave? w = some { W with storeq := rest } := by
    rw [State.wave?, hwaves]
    exact State.wave?_popped hW hq
  have left : s.drainWave w = s.drainHead w W e := by
    unfold State.drainWave
    simp only [hW, hq, h, if_true]
  refine congrArg Host.Outcome.next (left.trans ?_)
  rw [State.drainHead_eq, completeAll_foldl]
  exact State.admitWaiting_none _ w _ popped hadm

/-- A store to the scratchpad is performed as it leaves (R105). -/
theorem execStoreQueueDrain_scratch (hop : e.op = .st) (h : s.drainReady w W e = true) (hs : e.scratch = true) (T : Team) (hT : s.team? W.team = some T) :
    ∃ t V, exec (.storeQueueDrain w) s = .next t ∧ t.wave? w = some { W with storeq := rest } ∧ t.team? W.team = some V ∧
      (∀ k, Tbl.get 0 V.scratch k = (e.byte k).getD (Tbl.get 0 T.scratch k)) ∧ (∀ a, t.byte a = s.byte a) ∧
      ∀ id ∈ e.pends, (∃ P n, Tbl.find s.pend id = some P ∧ P.kind = .store n false) → Tbl.find t.pend id = none := by
  have out : s.headOut w W e = (s.adjWave w (fun W => { W with storeq := W.storeq.drop 1 })).adjTeam W.team (fun T => T.withStore e) := by
    have there : (s.adjWave w (fun W => { W with storeq := W.storeq.drop 1 })).team? W.team = some T := hT
    unfold State.headOut
    simp only [hs, there, hop, if_true, beq_self_eq_true]
  refine ⟨_, T.withStore e, execStoreQueueDrain_ready hW hq hadm h (by rw [out]; rfl), ?_, ?_, fun k => ?_, fun a => ?_, fun id hid hst => ?_⟩
  · rw [out]
    exact State.wave?_popped hW hq
  · rw [out]
    exact (Tbl.find_adjust_same s.teams W.team (fun T => T.withStore e)).trans (congrArg (Option.map _) hT)
  · exact get_writeCells T.scratch e.bytes k
  · rw [out]
    rfl
  · obtain ⟨P, n, hP, hk⟩ := hst
    refine Tbl.find_drops_none _ _ id (.inl (State.mem_storesEnded _ e id hid P n ?_ hk))
    rw [out]
    exact hP

end head

/-! ## Stores to memory go on their way -/

/-- The caches of the core and its die when an entry leaves it. -/
theorem State.leaveCaches_path (s : State) (W : Wave) (e : StoreEntry) : ∃ path, s.leaveCaches W e = { s with path := path } := by
  unfold State.leaveCaches
  dsimp only
  split
  · exact ⟨_, rfl⟩
  · exact ⟨_, rfl⟩

/-- Nothing is sampled of a grid that is not profiled (R430). -/
theorem State.sampleSector_unprofiled (s : State) (core grid : Nat) (pc : Word) (kind sec : Nat) (poison rdc : Bool) (h : s.prof.grids.contains grid = false) :
    s.sampleSector core grid pc kind sec poison rdc = s := by
  unfold State.sampleSector
  rw [h]
  rfl

/-- Writes that are put on their way stand there each under an identity of its own. -/
theorem State.putWrites_spec (rec_ : Nat → WriteRec) (lines : List Nat) (s : State) :
    ∃ writes next, lines.foldl (fun s line => (s.putWrite (rec_ line)).2) s = { s with path := { s.path with writes := writes }, nextId := next } ∧
      s.nextId ≤ next ∧ (∀ id, id < s.nextId → Tbl.find writes id = Tbl.find s.path.writes id) ∧ ∀ line ∈ lines, ∃ id, Tbl.find writes id = some (rec_ line) := by
  induction lines generalizing s with
  | nil => exact ⟨_, _, rfl, Nat.le_refl _, fun _ _ => rfl, by simp⟩
  | cons line lines ih =>
    obtain ⟨writes, next, h, hle, hold, hnew⟩ := ih (s.putWrite (rec_ line)).2
    have hlt : s.nextId < (s.putWrite (rec_ line)).2.nextId := Nat.lt_succ_self _
    refine ⟨writes, next, h, Nat.le_of_lt (Nat.lt_of_lt_of_le hlt hle), fun id hid => ?_, fun l hl => ?_⟩
    · rw [hold id (Nat.lt_trans hid hlt)]
      exact Tbl.find_put_ne _ _ _ _ (Nat.ne_of_lt hid)
    · rcases List.mem_cons.1 hl with rfl | hl
      · exact ⟨s.nextId, (hold _ hlt).trans (Tbl.find_put_same ..)⟩
      · exact hnew l hl

/-- The local part of a store: a write for each line, with the bytes that the entry holds of it (R99, R122). -/
theorem State.sendLines_spec (s : State) (w : Nat) (W : Wave) (e : StoreEntry) (hop : e.op = .st) (T : Team) (hT : s.team? W.team = some T)
    (hg : s.prof.grids.contains T.grid = false) :
    ∃ writes next, s.sendLines w W e = { s with path := { s.path with writes := writes }, nextId := next } ∧
      ∀ a ∈ e.accs, ∀ p ∈ a.pieces, p.region = .loc → ∃ id r, Tbl.find writes id = some r ∧ r.line = p.addr / 128 ∧ r.source = .wave w e.ord ∧
        r.accepted = false ∧ r.cells = e.bytes.filter (fun c => c.1 / 128 == r.line) := by
  have still (secs : List Nat) (kind : Nat) : secs.foldl (fun (s : State) k => s.sampleSector W.core T.grid e.pc kind k false false) s = s :=
    List.foldl_fixed' (fun k => s.sampleSector_unprofiled _ _ _ _ k _ _ hg) secs
  unfold State.sendLines
  simp only [hT, hop, beq_self_eq_true, if_true, still]
  obtain ⟨writes, next, h, -, -, hnew⟩ := State.putWrites_spec _ _ s
  refine ⟨writes, next, h, fun a ha p hp hloc => ?_⟩
  have listed : p.addr / 128 ∈ ((e.accs.flatMap (fun a => a.pieces.filter (fun p => p.region == .loc))).map (fun p => p.addr / 128)).eraseDups := by
    refine List.mem_eraseDups.2 (List.mem_map_of_mem (List.mem_flatMap.2 ⟨a, ha, List.mem_filter.2 ⟨hp, ?_⟩⟩))
    simp [hloc]
  obtain ⟨id, hid⟩ := hnew _ listed
  exact ⟨id, _, hid, rfl, rfl, rfl, rfl⟩

theorem awayPieces_of_home (accs : List LaneAcc) (h : ∀ a ∈ accs, ∀ p ∈ a.pieces, p.region = .loc ∨ p.region = .scratch) : awayPieces accs = [] := by
  refine List.flatMap_eq_nil_iff.2 fun a ha => ?_
  rw [List.map_eq_nil_iff]
  refine List.filter_eq_nil_iff.2 fun p hp => ?_
  rcases h a ha p hp with h | h <;> simp [h]

section local_

variable {s : State} {w : Nat} {W : Wave} {e : StoreEntry} {rest : List StoreEntry} (hW : s.wave? w = some W) (hq : W.storeq = e :: rest)
  (hadm : W.admits = [])
include hW hq hadm

/-- A store to local memory goes on its way line by line, and memory changes later (R97, R110). -/
theorem execStoreQueueDrain_local (hop : e.op = .st) (h : s.drainReady w W e = true) (hs : e.scratch = false) (T : Team) (hT : s.team? W.team = some T)
    (hg : s.prof.grids.contains T.grid = false) (hloc : ∀ a ∈ e.accs, ∀ p ∈ a.pieces, p.region = .loc) :
    ∃ t, exec (.storeQueueDrain w) s = .next t ∧ t.wave? w = some { W with storeq := rest } ∧ (∀ a, t.byte a = s.byte a) ∧
      ∀ a ∈ e.accs, ∀ p ∈ a.pieces, ∃ id r, Tbl.find t.path.writes id = some r ∧ r.line = p.addr / 128 ∧ r.source = .wave w e.ord ∧
        r.accepted = false ∧ r.cells = e.bytes.filter (fun c => c.1 / 128 == r.line) := by
  obtain ⟨path, left⟩ := (s.adjWave w (fun W => { W with storeq := W.storeq.drop 1 })).leaveCaches_path W e
  obtain ⟨writes, next, sent, hnew⟩ := State.sendLines_spec
    { s.adjWave w (fun W => { W with storeq := W.storeq.drop 1 }) with path := path } w W e hop T hT hg
  have none_away (t : State) : t.putAway w W e = t := by
    unfold State.putAway
    simp only [hop, awayPieces_of_home e.accs fun a ha p hp => .inl (hloc a ha p hp)]
    rfl
  have out : s.headOut w W e = State.sendFront { s.adjWave w (fun W => { W with storeq := W.storeq.drop 1 }) with
      path := { path with writes := writes }, nextId := next } := by
    unfold State.headOut
    simp only [hs, Bool.false_eq_true, if_false, left, sent, none_away]
  have front := State.sendFront_sends { s.adjWave w (fun W => { W with storeq := W.storeq.drop 1 }) with path := { path with writes := writes }, nextId := next }
  rw [← out] at front
  refine ⟨_, execStoreQueueDrain_ready hW hq hadm h front.waves, ?_, fun a => ?_, fun a ha p hp => ?_⟩
  · refine Eq.trans (congrArg (fun t => Tbl.find t w) front.waves) ?_
    exact State.wave?_popped hW hq
  · exact congrArg (fun m => Tbl.get 0 m a) front.mem
  · obtain ⟨id, r, hid, hr⟩ := hnew a ha p hp (hloc a ha p hp)
    exact ⟨id, r, (congrArg (fun t => Tbl.find t id) front.writes).trans hid, hr⟩

end local_

/-- STORE_QUEUE_DRAIN, HOME_WRITE_ACCEPT, RDC_INVALIDATION and INVALIDATION_ACK. -/
theorem storesReachMemory : Claims.storesReachMemory := by
  refine ⟨fun s w W e rest hW hq hadm hop => ⟨?_, ?_, ?_⟩, fun s id r hid hr => ⟨?_, ?_, ?_, ?_, ?_⟩⟩
  · exact execStoreQueueDrain_held hW hq
  · exact fun T h hs => execStoreQueueDrain_scratch hW hq hadm hop h hs T
  · exact fun T h hs => execStoreQueueDrain_local hW hq hadm hop h hs T
  · exact execHomeWriteAccept_front s id r hid hr
  · exact execHomeWriteAccept_held s id r hid
  · exact fun d => execRdcInvalidation_sent s id d r hid hr
  · exact fun d => execRdcInvalidation_unsent s id d r hid
  · exact execInvalidationAck_unwatched s id r hid

end Sys2Proof.Machine

/-! SUPPORT. Results come back: data of loads from the scratchpad, atomics at their homes, their old values (R116, R121, R315 to R320). -/

namespace Sys2Proof.Machine

open Claims

/-! ## Lanes of a result -/

theorem Tbl.find_mapValues {α : Type} (t : Tbl α) (g : α → α) (k : Nat) : Tbl.find (List.map (fun (e : Nat × α) => (e.1, g e.2)) t) k = (Tbl.find t k).map g := by
  induction t with
  | nil => rfl
  | cons a t ih =>
    show (if k = a.1 then some (g a.2) else Tbl.find (List.map (fun (e : Nat × α) => (e.1, g e.2)) t) k) = Option.map g (if k = a.1 then some a.2 else Tbl.find t k)
    split_ifs
    · rfl
    · exact ih

theorem Mask.has_and (a b : Mask) (l : Nat) : (a &&& b).has l = (a.has l && b.has l) := BitVec.getLsbD_and

theorem Mask.has_lt (m : Mask) (l : Nat) (h : m.has l = true) : l < 64 := BitVec.lt_of_getLsbD h

theorem Mask.ext {a b : Mask} (h : ∀ l, l < 64 → a.has l = b.has l) : a = b := BitVec.eq_of_getLsbD_eq h

theorem Mask.exists_of_ne_zero (m : Mask) (h : m ≠ 0) : ∃ l, m.has l = true := by
  by_contra hnone
  refine h (Mask.ext fun l _ => ?_)
  rw [Bool.eq_false_iff.2 fun hl => hnone ⟨l, hl⟩]
  exact BitVec.getLsbD_zero.symm

theorem Mask.diff_eq_zero (m r : Mask) (h : ∀ l, l < 64 → m.has l = true → r.has l = true) : m &&& ~~~r = 0 := by
  refine Mask.ext fun l hl => ?_
  have here := h l hl
  rw [Mask.has_and, show (~~~r : Mask).has l = !r.has l by simp [Mask.has, hl], show (0 : Mask).has l = false from BitVec.getLsbD_zero]
  cases hm : m.has l
  · rfl
  · simp [here hm]

/-- What is left of an outstanding instruction when some of its lanes are complete. -/
def Pend.without (p : Pend) (m : Mask) : Option Pend := if p.lanes &&& ~~~m = 0 then none else some { p with lanes := p.lanes &&& ~~~m }

theorem State.completeLanes_spec (s : State) (id : Nat) (m : Mask) (p : Pend) (hp : Tbl.find s.pend id = some p) :
    ∃ pend, s.completeLanes id m = { s with pend := pend } ∧ Tbl.find pend id = p.without m := by
  unfold State.completeLanes Pend.without
  rw [hp]
  dsimp only
  split_ifs
  · exact ⟨_, rfl, Tbl.find_drop_same ..⟩
  · exact ⟨_, rfl, Tbl.find_put_same ..⟩

theorem State.acquire_path (s : State) (core scope : Nat) : ∃ path, s.acquire core scope = { s with path := path } := by
  unfold State.acquire
  dsimp only
  split_ifs <;> exact ⟨_, rfl⟩

/-- Results that go to lanes of a vector register, one each, are the wave's alone. -/
theorem setReg_foldl {α : Type} (as : List α) (lane : α → Nat) (val : Nat → VReg) (s : State) (w d : Nat) :
    as.foldl (fun s a => s.setReg w (lane a) d (val (lane a))) s =
      s.adjWave w (fun W => (as.map lane).foldl (fun W l => W.setReg l d (val l)) W) := by
  induction as generalizing s with
  | nil => exact (s.adjWave_id w).symm
  | cons a as ih =>
    rw [List.foldl_cons, ih, State.setReg, State.adjWave_adjWave]
    rfl

/-- A wave's registers after results have gone to lanes of register `d`. -/
theorem State.vreg_of_results (s t : State) (w d : Nat) (W : Wave) (ls : List Nat) (val : Nat → VReg) (hd : d < 256) (hW : s.wave? w = some W)
    (ht : t.waves = (s.adjWave w (fun W => ls.foldl (fun W l => W.setReg l d (val l)) W)).waves) (l k : Nat) (hk : k < 256) :
    t.vreg w l k = if l ∈ ls ∧ k = d then val l else s.vreg w l k := by
  have there : t.wave? w = some (ls.foldl (fun W l => W.setReg l d (val l)) W) := by
    rw [State.wave?, ht]
    exact (State.wave?_adjWave_same ..).trans (by rw [hW]; rfl)
  unfold State.vreg
  rw [there, hW]
  exact Wave.reg_foldl W ls d l k val hd hk

theorem State.deliver_vec (s : State) (p : Pend) (lane : Nat) (va : Word) (tag : Tag) (v : Word) (d k : Nat) (hdst : p.dst = .vec d k) :
    s.deliver p lane va false tag [v] = s.setReg p.wave lane d ⟨v, tag⟩ := by
  unfold State.deliver
  rw [hdst]
  rfl

/-! ## ATOMIC_PERFORM (R315 to R317) -/

theorem get_writeBytes (m : Tbl Byte) (a b : Nat) (bs : List Byte) :
    Tbl.get 0 (writeBytes m a bs) b = if a ≤ b then (bs[b - a]?).getD (Tbl.get 0 m b) else Tbl.get 0 m b := by
  split_ifs with hle
  · by_cases hlt : b - a < bs.length
    · obtain ⟨i, rfl⟩ := Nat.exists_eq_add_of_le hle
      rw [Nat.add_sub_cancel_left] at hlt ⊢
      rw [get_writeBytes_in m a bs i hlt, List.getElem?_eq_getElem hlt, Option.getD_some]
    · rw [get_writeBytes_out m a bs b (.inr (by omega)), List.getElem?_eq_none (by omega), Option.getD_none]
  · exact get_writeBytes_out m a bs b (.inl (by omega))

theorem mergeSteps_single (o f : Nat) (sg ftz : Bool) (free : Nat) (a : LaneAcc) : mergeSteps o f sg ftz free [a] = [a] := by
  simp [mergeSteps, mergeOnce, Nat.mod_one]

theorem shuffle_single (free : Nat) (a : LaneAcc) : shuffle free [a] = [a] := by
  simp [shuffle, Nat.mod_one]

/-- A single step is performed as it is, in whatever order. -/
theorem runSteps_single (o f n : Nat) (sg ftz ret ord release : Bool) (free : Nat) (a : LaneAcc) (mem : Tbl Byte) (poison : List Nat)
    (h : poison.contains (a.place / 32) = false) :
    runSteps (.rmw o f sg ftz ret ord n) release free [a] mem poison =
      ⟨writeNat mem a.place n (atomOp o f sg ftz (readNat mem a.place n) a.operand.toNat a.compare.toNat), poison,
        [(a.lane, BitVec.ofNat 64 (readNat mem a.place n))], 0, 0⟩ := by
  have order : (if ord then [a] else shuffle (free + 2 * [a].length) (if release then [a] else mergeSteps o f sg ftz free [a])) = [a] := by
    rw [mergeSteps_single, ite_self, shuffle_single, ite_self]
  unfold runSteps
  dsimp only
  rw [order, List.foldl_cons, List.foldl_nil, Stepped.step, if_neg (by simp only [h]; decide)]
  rfl

/-- What a step at the home leaves of the rest: the record of the instruction alone may have a lane's old value. -/
theorem State.stepped_undropped (s : State) (op : StoreOp) (k place : Nat) (q : Stepped) (h : q.dropped = 0) :
    ∃ pend, s.stepped op k place q = { s with pend := pend } := by
  unfold State.stepped
  split_ifs
  · split
    · exact ⟨_, rfl⟩
    · exact ⟨_, rfl⟩
  · exact ⟨_, rfl⟩

theorem State.stepped_find (s : State) (op : StoreOp) (k place : Nat) (q : Stepped) (order scope : Nat) (tag : Tag) (sc : Bool) (accs : List LaneAcc)
    (olds : Tbl Word) (bad : Mask) (hret : op.returns = true) (hk : (Tbl.find s.pend k).map Pend.kind = some (.atom order scope tag sc accs olds bad)) :
    (Tbl.find (s.stepped op k place q).pend k).map Pend.kind =
      some (.atom order scope tag sc accs (q.old.foldl (fun t e => Tbl.put t e.1 e.2) olds) (bad ||| q.bad)) := by
  unfold State.stepped
  rw [if_pos hret, hk]
  dsimp only
  rw [Tbl.find_adjust_same, Option.map_map]
  obtain ⟨p, hp, -⟩ := Option.map_eq_some_iff.1 hk
  rw [hp]
  rfl

section atom

variable {s : State} {id : Nat} {r : WriteRec} {a : LaneAcc} {o f n : Nat} {sg ftz ret ord : Bool} (hid : Tbl.find s.path.writes id = some r)
  (hnew : r.accepted = false) (hloc : r.region = .loc) (hop : r.op = .rmw o f sg ftz ret ord n) (hfront : s.frontWrite id r = true)
  (hfree : s.homeHolds r.line = false) (hsteps : r.steps = [a]) (hbad : r.bad = []) (hr : s.rel.rot = [])
  (hp : s.poison.contains (a.place / 32) = false) (halone : ∀ e ∈ s.path.writes, e.2.merges = true → e.1 = id)

/-- The value that the step writes (R315). -/
def State.stepValue (s : State) (a : LaneAcc) (o f n : Nat) (sg ftz : Bool) : Nat :=
  atomOp o f sg ftz (s.memNat a.place n) a.operand.toNat a.compare.toNat

/-- The instruction that a request at a home serves, in its waves' order. -/
def WriteRec.serves (r : WriteRec) : Nat := match r.source with | .wave _ ord => ord | _ => 0

/-- What the one step of a request leaves. -/
def State.oneStep (s : State) (a : LaneAcc) (o f n : Nat) (sg ftz : Bool) : Stepped :=
  ⟨writeNat s.mem a.place n (s.stepValue a o f n sg ftz), s.poison, [(a.lane, BitVec.ofNat 64 (s.memNat a.place n))], 0, 0⟩

/-- The state in which a step has been performed, before its instruction and the directory know of it. -/
def State.stepDone (s : State) (a : LaneAcc) (o f n : Nat) (sg ftz : Bool) (free : Nat) : State :=
  { s with mem := writeNat s.mem a.place n (s.stepValue a o f n sg ftz), free := free }

include hid hnew hloc hop hfront hfree hsteps hbad hr hp halone

/-- One step, with which no other merges, is performed at its home. -/
theorem State.atomicPerform_single : ∃ free, s.atomicPerform id =
    ((s.stepDone a o f n sg ftz free).stepped (.rmw o f sg ftz ret ord n) r.serves (10000 + homeOf (128 * r.line)) (s.oneStep a o f n sg ftz)).homeWrites id r
      [a.place / 32] := by
  have alone : s.mergedSteps id r = [] := by
    have none_ : s.path.writes.filter (fun e => e.1 != id && e.2.merges && e.2.op == r.op && e.2.line == r.line &&
        !s.path.writes.any (fun q => q.1 < e.1 && q.1 != id && q.2.keeps e.2)) = [] := by
      refine List.filter_eq_nil_iff.2 fun e he => ?_
      by_cases hm : e.2.merges = true
      · simp [halone e he hm]
      · simp [hm]
    unfold State.mergedSteps
    rw [none_]
    exact ite_self _
  have open_ : ¬(r.accepted || r.region != .loc || r.op == .st || !s.frontWrite id r || s.homeHolds r.line) = true := by
    simp [hnew, hloc, hop, hfront, hfree]
  have run (free : Nat) := runSteps_single o f n sg ftz ret ord r.release free a s.mem s.poison hp
  unfold State.atomicPerform
  rw [hid]
  dsimp only
  rw [if_neg open_]
  simp only [alone, hsteps, hbad, hop, s.findErrors_of_sound _ hr, List.map_nil, List.append_nil, run, List.isEmpty_nil, if_true]
  exact ⟨_, rfl⟩

/-- An atomic at its home reads, computes and writes in one step, which leaves every other byte alone (R315, R316). -/
theorem execAtomicPerform_single (hw : NoWaitAt s a.place) :
    ∃ t, exec (.atomicPerform id) s = .next t ∧ t.waves = s.waves ∧ t.frags = s.frags ∧
      (∀ b, t.byte b = if a.place ≤ b then ((natBytes n (s.stepValue a o f n sg ftz))[b - a.place]?).getD (s.byte b) else s.byte b) ∧
      ∀ w P order scope tag sc accs olds bad, ret = true → r.source = .wave w P → (Tbl.find s.pend P).map Pend.kind = some (.atom order scope tag sc accs olds bad) →
        (Tbl.find t.pend P).map Pend.kind = some (.atom order scope tag sc accs (Tbl.put olds a.lane (BitVec.ofNat 64 (s.memNat a.place n))) bad) := by
  obtain ⟨free, performed⟩ := State.atomicPerform_single hid hnew hloc hop hfront hfree hsteps hbad hr hp halone
  obtain ⟨pend, told⟩ := (s.stepDone a o f n sg ftz free).stepped_undropped (.rmw o f sg ftz ret ord n) r.serves (10000 + homeOf (128 * r.line))
    (s.oneStep a o f n sg ftz) rfl
  have old := (s.stepDone a o f n sg ftz free).stepped_find (.rmw o f sg ftz ret ord n) r.serves (10000 + homeOf (128 * r.line)) (s.oneStep a o f n sg ftz)
  rw [told] at performed old
  obtain ⟨l2, detach, free', home⟩ := State.homeWrites_movesLines { s.stepDone a o f n sg ftz free with pend := pend } id r [a.place / 32] hr
    (fun e he hsec => hw e he (List.mem_singleton.1 hsec))
  rw [home] at performed
  refine ⟨_, congrArg Host.Outcome.next performed, rfl, rfl, fun b => get_writeBytes .., fun w P order scope tag sc accs olds bad hret hsrc hkind => ?_⟩
  have serves : r.serves = P := by rw [WriteRec.serves, hsrc]
  rw [serves] at old
  refine (old order scope tag sc accs olds bad hret hkind).trans ?_
  rw [show bad ||| (s.oneStep a o f n sg ftz).bad = bad from BitVec.or_zero]
  rfl

end atom

/-! ## ATOMIC_RESPONSE (R317, R320) -/

/-- Sending the waves' writes beyond the device changes the requests alone. -/
theorem State.sendFront_remote (s : State) : ∃ remote next free, s.sendFront = { s with path := { s.path with remote := remote }, nextId := next, free := free } := by
  have each (f : State → Nat × WriteRec → State)
      (hf : ∀ t e, ∃ remote next free, f t e = { t with path := { t.path with remote := remote }, nextId := next, free := free })
      (l : List (Nat × WriteRec)) (t : State) : ∃ remote next free, l.foldl f t = { t with path := { t.path with remote := remote }, nextId := next, free := free } := by
    induction l generalizing t with
    | nil => exact ⟨_, _, _, rfl⟩
    | cons e l ih =>
      obtain ⟨remote, next, free, h⟩ := hf t e
      obtain ⟨remote', next', free', h'⟩ := ih (f t e)
      refine ⟨remote', next', free', h'.trans ?_⟩
      rw [h]
  refine each _ (fun t e => ?_) _ s
  split
  · split
    · exact ⟨_, _, _, rfl⟩
    · exact ⟨_, _, _, rfl⟩
  · exact ⟨_, _, _, rfl⟩

section response

variable {s : State} {id : Nat} {p : Pend} {W : Wave} {d order scope : Nat} {tag : Tag} {sc : Bool} {accs : List LaneAcc} {olds : Tbl Word}
  (hp : Tbl.find s.pend id = some p) (hkind : p.kind = .atom order scope tag sc accs olds 0) (hdst : p.dst = .vec d 1) (hd : d < 256)
  (hW : s.wave? p.wave = some W) (hrem : s.path.remote = [])

/-- The lanes whose old values have come. -/
def answeredLanes (accs : List LaneAcc) (olds : Tbl Word) : List Nat := (accs.filter (fun a => (Tbl.find olds a.lane).isSome)).map LaneAcc.lane

/-- The state in which old values have reached lanes of D. -/
def State.oldsIn (s : State) (w d : Nat) (tag : Tag) (olds : Tbl Word) (ls : List Nat) : State :=
  s.adjWave w (fun W => ls.foldl (fun W l => W.setReg l d ⟨Tbl.get 0 olds l, tag⟩) W)

include hrem in
/-- With no request beyond the device answered, none has failed. -/
theorem State.response_unfailed : ∃ path next free, (s.remoteOld id).atomFailed id = { s with path := path, nextId := next, free := free } := by
  have none_old : s.remoteOld id = s := by rw [State.remoteOld, hrem, List.foldl_nil]
  have none_failed : s.remoteFailed id = [] := by rw [State.remoteFailed, hrem, List.filter_nil]
  obtain ⟨remote, next, free, h⟩ := State.sendFront_remote
    { s with path := { s.path with writes := List.filter (fun e => !([] : List (Nat × RemoteReq)).any (fun b => b.2.write == some e.1)) s.path.writes } }
  rw [none_old]
  unfold State.atomFailed
  simp only [none_failed, h]
  cases Tbl.find s.pend id with
  | none => exact ⟨_, next, free, rfl⟩
  | some p => exact ⟨_, next, free, rfl⟩

include hp hkind hdst hW hrem

/-- The old values that have come go to D in the lanes that are still owed, and those lanes are complete. -/
theorem State.atomicResponse_spec : ∃ path next free pend,
    s.atomicResponse id = { s.oldsIn p.wave d tag olds ((answeredLanes accs olds).filter p.lanes.has) with path := path, nextId := next, free := free, pend := pend } ∧
      Tbl.find pend id = p.without (Mask.ofList (answeredLanes accs olds)) := by
  obtain ⟨path, next, free, h⟩ := State.response_unfailed (id := id) hrem
  have clean (l : Nat) : (0 : Mask).has l = false := BitVec.getLsbD_zero
  have given (t : State) (as : List LaneAcc) : as.foldl (fun s a => s.deliver p a.lane a.va false tag [Tbl.get 0 olds a.lane]) t =
      t.oldsIn p.wave d tag olds (as.map LaneAcc.lane) := by
    simp only [State.deliver_vec _ p _ _ tag _ d 1 hdst]
    exact setReg_foldl as LaneAcc.lane (fun l => ⟨Tbl.get 0 olds l, tag⟩) t p.wave d
  have owed : ((accs.filter (fun a => (Tbl.find olds a.lane).isSome)).filter (fun a => p.lanes.has a.lane)).map LaneAcc.lane = (answeredLanes accs olds).filter p.lanes.has := by
    rw [answeredLanes, List.filter_map]
    rfl
  obtain ⟨pend, done, hpend⟩ := State.completeLanes_spec
    { s.oldsIn p.wave d tag olds ((answeredLanes accs olds).filter p.lanes.has) with path := path, nextId := next, free := free } id (Mask.ofList (answeredLanes accs olds)) p hp
  have there : Tbl.find { s with path := path, nextId := next, free := free }.pend id = some p := hp
  have wave_ : State.wave? { s with path := path, nextId := next, free := free } p.wave = some W := hW
  unfold State.atomicResponse
  simp only [h, there, hkind, wave_, clean, Bool.or_false, given, hdst, Dest.isScal, Bool.false_eq_true, if_false, owed]
  split_ifs
  · obtain ⟨path', acq⟩ := State.acquire_path { s.oldsIn p.wave d tag olds ((answeredLanes accs olds).filter p.lanes.has) with
      path := path, nextId := next, free := free, pend := pend } W.core scope
    exact ⟨path', next, free, pend, (congrArg (fun t => State.acquire t W.core scope) done).trans acq, hpend⟩
  · exact ⟨path, next, free, pend, done, hpend⟩

include hd

/-- ATOMIC_RESPONSE: old values reach D with the tag, and the instruction ends with its last lane. -/
theorem execAtomicResponse_vec : ∃ t, exec (.atomicResponse id) s = .next t ∧ (∀ b, t.byte b = s.byte b) ∧ t.teams = s.teams ∧
    (∀ a ∈ accs, a.lane < 64 → p.lanes.has a.lane = true → (Tbl.find olds a.lane).isSome = true → t.vreg p.wave a.lane d = ⟨Tbl.get 0 olds a.lane, tag⟩) ∧
    ((∀ l, l < 64 → p.lanes.has l = true → ∃ a ∈ accs, a.lane = l ∧ (Tbl.find olds l).isSome = true) → Tbl.find t.pend id = none) := by
  obtain ⟨path, next, free, pend, h, hpend⟩ := State.atomicResponse_spec hp hkind hdst hW hrem
  have answered (a : LaneAcc) (ha : a ∈ accs) (hold : (Tbl.find olds a.lane).isSome = true) : a.lane ∈ answeredLanes accs olds :=
    List.mem_map_of_mem (List.mem_filter.2 ⟨ha, hold⟩)
  refine ⟨_, congrArg Host.Outcome.next h, fun b => rfl, rfl, fun a ha _ hl hold => ?_, fun hall => ?_⟩
  · exact (State.vreg_of_results s _ p.wave d W ((answeredLanes accs olds).filter p.lanes.has) (fun l => ⟨Tbl.get 0 olds l, tag⟩) hd hW rfl a.lane d hd).trans
      (if_pos ⟨List.mem_filter.2 ⟨answered a ha hold, hl⟩, rfl⟩)
  · refine hpend.trans (if_pos (Mask.diff_eq_zero _ _ fun l hl hlane => ?_))
    obtain ⟨a, ha, rfl, hold⟩ := hall l hl hlane
    rw [Mask.has_ofList _ _ hl]
    exact decide_eq_true (answered a ha hold)

end response

/-! ## LOAD_DATA_RETURN (R116, R121): what a load reads of the scratchpad -/

/-- What a load knows of the scratchpad is what stands there. -/
def Knows (T : Team) (known : Tbl Byte) : Prop := ∀ k b, Tbl.find known k = some b → b = Tbl.get 0 T.scratch k

theorem Knows.put {T : Team} (cells : List (Nat × Byte)) (known : Tbl Byte) (h : Knows T known) (hc : ∀ c ∈ cells, c.2 = Tbl.get 0 T.scratch c.1) :
    Knows T (cells.foldl (fun t c => Tbl.put t c.1 c.2) known) := by
  induction cells generalizing known with
  | nil => exact h
  | cons c cells ih =>
    refine ih _ (fun k b hk => ?_) fun c' hc' => hc c' (List.mem_cons_of_mem _ hc')
    by_cases hkc : k = c.1
    · rw [hkc, Tbl.find_put_same, Option.some.injEq] at hk
      rw [hkc, ← hk]
      exact hc c (List.mem_cons_self ..)
    · rw [Tbl.find_put_ne _ _ _ _ hkc] at hk
      exact h k b hk

theorem readBytes_append (m : Tbl Byte) (a i j : Nat) : readBytes m a (i + j) = readBytes m a i ++ readBytes m (a + i) j := by
  simp [readBytes, List.range_add, Nat.add_assoc]

theorem readBytes_getD (m : Tbl Byte) (a n i : Nat) (h : i < n) : (readBytes m a n).getD i 0 = Tbl.get 0 m (a + i) := by
  simp [readBytes, List.getD_eq_getElem?_getD, h]

/-- A piece of a scratchpad access that lies in one sector. -/
def Piece.InSector (p : Piece) : Prop := p.region = .scratch ∧ p.addr % 32 + p.len ≤ 32

theorem Piece.keys_scratch (p : Piece) (h : p.region = .scratch) : p.keys = (List.range p.len).map (fun i => p.addr + i) := by
  unfold Piece.keys
  rw [h]
  rfl

section pieces

variable {s : State} {T : Team} {W : Wave} {pd : Pend} {na sext : Bool} {n ord scope : Nat} {tag : Tag} {accs : List LaneAcc}
  (hkind : pd.kind = .load true false na n sext tag ord scope accs [] []) (hreads : pd.reads = []) (hq : W.storeq = []) (hpoison : T.spoison = [])

include hkind hreads hq hpoison

/-- Where nothing of the wave is queued, a piece's bytes are those of the scratchpad. -/
theorem State.readPiece_scratch (id lane : Nat) (known : Tbl Byte) (hknown : Knows T known) (p : Piece) (hp : p.InSector) :
    s.readPiece T W id pd lane known [] p = some (readBytes T.scratch p.addr p.len, false, s) := by
  obtain ⟨hreg, hin⟩ := hp
  have queued (k : Nat) : queueByte (W.readFrom false) true pd.ord known k = some (Tbl.find known k) := by
    unfold queueByte Wave.readFrom
    rw [hq]
    cases Tbl.find known k <;> rfl
  have unhurt (k : Nat) : queueHurt (W.readFrom false) true pd.ord known k = false := by
    unfold queueHurt Wave.readFrom
    rw [hq]
    exact Bool.and_false _
  have all : p.keys.mapM (fun k => queueByte (W.readFrom false) true pd.ord known k) = some (p.keys.map (Tbl.find known)) := by
    simp only [queued]
    exact List.mapM_pure
  have here (i : Nat) (hi : i < p.len) : (Tbl.find known (p.addr + i)).getD (Tbl.get 0 T.scratch (p.addr + i)) = Tbl.get 0 T.scratch (p.addr + i) := by
    cases hf : Tbl.find known (p.addr + i) with
    | none => rfl
    | some b => exact hknown _ b hf
  have calm : p.keys.any (queueHurt (W.readFrom false) true pd.ord known) = false := by
    rw [List.any_eq_false]
    exact fun k _ => by simp [unhurt k]
  rw [p.keys_scratch hreg] at all calm
  unfold State.readPiece
  simp only [hkind, all, calm, hreads, p.keys_scratch hreg, List.contains_nil, Bool.false_or, Bool.false_and, Bool.false_eq_true, if_false]
  split_ifs with hall
  · refine congrArg (fun bs => some (bs, false, s)) (List.ext_getElem (by simp [readBytes]) fun i h1 h2 => ?_)
    have hi : i < p.len := by simpa [readBytes] using h2
    obtain ⟨b, hb⟩ : ∃ b, Tbl.find known (p.addr + i) = some b := by
      rw [List.all_eq_true] at hall
      exact Option.isSome_iff_exists.1 (hall _ (List.mem_map_of_mem (List.mem_map_of_mem (List.mem_range.2 hi))))
    simpa [readBytes, hb] using hknown _ b hb
  · unfold State.beyond State.askedFor
    simp only [hreg, hpoison, List.contains_nil, Option.map_some]
    refine congrArg (fun bs => some (bs, false, s)) (List.ext_getElem (by simp [readBytes]) fun i h1 h2 => ?_)
    have hi : i < p.len := by simpa [readBytes] using h2
    have at_ : (readBytes T.scratch (p.addr / 32 * 32) 32).getD (p.addr % 32 + i) 0 = Tbl.get 0 T.scratch (p.addr + i) := by
      rw [readBytes_getD _ _ _ _ (by omega)]
      congr 1
      omega
    simp only [List.getElem_map, List.getElem_zipIdx, List.getElem_range, Nat.zero_add, at_, here i hi]
    simp [readBytes]

end pieces

end Sys2Proof.Machine

/-! SUPPORT. Data of a load from the scratchpad return (R116, R121). -/

namespace Sys2Proof.Machine

open Claims

/-! ## The lanes of a load from the scratchpad -/

/-- One piece of a lane's access is read on, as a step of a load does it. -/
def readOn (T : Team) (W : Wave) (id : Nat) (pd : Pend) (lane : Nat) (r : Option (State × Tbl Byte × List Nat × List Byte × Bool)) (p : Piece) :
    Option (State × Tbl Byte × List Nat × List Byte × Bool) :=
  match r with
  | none => none
  | some (s, known, bad, bytes, dead) =>
    match s.readPiece T W id pd lane known bad p with
    | none => none
    | some (bs, poison, s1) =>
      some (s1, (p.keys.zip bs).foldl (fun t c => Tbl.put t c.1 c.2) known,
        if poison then NSet.insert bad (byteKey p.region p.addr / 32) else bad, bytes ++ bs, dead || poison)

/-- A lane whose pieces can all be read now is finished. -/
theorem LoadRun.lane_of_read (q : LoadRun) (T : Team) (W : Wave) (id : Nat) (pd : Pend) (a : LaneAcc) (s : State) (known : Tbl Byte) (bad : List Nat)
    (bytes : List Byte) (dead : Bool)
    (h : (a.pieces.flatMap Piece.bySector).foldl (readOn T W id pd a.lane) (some (q.s, q.known, q.bad, [], false)) = some (s, known, bad, bytes, dead)) :
    q.lane T W id pd a = ⟨s, known, bad, q.lanes ++ [(a, bytes, dead)]⟩ := by
  show (match (a.pieces.flatMap Piece.bySector).foldl (readOn T W id pd a.lane) (some (q.s, q.known, q.bad, [], false)) with
    | none => q
    | some (s, known, bad, bytes, dead) => (⟨s, known, bad, q.lanes ++ [(a, bytes, dead)]⟩ : LoadRun)) = _
  rw [h]

/-- A scratchpad access of at most 8 bytes, cut at the sector boundary, has the bytes that stand there. -/
theorem Piece.bySector_scratch (m : Tbl Byte) (k n : Nat) (hn : n ≤ 8) :
    (∀ p ∈ (⟨.scratch, k, n, 0⟩ : Piece).bySector, p.InSector) ∧
      (⟨.scratch, k, n, 0⟩ : Piece).bySector.flatMap (fun p => readBytes m p.addr p.len) = readBytes m k n := by
  unfold Piece.bySector
  dsimp only
  split_ifs with hfit
  · exact ⟨fun p hp => by rw [List.mem_singleton.1 hp]; exact ⟨rfl, hfit⟩, List.append_nil _⟩
  · refine ⟨fun p hp => ?_, ?_⟩
    · rcases List.mem_pair.1 hp with rfl | rfl
      · exact ⟨rfl, by dsimp only; omega⟩
      · exact ⟨rfl, by dsimp only; omega⟩
    · rw [List.flatMap_cons, List.flatMap_cons, List.flatMap_nil, List.append_nil, ← readBytes_append, Nat.add_sub_cancel' (by dsimp only; omega)]

section lanes

variable {T : Team} {W : Wave} {pd : Pend} {na sext : Bool} {n ord scope : Nat} {tag : Tag} {accs : List LaneAcc}
  (hkind : pd.kind = .load true false na n sext tag ord scope accs [] []) (hreads : pd.reads = []) (hq : W.storeq = []) (hpoison : T.spoison = [])

include hkind hreads hq hpoison

theorem readOn_scratch (s : State) (id lane : Nat) (ps : List Piece) (known : Tbl Byte) (bytes : List Byte) (hknown : Knows T known) (hps : ∀ p ∈ ps, p.InSector) :
    ∃ known', ps.foldl (readOn T W id pd lane) (some (s, known, [], bytes, false)) =
      some (s, known', [], bytes ++ ps.flatMap (fun p => readBytes T.scratch p.addr p.len), false) ∧ Knows T known' := by
  induction ps generalizing known bytes with
  | nil => exact ⟨known, by simp, hknown⟩
  | cons p ps ih =>
    obtain ⟨hp, hps⟩ := List.forall_mem_cons.1 hps
    have read := State.readPiece_scratch (s := s) hkind hreads hq hpoison id lane known hknown p hp
    have known' : Knows T ((p.keys.zip (readBytes T.scratch p.addr p.len)).foldl (fun t c => Tbl.put t c.1 c.2) known) := by
      refine Knows.put _ known hknown fun c hc => ?_
      rw [p.keys_scratch hp.1, readBytes, List.zip_map', List.mem_map] at hc
      obtain ⟨i, -, rfl⟩ := hc
      rfl
    obtain ⟨known'', h, hk⟩ := ih _ (bytes ++ readBytes T.scratch p.addr p.len) known' hps
    refine ⟨known'', ?_, hk⟩
    rw [List.foldl_cons, List.flatMap_cons, ← List.append_assoc, ← h]
    unfold readOn
    dsimp only
    rw [read]
    rfl

/-- The lanes that return in one step, each with the bytes of the scratchpad at its place. -/
theorem LoadRun.lanes_scratch (hn : n ≤ 8) (id : Nat) (s : State) (as : List LaneAcc) (has : ∀ a ∈ as, ∃ k, a.pieces = [⟨.scratch, k, n, 0⟩])
    (known : Tbl Byte) (done : List (LaneAcc × List Byte × Bool)) (hknown : Knows T known) :
    ∃ known', as.foldl (fun (q : LoadRun) a => q.lane T W id pd a) ⟨s, known, [], done⟩ =
      ⟨s, known', [], done ++ as.map (fun a => (a, readBytes T.scratch a.place n, false))⟩ := by
  induction as generalizing known done with
  | nil => exact ⟨known, by simp⟩
  | cons a as ih =>
    obtain ⟨⟨k, hk⟩, has⟩ := List.forall_mem_cons.1 has
    obtain ⟨cut, bytes⟩ := Piece.bySector_scratch T.scratch k n hn
    obtain ⟨known', read, hknown'⟩ := readOn_scratch hkind hreads hq hpoison s id a.lane _ known [] hknown cut
    have place : a.place = k := by rw [LaneAcc.place, hk]; rfl
    have one := LoadRun.lane_of_read ⟨s, known, [], done⟩ T W id pd a s known' [] (readBytes T.scratch a.place n) false (by
      rw [hk, List.flatMap_cons, List.flatMap_nil, List.append_nil, place]
      exact read.trans (by rw [bytes, List.nil_append]))
    obtain ⟨known'', h⟩ := ih has known' (done ++ [(a, readBytes T.scratch a.place n, false)]) hknown'
    refine ⟨known'', ?_⟩
    rw [List.foldl_cons, one, h, List.append_assoc]
    rfl

end lanes

/-! ## The result in the registers -/

/-- What a lane of a load from the scratchpad receives. -/
def loadedReg (T : Team) (n : Nat) (sext : Bool) (tag : Tag) (a : LaneAcc) : VReg := ⟨(loadWords n sext (readBytes T.scratch a.place n)).headD 0, tag⟩

/-- What the lane with a number receives. -/
def loadedLane (T : Team) (n : Nat) (sext : Bool) (tag : Tag) (accs : List LaneAcc) (l : Nat) : VReg :=
  ((accs.find? (fun a => a.lane == l)).map (loadedReg T n sext tag)).getD ⟨0, tag⟩

theorem loadedLane_of_mem (T : Team) (n : Nat) (sext : Bool) (tag : Tag) (accs : List LaneAcc) (hnd : (accs.map LaneAcc.lane).Nodup) (a : LaneAcc) (ha : a ∈ accs) :
    loadedLane T n sext tag accs a.lane = loadedReg T n sext tag a := by
  obtain ⟨b, hb⟩ := Option.isSome_iff_exists.1 (List.find?_isSome (p := fun b : LaneAcc => b.lane == a.lane).2 ⟨a, ha, beq_self_eq_true a.lane⟩)
  have same : b = a := List.inj_on_of_nodup_map hnd (List.mem_of_find?_eq_some hb) ha (by simpa using List.find?_some hb)
  rw [loadedLane, hb, same]
  rfl

theorem loadWords_single (n : Nat) (sext : Bool) (bs : List Byte) (hn : n ≤ 8) : loadWords n sext bs = [(loadWords n sext bs).headD 0] := by
  unfold loadWords
  rw [if_neg (by omega)]
  rfl

theorem shareKnown_lanes (p : Pend) (known : Tbl Byte) (bad : List Nat) (q : Pend) : (shareKnown p known bad q).lanes = q.lanes := by
  unfold shareKnown
  split
  · split_ifs <;> rfl
  · rfl

section return_

variable {s : State} {id : Nat} {p : Pend} {W : Wave} {T : Team} {d n ord scope : Nat} {na sext : Bool} {tag : Tag} {accs : List LaneAcc}
  (hp : Tbl.find s.pend id = some p) (hW : s.wave? p.wave = some W) (hT : s.team? W.team = some T) (hdst : p.dst = .vec d 1) (hd : d < 256) (hn : n ≤ 8)
  (hkind : p.kind = .load true false na n sext tag ord scope accs [] []) (hreads : p.reads = []) (haccs : ∀ a ∈ accs, ∃ k, a.pieces = [⟨.scratch, k, n, 0⟩])
  (hnd : (accs.map LaneAcc.lane).Nodup) (hlanes : ∀ l, l < 64 → (p.lanes.has l = true ↔ l ∈ accs.map LaneAcc.lane)) (hsome : p.lanes ≠ 0)
  (hrem : s.path.remote = []) (hq : W.storeq = []) (hpoison : T.spoison = [])

/-- The lanes that return are some of those still owed. -/
theorem State.returning_vec (hdst : p.dst = .vec d 1) (hsome : p.lanes ≠ 0) : s.returning p ≠ 0 ∧ s.returning p &&& p.lanes = s.returning p := by
  unfold State.returning
  rw [hdst]
  dsimp only
  split_ifs with h
  · exact ⟨hsome, BitVec.and_self⟩
  · exact ⟨h, by rw [BitVec.and_assoc, BitVec.and_self]⟩

/-- The accesses of the lanes that return. -/
def State.chosen (s : State) (p : Pend) (accs : List LaneAcc) : List LaneAcc := accs.filter (fun a => (s.returning p).has a.lane && p.lanes.has a.lane)

theorem State.mem_chosen (hdst : p.dst = .vec d 1) (hsome : p.lanes ≠ 0) (a : LaneAcc) : a ∈ s.chosen p accs ↔ a ∈ accs ∧ (s.returning p).has a.lane = true := by
  have owed (l : Nat) (h : (s.returning p).has l = true) : p.lanes.has l = true := by
    rw [← (s.returning_vec hdst hsome).2, Mask.has_and] at h
    exact (Bool.and_eq_true_iff.1 h).2
  rw [State.chosen, List.mem_filter]
  refine and_congr_right fun _ => ⟨fun h => (Bool.and_eq_true_iff.1 h).1, fun h => ?_⟩
  rw [h, owed _ h]
  rfl

include hdst hlanes hsome in
/-- The lanes of those accesses are the ones that return. -/
theorem State.chosen_lanes : Mask.ofList ((s.chosen p accs).map LaneAcc.lane) = s.returning p := by
  refine Mask.ext fun l hl => ?_
  rw [Mask.has_ofList _ _ hl, Bool.eq_iff_iff, decide_eq_true_iff, List.mem_map]
  constructor
  · rintro ⟨a, ha, rfl⟩
    exact ((State.mem_chosen hdst hsome a).1 ha).2
  · intro h
    have owed : p.lanes.has l = true := by
      rw [← (s.returning_vec hdst hsome).2, Mask.has_and] at h
      exact (Bool.and_eq_true_iff.1 h).2
    obtain ⟨a, ha, rfl⟩ := List.mem_map.1 ((hlanes l hl).1 owed)
    exact ⟨a, (State.mem_chosen hdst hsome a).2 ⟨ha, h⟩, rfl⟩

/-- The state in which the chosen lanes have their results. -/
def State.loadedIn (s : State) (p : Pend) (T : Team) (d n : Nat) (sext : Bool) (tag : Tag) (accs : List LaneAcc) : State :=
  s.adjWave p.wave (fun W => ((s.chosen p accs).map LaneAcc.lane).foldl (fun W l => W.setReg l d (loadedLane T n sext tag accs l)) W)

include hdst hnd hn in
theorem State.deliver_chosen (t : State) (as : List LaneAcc) (has : ∀ a ∈ as, a ∈ accs) :
    (as.map (fun a => (a, readBytes T.scratch a.place n, false))).foldl
      (fun (s : State) (r : LaneAcc × List Byte × Bool) => s.deliver p r.1.lane r.1.va r.2.2 tag (loadWords n sext r.2.1)) t =
      t.adjWave p.wave (fun W => (as.map LaneAcc.lane).foldl (fun W l => W.setReg l d (loadedLane T n sext tag accs l)) W) := by
  rw [List.foldl_map]
  refine (List.foldl_ext _ (fun s a => s.setReg p.wave a.lane d (loadedLane T n sext tag accs a.lane)) t fun u a ha => ?_).trans
    (setReg_foldl as LaneAcc.lane (loadedLane T n sext tag accs) t p.wave d)
  dsimp only
  rw [loadWords_single n sext _ hn, State.deliver_vec u p a.lane a.va tag _ d 1 hdst, loadedLane_of_mem T n sext tag accs hnd a (has a ha)]
  rfl

/-- The end of a step of a load: the request entries that are left, and with the last lane its requests and its acquire. -/
def State.endLoad (s : State) (id core order scope : Nat) : State :=
  let s4 := { s with pend := Tbl.adjust s.pend id Pend.trimReads }
  let s5 := if (Tbl.find s4.pend id).isNone then s4.dropRemote (fun r => r.pend == some id) else s4
  if order == 1 && (Tbl.find s5.pend id).isNone then s5.acquire core scope else s5

theorem State.endLoad_spec (s : State) (id core order scope : Nat) :
    ∃ path, s.endLoad id core order scope = { s with path := path, pend := Tbl.adjust s.pend id Pend.trimReads } := by
  unfold State.endLoad
  dsimp only
  split_ifs
  · exact State.acquire_path _ _ _
  · exact ⟨_, rfl⟩
  · exact State.acquire_path _ _ _
  · exact ⟨_, rfl⟩

include hp hW hT hkind in
/-- LOAD_DATA_RETURN of a load from the scratchpad waits for the earlier acquires and loads (R116). -/
theorem execLoadDataReturn_waits (h : s.loadWaits p = true) : exec (.loadDataReturn id) s = .next s := by
  refine congrArg Host.Outcome.next ?_
  unfold State.loadReturn
  simp only [hp, hkind, hW, hT, h, if_true]

include hp hW hT hkind haccs hrem in
theorem execLoadDataReturn_open (h : s.loadWaits p = false) : exec (.loadDataReturn id) s = .next (s.loadLanes id p T W) := by
  have home : awayPieces (accs.filter (fun a => p.dst.isScal || p.lanes.has a.lane)) = [] := by
    refine awayPieces_of_home _ fun a ha q hq => .inr ?_
    obtain ⟨k, hk⟩ := haccs a (List.mem_filter.1 ha).1
    rw [hk] at hq
    rw [List.mem_singleton.1 hq]
  refine congrArg Host.Outcome.next ?_
  unfold State.loadReturn
  simp only [hp, hkind, hW, hT, h, home, hrem, Bool.false_eq_true, if_false, List.filter_nil, List.foldl_nil, List.isEmpty_nil, List.any_nil, Bool.not_true,
    Bool.or_self]

include hp hdst hn hkind hreads haccs hnd hlanes hsome hq hpoison

theorem State.loadLanes_scratch : ∃ path pend, s.loadLanes id p T W =
      { s.loadedIn p T d n sext tag accs with path := path, pend := pend, free := s.free + 1 } ∧
    (Tbl.find pend id).map Pend.lanes = if p.lanes &&& ~~~(s.returning p) = 0 then none else some (p.lanes &&& ~~~(s.returning p)) := by
  have mine : ∀ a ∈ s.chosen p accs, a ∈ accs := fun a ha => (List.mem_filter.1 ha).1
  obtain ⟨known, run⟩ := LoadRun.lanes_scratch hkind hreads hq hpoison hn id { s with free := s.free + 1 } (s.chosen p accs) (fun a ha => haccs a (mine a ha)) [] []
    (fun k b h => nomatch h)
  have shared : Tbl.find (List.map (fun (e : Nat × Pend) => (e.1, shareKnown p known [] e.2)) s.pend) id = some (shareKnown p known [] p) := by
    rw [Tbl.find_mapValues, hp]
    rfl
  obtain ⟨pend, done, hpend⟩ := State.completeLanes_spec
    { s.loadedIn p T d n sext tag accs with pend := List.map (fun (e : Nat × Pend) => (e.1, shareKnown p known [] e.2)) s.pend, free := s.free + 1 }
    id (s.returning p) _ shared
  have left : (Tbl.find (Tbl.adjust pend id Pend.trimReads) id).map Pend.lanes =
      if p.lanes &&& ~~~(s.returning p) = 0 then none else some (p.lanes &&& ~~~(s.returning p)) := by
    rw [Tbl.find_adjust_same, hpend, Pend.without, shareKnown_lanes]
    split_ifs <;> rfl
  have given := State.deliver_chosen (T := T) (sext := sext) (tag := tag) hdst hn hnd
    { s with pend := List.map (fun (e : Nat × Pend) => (e.1, shareKnown p known [] e.2)) s.pend, free := s.free + 1 } (s.chosen p accs) mine
  have lanes : Mask.ofList (((s.chosen p accs).map (fun a => (a, readBytes T.scratch a.place n, false))).map (fun r : LaneAcc × List Byte × Bool => r.1.lane)) =
      s.returning p := by
    rw [List.map_map]
    exact State.chosen_lanes hdst hlanes hsome
  have all : s.loadLanes id p T W = (State.completeLanes
      { s.loadedIn p T d n sext tag accs with pend := List.map (fun (e : Nat × Pend) => (e.1, shareKnown p known [] e.2)) s.pend, free := s.free + 1 }
      id (s.returning p)).endLoad id W.core ord scope := by
    unfold State.loadLanes
    rw [hkind]
    have picked : accs.filter (fun a => (s.returning p).has a.lane && ((Dest.vec d 1).isScal || p.lanes.has a.lane)) = s.chosen p accs := rfl
    simp only [hdst, picked, run, List.nil_append, given, lanes]
    rfl
  obtain ⟨path, ended⟩ := State.endLoad_spec
    { s.loadedIn p T d n sext tag accs with pend := pend, free := s.free + 1 } id W.core ord scope
  refine ⟨path, _, all.trans ?_, left⟩
  rw [done]
  exact ended

include hW hT hrem hd

/-- LOAD_DATA_RETURN of a load from the scratchpad: some lanes have their bytes with the load's tag, and the others are still owed (R121). -/
theorem execLoadDataReturn_scratch (h : s.loadWaits p = false) : ∃ t R, exec (.loadDataReturn id) s = .next t ∧ R ≠ 0 ∧ R &&& p.lanes = R ∧
    (∀ a, t.byte a = s.byte a) ∧ t.teams = s.teams ∧
    (∀ a ∈ accs, R.has a.lane = true → ∀ b, a.pieces.map Piece.addr = [b] →
      t.vreg p.wave a.lane d = ⟨(loadWords n sext (readBytes T.scratch b n)).headD 0, tag⟩) ∧
    (∀ l k, l < 64 → k < 256 → (k ≠ d ∨ R.has l = false) → t.vreg p.wave l k = s.vreg p.wave l k) ∧
    (Tbl.find t.pend id).map Pend.lanes = if p.lanes &&& ~~~R = 0 then none else some (p.lanes &&& ~~~R) := by
  obtain ⟨path, pend, done, left⟩ := State.loadLanes_scratch hp hdst hn hkind hreads haccs hnd hlanes hsome hq hpoison
  obtain ⟨some_, owed⟩ := s.returning_vec hdst hsome
  have reg (l k : Nat) (hk : k < 256) := State.vreg_of_results s { s.loadedIn p T d n sext tag accs with path := path, pend := pend, free := s.free + 1 }
    p.wave d W ((s.chosen p accs).map LaneAcc.lane) (loadedLane T n sext tag accs) hd hW rfl l k hk
  refine ⟨_, s.returning p, (execLoadDataReturn_open hp hW hT hkind haccs hrem h).trans (congrArg Host.Outcome.next done), some_, owed, fun a => rfl, rfl,
    fun a ha hret b hb => ?_, fun l k hl hk hother => ?_, left⟩
  · have place : a.place = b := by rw [LaneAcc.place, hb]; rfl
    refine (reg a.lane d hd).trans ((if_pos ⟨List.mem_map_of_mem ((State.mem_chosen hdst hsome a).2 ⟨ha, hret⟩), rfl⟩).trans ?_)
    rw [loadedLane_of_mem T n sext tag accs hnd a ha, loadedReg, place]
  · refine (reg l k hk).trans (if_neg fun hin => ?_)
    obtain ⟨hmem, rfl⟩ := hin
    obtain ⟨a, ha, rfl⟩ := List.mem_map.1 hmem
    rw [((State.mem_chosen hdst hsome a).1 ha).2] at hother
    simp at hother

end return_

/-- LOAD_DATA_RETURN, ATOMIC_PERFORM and ATOMIC_RESPONSE. -/
theorem resultsReturn : Claims.resultsReturn := by
  refine ⟨fun s id p W T d n ord scope na sext tag accs hp hW hT hdst hd hn hkind hreads haccs hnd hlanes hsome hrem hq hpoison => ⟨?_, ?_⟩,
    fun s id r a o f n sg ftz ret ord hid hnew hloc hop hfront hfree hsteps hbad hr hp halone hw _ => ?_,
    fun s id p W d order scope tag sc accs olds hp hkind hdst hd hW hrem => ?_⟩
  · exact execLoadDataReturn_waits hp hW hT hkind
  · exact execLoadDataReturn_scratch hp hW hT hdst hd hn hkind hreads haccs hnd hlanes hsome hrem hq hpoison
  · exact execAtomicPerform_single hid hnew hloc hop hfront hfree hsteps hbad hr hp halone hw
  · exact execAtomicResponse_vec hp hkind hdst hd hW hrem

/-- Settles O40: stores reach memory (`storesReachMemory`), and data of loads and atomics return (`resultsReturn`). -/
theorem accessesComplete : Obligations.AccessesComplete := ⟨storesReachMemory, resultsReturn⟩

end Sys2Proof.Machine

/-! SUPPORT. Loads and stores at issue: the lanes that are reached, and what issue leaves alone (R110 to R113, R120 to R122). -/

namespace Sys2Proof.Machine

open Claims

/-! ## What the issue of an access leaves alone -/

/-- From `s` to `t` no byte of memory and no register has changed, nor anything of the fragment but whether and for what it waits. -/
def Untouched (c : Ctx) (s t : State) : Prop :=
  t.mem = s.mem ∧ (∀ w l n, t.vreg w l n = s.vreg w l n) ∧ (∀ w p, t.predOf w p = s.predOf w p) ∧
    ∃ F, t.frag? c.f = some F ∧ { F with fstate := c.F.fstate, hold := c.F.hold } = c.F

theorem Untouched.refl {c : Ctx} {s : State} (h : s.frag? c.f = some c.F) : Untouched c s s := ⟨rfl, fun _ _ _ => rfl, fun _ _ => rfl, c.F, h, rfl⟩

theorem Untouched.of_parts {c : Ctx} {s t u : State} (h : Untouched c s t) (hm : u.mem = t.mem) (hw : u.waves = t.waves) (hf : u.frags = t.frags) : Untouched c s u := by
  obtain ⟨mem, regs, preds, F, hF, hrest⟩ := h
  refine ⟨hm.trans mem, fun w l n => Eq.trans ?_ (regs w l n), fun w p => Eq.trans ?_ (preds w p), F, Eq.trans ?_ hF, hrest⟩
  · rw [State.vreg, State.vreg, State.wave?, State.wave?, hw]
  · rw [State.predOf, State.predOf, State.wave?, State.wave?, hw]
  · rw [State.frag?, State.frag?, hf]

/-- A change of a wave apart from its registers. -/
theorem Untouched.adjWave {c : Ctx} {s t : State} (h : Untouched c s t) (w : Nat) (g : Wave → Wave) (hv : ∀ W, (g W).vregs = W.vregs) (hp : ∀ W, (g W).preds = W.preds) :
    Untouched c s (t.adjWave w g) := by
  obtain ⟨mem, regs, preds, F, hF, hrest⟩ := h
  refine ⟨mem, fun v l n => Eq.trans ?_ (regs v l n), fun v p => Eq.trans ?_ (preds v p), F, hF, hrest⟩
  · unfold State.vreg
    by_cases hvw : v = w
    · subst hvw
      rw [State.wave?_adjWave_same]
      cases t.wave? v with
      | none => rfl
      | some W => exact congrArg (fun r => Tbl.get VReg.zero r (l * 256 + n)) (hv W)
    · rw [State.wave?_adjWave_ne _ _ _ _ hvw]
  · unfold State.predOf
    by_cases hvw : v = w
    · subst hvw
      rw [State.wave?_adjWave_same]
      cases t.wave? v with
      | none => rfl
      | some W => exact congrArg (fun r => if p = 0 then BitVec.allOnes 64 else Tbl.get 0 r p) (hp W)
    · rw [State.wave?_adjWave_ne _ _ _ _ hvw]

/-- The fragment waits for its instruction's outcome. -/
theorem Untouched.held {c : Ctx} {s t : State} (h : Untouched c s t) (id : Nat) :
    Untouched c s (t.adjFrag c.f (fun F => { F with fstate := .blocked, hold := some id })) := by
  obtain ⟨mem, regs, preds, F, hF, hrest⟩ := h
  refine ⟨mem, regs, preds, { F with fstate := .blocked, hold := some id }, ?_, hrest⟩
  rw [State.frag?_adjFrag_same, hF]
  rfl

section retired

variable (c : Ctx) (i : Instr) (t : State)

theorem Retired_mem : (Retired c i t).mem = t.mem := by
  have rest := congrArg State.mem ((t.retire c.f c.len).lookahead_rest c i)
  exact rest

theorem Retired_pend : (Retired c i t).pend = t.pend := by
  have rest := congrArg State.pend ((t.retire c.f c.len).lookahead_rest c i)
  exact rest

theorem Retired_waves : (Retired c i t).waves = t.waves := by
  have rest := congrArg State.waves ((t.retire c.f c.len).lookahead_rest c i)
  exact rest

theorem Retired_byte (a : Nat) : (Retired c i t).byte a = t.byte a := congrArg (fun m => Tbl.get 0 m a) (Retired_mem c i t)

theorem Retired_wave? (w : Nat) : (Retired c i t).wave? w = t.wave? w := congrArg (fun W => Tbl.find W w) (Retired_waves c i t)

theorem Retired_vreg (w l n : Nat) : (Retired c i t).vreg w l n = t.vreg w l n := by rw [State.vreg, Retired_wave?]; rfl

theorem Retired_predOf (w p : Nat) : (Retired c i t).predOf w p = t.predOf w p := by rw [State.predOf, Retired_wave?]; rfl

end retired

/-- An instruction that leaves memory and registers alone and retires has passed. -/
theorem Untouched.passed {c : Ctx} {s t : State} (h : Untouched c s t) (i : Instr) : PassedUnchanged c s (Retired c i t) := by
  obtain ⟨mem, regs, preds, F, hF, hrest⟩ := h
  have passes : (t.retire c.f c.len).frag? c.f = some (F.pass c.len) := by
    rw [State.retire, State.frag?_adjFrag_same, hF]
    rfl
  obtain ⟨ahead, there⟩ := State.lookahead_frag?_same _ c i _ passes
  refine ⟨fun a => ?_, fun w l n => (Retired_vreg c i t w l n).trans (regs w l n), fun w p => (Retired_predOf c i t w p).trans (preds w p),
    { F.pass c.len with ahead := ahead }, there, ?_⟩
  · exact (Retired_byte c i t a).trans (congrArg (fun m => Tbl.get 0 m a) mem)
  · rw [← hrest]
    exact ⟨rfl, rfl, rfl, rfl, rfl, rfl⟩

/-- An instruction without effect that retires has written nothing. -/
theorem Ready.completes_nothing {s : State} {c : Ctx} {i : Instr} (h : Ready s c i) (part : Mask) : OnlyWrites c s (Retired c i s) [] part false := by
  have writes := retired_onlyWrites s c i id id [] part false h.frag h.wave rfl (fun _ _ _ _ _ => rfl) (fun _ _ _ _ => rfl) rfl (fun _ _ => rfl)
    (fun _ _ _ => ⟨rfl, rfl⟩) rfl (fun _ => rfl)
  rwa [State.adjWave_id, State.adjFrag_id] at writes

/-! ## Translations, traces, watchpoints -/

theorem foldl_path_free {α : Type} (f : State → α → State) (hf : ∀ s a, ∃ path free, f s a = { s with path := path, free := free }) (l : List α) (s : State) :
    ∃ path free, l.foldl f s = { s with path := path, free := free } := by
  induction l generalizing s with
  | nil => exact ⟨_, _, rfl⟩
  | cons a l ih =>
    obtain ⟨path, free, h⟩ := hf s a
    obtain ⟨path', free', h'⟩ := ih (f s a)
    refine ⟨path', free', h'.trans ?_⟩
    rw [h]

theorem State.fillTlb_path_free (s : State) (who : Agent) (asid root : Nat) (va : Word) : ∃ path free, s.fillTlb who asid root va = { s with path := path, free := free } := by
  unfold State.fillTlb
  split
  · exact ⟨_, _, rfl⟩
  · exact ⟨_, _, rfl⟩

/-- The translations of the accesses go to caches. -/
theorem State.fillReached_path_free (s : State) (c : Ctx) (n : Nat) (r : Reached) : ∃ path free, s.fillReached c n r = { s with path := path, free := free } :=
  foldl_path_free _ (fun s _ => foldl_path_free _ (fun s _ => s.fillTlb_path_free ..) _ s) r s

theorem State.traceAccess_untraced (s : State) (c : Ctx) (width : Nat) (part : Mask) (lanes : List (Nat × Word)) (h : s.prof.traced.contains c.T.grid = false) :
    s.traceAccess c width part lanes = s := by
  unfold State.traceAccess
  split
  · rfl
  · exact if_neg (by rw [h]; decide)

theorem State.watch_undebugged (s : State) (t f : Nat) (write : Bool) (n : Nat) (vas : List Word) (h : Tbl.find s.debug t = none) : s.watch t f write n vas = s := by
  unfold State.watch
  rw [h]

/-- The state in which an access has left its translations in the caches and, where it orders, is counted. -/
def State.opened (s : State) (c : Ctx) (scratch ordering : Bool) (n : Nat) (r : Reached) : State :=
  (if scratch then s else s.fillReached c n r).nextEpoch c.w ordering

theorem State.opened_spec (s : State) (c : Ctx) (scratch ordering : Bool) (n : Nat) (r : Reached) : ∃ path free,
    s.opened c scratch ordering n r = State.nextEpoch { s with path := path, free := free } c.w ordering := by
  unfold State.opened
  cases scratch with
  | true => exact ⟨s.path, s.free, rfl⟩
  | false =>
    obtain ⟨path, free, h⟩ := s.fillReached_path_free c n r
    exact ⟨path, free, congrArg (fun t => State.nextEpoch t c.w ordering) h⟩

/-- What stands in an opened state as it stood before. -/
structure Opened (c : Ctx) (s t : State) : Prop where
  untouched : Untouched c s t
  pend      : t.pend = s.pend
  debug     : t.debug = s.debug
  prof      : t.prof = s.prof
  wave      : ∃ epoch, t.wave? c.w = some { c.W with epoch := epoch }

theorem State.opened_opened (s : State) (c : Ctx) (scratch ordering : Bool) (n : Nat) (r : Reached) (hF : s.frag? c.f = some c.F) (hW : s.wave? c.w = some c.W) :
    Opened c s (s.opened c scratch ordering n r) := by
  obtain ⟨path, free, h⟩ := s.opened_spec c scratch ordering n r
  have same : Untouched c s { s with path := path, free := free } := (Untouched.refl hF).of_parts rfl rfl rfl
  rw [h]
  cases ordering with
  | false => exact ⟨same, rfl, rfl, rfl, c.W.epoch, hW⟩
  | true =>
    refine ⟨same.adjWave c.w _ (fun _ => rfl) (fun _ => rfl), rfl, rfl, rfl, c.W.epoch + 1, ?_⟩
    exact (State.wave?_adjWave_same { s with path := path, free := free } c.w _).trans (congrArg (Option.map _) hW)

/-! ## The lanes that are reached -/

theorem Ctx.reach_nonempty (c : Ctx) (s : State) (lanes : List Nat) (addr : Nat → Word) (n : Nat) (kind : Acc) (limit : Limit) (whole : Bool) (r : Reached)
    (hl : lanes ≠ []) (h : c.reach s lanes addr n kind limit whole = .ok r) : r ≠ [] := by
  unfold Ctx.reach at h
  split at h
  · cases h
  · dsimp only at h
    split_ifs at h with hbad
    cases h
    intro hnone
    obtain ⟨l, hl⟩ := List.exists_mem_of_ne_nil _ hl
    rw [List.isEmpty_iff, List.filterMap_eq_nil_iff] at hbad
    rw [List.filterMap_eq_nil_iff] at hnone
    have bad := hbad _ (List.mem_map_of_mem hl)
    have good := hnone _ (List.mem_map_of_mem hl)
    dsimp only at bad good
    cases hacc : s.access (.core c.W.core) c.T.asid c.T.table (addr l) n kind limit with
    | error e => rw [hacc] at bad; cases bad
    | ok ps => rw [hacc] at good; cases good

theorem Ctx.reachIn_nonempty (c : Ctx) (s : State) (scratch : Bool) (lanes : List Nat) (addr : Nat → Word) (n : Nat) (kind : Acc) (whole : Bool) (r : Reached)
    (hl : lanes ≠ []) (h : c.reachIn s scratch lanes addr n kind whole = .ok r) : r ≠ [] := by
  unfold Ctx.reachIn at h
  split_ifs at h
  · unfold Ctx.reachScratch at h
    dsimp only at h
    split_ifs at h
    cases h
    simpa using hl
  · exact c.reach_nonempty s lanes addr n kind .none whole r hl h

/-- With no far lane every lane is near. -/
theorem near_of_no_far (r : Reached) : r.filter (fun a => !(0 : Mask).has a.1) = r :=
  List.filter_eq_self.2 fun a _ => by rw [show (0 : Mask).has a.1 = false from BitVec.getLsbD_zero]; rfl

/-! ## Far quads leave -/

theorem State.reuseEntry_parts (s : State) (core quadrant entry : Nat) : (s.reuseEntry core quadrant entry).mem = s.mem ∧
    (s.reuseEntry core quadrant entry).waves = s.waves ∧ (s.reuseEntry core quadrant entry).pend = s.pend ∧ (s.reuseEntry core quadrant entry).debug = s.debug := by
  unfold State.reuseEntry
  dsimp only
  split
  · exact ⟨rfl, rfl, rfl, rfl⟩
  · exact ⟨rfl, rfl, rfl, rfl⟩

theorem State.splitOff_parts {s t : State} {f n : Nat} {lanes : Mask} (h : s.splitOff f lanes = some (n, t)) :
    t.mem = s.mem ∧ t.waves = s.waves ∧ t.pend = s.pend ∧ t.debug = s.debug := by
  unfold State.splitOff at h
  split at h
  · cases h
  · split at h
    · cases h
    · split at h
      · split_ifs at h
        cases h
        exact State.reuseEntry_parts ..
      · cases h

/-- The departure of far lanes changes no byte, no register and no outstanding record. -/
theorem State.splitFar_parts {s t : State} {c : Ctx} {i : Instr} {far : Mask} {hold : Option Nat} {f : Nat} (h : s.splitFar c i far hold = some (f, t)) :
    t.mem = s.mem ∧ t.waves = s.waves ∧ t.pend = s.pend ∧ t.debug = s.debug := by
  unfold State.splitFar at h
  split at h
  · cases h
  · next hs =>
    cases h
    have parts := State.splitOff_parts hs
    exact parts

end Sys2Proof.Machine

/-! SUPPORT. Loads issue (R112, R113, R121). -/

namespace Sys2Proof.Machine

open Claims

/-- The loads share one body. -/
theorem exec_load (s : State) (x : ExtWord) : ∀ p ∈ loads x, exec p.1 s = issue p.1 (loadBody p.1 x p.2.1 p.2.2) s := by
  intro p hp
  rcases List.mem_cons.1 hp with rfl | hp
  · rfl
  · rcases List.mem_pair.1 hp with rfl | rfl
    · rfl
    · rfl

/-- A load with no lane has no effect. -/
theorem loadBody_none (i : Instr) (x : ExtWord) (scratch const : Bool) (c : Ctx) (s : State) (h : c.accessLanes x = []) : loadBody i x scratch const c s = .done s := by
  unfold loadBody
  simp only [h, List.isEmpty_nil, if_true]

/-- The sector reads that some accesses of a load send: none from the scratchpad. -/
def loadSent (s : State) (c : Ctx) (x : ExtWord) (scratch const : Bool) (q : Reached) : List Nat :=
  if scratch then [] else s.sentReads c.W const (loadKind x const).bypass q

section startLoad

variable {s t : State} {c : Ctx} (p : Pend) (r : Reached) (n : Nat) (hd : Tbl.find t.debug c.t = none)
include hd

/-- With no watchpoint, a load that starts leaves an outstanding record, for which its fragment may wait. -/
theorem State.startLoad_undebugged : t.startLoad c c.f p r n =
    if reachedAway r then (t.addPend p).2.adjFrag c.f (fun F => { F with fstate := .blocked, hold := some t.nextId }) else (t.addPend p).2 := by
  unfold State.startLoad
  dsimp only
  split_ifs
  · exact State.watch_undebugged _ _ _ _ _ _ hd
  · exact State.watch_undebugged _ _ _ _ _ _ hd

theorem State.startLoad_parts : (t.startLoad c c.f p r n).pend = Tbl.put t.pend t.nextId p ∧ (t.startLoad c c.f p r n).nextId = t.nextId + 1 ∧
    (t.startLoad c c.f p r n).debug = t.debug := by
  rw [State.startLoad_undebugged p r n hd]
  split_ifs
  · exact ⟨rfl, rfl, rfl⟩
  · exact ⟨rfl, rfl, rfl⟩

theorem Untouched.startLoad (h : Untouched c s t) : Untouched c s (t.startLoad c c.f p r n) := by
  have put : Untouched c s (t.addPend p).2 := h.of_parts rfl rfl rfl
  rw [State.startLoad_undebugged p r n hd]
  split_ifs
  · exact put.held t.nextId
  · exact put

end startLoad

section load

variable {s : State} {c : Ctx} {x : ExtWord} {scratch const : Bool} {r : Reached} (hF : s.frag? c.f = some c.F) (hW : s.wave? c.w = some c.W)
  (hlanes : c.accessLanes x ≠ []) (hun : Unprofiled s c) (hd : Tbl.find s.debug c.t = none)
  (hr : c.reachIn s scratch (c.accessLanes x) (c.addr x true) (accessBytes x) .read x.d.isScalar = .ok r)

/-- The state in which a load's accesses are checked and nothing is outstanding yet. -/
def State.loadOpened (s : State) (c : Ctx) (x : ExtWord) (scratch const : Bool) (r : Reached) : State :=
  s.opened c scratch (!const && accessOrder x != 0) (accessBytes x) r

theorem State.loadOpened_opened (hF : s.frag? c.f = some c.F) (hW : s.wave? c.w = some c.W) : Opened c s (s.loadOpened c x scratch const r) :=
  s.opened_opened c scratch _ (accessBytes x) r hF hW

/-- The state in which the near lanes of a load are outstanding. -/
def State.loadNear (s : State) (c : Ctx) (x : ExtWord) (scratch const : Bool) (r near : Reached) : State :=
  let t := s.loadOpened c x scratch const r
  if near.isEmpty then t else t.startLoad c c.f (loadPend x scratch const c t.nextId near (loadSent s c x scratch const near)) near (accessBytes x)

/-- The lanes of a load that leave. -/
def loadFar (s : State) (c : Ctx) (x : ExtWord) (scratch const : Bool) (r : Reached) : Mask :=
  if scratch || x.d.isScalar then 0 else s.farLanes c x (accessBytes x) (some (loadKind x const)) r

/-- The record of the far lanes of a load. -/
def farPend (s : State) (c : Ctx) (x : ExtWord) (scratch const : Bool) (r near away : Reached) : Pend :=
  loadPend x scratch const c (s.loadOpened c x scratch const r).nextId away
    ((loadSent s c x scratch const away).filter (fun k => !(loadSent s c x scratch const near).contains k))

include hF hW hlanes hun hr

/-- A load whose lanes are reached starts with its near lanes, and then its far lanes leave. -/
theorem loadBody_reached (i : Instr) : loadBody i x scratch const c s =
    let far := loadFar s c x scratch const r
    let near := r.filter (fun a => !far.has a.1)
    let away := r.filter (fun a => far.has a.1)
    let t := s.loadNear c x scratch const r near
    let q := t.addPend (farPend s c x scratch const r near away)
    if far = 0 then .done t
    else
      match q.2.splitFar c i far (some q.1) with
      | none => .done q.2
      | some (f, u) => .done (u.watch c.t f false (accessBytes x) (away.map (fun a => a.2.1))) := by
  have some_ : (c.accessLanes x).isEmpty = false := by simpa using hlanes
  have traced (width : Nat) (part : Mask) (lanes : List (Nat × Word)) := State.traceAccess_untraced (s.loadOpened c x scratch const r) c width part lanes
    (by rw [(State.loadOpened_opened hF hW).prof]; exact hun.1)
  unfold State.loadOpened State.opened accessBytes at traced
  unfold accessBytes at hr
  unfold loadBody
  simp only [some_, Bool.false_eq_true, if_false, hr, traced]
  rfl

omit hlanes hun hr in
include hd in
/-- The near lanes of a load have one record, and nothing else has changed. -/
theorem State.loadNear_spec (near : Reached) : Untouched c s (s.loadNear c x scratch const r near) ∧ (s.loadNear c x scratch const r near).debug = s.debug ∧
    (near = [] → (s.loadNear c x scratch const r near).pend = s.pend) ∧
    (near ≠ [] → (s.loadNear c x scratch const r near).pend = Tbl.put s.pend (s.loadOpened c x scratch const r).nextId
        (loadPend x scratch const c (s.loadOpened c x scratch const r).nextId near (loadSent s c x scratch const near)) ∧
      (s.loadNear c x scratch const r near).nextId = (s.loadOpened c x scratch const r).nextId + 1) := by
  obtain ⟨same, pend, debug, -, -⟩ := State.loadOpened_opened (x := x) (scratch := scratch) (const := const) (r := r) hF hW
  have calm : Tbl.find (s.loadOpened c x scratch const r).debug c.t = none := by rw [debug, hd]
  unfold State.loadNear
  dsimp only
  by_cases hnear : near = []
  · rw [if_pos (List.isEmpty_iff.2 hnear)]
    exact ⟨same, debug, fun _ => pend, fun h => absurd hnear h⟩
  · rw [if_neg (by simpa using hnear)]
    obtain ⟨started, next, kept⟩ := State.startLoad_parts
      (loadPend x scratch const c (s.loadOpened c x scratch const r).nextId near (loadSent s c x scratch const near)) near (accessBytes x) calm
    exact ⟨same.startLoad _ _ _ calm, kept.trans debug, fun h => absurd h hnear, fun _ => ⟨by rw [started, pend], next⟩⟩

include hd

/-- A load whose lanes are all near has one record. -/
theorem loadBody_near (i : Instr) (hfar : loadFar s c x scratch const r = 0) : ∃ t id, loadBody i x scratch const c s = .done t ∧ Untouched c s t ∧
    t.pend = Tbl.put s.pend id (loadPend x scratch const c id r (loadSent s c x scratch const r)) := by
  obtain ⟨same, -, -, started⟩ := State.loadNear_spec (x := x) (scratch := scratch) (const := const) (r := r) hF hW hd r
  refine ⟨_, _, (loadBody_reached hF hW hlanes hun hr i).trans ((if_pos hfar).trans ?_), same, (started (c.reachIn_nonempty s _ _ _ _ _ _ r hlanes hr)).1⟩
  rw [hfar, near_of_no_far]

/-- A load with far lanes has a record for them, and where there are near lanes one for those. -/
theorem loadBody_far (i : Instr) (hfar : loadFar s c x scratch const r ≠ 0) :
    let near := r.filter (fun a => !(loadFar s c x scratch const r).has a.1)
    let away := r.filter (fun a => (loadFar s c x scratch const r).has a.1)
    ∃ t id k, loadBody i x scratch const c s = .done t ∧ t.mem = s.mem ∧ (∀ w l n, t.vreg w l n = s.vreg w l n) ∧
      (near ≠ [] → Tbl.find t.pend id = some (loadPend x scratch const c id near (loadSent s c x scratch const near))) ∧
      Tbl.find t.pend k = some (loadPend x scratch const c id away
        ((loadSent s c x scratch const away).filter (fun e => !(loadSent s c x scratch const near).contains e))) := by
  intro near away
  obtain ⟨⟨mem, regs, -, -⟩, debug, -, started⟩ := State.loadNear_spec (x := x) (scratch := scratch) (const := const) (r := r) hF hW hd near
  have reached := loadBody_reached (const := const) hF hW hlanes hun hr i
  dsimp only at reached
  rw [if_neg hfar] at reached
  have ends (u : State) (hm : u.mem = (s.loadNear c x scratch const r near).mem) (hw : u.waves = (s.loadNear c x scratch const r near).waves)
      (hp : u.pend = ((s.loadNear c x scratch const r near).addPend (farPend s c x scratch const r near away)).2.pend) :
      u.mem = s.mem ∧ (∀ w l n, u.vreg w l n = s.vreg w l n) ∧
        (near ≠ [] → Tbl.find u.pend (s.loadOpened c x scratch const r).nextId =
          some (loadPend x scratch const c (s.loadOpened c x scratch const r).nextId near (loadSent s c x scratch const near))) ∧
        Tbl.find u.pend (s.loadNear c x scratch const r near).nextId = some (farPend s c x scratch const r near away) := by
    refine ⟨hm.trans mem, fun w l n => Eq.trans ?_ (regs w l n), fun hnear => ?_, ?_⟩
    · rw [State.vreg, State.vreg, State.wave?, State.wave?, hw]
    · obtain ⟨pend, next⟩ := started hnear
      rw [hp, State.addPend_pend, next, pend, Tbl.find_put_ne _ _ _ _ (Nat.ne_of_lt (Nat.lt_succ_self _))]
      exact Tbl.find_put_same ..
    · rw [hp]
      exact Tbl.find_put_same ..
  split at reached
  · exact ⟨_, _, _, reached, ends _ rfl rfl rfl⟩
  · next f u hsplit =>
    obtain ⟨hm, hw, hp, hdebug⟩ := State.splitFar_parts hsplit
    rw [State.watch_undebugged _ _ _ _ _ _ (by rw [hdebug]; exact (congrArg (fun t => Tbl.find t c.t) debug).trans hd)] at reached
    exact ⟨_, _, _, reached, ends u hm hw hp⟩

end load

/-- LD, LDS and LDC. -/
theorem loadsIssue : Claims.loadsIssue := by
  intro s c x ⟨i, scratch, const⟩ hp h
  have body := exec_load s x _ hp
  dsimp only at hp h body ⊢
  refine ⟨fun hnone => ⟨_, body.trans (issue_done _ _ s c s h (loadBody_none _ x _ _ c s hnone)), h.completes_nothing 0, Retired_pend ..⟩,
    fun r hlanes hun hd hr => ⟨fun hnear => ?_, fun hscratch hvec hfar => ?_⟩⟩
  · have none_far : loadFar s c x scratch const r = 0 := by
      unfold loadFar
      rcases hnear with h | h | h
      · simp [h]
      · simp [h]
      · rw [h, ite_self]
    obtain ⟨t, id, done, same, pend⟩ := loadBody_near h.frag h.wave hlanes hun hd hr i none_far
    refine ⟨_, id, body.trans (issue_done _ _ s c t h done), same.passed i, ?_, fun k hk => ?_⟩
    · rw [Retired_pend, pend]
      exact Tbl.find_put_same ..
    · rw [Retired_pend, pend]
      exact Tbl.find_put_ne _ _ _ _ hk
  · subst hscratch
    have far_eq : loadFar s c x false const r = s.farLanes c x (accessBytes x) (some (loadKind x const)) r := by
      unfold loadFar
      rw [hvec]
      rfl
    rw [← far_eq] at hfar ⊢
    obtain ⟨t, id, k, done, mem, regs, near, away⟩ := loadBody_far h.frag h.wave hlanes hun hd hr i hfar
    refine ⟨_, id, k, body.trans (issue_done _ _ s c t h done), fun a => ?_, fun w l n => (Retired_vreg ..).trans (regs w l n), fun hne => ?_, ?_⟩
    · exact (Retired_byte ..).trans (congrArg (fun m => Tbl.get 0 m a) mem)
    · rw [Retired_pend]
      exact near hne
    · rw [Retired_pend]
      exact away

end Sys2Proof.Machine

/-! SUPPORT. Stores issue (R110 to R113, R122). -/

namespace Sys2Proof.Machine

open Claims

/-! ## The queue takes a store -/

/-- The youngest entry of a queue with a store merged into it (R111). -/
def StoreEntry.joined (e old : StoreEntry) : StoreEntry :=
  { old with pends := old.pends ++ e.pends, own := old.own ||| e.own, accs := e.accs, poison := old.poison || e.poison }

/-- A full queue takes no release. -/
theorem State.storeIn_full (s : State) (w : Nat) (W : Wave) (e : StoreEntry) (hfull : W.storeq.length = 16) (hrel : e.release = true) : s.storeIn w W e = none := by
  have some_ : W.storeq ≠ [] := by
    rintro h
    simp [h] at hfull
  have apart (old : StoreEntry) : e.mergesInto old = false := by
    unfold StoreEntry.mergesInto
    simp [hrel]
  unfold State.storeIn
  simp [List.getLast?_eq_some_getLast some_, apart, hfull]

/-- A queue with room takes a store: in its youngest entry, or in one of its own. -/
theorem State.storeIn_room (s : State) (w : Nat) (W : Wave) (e : StoreEntry) (hroom : W.storeq.length < 16) :
    s.storeIn w W e = some (s.adjWave w (fun W => { W with storeq := W.storeq ++ [e] })) ∨
      ∃ old, e.mergesInto old = true ∧ s.storeIn w W e =
        some (State.adjWave { s with pend := s.pend.map (fun (p : Nat × Pend) => (p.1, captureFor w old p.2)) } w
          (fun W => { W with storeq := W.storeq.dropLast ++ [e.joined old] })) := by
  unfold State.storeIn
  split
  · next old hold =>
    split_ifs with hmerge
    · exact .inr ⟨old, hmerge, rfl⟩
    · exact .inl rfl
  · exact .inl rfl

/-- An entry that a store merges into is a store to the same space. -/
theorem StoreEntry.mergesInto_same (e old : StoreEntry) (h : e.mergesInto old = true) : old.op = .st ∧ old.scratch = e.scratch := by
  unfold StoreEntry.mergesInto at h
  simp only [Bool.and_eq_true, beq_iff_eq] at h
  obtain ⟨⟨⟨⟨⟨⟨⟨⟨-, hop⟩, hscratch⟩, -⟩, -⟩, -⟩, -⟩, -⟩, -⟩ := h
  exact ⟨hop, hscratch.symm⟩

theorem captureFor_store (w : Nat) (old : StoreEntry) (p : Pend) (scope : Nat) (release : Bool) (h : p.kind = .store scope release) : captureFor w old p = p := by
  unfold captureFor
  rw [h]

/-- The queue has an entry that does a store, for the lanes' accesses. -/
def Admitted (c : Ctx) (t : State) (id : Nat) (scratch : Bool) (accs : List LaneAcc) : Prop :=
  ∃ W e, t.wave? c.w = some W ∧ e ∈ W.storeq ∧ id ∈ e.pends ∧ e.accs = accs ∧ e.op = .st ∧ e.scratch = scratch

/-- What a store that the queue takes leaves. -/
theorem State.storeIn_admits {c : Ctx} {s t : State} {W : Wave} {e : StoreEntry} {id : Nat} {P : Pend} {scope : Nat} {release : Bool} (ht : Untouched c s t)
    (hW : t.wave? c.w = some W) (hroom : W.storeq.length < 16) (hop : e.op = .st) (hid : id ∈ e.pends) (hP : Tbl.find t.pend id = some P)
    (hk : P.kind = .store scope release) :
    ∃ u, t.storeIn c.w W e = some u ∧ Untouched c s u ∧ Admitted c u id e.scratch e.accs ∧ Tbl.find u.pend id = some P ∧ u.debug = t.debug ∧ u.prof = t.prof := by
  rcases t.storeIn_room c.w W e hroom with taken | ⟨old, hmerge, taken⟩
  · refine ⟨_, taken, ht.adjWave c.w _ (fun _ => rfl) (fun _ => rfl), ⟨{ W with storeq := W.storeq ++ [e] }, e, ?_, ?_, hid, rfl, hop, rfl⟩, hP, rfl, rfl⟩
    · exact (t.wave?_adjWave_same c.w _).trans (congrArg (Option.map _) hW)
    · simp
  · obtain ⟨hold, hsame⟩ := e.mergesInto_same old hmerge
    have there : Untouched c s { t with pend := t.pend.map (fun (p : Nat × Pend) => (p.1, captureFor c.w old p.2)) } := ht.of_parts rfl rfl rfl
    refine ⟨_, taken, there.adjWave c.w _ (fun _ => rfl) (fun _ => rfl),
      ⟨{ W with storeq := W.storeq.dropLast ++ [e.joined old] }, e.joined old, ?_, ?_, ?_, rfl, hold, hsame⟩, ?_, rfl, rfl⟩
    · exact (State.wave?_adjWave_same { t with pend := t.pend.map (fun (p : Nat × Pend) => (p.1, captureFor c.w old p.2)) } c.w _).trans
        (congrArg (Option.map _) hW)
    · simp
    · exact List.mem_append_right _ hid
    · refine (Tbl.find_mapValues t.pend (captureFor c.w old) id).trans ?_
      rw [hP, Option.map_some, captureFor_store c.w old P scope release hk]

/-! ## One part of a store -/

section entering

variable {s t : State} {c : Ctx} {W : Wave} (hW : t.wave? c.w = some W) (tok : Nat) (lanes : Mask) (scratch release : Bool) (scope : Nat) (accs : List LaneAcc)
include hW

theorem State.admitStore_room (ht : Untouched c s t) (hroom : W.storeq.length < 16) :
    ∃ u P, t.admitStore c tok lanes scratch release scope accs = some u ∧ Untouched c s u ∧ Admitted c u t.nextId scratch accs ∧
      Tbl.find u.pend t.nextId = some P ∧ P.kind = .store scope release ∧ P.tok = tok ∧ u.debug = t.debug ∧ u.prof = t.prof := by
  unfold State.admitStore State.newStore
  rw [hW]
  have put (p : Pend) : Untouched c s (t.addPend p).2 := ht.of_parts rfl rfl rfl
  obtain ⟨u, taken, same, entry, found, rest⟩ := State.storeIn_admits
    (e := { pends := [t.nextId], pc := c.F.pc, ord := t.nextId, own := heldLanes c.W c.F, op := .st, scratch := scratch, scope := scope, release := release
            epoch := W.epoch, accs := accs })
    (put { wave := c.w, lanes := lanes, own := heldLanes c.W c.F, ord := t.nextId, tok := tok, dst := .none, pc := c.F.pc, rwc := c.F.rwc, cls := c.cls, op := c.op
           kind := .store scope release, reads := [] }) hW hroom rfl (List.mem_singleton_self _) (Tbl.find_put_same ..) rfl
  exact ⟨u, _, taken, same, entry, found, rfl, rfl, rest⟩

theorem State.admitStore_full (hfull : W.storeq.length = 16) : t.admitStore c tok lanes scratch true scope accs = none := by
  unfold State.admitStore State.newStore
  rw [hW]
  exact State.storeIn_full _ c.w W _ hfull rfl

end entering

/-! ## The bodies of ST and STS -/

theorem exec_store (s : State) (x : ExtWord) : ∀ p ∈ [(Instr.st x, false), (Instr.sts x, true)], exec p.1 s = issue p.1 (storeBody p.1 x p.2) s := by
  intro p hp
  rcases List.mem_pair.1 hp with rfl | rfl
  · rfl
  · rfl

/-- A store with no lane has no effect. -/
theorem storeBody_none (i : Instr) (x : ExtWord) (scratch : Bool) (c : Ctx) (s : State) (h : c.accessLanes x = []) : storeBody i x scratch c s = .done s := by
  unfold storeBody
  simp only [h, List.isEmpty_nil, if_true]

/-- A release at SYSTEM scope does not wait where no remote store of the wave is outstanding or has failed (R325). -/
theorem remoteCheck_of_quiet {s : State} {c : Ctx} (h : RemoteQuiet s c) : c.remoteCheck s = none := by
  obtain ⟨hfailed, hstores⟩ := h
  unfold Ctx.remoteCheck Ctx.failedStore
  simp [hfailed, hstores]

/-- Lookahead changes nothing where the fragment stays at its instruction. -/
theorem State.lookahead_stalled (s : State) (c : Ctx) (i : Instr) (h : s.frag? c.f = some c.F) : s.lookahead c i = s := by
  unfold State.lookahead
  split
  · rfl
  · split_ifs
    · rfl
    · rw [h]
      dsimp only
      refine if_pos ?_
      cases c.F.fstate <;> simp

/-- An instruction that stalls waits in place. -/
theorem issue_stall (i : Instr) (body : Ctx → State → Res) (s : State) (c : Ctx) (h : Ready s c i) (hb : body c s = .stall) : issue i body s = .next s := by
  have stays : c.run i body s = s := by
    unfold Ctx.run
    rw [hb]
    rfl
  rw [issue_ready i body s c h, stays, s.lookahead_stalled c i h.frag]

section store

variable {s : State} {c : Ctx} {x : ExtWord} {scratch : Bool} {r : Reached} (hF : s.frag? c.f = some c.F) (hW : s.wave? c.w = some c.W)
  (hlanes : c.accessLanes x ≠ []) (hr : c.reachIn s scratch (c.accessLanes x) (c.addr x true) (accessBytes x) .write x.d.isScalar = .ok r)
  (hquiet : accessOrder x = 2 → accessScope x = 5 → c.remoteCheck s = none)
  (hnear : scratch = true ∨ x.d.isScalar = true ∨ s.farLanes c x (accessBytes x) none r = 0)

/-- A lane's access in a store: its address and its bytes of D. -/
def storeAcc (c : Ctx) (x : ExtWord) (a : Nat × Word × List Piece) : LaneAcc := ⟨a.1, a.2.1, a.2.2, c.storeBytes x (accessBytes x) a.1, 0, 0⟩

/-- The state in which a store's accesses are checked and it is not in the queue yet. -/
def State.storeOpened (s : State) (c : Ctx) (x : ExtWord) (scratch : Bool) (r : Reached) : State := s.opened c scratch (accessOrder x == 2) (accessBytes x) r

/-- The lanes of the fragment that a store's record covers. -/
def storeMask (c : Ctx) (x : ExtWord) (r : Reached) : Mask := if x.d.isScalar then heldLanes c.W c.F else Mask.ofList (r.map Prod.fst)

include hlanes hr hquiet hnear

/-- A store whose lanes are all near is admitted, or waits for room. -/
theorem storeBody_near (i : Instr) : storeBody i x scratch c s =
    match (s.storeOpened c x scratch r).admitStore c x.tok.toNat (storeMask c x r) scratch (accessOrder x == 2) (accessScope x) (r.map (storeAcc c x)) with
    | none => .stall
    | some t => .done ((t.traceAccess c (x.sub &&& 7).toNat (c.part x) (r.map (fun a => (a.1, a.2.1)))).watch c.t c.f true (accessBytes x) (r.map (fun a => a.2.1))) := by
  have some_ : (c.accessLanes x).isEmpty = false := by simpa using hlanes
  have reached : r.isEmpty = false := by simpa using c.reachIn_nonempty s _ _ _ _ _ _ r hlanes hr
  have none_far : (if (scratch || x.d.isScalar) = true then 0 else s.farLanes c x (accessBytes x) none r) = 0 := by
    rcases hnear with h | h | h
    · simp [h]
    · simp [h]
    · rw [h, ite_self]
  have passes : (if (accessOrder x == 2 && accessScope x == 5) = true then c.remoteCheck s else none) = none := by
    split_ifs with h
    · simp only [Bool.and_eq_true, beq_iff_eq] at h
      exact hquiet h.1 h.2
    · rfl
  unfold accessBytes at hr none_far
  unfold storeBody
  simp only [some_, Bool.false_eq_true, if_false, hr, passes, none_far, near_of_no_far, reached, if_true]
  rfl

include hF hW

/-- Where the queue has room, a store is an entry of it. -/
theorem storeBody_room (i : Instr) (hun : Unprofiled s c) (hd : Tbl.find s.debug c.t = none) (hroom : c.W.storeq.length < 16) :
    ∃ t id P, storeBody i x scratch c s = .done t ∧ Untouched c s t ∧ Admitted c t id scratch (r.map (storeAcc c x)) ∧ Tbl.find t.pend id = some P ∧
      P.kind = .store (accessScope x) (accessOrder x == 2) ∧ P.tok = x.tok.toNat := by
  obtain ⟨same, -, debug, prof, epoch, wave⟩ := s.opened_opened c scratch (accessOrder x == 2) (accessBytes x) r hF hW
  obtain ⟨t, P, taken, untouched, entry, found, kind, tok, debug', prof'⟩ := State.admitStore_room wave x.tok.toNat (storeMask c x r) scratch (accessOrder x == 2)
    (accessScope x) (r.map (storeAcc c x)) same hroom
  refine ⟨t, _, P, (storeBody_near hlanes hr hquiet hnear i).trans ?_, untouched, entry, found, kind, tok⟩
  rw [State.storeOpened, taken]
  dsimp only
  rw [State.traceAccess_untraced _ _ _ _ _ (by rw [prof', prof]; exact hun.1), State.watch_undebugged _ _ _ _ _ _ (by rw [debug', debug, hd])]

/-- Where the queue is full, a release waits in place. -/
theorem storeBody_full (i : Instr) (hrel : accessOrder x = 2) (hfull : c.W.storeq.length = 16) : storeBody i x scratch c s = .stall := by
  obtain ⟨-, -, -, -, epoch, wave⟩ := s.opened_opened c scratch (accessOrder x == 2) (accessBytes x) r hF hW
  have refused := State.admitStore_full wave x.tok.toNat (storeMask c x r) scratch (accessScope x) (r.map (storeAcc c x)) hfull
  have release : (accessOrder x == 2) = true := by rw [hrel]; rfl
  rw [release] at refused
  rw [storeBody_near hlanes hr hquiet hnear i, State.storeOpened, release, refused]

end store

/-- ST and STS. -/
theorem storesIssue : Claims.storesIssue := by
  intro s c x ⟨i, scratch⟩ hp h
  have body := exec_store s x _ hp
  dsimp only at hp h body ⊢
  refine ⟨fun hnone => ⟨_, body.trans (issue_done _ _ s c s h (storeBody_none _ x _ c s hnone)), h.completes_nothing 0, Retired_pend ..⟩,
    fun r hlanes hun hd hr hquiet hnear hroom => ?_, fun r hlanes hr hnear hrel hscope hfull => ?_⟩
  · obtain ⟨t, id, P, done, same, ⟨W, e, wave, entry⟩, found, kind, tok⟩ := storeBody_room h.frag h.wave hlanes hr (fun ho hs => remoteCheck_of_quiet (hquiet ho hs)) hnear i hun
      hd hroom
    obtain ⟨listed, owns, accs, op, space⟩ := entry
    refine ⟨_, id, W, e, P, body.trans (issue_done _ _ s c t h done), same.passed i, (Retired_wave? ..).trans wave, listed, owns, accs, op, space, ?_, kind, tok⟩
    rw [Retired_pend]
    exact found
  · exact body.trans (issue_stall i _ s c h (storeBody_full h.frag h.wave hlanes hr (fun _ hs => absurd hs hscope) hnear i hrel hfull))

/-- Settles O25: loads issue (`loadsIssue`), and stores (`storesIssue`). -/
theorem accessesIssue : Obligations.AccessesIssue := ⟨loadsIssue, storesIssue⟩

end Sys2Proof.Machine

/-! SUPPORT. What instructions end in: an effect, a trap, a wait; and what retiring leaves alone (R41, R354, R385). -/

namespace Sys2Proof.Machine

open Claims

/-! ## What retiring leaves alone -/

theorem Ready.team {s : State} {c : Ctx} {i : Instr} (h : Ready s c i) : s.team? c.t = some c.T := by
  obtain ⟨-, -, -, -, -, team, -⟩ := s.ctxOf_spec c c.f i h.context
  exact team

theorem Ready.home {s : State} {c : Ctx} {i : Instr} (h : Ready s c i) : c.t = c.W.team := by
  obtain ⟨-, -, -, -, home, -, -⟩ := s.ctxOf_spec c c.f i h.context
  exact home

theorem Ready.own {s : State} {c : Ctx} {i : Instr} (h : Ready s c i) : c.w = c.F.wave := by
  obtain ⟨-, -, own, -⟩ := s.ctxOf_spec c c.f i h.context
  exact own

/-- Retiring changes the fragments and a counter alone. -/
theorem Retired_same {α : Type} (g : State → α) (hg : ∀ (s : State) frags rel, g { s with frags := frags, rel := rel } = g s) (c : Ctx) (i : Instr) (t : State) :
    g (Retired c i t) = g t := by
  have rest := (t.retire c.f c.len).lookahead_rest c i
  calc g (Retired c i t) = g { Retired c i t with frags := (t.retire c.f c.len).frags, rel := { (Retired c i t).rel with counters := (t.retire c.f c.len).rel.counters } } :=
        (hg ..).symm
    _ = g (t.retire c.f c.len) := congrArg g rest
    _ = g t := hg t _ t.rel

theorem Retired_teams (c : Ctx) (i : Instr) (t : State) : (Retired c i t).teams = t.teams := Retired_same State.teams (fun _ _ _ => rfl) c i t

theorem Retired_team? (c : Ctx) (i : Instr) (t : State) (k : Nat) : (Retired c i t).team? k = t.team? k := Retired_same (fun s => s.team? k) (fun _ _ _ => rfl) c i t

/-- The fragment of an instruction that retires: it has passed its instruction. -/
theorem Retired_frag? (c : Ctx) (i : Instr) (t : State) (F : Frag) (h : t.frag? c.f = some F) :
    ∃ a, (Retired c i t).frag? c.f = some { F.pass c.len with ahead := a } := by
  have passes : (t.retire c.f c.len).frag? c.f = some (F.pass c.len) := by
    rw [State.retire, State.frag?_adjFrag_same, h]
    rfl
  exact State.lookahead_frag?_same _ c i _ passes

/-! ## Traps (R383 to R386) -/

theorem State.teamEnded_frags (s : State) (t status : Nat) : (s.teamEnded t status).frags = s.frags := by
  unfold State.teamEnded
  split
  · rfl
  · split_ifs
    · rfl
    · dsimp only
      split
      · rfl
      · split_ifs <;> rfl

theorem State.checkEnds_frags (s : State) (t : Nat) : (s.checkEnds t).frags = s.frags := by
  unfold State.checkEnds
  split
  · rfl
  · split
    · exact s.teamEnded_frags ..
    · rfl

theorem State.noteExit_frags (s : State) (f : Nat) : (s.noteExit f).frags = s.frags := by
  unfold State.noteExit
  split
  · rfl
  · split
    · rfl
    · split
      · rfl
      · split_ifs <;> rfl

/-- No fragment comes of one that moves on (R202). -/
theorem State.emptied_frag?_none (s : State) (f k : Nat) (h : s.frag? k = none) : (s.emptied f).frag? k = none := by
  have adjusted (g : Frag → Frag) : Tbl.find (Tbl.adjust s.frags f g) k = none := by
    by_cases hk : k = f
    · rw [hk, Tbl.find_adjust_same, ← hk, show Tbl.find s.frags k = none from h, Option.map_none]
    · rw [Tbl.find_adjust_ne _ _ _ _ hk]
      exact h
  unfold State.emptied
  split
  · exact h
  · split_ifs
    · exact h
    · dsimp only
      split
      · exact h
      · split
        · simp only [State.frag?, State.adjFrag_frags, State.adjWave_frags, State.forget_frags]
          exact adjusted _
        · rw [State.frag?, State.checkEnds_frags]
          dsimp only
          rw [State.noteExit_frags]
          by_cases hk : k = f
          · subst hk
            exact Tbl.find_drop_same ..
          · rw [Tbl.find_drop_ne _ _ _ hk]
            exact h

theorem State.emptiedAll_frag?_none (s : State) (w k : Nat) (h : s.frag? k = none) : (s.emptiedAll w).frag? k = none := by
  unfold State.emptiedAll
  generalize (s.fragsOf w).filter _ = l
  induction l generalizing s with
  | nil => exact h
  | cons e l ih => exact ih _ (s.emptied_frag?_none _ _ h)

/-- A fragment that ends LOST is gone (R357). -/
theorem State.endLost_frag?_none (s : State) (f : Nat) (F : Frag) (hF : s.frag? f = some F) (hW : (s.wave? F.wave).isSome = true) : (s.endLost f).frag? f = none := by
  obtain ⟨W, wave⟩ := Option.isSome_iff_exists.1 hW
  unfold State.endLost
  simp only [hF, wave]
  rw [State.frag?, State.checkEnds_frags]
  exact State.emptiedAll_frag?_none _ _ _ (Tbl.find_drop_same ..)

/-- A trap without walks leaves its fragment gone, in its handler or HALTED, at the same count of instructions (R385, R386). -/
theorem State.trapFrag_frag? {s : State} {c : Ctx} {i : Instr} (t : Trap) (hctx : s.ctxOf c.f i = some c) (hafter : t.after = false) (hwalk : t.walk = []) :
    ∀ F, (s.trapFrag c.f t c.len).frag? c.f = some F → F.rwc = c.F.rwc ∧ F.fstate ≠ .meeting := by
  obtain ⟨-, hF, hw, hW, ht, hT, -⟩ := s.ctxOf_spec c c.f i hctx
  intro F
  unfold State.trapFrag State.takeTrap
  simp only [hF, hafter, Bool.false_eq_true, if_false, ← hw, hW, ← ht, hT, hwalk, State.logWalks, List.foldl_nil]
  have adjusted (g : Frag → Frag) (h : Tbl.find (Tbl.adjust s.frags c.f g) c.f = some F) : F = g c.F := by
    rw [Tbl.find_adjust_same, show Tbl.find s.frags c.f = some c.F from hF, Option.map_some] at h
    exact (Option.some.inj h).symm
  split_ifs with hsave hhandler
  · intro h
    simp only [State.frag?, State.adjFrag_frags] at h
    rw [adjusted _ h]
    exact ⟨rfl, by simp⟩
  · intro h
    have gone := State.endLost_frag?_none ((s.forget c.f).logFrag c.T c.W c.F none (kindWord t.cause 2 0 0x0E) (t.tval.toNat % 2 ^ 32) c.F.pc t.mask 0 0) c.f c.F hF
      (Option.isSome_iff_exists.2 ⟨c.W, by rw [← hw]; exact hW⟩)
    cases gone.symm.trans h
  · intro h
    simp only [State.frag?, State.adjFrag_frags] at h
    rw [adjusted _ h]
    exact ⟨rfl, by simp [Frag.enter]⟩

/-- Lookahead changes nothing where the fragment does not pass its instruction nor begins to wait in a meeting. -/
theorem State.lookahead_unpassed (s : State) (c : Ctx) (i : Instr) (h : ∀ F, s.frag? c.f = some F → F.rwc = c.F.rwc ∧ F.fstate ≠ .meeting) : s.lookahead c i = s := by
  unfold State.lookahead
  split
  · rfl
  · split_ifs
    · rfl
    · split
      · rfl
      · next F hF =>
        obtain ⟨hrwc, hmeet⟩ := h F hF
        refine if_pos ?_
        cases hs : F.fstate <;> simp_all

/-- A trap of the whole fragment without walks. -/
structure Trap.Plain (t : Trap) : Prop where
  whole : t.lanes = none
  here  : t.after = false
  walk  : t.walk = []

/-- An instruction whose body raises such a trap takes it. -/
theorem issue_trap (i : Instr) (body : Ctx → State → Res) (s : State) (c : Ctx) (t : Trap) (h : Ready s c i) (hb : body c s = .trap t) (ht : t.Plain) :
    issue i body s = .next (s.trapFrag c.f t c.len) := by
  rw [issue_ready i body s c h, c.run_trap i body s t hb ht.whole, State.lookahead_unpassed _ c i (State.trapFrag_frag? t h.context ht.here ht.walk)]

/-! ## Waiting -/

/-- A hold instruction whose condition is false waits, BLOCKED (R41). -/
theorem issue_unselect (i : Instr) (body : Ctx → State → Res) (s : State) (c : Ctx) (h : Ready s c i) (hb : body c s = .unselect) :
    ∃ t, issue i body s = .next t ∧ Waits c s t := by
  have run : c.run i body s = s.unselect c.f := by
    unfold Ctx.run
    rw [hb]
    rfl
  have blocked : (s.unselect c.f).frag? c.f = some { c.F with fstate := .blocked } := by
    rw [State.unselect, State.frag?_adjFrag_same, h.frag]
    rfl
  refine ⟨s.unselect c.f, ?_, _, blocked, rfl, rfl, rfl, rfl, fun _ => rfl⟩
  rw [issue_ready i body s c h, run, State.lookahead_unpassed]
  intro F hF
  cases blocked.symm.trans hF
  exact ⟨rfl, by simp⟩

end Sys2Proof.Machine

/-! SUPPORT. Barrier objects (R154 to R158): their fields, their scratchpad words, and what the instructions on them do. -/

namespace Sys2Proof.Machine

open Claims

/-! ## Numbers in bytes (R2) -/

theorem bytesNat_natBytes (n v : Nat) : bytesNat (natBytes n v) = v % 256 ^ n := by
  induction n generalizing v with
  | zero => simp [natBytes, bytesNat, Nat.mod_one]
  | succ n ih =>
    have low : (BitVec.ofNat 8 v).toNat = v % 256 := by simp
    rw [natBytes, bytesNat, ih, low, pow_succ', Nat.mod_mul]

theorem readNat_writeNat (m : Tbl Byte) (a n v : Nat) : readNat (writeNat m a n v) a n = v % 256 ^ n := by
  rw [readNat, readBytes_writeNat, bytesNat_natBytes]

/-! ## Fields of a barrier object (R154) -/

theorem barPack_lt {p q : Nat} (e r b : Nat) (hp : p < 2) (hq : q < 2) : barPack p e r q b < 2 ^ 128 := by
  unfold barPack
  have := Nat.mod_lt e (show 0 < 2 ^ 13 by decide)
  have := Nat.mod_lt r (show 0 < 2 ^ 13 by decide)
  have := Nat.mod_lt b (show 0 < 2 ^ 48 by decide)
  omega

theorem barPoison_barPack {p q : Nat} (e r b : Nat) (hp : p < 2) (hq : q < 2) : barPoison (barPack p e r q b) = q := by
  unfold barPoison barPack
  have := Nat.mod_lt e (show 0 < 2 ^ 13 by decide)
  have := Nat.mod_lt r (show 0 < 2 ^ 13 by decide)
  have := Nat.mod_lt b (show 0 < 2 ^ 48 by decide)
  omega

theorem barPhase_lt (o : Nat) : barPhase o < 2 := Nat.mod_lt _ (by decide)

theorem barPoison_lt (o : Nat) : barPoison o < 2 := Nat.mod_lt _ (by decide)

/-! ## Objects in the scratchpad -/

theorem Team.barRead_barWrite (T : Team) (a o : Nat) (h : o < 2 ^ 128) : (T.barWrite a o).barRead a = o := by
  have read : (T.barWrite a o).barRead a = o % 256 ^ 16 := readNat_writeNat T.scratch a 16 o
  rw [read, Nat.mod_eq_of_lt (by norm_num at h ⊢; exact h)]

theorem Team.barWrite_scratch_out (T : Team) (a o k : Nat) (h : k < a ∨ a + 16 ≤ k) : Tbl.get 0 (T.barWrite a o).scratch k = Tbl.get 0 T.scratch k :=
  get_writeBytes_out T.scratch a _ k (by rwa [natBytes_length])

theorem Team.barRead_adjBar (T : Team) (a b : Nat) (g : Barrier → Barrier) : (T.adjBar a g).barRead b = T.barRead b := rfl

/-- The test of an object whose phase is complete (R156). -/
theorem Team.barTest_complete (T : Team) (a : Nat) (h : barExpect (T.barRead a) ≤ barArrived (T.barRead a) ∧ barBytes (T.barRead a) = 0) :
    T.barTest a = (T.barWrite a (barPack (1 - barPhase (T.barRead a)) (barExpect (T.barRead a)) 0 (barPoison (T.barRead a)) 0)).adjBar a
      (fun b => { b with arrived := [] }) :=
  if_pos (by simpa using h)

theorem Team.barTest_open (T : Team) (a : Nat) (h : ¬(barExpect (T.barRead a) ≤ barArrived (T.barRead a) ∧ barBytes (T.barRead a) = 0)) : T.barTest a = T :=
  if_neg (by simpa using h)

theorem Team.barRead_barTest (T : Team) (a : Nat) (h : barExpect (T.barRead a) ≤ barArrived (T.barRead a) ∧ barBytes (T.barRead a) = 0) :
    (T.barTest a).barRead a = barPack (1 - barPhase (T.barRead a)) (barExpect (T.barRead a)) 0 (barPoison (T.barRead a)) 0 := by
  rw [T.barTest_complete a h, Team.barRead_adjBar, Team.barRead_barWrite]
  exact barPack_lt _ _ _ (by omega) (barPoison_lt _)

/-- A test leaves POISON (R156). -/
theorem Team.barPoison_barTest (T : Team) (a : Nat) : barPoison ((T.barTest a).barRead a) = barPoison (T.barRead a) := by
  by_cases h : barExpect (T.barRead a) ≤ barArrived (T.barRead a) ∧ barBytes (T.barRead a) = 0
  · rw [T.barRead_barTest a h, barPoison_barPack _ _ _ (by omega) (barPoison_lt _)]
  · rw [T.barTest_open a h]

/-- Every phase ends in a test, and no other test changes the object (R156). -/
theorem barrierPhase : Claims.barrierPhase := by
  intro T a
  refine ⟨fun h => ⟨T.barRead_barTest a h, fun b hb haddr => ?_⟩, T.barTest_open a⟩
  rw [T.barTest_complete a h] at hb
  obtain ⟨b₀, -, rfl⟩ := List.mem_map.1 hb
  split_ifs at haddr ⊢ with h₀
  · rfl
  · exact absurd haddr (by simpa using h₀)

/-! ## Registered objects (R155, R157) -/

theorem Team.bar?_without (T : Team) (k : Nat) : ({ T with barriers := T.barriers.filter (fun b => b.addr != k) } : Team).bar? k = none := by
  rw [Team.bar?, List.find?_eq_none]
  intro b hb
  have differs := (List.mem_filter.1 hb).2
  simpa using differs

theorem find?_register (bs : List Barrier) (b : Barrier) : (bs.filter (fun y => y.addr != b.addr) ++ [b]).find? (fun y => y.addr == b.addr) = some b := by
  rw [List.find?_append, List.find?_eq_none.2 (by simp), Option.none_or]
  simp

/-- A barrier's address that is in order, and registered, raises no fault of its own. -/
theorem arriveFault_none {c : Ctx} {x : ExtWord} (h : arriveFault c x = none) :
    barrierFault c (c.F.scalar x.a.num.toNat) = none ∧ (c.T.bar? (c.F.scalar x.a.num.toNat).toNat).isSome = true := by
  unfold arriveFault at h
  dsimp only at h
  split at h
  · cases h
  · next hfault =>
    split_ifs at h with hnone
    exact ⟨hfault, by cases hb : c.T.bar? (c.F.scalar x.a.num.toNat).toNat <;> simp_all⟩

/-! ## Instructions that change their team -/

/-- An instruction whose body changes its team alone passes, and the team is the changed one. -/
theorem issue_adjTeam {s : State} {c : Ctx} {i : Instr} {body : Ctx → State → Res} (h : Ready s c i) (g : Team → Team) (hb : body c s = .done (s.adjTeam c.t g)) :
    ∃ t, issue i body s = .next t ∧ PassedUnchanged c s t ∧ t.team? c.t = some (g c.T) := by
  refine ⟨_, issue_done i body s c _ h hb, ((Untouched.refl h.frag).of_parts (u := s.adjTeam c.t g) rfl rfl rfl).passed i, ?_⟩
  rw [Retired_team?]
  exact (Tbl.find_adjust_same s.teams c.t g).trans (congrArg (Option.map g) h.team)

section binit

variable {s : State} {c : Ctx} {x : ExtWord} (hfault : barrierFault c (c.F.scalar x.a.num.toNat) = none)
include hfault

theorem execBinit_sets (h : Ready s c (.binit x)) (hset : x.sub.getLsbD 1 = false) (hlo : 0 ≤ c.amount x) (hhi : c.amount x ≤ 8191)
    (hroles : x.x.toNat < 2 ^ c.T.task.roles.length)
    (hroom : (c.T.bar? (c.F.scalar x.a.num.toNat).toNat).isSome = true ∨
      (c.T.barriers.filter (fun b => b.addr / 2 ^ 19 == (c.F.scalar x.a.num.toNat).toNat / 2 ^ 19)).length < 32) :
    ∃ t, exec (.binit x) s = .next t ∧ PassedUnchanged c s t ∧ t.team? c.t =
      some { (c.T.barWrite (c.F.scalar x.a.num.toNat).toNat (barPack 0 (c.amount x).toNat 0 0 0)) with
        barriers := c.T.barriers.filter (fun y => y.addr != (c.F.scalar x.a.num.toNat).toNat) ++
          [⟨(c.F.scalar x.a.num.toNat).toNat, if x.x = 0 then 15 else x.x, []⟩] } := by
  refine issue_adjTeam h (fun T => { (T.barWrite (c.F.scalar x.a.num.toNat).toNat (barPack 0 (c.amount x).toNat 0 0 0)) with
    barriers := T.barriers.filter (fun y => y.addr != (c.F.scalar x.a.num.toNat).toNat) ++
      [⟨(c.F.scalar x.a.num.toNat).toNat, if x.x = 0 then 15 else x.x, []⟩] }) ?_
  have inRange : ¬(decide (c.amount x < 0) || decide (8191 < c.amount x)) = true := by simp; omega
  have room : ¬((c.T.bar? (c.F.scalar x.a.num.toNat).toNat).isNone &&
      decide (32 ≤ (c.T.barriers.filter (fun b => b.addr / 2 ^ 19 == (c.F.scalar x.a.num.toNat).toNat / 2 ^ 19)).length)) = true := by
    rcases hroom with hsome | hlen
    · simp [Option.isNone_eq_false_iff.2 hsome]
    · simp only [Bool.and_eq_true, decide_eq_true_eq]
      omega
  unfold binitBody
  simp only [hfault, hset, Bool.false_eq_true, if_false]
  rw [if_neg inRange, if_neg (by omega), if_neg room]

theorem execBinit_drops (h : Ready s c (.binit x)) (hdrop : x.sub.getLsbD 1 = true) (hreg : (c.T.bar? (c.F.scalar x.a.num.toNat).toNat).isSome = true) :
    ∃ t, exec (.binit x) s = .next t ∧ PassedUnchanged c s t ∧ t.team? c.t =
      some { c.T with barriers := c.T.barriers.filter (fun b => b.addr != (c.F.scalar x.a.num.toNat).toNat) } := by
  refine issue_adjTeam h (fun T => { T with barriers := T.barriers.filter (fun b => b.addr != (c.F.scalar x.a.num.toNat).toNat) }) ?_
  unfold binitBody
  simp only [hfault, hdrop, if_true, Option.isNone_eq_false_iff.2 hreg, Bool.false_eq_true, if_false]

/-- The team after a BQRY: .CLRP clears POISON. -/
def queried (c : Ctx) (x : ExtWord) (T : Team) : Team :=
  let k := (c.F.scalar x.a.num.toNat).toNat
  let o := c.T.barRead k
  if x.sub.getLsbD 2 then (T.barWrite k (barPack (barPhase o) (barExpect o) (barArrived o) 0 (barBytes o))).barTest k else T

/-- What a BQRY reads. -/
def queryValue (c : Ctx) (x : ExtWord) : Word :=
  let o := c.T.barRead (c.F.scalar x.a.num.toNat).toNat
  if x.sub.getLsbD 1 then BitVec.ofInt 64 (toSigned 48 (barBytes o)) else BitVec.ofNat 64 o

theorem bqryBody_registered (hreg : (c.T.bar? (c.F.scalar x.a.num.toNat).toNat).isSome = true) :
    bqryBody x c s = .done ((s.adjTeam c.t (queried c x)).adjFrag c.f (fun F => F.setScalar x.d.num.toNat (queryValue c x))) := by
  have value (v : Int) : BitVec.ofNat 64 (wrap 64 v) = BitVec.ofInt 64 v := by
    apply BitVec.eq_of_toNat_eq
    simp [wrap, BitVec.toNat_ofInt]
    omega
  have team : s.adjTeam c.t (queried c x) = if x.sub.getLsbD 2 then s.adjTeam c.t (fun T => (T.barWrite (c.F.scalar x.a.num.toNat).toNat
      (barPack (barPhase (c.T.barRead (c.F.scalar x.a.num.toNat).toNat)) (barExpect (c.T.barRead (c.F.scalar x.a.num.toNat).toNat))
        (barArrived (c.T.barRead (c.F.scalar x.a.num.toNat).toNat)) 0 (barBytes (c.T.barRead (c.F.scalar x.a.num.toNat).toNat)))).barTest
        (c.F.scalar x.a.num.toNat).toNat) else s := by
    split_ifs with hclr
    · exact congrArg (s.adjTeam c.t) (funext fun T => if_pos hclr)
    · have kept : queried c x = id := by
        funext T
        exact if_neg hclr
      rw [kept, State.adjTeam, Tbl.adjust_id]
  unfold bqryBody
  simp only [hfault, Option.isNone_eq_false_iff.2 hreg, Bool.false_eq_true, if_false, value]
  rw [team]
  rfl

theorem execBqry_reads (h : Ready s c (.bqry x)) (hreg : (c.T.bar? (c.F.scalar x.a.num.toNat).toNat).isSome = true) :
    ∃ t F, exec (.bqry x) s = .next t ∧ t.frag? c.f = some F ∧ t.team? c.t = some (queried c x c.T) ∧ F.pc = c.F.pc + BitVec.ofNat 64 c.len ∧
      (∀ n, F.scalar n = if n = x.d.num.toNat then queryValue c x else c.F.scalar n) ∧ t.waves = s.waves ∧ ∀ b, t.byte b = s.byte b := by
  have found : ((s.adjTeam c.t (queried c x)).adjFrag c.f (fun F => F.setScalar x.d.num.toNat (queryValue c x))).frag? c.f =
      some (c.F.setScalar x.d.num.toNat (queryValue c x)) := by
    rw [State.frag?_adjFrag_same]
    exact congrArg (Option.map _) h.frag
  obtain ⟨ahead, frag⟩ := Retired_frag? c (.bqry x) _ _ found
  refine ⟨_, _, issue_done (.bqry x) (bqryBody x) s c _ h (bqryBody_registered hfault hreg), frag, ?_, rfl, fun n => Tbl.get_set .., Retired_waves .., Retired_byte c _ _⟩
  rw [Retired_team?]
  exact (Tbl.find_adjust_same s.teams c.t _).trans (congrArg (Option.map _) h.team)

end binit

/-- BINIT and BQRY (R154, R157). -/
theorem barrierObjects : Claims.barrierObjects := by
  intro s c x
  dsimp only
  intro hfault
  refine ⟨fun h hset hlo hhi hroles hroom => ?_, fun h hdrop hreg => ?_, fun h hreg => ?_⟩
  · obtain ⟨t, next, passed, team⟩ := execBinit_sets hfault h hset hlo hhi hroles hroom
    refine ⟨t, _, next, passed, team, ?_, find?_register _ ⟨(c.F.scalar x.a.num.toNat).toNat, _, []⟩, fun k hk => c.T.barWrite_scratch_out _ _ k hk⟩
    have read := c.T.barRead_barWrite (c.F.scalar x.a.num.toNat).toNat (barPack 0 (c.amount x).toNat 0 0 0) (barPack_lt _ _ _ (by decide) (by decide))
    refine Eq.trans read ?_
    unfold barPack
    omega
  · obtain ⟨t, next, passed, team⟩ := execBinit_drops hfault h hdrop hreg
    exact ⟨t, _, next, passed, team, c.T.bar?_without _, rfl⟩
  · obtain ⟨t, F, next, frag, team, pc, scal, waves, mem⟩ := execBqry_reads hfault h hreg
    refine ⟨t, F, _, next, frag, team, pc, scal, fun hkeep => ?_, fun hclr => ?_, waves, mem⟩
    · rw [queried, hkeep]
      rfl
    · rw [queried, hclr, if_pos rfl, Team.barPoison_barTest, Team.barRead_barWrite, barPoison_barPack _ _ _ (barPhase_lt _) (by decide)]
      exact barPack_lt _ _ _ (barPhase_lt _) (by decide)

/-! ## BARV and BEXP (R156, R158) -/

/-- What a release leaves where its instruction acts: a state that has changed but for its registers and memory, retired (R117). -/
theorem Ctx.release_ready {s : State} {c : Ctx} (tok scope : Nat) (lanes : Mask) (dst : Dest) (act : After) (now : Nat → Mask → State → State)
    (hquiet : scope = 5 → RemoteQuiet s c) (h : s.releaseReady c.w s.nextId (heldLanes c.W c.F) scope = true) :
    c.release s tok scope lanes dst act now = .done ((now s.nextId (heldLanes c.W c.F) s).nextEpoch c.w true) := by
  unfold Ctx.release
  have passes : (if (scope == 5) = true then c.remoteCheck s else none) = none := by
    split_ifs with hs
    · exact remoteCheck_of_quiet (hquiet (by simpa using hs))
    · rfl
  simp only [passes, h, if_true]

/-- The record of an instruction that stands behind its release. -/
def Ctx.releasePend (c : Ctx) (s : State) (tok scope : Nat) (lanes : Mask) (dst : Dest) (act : After) : Pend :=
  { wave := c.w, lanes := lanes, own := heldLanes c.W c.F, ord := s.nextId, tok := tok, dst := dst, pc := c.F.pc, rwc := c.F.rwc, cls := c.cls, op := c.op
    kind := .release scope act }

theorem Ctx.release_behind {s : State} {c : Ctx} (tok scope : Nat) (lanes : Mask) (dst : Dest) (act : After) (now : Nat → Mask → State → State)
    (hquiet : scope = 5 → RemoteQuiet s c) (h : s.releaseReady c.w s.nextId (heldLanes c.W c.F) scope = false) :
    c.release s tok scope lanes dst act now = .done ((s.nextEpoch c.w true).addPend (c.releasePend s tok scope lanes dst act)).2 := by
  unfold Ctx.release
  have passes : (if (scope == 5) = true then c.remoteCheck s else none) = none := by
    split_ifs with hs
    · exact remoteCheck_of_quiet (hquiet (by simpa using hs))
    · rfl
  simp only [passes, h, Bool.false_eq_true, if_false]
  rfl

theorem Untouched.nextEpoch {c : Ctx} {s t : State} (h : Untouched c s t) : Untouched c s (t.nextEpoch c.w true) :=
  h.adjWave c.w _ (fun _ => rfl) (fun _ => rfl)

/-- An instruction that stands behind its release passes, outstanding, and changes nothing else but the count of its wave's ordering instructions. -/
theorem issue_behind {s u : State} {c : Ctx} {i : Instr} {body : Ctx → State → Res} (h : Ready s c i) (hu : Untouched c s u) (P : Pend)
    (hb : body c s = .done ((u.nextEpoch c.w true).addPend P).2) :
    ∃ t, issue i body s = .next t ∧ PassedUnchanged c s t ∧ t.teams = u.teams ∧ t.sched = u.sched ∧ t.rc = u.rc ∧ Tbl.find t.pend u.nextId = some P := by
  refine ⟨_, issue_done i body s c _ h hb, (hu.nextEpoch.of_parts (u := ((u.nextEpoch c.w true).addPend P).2) rfl rfl rfl).passed i, Retired_teams .., ?_, ?_, ?_⟩
  · exact Retired_same State.sched (fun _ _ _ => rfl) ..
  · exact Retired_same State.rc (fun _ _ _ => rfl) ..
  · rw [Retired_pend]
    exact Tbl.find_put_same ..

/-- The lanes that take part are live (R27). -/
theorem Ctx.part_live (c : Ctx) (x : ExtWord) (l : Nat) (h : l ∈ (c.part x).lanes) : c.W.live.has l = true := by
  have taking := (Mask.mem_lanes _ _).1 h
  rw [Ctx.part, Ctx.lanes, Mask.has_and, Mask.has_and] at taking
  simp only [Bool.and_eq_true] at taking
  exact taking.1.2

/-- The Arrive of a BARV at issue is one Arrive of all its lanes (R156). -/
theorem State.doBarv_issue {s : State} {c : Ctx} {i : Instr} {x : ExtWord} (h : Ready s c i) (a : Nat) (n : Int) (hgate : c.T.gate ≤ s.nextId)
    (hreg : (c.T.bar? a).isSome = true) :
    Untouched c s (s.doBarv c.w s.nextId a ((c.part x).lanes.map (fun l => tliBase c.T c.W + l)) n) ∧
      (s.doBarv c.w s.nextId a ((c.part x).lanes.map (fun l => tliBase c.T c.W + l)) n).team? c.t =
        some (c.T.barArrive a ((c.part x).lanes.map (fun l => tliBase c.T c.W + l)) n).1 := by
  have live : ((c.part x).lanes.map (fun l => tliBase c.T c.W + l)).filter (fun l => decide (c.T.gate ≤ s.nextId) && c.W.live.has (l - tliBase c.T c.W)) =
      (c.part x).lanes.map (fun l => tliBase c.T c.W + l) := by
    rw [List.filter_eq_self]
    intro k hk
    obtain ⟨l, hl, rfl⟩ := List.mem_map.1 hk
    simp [hgate, c.part_live x l hl]
  obtain ⟨b, hb⟩ := Option.isSome_iff_exists.1 hreg
  unfold State.doBarv
  simp only [h.wave, ← h.home, h.team, live, hb]
  have team (T : Team) : Tbl.find (Tbl.adjust s.teams c.t (fun _ => T)) c.t = some T :=
    (Tbl.find_adjust_same s.teams c.t _).trans (congrArg (Option.map _) h.team)
  split_ifs
  · exact ⟨(Untouched.refl h.frag).of_parts rfl rfl rfl, team _⟩
  · exact ⟨(Untouched.refl h.frag).of_parts rfl rfl rfl, team _⟩

section barv

variable {s : State} {c : Ctx} {x : ExtWord} (hfault : arriveFault c x = none) (h : Ready s c (.barv x))
include h

theorem execBarv_none (hnone : c.part x = 0) : Completes s c (.barv x) [] 0 false (fun t => t.teams = s.teams) :=
  ⟨_, issue_done _ _ s c s h (if_pos hnone), h.completes_nothing 0, Retired_teams ..⟩

variable (hsome : c.part x ≠ 0) (hquiet : (x.mod &&& 7) = 5 → RemoteQuiet s c)
include hfault hsome

omit h in
/-- A BARV with lanes that take part is a release before its Arrive (R158). -/
theorem barvBody_release : barvBody x c s = c.release s x.tok.toNat (x.mod &&& 7).toNat (c.part x) .none
    (.barv (c.F.scalar x.a.num.toNat).toNat ((c.part x).lanes.map (fun l => tliBase c.T c.W + l)) (c.amount x))
    (fun ord _ s => s.doBarv c.w ord (c.F.scalar x.a.num.toNat).toNat ((c.part x).lanes.map (fun l => tliBase c.T c.W + l)) (c.amount x)) := by
  unfold barvBody
  simp only [hsome, if_false, hfault]

include hquiet

theorem execBarv_arrives (hready : s.releaseReady c.w s.nextId (heldLanes c.W c.F) (x.mod &&& 7).toNat = true) (hgate : c.T.gate ≤ s.nextId) :
    ∃ t, exec (.barv x) s = .next t ∧ PassedUnchanged c s t ∧ t.team? c.t =
      some (c.T.barArrive (c.F.scalar x.a.num.toNat).toNat ((c.part x).lanes.map (fun l => tliBase c.T c.W + l)) (c.amount x)).1 := by
  obtain ⟨same, team⟩ := State.doBarv_issue (x := x) h (c.F.scalar x.a.num.toNat).toNat (c.amount x) hgate (arriveFault_none hfault).2
  have body := barvBody_release (s := s) hfault hsome
  rw [Ctx.release_ready _ _ _ _ _ _ (fun hs => hquiet (BitVec.eq_of_toNat_eq hs)) hready] at body
  exact ⟨_, issue_done _ _ s c _ h body, same.nextEpoch.passed _, (Retired_team? ..).trans team⟩

theorem execBarv_waits (hready : s.releaseReady c.w s.nextId (heldLanes c.W c.F) (x.mod &&& 7).toNat = false) :
    ∃ t id P, exec (.barv x) s = .next t ∧ PassedUnchanged c s t ∧ t.teams = s.teams ∧ Tbl.find t.pend id = some P ∧
      P.kind = .release (x.mod &&& 7).toNat
        (.barv (c.F.scalar x.a.num.toNat).toNat ((c.part x).lanes.map (fun l => tliBase c.T c.W + l)) (c.amount x)) ∧ P.lanes = c.part x := by
  have body := barvBody_release (s := s) hfault hsome
  rw [Ctx.release_behind _ _ _ _ _ _ (fun hs => hquiet (BitVec.eq_of_toNat_eq hs)) hready] at body
  obtain ⟨t, next, passed, teams, -, -, found⟩ := issue_behind h (.refl h.frag) _ body
  exact ⟨t, _, _, next, passed, teams, found, rfl, rfl⟩

end barv

/-- BARV and BEXP (R156 to R158). -/
theorem barrierUpdates : Claims.barrierUpdates := by
  intro s c x hfault
  refine ⟨fun h => ?_, fun h => execBarv_none h, fun h hsome hquiet hready hgate => ?_, fun h hsome hquiet hready => execBarv_waits hfault h hsome hquiet hready⟩
  · have body : bexpBody x c s = .done (s.adjTeam c.t (fun T => T.barAdd (c.F.scalar x.a.num.toNat).toNat (c.amount x) false)) := by
      rw [bexpBody, hfault]
    obtain ⟨t, next, passed, team⟩ := issue_adjTeam h _ body
    exact ⟨t, _, next, passed, team, rfl⟩
  · obtain ⟨t, next, passed, team⟩ := execBarv_arrives hfault h hsome hquiet hready hgate
    exact ⟨t, _, next, passed, team, rfl⟩

/-- Settles O29: barrier objects are set up and read (`barrierObjects`), updated (`barrierUpdates`), and complete their phase (`barrierPhase`). -/
theorem barriersCount : Obligations.BarriersCount := ⟨barrierObjects, barrierUpdates, barrierPhase⟩

end Sys2Proof.Machine

/-! SUPPORT. Pushes into the command queues (R131 to R138, R150): what they raise, and what they leave outstanding. -/

namespace Sys2Proof.Machine

open Claims

/-! ## What an instruction leaves that passes with changes to its fragment's record -/

/-- From `s` to `t` no byte, vector register or predicate has changed, and the fragment stands at its instruction with its scalar registers,
temporaries and ACTIVE as they were and MODE as it is given. -/
def Standing (c : Ctx) (s t : State) (mode : Word) : Prop :=
  t.mem = s.mem ∧ (∀ w l n, t.vreg w l n = s.vreg w l n) ∧ (∀ w p, t.predOf w p = s.predOf w p) ∧
    ∃ F, t.frag? c.f = some F ∧ F.pc = c.F.pc ∧ F.rwc = c.F.rwc ∧ F.scal = c.F.scal ∧ F.tmp = c.F.tmp ∧ F.active = c.F.active ∧ F.mode = mode

theorem Untouched.standing {c : Ctx} {s t : State} (h : Untouched c s t) : Standing c s t c.F.mode := by
  obtain ⟨mem, regs, preds, F, hF, hrest⟩ := h
  exact ⟨mem, regs, preds, F, hF, by rw [← hrest]; exact ⟨rfl, rfl, rfl, rfl, rfl, rfl⟩⟩

theorem Standing.of_parts {c : Ctx} {s t u : State} {mode : Word} (h : Standing c s t mode) (hm : u.mem = t.mem) (hw : u.waves = t.waves) (hf : u.frags = t.frags) :
    Standing c s u mode := by
  obtain ⟨mem, regs, preds, F, hF, hrest⟩ := h
  refine ⟨hm.trans mem, fun w l n => Eq.trans ?_ (regs w l n), fun w p => Eq.trans ?_ (preds w p), F, Eq.trans ?_ hF, hrest⟩
  · rw [State.vreg, State.vreg, State.wave?, State.wave?, hw]
  · rw [State.predOf, State.predOf, State.wave?, State.wave?, hw]
  · rw [State.frag?, State.frag?, hf]

/-- A change of the fragment apart from where it stands and its registers. -/
theorem Standing.adjFrag {c : Ctx} {s t : State} {mode : Word} (h : Standing c s t mode) (mode' : Word) (g : Frag → Frag)
    (hg : ∀ F, (g F).pc = F.pc ∧ (g F).rwc = F.rwc ∧ (g F).scal = F.scal ∧ (g F).tmp = F.tmp ∧ (g F).active = F.active)
    (hmode : ∀ F : Frag, F.mode = mode → (g F).mode = mode') : Standing c s (t.adjFrag c.f g) mode' := by
  obtain ⟨mem, regs, preds, F, hF, pc, rwc, scal, tmp, active, hm⟩ := h
  obtain ⟨gpc, grwc, gscal, gtmp, gactive⟩ := hg F
  refine ⟨mem, regs, preds, g F, ?_, gpc.trans pc, grwc.trans rwc, gscal.trans scal, gtmp.trans tmp, gactive.trans active, hmode F hm⟩
  rw [State.frag?_adjFrag_same, hF]
  rfl

theorem Standing.passed {c : Ctx} {s t : State} {mode : Word} (h : Standing c s t mode) (i : Instr) : Passed c s (Retired c i t) mode := by
  obtain ⟨mem, regs, preds, F, hF, pc, rwc, scal, tmp, active, hm⟩ := h
  obtain ⟨ahead, there⟩ := Retired_frag? c i t F hF
  refine ⟨fun a => (Retired_byte c i t a).trans (congrArg (fun m => Tbl.get 0 m a) mem), fun w l n => (Retired_vreg c i t w l n).trans (regs w l n),
    fun w p => (Retired_predOf c i t w p).trans (preds w p), _, there, ?_, ?_, scal, tmp, active, hm⟩
  · exact congrArg (· + BitVec.ofNat 64 c.len) pc
  · exact congrArg (· + 1) rwc

/-! ## The traps of a push (R137) -/

theorem trapWhole_plain (c : Ctx) (cause : Nat) (v : Word) : (trapWhole c cause v).Plain := ⟨rfl, rfl, rfl⟩

theorem queueFault_plain (c : Ctx) (sub v : Nat) : (queueFault c sub v).Plain := trapWhole_plain ..

theorem plain_if (c : Ctx) (b : Bool) (sub v : Nat) : ∀ t ∈ (if b then some (queueFault c sub v) else none), t.Plain := by
  intro t ht
  split_ifs at ht
  · cases ht
    exact queueFault_plain ..
  · cases ht

theorem plain_findSome? {α : Type} (l : List α) (f : α → Option Trap) (h : ∀ a ∈ l, ∀ t ∈ f a, t.Plain) : ∀ t ∈ l.findSome? f, t.Plain := by
  intro t ht
  obtain ⟨a, ha, hf⟩ := List.exists_of_findSome?_eq_some ht
  exact h a ha t hf

theorem rangeFault_plain (c : Ctx) (T : Team) (a : Word) (n : Nat) : ∀ t ∈ rangeFault c T a n, t.Plain := by
  intro t ht
  obtain ⟨e, -, rfl⟩ := Option.map_eq_some_iff.1 ht
  exact trapWhole_plain ..

theorem slotFault_plain (c : Ctx) (T : Team) (v : Word) (n : Nat) : ∀ t ∈ slotFault c T v n, t.Plain := by
  intro t ht
  unfold slotFault at ht
  dsimp only at ht
  split_ifs at ht <;> cases ht <;> exact trapWhole_plain ..

theorem Push.valueFault_plain (c : Ctx) (p : Push) (there : Bool) : ∀ t ∈ p.valueFault c there, t.Plain := by
  refine plain_findSome? _ id ?_
  simp only [List.forall_mem_cons, id]
  exact ⟨plain_if _ _ _ _, plain_if _ _ _ _, plain_if _ _ _ _, plain_if _ _ _ _, plain_if _ _ _ _, plain_if _ _ _ _, plain_if _ _ _ _, by simp⟩

theorem Push.alignFault_plain (c : Ctx) (p : Push) (there : Bool) : ∀ t ∈ p.alignFault c there, t.Plain := by
  refine plain_findSome? _ id ?_
  simp only [List.forall_mem_cons, id]
  exact ⟨plain_if _ _ _ _, plain_if _ _ _ _, plain_if _ _ _ _, plain_if _ _ _ _, plain_if _ _ _ _, by simp⟩

/-- Every check of a push traps the whole fragment. -/
theorem State.pushFault_plain (s : State) (c : Ctx) (p : Push) (there : Bool) : ∀ t ∈ s.pushFault c p there, t.Plain := by
  refine plain_findSome? _ id ?_
  simp only [List.forall_mem_cons, id]
  refine ⟨p.valueFault_plain c there, p.alignFault_plain c there, ?receivers, ?descriptor, ?scratchpad, ?slots, ?objects, by simp⟩
  case receivers =>
    intro t ht
    split_ifs at ht
    · obtain ⟨k, -, rfl⟩ := Option.map_eq_some_iff.1 ht
      exact queueFault_plain ..
    · cases ht
  case descriptor =>
    intro t ht
    split_ifs at ht
    · exact rangeFault_plain c _ _ _ t ht
    · cases ht
  case scratchpad =>
    refine plain_findSome? _ _ fun r _ t ht => ?_
    split_ifs at ht
    · exact rangeFault_plain c _ _ _ t ht
    · cases ht
  case slots =>
    refine plain_findSome? _ _ fun r _ t ht => ?_
    split_ifs at ht
    · exact slotFault_plain c _ _ _ t ht
    · cases ht
  case objects => exact plain_findSome? _ _ fun b _ => plain_if _ _ _ _

/-! ## An accepted command -/

/-- The record of a command that is outstanding. -/
def Ctx.commandPend (c : Ctx) (s : State) (tok : Nat) : Pend :=
  { wave := c.w, lanes := heldLanes c.W c.F, own := heldLanes c.W c.F, ord := s.nextId, tok := tok, dst := .none, pc := c.F.pc, rwc := c.F.rwc, cls := c.cls, op := c.op
    kind := .command }

/-- The state with a command in its queue. -/
def State.enqueue (s : State) (c : Ctx) (tok : Nat) (k : Nat → Command) : State :=
  { s with pend := Tbl.put s.pend s.nextId (c.commandPend s tok), eng := { s.eng with cmds := Tbl.put s.eng.cmds (s.nextId + 1) (k s.nextId) }, nextId := s.nextId + 2 }

theorem State.accept_eq (s : State) (c : Ctx) (tok : Nat) (k : Nat → Command) (mark : Bool) :
    s.accept c tok k mark = if mark then (s.enqueue c tok k).adjFrag c.f (fun F => F.mark tok) else s.enqueue c tok k := rfl

theorem State.accept_eng (s : State) (c : Ctx) (tok : Nat) (k : Nat → Command) (mark : Bool) : (s.accept c tok k mark).eng = (s.enqueue c tok k).eng := by
  rw [s.accept_eq]
  split_ifs <;> rfl

theorem State.accept_pend (s : State) (c : Ctx) (tok : Nat) (k : Nat → Command) (mark : Bool) : (s.accept c tok k mark).pend = (s.enqueue c tok k).pend := by
  rw [s.accept_eq]
  split_ifs <;> rfl

theorem State.accept_teams (s : State) (c : Ctx) (tok : Nat) (k : Nat → Command) (mark : Bool) : (s.accept c tok k mark).teams = s.teams := by
  rw [s.accept_eq]
  split_ifs <;> rfl

theorem State.accept_standing {s : State} {c : Ctx} (hF : s.frag? c.f = some c.F) (tok : Nat) (k : Nat → Command) (mark : Bool) :
    Standing c s (s.accept c tok k mark) c.F.mode := by
  have queued : Standing c s (s.enqueue c tok k) c.F.mode := (Untouched.refl hF).standing.of_parts rfl rfl rfl
  rw [s.accept_eq]
  split_ifs
  · exact queued.adjFrag _ _ (fun _ => ⟨rfl, rfl, rfl, rfl, rfl⟩) fun _ h => h
  · exact queued

/-- An instruction whose body accepts a command passes, and the command stands in its queue, outstanding on the instruction's token (R131, R134). -/
theorem issue_accept {s : State} {c : Ctx} {i : Instr} {body : Ctx → State → Res} (h : Ready s c i) (tok : Nat) (k : Nat → Command) (mark : Bool)
    (hb : body c s = .done (s.accept c tok k mark)) :
    ∃ t, issue i body s = .next t ∧ PassedUnchanged c s t ∧ t.teams = s.teams ∧ Tbl.find t.eng.cmds (s.nextId + 1) = some (k s.nextId) ∧
      Outstanding c t s.nextId tok .none (heldLanes c.W c.F) := by
  refine ⟨_, issue_done i body s c _ h hb, (State.accept_standing h.frag tok k mark).passed i, ?_, ?_, c.commandPend s tok, ?_, rfl, rfl, rfl, rfl, rfl⟩
  · rw [Retired_teams, State.accept_teams]
  · rw [Retired_same State.eng (fun _ _ _ => rfl), State.accept_eng]
    exact Tbl.find_put_same ..
  · rw [Retired_pend, State.accept_pend]
    exact Tbl.find_put_same ..

/-! ## The copies -/

/-- The command of a copy before it starts. -/
def copyCommand (kind : Nat) (x : ExtWord) (c : Ctx) (s : State) (pend : Nat) : Command :=
  let p := (pushOf kind x c).1
  { newCommand c x.d.num.toNat kind pend with
    src := p.src, dst := p.dst, regs := p.regs, signal := p.sig, tile := p.tile, fmt := x.tag, op := x.sub.toNat
    ordered := x.mod.getLsbD 0, to_ := (s.receivers c p).map Prod.fst, bytes := p.bytes }

section copy

variable {s : State} {c : Ctx} {x : ExtWord} {kind : Nat}

theorem copyBody_misuse (h : takesPush kind x.d.num.toNat = false) : copyBody kind x c s = .trap (queueFault c 1 x.d.num.toNat) := by simp [copyBody, h]

variable (htakes : takesPush kind x.d.num.toNat = true)
include htakes

theorem copyBody_full (hfull : s.canPush c x.d.num.toNat = false) : copyBody kind x c s = .unselect := by simp [copyBody, htakes, hfull]

variable (hroom : s.canPush c x.d.num.toNat = true)
include hroom

theorem copyBody_fault (e : Trap) (he : s.pushFault c (pushOf kind x c).1 (pushOf kind x c).2 = some e) : copyBody kind x c s = .trap e := by
  unfold copyBody
  simp only [htakes, hroom, Bool.not_true, Bool.false_eq_true, if_false]
  unfold pushOf at he
  dsimp only at he
  rw [he]

theorem copyBody_accepts (hnone : s.pushFault c (pushOf kind x c).1 (pushOf kind x c).2 = none)
    (hpoison : (pushOf kind x c).2 = true → (sectorsOf ((pushOf kind x c).1.reg 1).toNat 64).any c.T.spoison.contains = false) :
    copyBody kind x c s = .done (s.accept c x.tok.toNat (copyCommand kind x c s) true) := by
  have sound : ((pushOf kind x c).2 && (sectorsOf ((pushOf kind x c).1.reg 1).toNat 64).any c.T.spoison.contains) = false := by
    cases hthere : (pushOf kind x c).2
    · rfl
    · exact hpoison hthere
  unfold copyBody
  simp only [htakes, hroom, Bool.not_true, Bool.false_eq_true, if_false]
  unfold pushOf at hnone sound
  dsimp only at hnone
  rw [hnone]
  exact if_neg (by rw [Bool.not_eq_true]; exact sound)

end copy

/-- What the copies have in common (R131, R134 to R138): `i` issues the body of its kind. -/
theorem issue_copy {s : State} {c : Ctx} {x : ExtWord} {i : Instr} {kind : Nat} (h : Ready s c i) :
    let q := x.d.num.toNat
    let u := pushOf kind x c
    (takesPush kind q = false → issue i (copyBody kind x) s = .next (s.trapFrag c.f (queueFault c 1 q) c.len)) ∧
    (takesPush kind q = true → s.canPush c q = false → ∃ t, issue i (copyBody kind x) s = .next t ∧ Waits c s t) ∧
    (∀ e, takesPush kind q = true → s.canPush c q = true → s.pushFault c u.1 u.2 = some e → issue i (copyBody kind x) s = .next (s.trapFrag c.f e c.len)) ∧
    (takesPush kind q = true → s.canPush c q = true → s.pushFault c u.1 u.2 = none →
      (u.2 = true → (sectorsOf (u.1.reg 1).toNat 64).any c.T.spoison.contains = false) →
      ∃ t, issue i (copyBody kind x) s = .next t ∧ PassedUnchanged c s t ∧ t.teams = s.teams ∧
        Tbl.find t.eng.cmds (s.nextId + 1) = some (copyCommand kind x c s s.nextId) ∧ Outstanding c t s.nextId x.tok.toNat .none (heldLanes c.W c.F)) := by
  refine ⟨fun hno => ?_, fun htakes hfull => ?_, fun e htakes hroom he => ?_, fun htakes hroom hnone hpoison => ?_⟩
  · exact issue_trap i _ s c _ h (copyBody_misuse hno) (queueFault_plain ..)
  · exact issue_unselect i _ s c h (copyBody_full htakes hfull)
  · exact issue_trap i _ s c _ h (copyBody_fault htakes hroom e he) (s.pushFault_plain c _ _ e he)
  · exact issue_accept h _ _ _ (copyBody_accepts htakes hroom hnone hpoison)

/-! ## QFENCE -/

/-- The command of a QFENCE. -/
def fenceCommand (x : ExtWord) (c : Ctx) (pend : Nat) : Command := { newCommand c x.d.num.toNat 0x9D pend with op := x.sub.toNat % 2 }

section qfence

variable {s : State} {c : Ctx} {x : ExtWord}

theorem qfenceBody_misuse (h : takesPush 0x9D x.d.num.toNat = false) : qfenceBody x c s = .trap (queueFault c 1 x.d.num.toNat) := by simp [qfenceBody, h]

theorem qfenceBody_full (h : takesPush 0x9D x.d.num.toNat = true) (hfull : s.canPush c x.d.num.toNat = false) : qfenceBody x c s = .unselect := by
  simp [qfenceBody, h, hfull]

theorem qfenceBody_accepts (h : takesPush 0x9D x.d.num.toNat = true) (hroom : s.canPush c x.d.num.toNat = true) :
    qfenceBody x c s = .done (s.accept c x.tok.toNat (fenceCommand x c) (x.sub.getLsbD 0)) := by
  simp only [qfenceBody, h, hroom, Bool.not_true, Bool.false_eq_true, if_false]
  rfl

end qfence

/-- Settles O31: each copy issues its kind's body (`issue_copy`), and QFENCE passes the same gates without the checks of R137. -/
theorem copiesPush : Obligations.CopiesPush := by
  intro s c x
  refine ⟨fun p hp h => ?_, fun h => ⟨fun hno => ?_, fun htakes hfull => ?_, fun htakes hroom => ?_⟩⟩
  · have body : exec p.1 s = issue p.1 (copyBody p.2 x) s := by
      simp only [copies, List.mem_cons, List.not_mem_nil, or_false] at hp
      rcases hp with rfl | rfl | rfl | rfl | rfl <;> rfl
    obtain ⟨misuse, full, fault, accepts⟩ := issue_copy (x := x) (kind := p.2) h
    rw [body]
    refine ⟨misuse, full, fault, fun htakes hroom hnone hpoison => ?_⟩
    obtain ⟨t, next, passed, teams, found, outstanding⟩ := accepts htakes hroom hnone hpoison
    exact ⟨t, _, _, next, passed, teams, found, rfl, rfl, rfl, rfl, rfl, rfl, rfl, rfl, rfl, rfl, rfl, rfl, rfl, rfl, outstanding⟩
  · exact issue_trap _ _ s c _ h (qfenceBody_misuse hno) (queueFault_plain ..)
  · exact issue_unselect _ _ s c h (qfenceBody_full htakes hfull)
  · obtain ⟨t, next, passed, -, found, outstanding⟩ := issue_accept h _ _ _ (qfenceBody_accepts htakes hroom)
    exact ⟨t, _, _, next, passed, found, rfl, rfl, rfl, rfl, outstanding⟩

end Sys2Proof.Machine

/-! SUPPORT. LAUNCH behind an agent's write that is still on its way to the node's line (R97, R375). -/

namespace Sys2Proof.Machine

open Claims

/-- LAUNCH of the node at s4. -/
def launchS4 : ExtWord := { blankExt with a := ⟨.scal, 4⟩, tok := 2 }

/-- A write of an agent on die 0 to the node's line, on its way to its home. -/
def agentWrite : WriteRec :=
  { source := .agent, die := 0, core := 0, region := .loc, line := 0x40800 / 128, cells := [(0x40800, 0)], bad := [], op := .st, steps := []
    release := false, scope := 4, accepted := false, invals := [], acks := [] }

/-- A fragment with one active lane is about to issue LAUNCH of a node whose PRED is 2, and an agent's write to the node's line is on its way. -/
def strandedLaunch : State :=
  let s := State.reset.withCode []
  { s.adjFrag 1 (fun F => { F.setScalar 4 0x800 with active := 1 }) with
    cur := some 1
    mem := writeNat s.mem 0x40804 4 2
    path := { s.path with tlbCore := [(0, [⟨0, 0, false, 0x40033⟩])], writes := [(1, agentWrite)] } }

/-- The context in which it issues. -/
def strandedCtx : Ctx :=
  { f := 1, F := { startFrag 1 0 0x100 64 [] plainHeader 1 0 with fstate := .running, scal := [(4, 0x800)], active := 1 }, w := 1
    W := startWave 1 0 0 0 0 0 0 64 8, t := 1, T := plainTeam, len := 12, op := (Instr.word0 (.launch launchS4)).extractLsb' 4 8 |>.toNat, cls := 1 }

theorem strandedLaunch_ready : Ready strandedLaunch strandedCtx (.launch launchS4) where
  current := rfl
  context := by decide +kernel
  legal   := by decide +kernel
  allowed := rfl
  order   := by decide +kernel
  blocks  := by decide +kernel
  results := by decide +kernel
  tokens  := by decide +kernel
  calm    := rfl
  sound   := rfl

/-- The node, in write-back memory of the die. -/
def nodePiece : Piece := ⟨.loc, 0x40800, 4, 0⟩

theorem strandedLaunch_reach : strandedCtx.reach strandedLaunch [0] (fun _ => 0x800) 4 .write .launch true = .ok [(0, 0x800, [nodePiece])] := by rfl

/-- The home holds no read of the node's line, and nothing earlier of the wave is outstanding. -/
theorem strandedLaunch_free : strandedLaunch.nodeFree 0x40800 = true ∧
    let s1 := strandedLaunch.fillAccess (.core strandedCtx.W.core) strandedCtx.T.asid strandedCtx.T.table 0x800 4
    s1.releaseReady strandedCtx.w s1.nextId (heldLanes strandedCtx.W strandedCtx.F) 4 = true := by decide +kernel

/-- LAUNCH's own write stands behind the agent's: PRED is still 2 in memory. -/
theorem strandedLaunch_exec : ∃ t, exec (.launch launchS4) strandedLaunch = .next t ∧ t.byte 0x40804 = 2 := by
  refine ⟨_, issue_ready _ _ _ _ strandedLaunch_ready, ?_⟩
  decide +kernel

/-- The clause on the decrement fails: it says that PRED is 1 in memory when LAUNCH has passed. -/
theorem not_launchCountsDown : ¬ Claims.launchCountsDown := by
  intro h
  obtain ⟨-, decrements, -⟩ := h strandedLaunch strandedCtx launchS4 [nodePiece] strandedLaunch_ready (by decide +kernel) strandedLaunch_reach
  obtain ⟨t, next, ⟨bytes, -⟩, -⟩ := decrements strandedLaunch_free.1 strandedLaunch_free.2 rfl (by decide +kernel) (by decide) (List.forall_mem_nil _)
    (by decide +kernel)
  obtain ⟨t', next', kept⟩ := strandedLaunch_exec
  cases next.symm.trans next'
  have low := bytes 0x40804
  rw [kept] at low
  exact absurd low (by decide +kernel)

/-- Refutes O37: where an agent's write to the node's line is still on its way to its home, LAUNCH's decrement goes behind it (R97), and memory holds the old
PRED when LAUNCH has passed. The clause on LAUNCH lacks the condition that no such write is on its way. -/
theorem not_launchingAndErrors : ¬ Obligations.LaunchingAndErrors := fun h => not_launchCountsDown h.1

end Sys2Proof.Machine

/-! SUPPORT. Waits and wakes (R159 to R161, R326 to R328): what they leave of the wait table. -/

namespace Sys2Proof.Machine

open Claims

/-! ## Instructions that stay -/

/-- An instruction whose body leaves its fragment standing there, in no meeting, has had its step. -/
theorem issue_keep (i : Instr) (body : Ctx → State → Res) (s : State) (c : Ctx) (u : State) (h : Ready s c i) (hb : body c s = .keep u)
    (hu : ∀ F, u.frag? c.f = some F → F.rwc = c.F.rwc ∧ F.fstate ≠ .meeting) : issue i body s = .next u := by
  have run : c.run i body s = u := by
    unfold Ctx.run
    rw [hb]
    rfl
  rw [issue_ready i body s c h, run, State.lookahead_unpassed u c i hu]

/-! ## What fills and acquires leave of the wait table -/

/-- From `s` to `t` only caches and the count of free choices have changed. -/
def OnlyCaches (s t : State) : Prop := ∃ path free, t = { s with path := path, free := free } ∧ path.waits = s.path.waits

theorem OnlyCaches.refl (s : State) : OnlyCaches s s := ⟨s.path, s.free, rfl, rfl⟩

theorem OnlyCaches.trans {s t u : State} (h : OnlyCaches s t) (k : OnlyCaches t u) : OnlyCaches s u := by
  obtain ⟨path, free, rfl, waits⟩ := h
  obtain ⟨path', free', rfl, waits'⟩ := k
  exact ⟨path', free', rfl, waits'.trans waits⟩

theorem State.fillTlb_onlyCaches (s : State) (who : Agent) (asid root : Nat) (va : Word) : OnlyCaches s (s.fillTlb who asid root va) := by
  unfold State.fillTlb
  split
  · exact .refl s
  · cases who <;> exact ⟨_, _, rfl, rfl⟩

theorem State.fillAccess_onlyCaches (s : State) (who : Agent) (asid root : Nat) (va : Word) (n : Nat) : OnlyCaches s (s.fillAccess who asid root va n) := by
  unfold State.fillAccess
  generalize splitPieces va n = l
  induction l generalizing s with
  | nil => exact .refl s
  | cons p l ih => exact (s.fillTlb_onlyCaches ..).trans (ih _)

theorem State.acquire_onlyCaches (s : State) (core scope : Nat) : OnlyCaches s (s.acquire core scope) := by
  unfold State.acquire
  dsimp only
  split_ifs <;> exact ⟨_, _, rfl, rfl⟩

theorem Untouched.onlyCaches {c : Ctx} {s t u : State} (h : Untouched c s t) (k : OnlyCaches t u) : Untouched c s u := by
  obtain ⟨path, free, rfl, -⟩ := k
  exact h.of_parts rfl rfl rfl

theorem OnlyCaches.waits {s t : State} (h : OnlyCaches s t) : t.path.waits = s.path.waits := by
  obtain ⟨path, free, rfl, waits⟩ := h
  exact waits

theorem OnlyCaches.frags {s t : State} (h : OnlyCaches s t) : t.frags = s.frags := by
  obtain ⟨path, free, rfl, -⟩ := h
  rfl

theorem OnlyCaches.waves {s t : State} (h : OnlyCaches s t) : t.waves = s.waves := by
  obtain ⟨path, free, rfl, -⟩ := h
  rfl

theorem OnlyCaches.pend {s t : State} (h : OnlyCaches s t) : t.pend = s.pend := by
  obtain ⟨path, free, rfl, -⟩ := h
  rfl

theorem OnlyCaches.mem {s t : State} (h : OnlyCaches s t) : t.mem = s.mem := by
  obtain ⟨path, free, rfl, -⟩ := h
  rfl

/-- A read that finds no poison finds no error at rest either (R73). -/
theorem State.findIn_of_clean (s : State) (a n : Nat) (h : s.memPoisoned a n = false) : s.findIn a n = s := by
  have clean : (sectorsOf a n).filter s.rotten = [] := by
    rw [List.filter_eq_nil_iff]
    intro sec hsec hrot
    have bad := List.any_eq_false.1 h sec hsec
    simp [State.bad, hrot] at bad
  unfold State.findIn State.findErrors
  rw [clean]
  exact ite_id _

/-! ## Registers after a change of waves or fragments -/

theorem State.vreg_adjWave (s : State) (w : Nat) (g : Wave → Wave) (hg : ∀ W, (g W).vregs = W.vregs) (v l n : Nat) : (s.adjWave w g).vreg v l n = s.vreg v l n := by
  unfold State.vreg
  by_cases hvw : v = w
  · subst hvw
    rw [State.wave?_adjWave_same]
    cases s.wave? v with
    | none => rfl
    | some W => exact congrArg (fun r => Tbl.get VReg.zero r (l * 256 + n)) (hg W)
  · rw [State.wave?_adjWave_ne _ _ _ _ hvw]

theorem Wave.vregs_setPred (W : Wave) (p : Nat) (lanes val : Mask) : (W.setPred p lanes val).vregs = W.vregs := by
  have rest := congrArg Wave.vregs (W.setPred_rest p lanes val)
  exact rest

theorem State.vreg_nextEpoch (s : State) (w v l n : Nat) : (s.nextEpoch w true).vreg v l n = s.vreg v l n :=
  s.vreg_adjWave w (fun W => { W with epoch := W.epoch + 1 }) (fun _ => rfl) v l n

/-- What a result for a scalar register leaves of a fragment (R33). -/
theorem State.setScalars_frag? (s : State) (w : Nat) (own : Mask) (d : Nat) (v : Word) (f : Nat) (W : Wave) (hW : s.wave? w = some W) :
    (s.setScalars w own d v).frag? f = (s.frag? f).map (fun F => if F.wave == w && (heldLanes W F &&& own) != 0 then F.setScalar d v else F) := by
  rw [State.setScalars, hW, State.frag?]
  dsimp only
  refine Eq.trans (congrArg (fun l => Tbl.find l f) (List.map_congr_left fun e _ => ?_)) (Tbl.find_mapValues s.frags _ f)
  split_ifs <;> rfl

theorem State.setScalars_frags (s : State) (w : Nat) (own : Mask) (d : Nat) (v : Word) : ∃ frags, s.setScalars w own d v = { s with frags := frags } := by
  unfold State.setScalars
  split
  · exact ⟨_, rfl⟩
  · exact ⟨_, rfl⟩

/-! ## WAIT.B and WAIT.K -/

section waitB

variable {s : State} {c : Ctx} {x : ExtWord} (h : Ready s c (.waitB x)) (hfault : barrierFault c (c.F.scalar x.a.num.toNat) = none)
  (hreg : (c.T.bar? (c.F.scalar x.a.num.toNat).toNat).isSome = true)
include h hfault hreg

/-- What WAIT.B leaves in its predicate where its phase is complete. -/
def waitBPred (x : ExtWord) (c : Ctx) (W : Wave) : Wave :=
  if x.d.cls == .pred then W.setPred x.d.num.toNat c.F.active (if barPoison (c.T.barRead (c.F.scalar x.a.num.toNat).toNat) = 1 then BitVec.allOnes 64 else 0) else W

theorem execWaitB_passes (hphase : barPhase (c.T.barRead (c.F.scalar x.a.num.toNat).toNat) ≠ (c.count x x.b).toNat % 2) :
    exec (.waitB x) s = .next (Retired c (.waitB x) (((s.adjWave c.w (waitBPred x c)).nextEpoch c.w true).acquire c.W.core (x.mod &&& 7).toNat)) := by
  refine issue_done (.waitB x) (waitBBody x) s c _ h ?_
  have ready : waitBReady x c = true := by simp [waitBReady, hphase]
  have preds : s.adjWave c.w (waitBPred x c) = if x.d.cls == .pred then
      s.setPred c.w x.d.num.toNat c.F.active (if barPoison (c.T.barRead (c.F.scalar x.a.num.toNat).toNat) = 1 then BitVec.allOnes 64 else 0) else s := by
    unfold waitBPred
    split_ifs
    · rfl
    · rfl
    · exact s.adjWave_id _
  unfold waitBBody
  simp only [hfault, Option.isNone_eq_false_iff.2 hreg, Bool.false_eq_true, if_false, ready, Bool.not_true, preds]

theorem execWaitB_waits (hphase : barPhase (c.T.barRead (c.F.scalar x.a.num.toNat).toNat) = (c.count x x.b).toNat % 2) :
    ∃ t, exec (.waitB x) s = .next t ∧ Waits c s t := by
  refine issue_unselect (.waitB x) (waitBBody x) s c h ?_
  have ready : waitBReady x c = false := by simp [waitBReady, hphase, hfault, Option.isNone_eq_false_iff.2 hreg]
  unfold waitBBody
  simp only [hfault, Option.isNone_eq_false_iff.2 hreg, Bool.false_eq_true, if_false, ready, Bool.not_false, if_true]

theorem execWaitB_goes (hphase : barPhase (c.T.barRead (c.F.scalar x.a.num.toNat).toNat) ≠ (c.count x x.b).toNat % 2) :
    ∃ t F, exec (.waitB x) s = .next t ∧ t.frag? c.f = some F ∧ F.pc = c.F.pc + BitVec.ofNat 64 c.len ∧ F.scal = c.F.scal ∧
      (∀ l n, t.vreg c.w l n = s.vreg c.w l n) ∧ (∀ b, t.byte b = s.byte b) ∧
      (x.d.cls = .pred → x.d.num ≠ 0 → ∀ l, c.F.active.has l = true →
        (t.predOf c.w x.d.num.toNat).has l = decide (barPoison (c.T.barRead (c.F.scalar x.a.num.toNat).toNat) = 1)) := by
  have caches := State.acquire_onlyCaches ((s.adjWave c.w (waitBPred x c)).nextEpoch c.w true) c.W.core (x.mod &&& 7).toNat
  have frag : (((s.adjWave c.w (waitBPred x c)).nextEpoch c.w true).acquire c.W.core (x.mod &&& 7).toNat).frag? c.f = some c.F :=
    (congrArg (Tbl.find · c.f) caches.frags).trans h.frag
  obtain ⟨ahead, passes⟩ := Retired_frag? c (.waitB x) _ _ frag
  refine ⟨_, _, execWaitB_passes h hfault hreg hphase, passes, rfl, rfl, fun l n => ?_, fun b => ?_, fun hcls hnum l hl => ?_⟩
  · rw [Retired_vreg, State.vreg, State.wave?, caches.waves, ← State.wave?, ← State.vreg, State.vreg_nextEpoch]
    refine State.vreg_adjWave _ _ _ (fun W => ?_) _ _ _
    unfold waitBPred
    split
    · exact W.vregs_setPred ..
    · rfl
  · rw [Retired_byte, State.byte, caches.mem]
    rfl
  · have wave : (((s.adjWave c.w (waitBPred x c)).nextEpoch c.w true).acquire c.W.core (x.mod &&& 7).toNat).wave? c.w =
        some { waitBPred x c c.W with epoch := (waitBPred x c c.W).epoch + 1 } := by
      rw [State.wave?, caches.waves, ← State.wave?, State.nextEpoch, if_pos rfl, State.wave?_adjWave_same, State.wave?_adjWave_same, h.wave]
      rfl
    have num : x.d.num.toNat ≠ 0 := fun hz => hnum (BitVec.eq_of_toNat_eq hz)
    have read : ((waitBPred x c c.W).pred x.d.num.toNat).has l = decide (barPoison (c.T.barRead (c.F.scalar x.a.num.toNat).toNat) = 1) := by
      rw [waitBPred, hcls, if_pos (by decide), Wave.pred_setPred _ _ _ _ _ _ (Mask.has_lt _ _ hl), if_pos ⟨rfl, num, hl⟩]
      have := Mask.has_lt _ _ hl
      by_cases hb : barPoison (c.T.barRead (c.F.scalar x.a.num.toNat).toNat) = 1
      · rw [if_pos hb, Mask.has, BitVec.getLsbD_allOnes]
        simp [this, hb]
      · simp [Mask.has, hb]
    rw [Retired_predOf, State.predOf, wave]
    exact read

end waitB

theorem execWaitK_goes {s : State} {c : Ctx} {x : ExtWord} (h : Ready s c (.waitK x)) (hdone : s.tokensDone c.W c.F (waitMask x) = true) :
    ∃ t, exec (.waitK x) s = .next t ∧ PassedUnchanged c s t ∧ t.pend = s.pend := by
  have awaited : Standing c s (s.awaited c.f c.W.core (waitMask x)) c.F.mode ∧ (s.awaited c.f c.W.core (waitMask x)).pend = s.pend := by
    have same := (Untouched.refl h.frag).onlyCaches (s.acquire_onlyCaches c.W.core 4)
    have hwave : c.w = c.F.wave := h.own
    unfold State.awaited
    rw [h.frag]
    dsimp only
    split_ifs
    · exact ⟨(Untouched.refl h.frag).standing, rfl⟩
    · refine ⟨(hwave ▸ same.nextEpoch).standing.adjFrag _ _ (fun _ => ⟨rfl, rfl, rfl, rfl, rfl⟩) (fun _ hm => hm), ?_⟩
      exact (s.acquire_onlyCaches c.W.core 4).pend
  exact ⟨_, issue_done _ _ s c _ h (if_pos hdone), awaited.1.passed _, (Retired_pend ..).trans awaited.2⟩

/-! ## WAIT.A -/

/-- The entry of a WAIT.A that registers (R326). -/
def newWaiter (x : ExtWord) (c : Ctx) (s : State) (pa want : Nat) : Waiter :=
  { frag := c.f, va := c.F.scalar x.a.num.toNat, die := homeOf pa, pa := pa, wide := !x.sub.getLsbD 2, value := BitVec.ofNat 64 want
    scope := (x.mod &&& 7).toNat, since := s.ticks, listed := s.tableRoom (homeOf pa), done := false, cls := c.cls }

/-- The state in which it has registered. -/
def State.registered (s : State) (c : Ctx) (w : Waiter) : State :=
  { s with path := { s.path with waits := Tbl.put s.path.waits s.nextId w }, nextId := s.nextId + 1 }.unselect c.f

section waitA

variable {s : State} {c : Ctx} {x : ExtWord} {ps : List Piece}

/-- WAIT.A of an address that can be read, with the width and the value it waits for: what its first read does at the home. -/
theorem waitABody_reads (n want : Nat) (hn : n = if x.sub.getLsbD 2 then 4 else 8)
    (hwant : want = if x.sub.getLsbD 2 then (c.count x x.b).toNat % 2 ^ 32 else (c.count x x.b).toNat) (s1 : State)
    (hs1 : s1 = s.fillAccess (.core c.W.core) c.T.asid c.T.table (c.F.scalar x.a.num.toNat) n)
    (hnone : s.waiter c.f = none) (halign : (c.F.scalar x.a.num.toNat).toNat % n = 0)
    (hreach : c.reach s [0] (fun _ => c.F.scalar x.a.num.toNat) n .read .wait true = .ok [(0, c.F.scalar x.a.num.toNat, ps)])
    (hbusy : s1.homeBusy c.W ((ps.map Piece.addr).headD 0) n = false) (hacq : s1.acquiring c.w s1.nextId (heldLanes c.W c.F) = false)
    (hclean : s1.memPoisoned ((ps.map Piece.addr).headD 0) n = false) :
    waitABody x c s = if s1.memNat ((ps.map Piece.addr).headD 0) n != want then .done ((s1.nextEpoch c.w true).acquire c.W.core (x.mod &&& 7).toNat)
      else .keep (s1.registered c (newWaiter x c s1 ((ps.map Piece.addr).headD 0) want)) := by
  have width : (if (!x.sub.getLsbD 2) = true then 8 else 4) = n := by
    rw [hn]
    cases x.sub.getLsbD 2 <;> rfl
  have value : (if (!x.sub.getLsbD 2) = true then (c.count x x.b).toNat else (c.count x x.b).toNat % 2 ^ 32) = want := by
    rw [hwant]
    cases x.sub.getLsbD 2 <;> rfl
  have filled : s.fillReached c n [(0, c.F.scalar x.a.num.toNat, ps)] = s1 := hs1.symm
  have pa : ([(0, c.F.scalar x.a.num.toNat, ps)] : Reached).flatMap (fun a => a.2.2.map Piece.addr) = ps.map Piece.addr := List.append_nil _
  unfold waitABody
  simp only [hnone, width, halign, bne_self_eq_false, Bool.false_eq_true, if_false, hreach, filled, pa]
  unfold State.startWait
  simp only [width, value, s1.findIn_of_clean _ _ hclean, hbusy, hacq, hclean, Bool.or_false, Bool.false_eq_true, if_false]
  rfl

theorem waitABody_waits (hnone : s.waiter c.f = none) (h : Ready s c (.waitA x)) :
    let n := if x.sub.getLsbD 2 then 4 else 8
    let a := c.F.scalar x.a.num.toNat
    let pa := (ps.map Piece.addr).headD 0
    let want := if x.sub.getLsbD 2 then (c.count x x.b).toNat % 2 ^ 32 else (c.count x x.b).toNat
    let s1 := s.fillAccess (.core c.W.core) c.T.asid c.T.table a n
    a.toNat % n = 0 → c.reach s [0] (fun _ => a) n .read .wait true = .ok [(0, a, ps)] → s1.homeBusy c.W pa n = false →
    s1.acquiring c.w s1.nextId (heldLanes c.W c.F) = false → s1.memPoisoned pa n = false →
    (s1.memNat pa n ≠ want → ∃ t, exec (.waitA x) s = .next t ∧ PassedUnchanged c s t ∧ t.path.waits = s.path.waits) ∧
    (s1.memNat pa n = want → ∃ t w F, exec (.waitA x) s = .next t ∧ w ∈ t.path.waits.map Prod.snd ∧ w.frag = c.f ∧ w.pa = pa ∧ w.die = homeOf pa ∧
      w.value.toNat = want % 2 ^ 64 ∧ w.done = false ∧ t.frag? c.f = some F ∧ F.fstate = .blocked ∧ F.pc = c.F.pc ∧ ∀ b, t.byte b = s.byte b) := by
  intro n a pa want s1 halign hreach hbusy hacq hclean
  have body := waitABody_reads n want rfl rfl s1 rfl hnone halign hreach hbusy hacq hclean
  have caches : OnlyCaches s s1 := s.fillAccess_onlyCaches ..
  refine ⟨fun hne => ?goes, fun heq => ?registers⟩
  case goes =>
    rw [if_pos (bne_iff_ne.2 hne)] at body
    have acquired := State.acquire_onlyCaches (s1.nextEpoch c.w true) c.W.core (x.mod &&& 7).toNat
    have same : Untouched c s ((s1.nextEpoch c.w true).acquire c.W.core (x.mod &&& 7).toNat) := ((Untouched.refl h.frag).onlyCaches caches).nextEpoch.onlyCaches acquired
    refine ⟨_, issue_done (.waitA x) _ s c _ h body, same.passed _, ?_⟩
    rw [Retired_same (fun t => t.path.waits) (fun _ _ _ => rfl)]
    exact acquired.waits.trans caches.waits
  case registers =>
    rw [if_neg fun hb => bne_iff_ne.1 hb heq] at body
    have frag : (s1.registered c (newWaiter x c s1 pa want)).frag? c.f = some { c.F with fstate := .blocked } := by
      have found : s1.frag? c.f = some c.F := (congrArg (Tbl.find · c.f) caches.frags).trans h.frag
      rw [State.registered, State.unselect, State.frag?_adjFrag_same]
      exact congrArg (Option.map _) found
    refine ⟨_, newWaiter x c s1 pa want, _, issue_keep (.waitA x) _ s c _ h body ?_, ?_, rfl, rfl, rfl, BitVec.toNat_ofNat .., rfl, frag, rfl, rfl, fun b => ?_⟩
    · intro F hF
      cases frag.symm.trans hF
      exact ⟨rfl, by simp⟩
    · exact List.mem_map.2 ⟨_, Tbl.mem_of_find _ _ _ (Tbl.find_put_same s1.path.waits s1.nextId _), rfl⟩
    · exact congrArg (fun m => Tbl.get 0 m b) caches.mem

theorem execWaitA_completed {id : Nat} {w : Waiter} (h : Ready s c (.waitA x)) (hw : s.waiter c.f = some (id, w)) (hdone : w.done = true) :
    ∃ t, exec (.waitA x) s = .next t ∧ PassedUnchanged c s t ∧ Tbl.find t.path.waits id = none := by
  have body : waitABody x c s = .done (({ s with path := { s.path with waits := Tbl.drop s.path.waits id } }.nextEpoch c.w true).acquire c.W.core (x.mod &&& 7).toNat) := by
    unfold waitABody
    simp only [hw, hdone, if_true]
  have acquired := State.acquire_onlyCaches ({ s with path := { s.path with waits := Tbl.drop s.path.waits id } }.nextEpoch c.w true) c.W.core (x.mod &&& 7).toNat
  have dropped : Untouched c s { s with path := { s.path with waits := Tbl.drop s.path.waits id } } := (Untouched.refl h.frag).of_parts rfl rfl rfl
  refine ⟨_, issue_done (.waitA x) _ s c _ h body, (dropped.nextEpoch.onlyCaches acquired).passed _, ?_⟩
  rw [Retired_same (fun t => t.path.waits) (fun _ _ _ => rfl), acquired.waits]
  exact Tbl.find_drop_same ..

end waitA

/-- The waits (R159 to R161, R326). -/
theorem waiting : Claims.waiting := by
  intro s c x
  refine ⟨fun h hfault hreg hphase => execWaitB_goes h hfault hreg hphase, fun h hfault hreg hphase => execWaitB_waits h hfault hreg hphase,
    fun h hdone => execWaitK_goes h hdone, fun h hopen => ?_, fun ps h hnone => waitABody_waits hnone h, fun id w h hw hdone => execWaitA_completed h hw hdone⟩
  exact issue_unselect (.waitK x) (waitKBody x) s c h (if_neg (by simp [hopen]))

/-! ## WAKE (R328) -/

/-- The wake itself, before S[D] receives its number. -/
def State.wakes (s : State) (ids : List Nat) : State :=
  { s with path := { s.path with waits := List.map (fun (e : Nat × Waiter) => if ids.contains e.1 then (e.1, { e.2 with done := true, listed := false }) else e) s.path.waits } }

theorem State.wakes_done (s : State) (ids : List Nat) : ∀ e ∈ (s.wakes ids).path.waits, e.1 ∈ ids → e.2.done = true := by
  intro e he hid
  obtain ⟨d, -, rfl⟩ := List.mem_map.1 he
  split_ifs at hid ⊢ with hd
  · rfl
  · exact absurd hid (by simpa using hd)

theorem State.wakes_keys (s : State) (ids : List Nat) : (s.wakes ids).path.waits.map Prod.fst = s.path.waits.map Prod.fst := by
  refine (List.map_map ..).trans (List.map_congr_left fun e _ => ?_)
  dsimp only [Function.comp]
  split_ifs <;> rfl

/-- What a wake does to the state and to its own fragment. -/
theorem State.doWake_spec {s t : State} {c : Ctx} (x : ExtWord) (pa n : Nat) (hF : t.frag? c.f = some c.F) (hW : t.wave? c.w = some c.W) (hwave : c.F.wave = c.w)
    (hd : Dest) (hdst : hd = if x.d.cls == .scal then .scal x.d.num.toNat 1 else .none) (hwaits : t.path.waits = s.path.waits) :
    ∃ F, (t.doWake c.w (heldLanes c.W c.F) pa n hd).frag? c.f = some F ∧ F.pc = c.F.pc ∧ (t.doWake c.w (heldLanes c.W c.F) pa n hd).mem = t.mem ∧
      (t.doWake c.w (heldLanes c.W c.F) pa n hd).path = (t.wakes (s.woken pa n)).path ∧
      (x.d.cls = .scal → heldLanes c.W c.F ≠ 0 → F.scalar x.d.num.toNat = BitVec.ofNat 64 (s.woken pa n).length) := by
  have ids : t.woken pa n = s.woken pa n := by rw [State.woken, State.woken, hwaits]
  subst hdst
  by_cases hscal : x.d.cls = .scal
  · have wake : t.doWake c.w (heldLanes c.W c.F) pa n (if x.d.cls == .scal then .scal x.d.num.toNat 1 else .none) =
        (t.wakes (s.woken pa n)).setScalars c.w (heldLanes c.W c.F) x.d.num.toNat (BitVec.ofNat 64 (s.woken pa n).length) := by
      rw [if_pos (by simpa using hscal), ← ids]
      rfl
    obtain ⟨frags, only⟩ := (t.wakes (s.woken pa n)).setScalars_frags c.w (heldLanes c.W c.F) x.d.num.toNat (BitVec.ofNat 64 (s.woken pa n).length)
    refine ⟨if c.F.wave == c.w && (heldLanes c.W c.F &&& heldLanes c.W c.F) != 0 then c.F.setScalar x.d.num.toNat (BitVec.ofNat 64 (s.woken pa n).length) else c.F,
      ?_, ?_, ?_, ?_, ?_⟩
    · rw [wake, State.setScalars_frag? (t.wakes (s.woken pa n)) _ _ _ _ _ c.W hW]
      exact congrArg (Option.map _) hF
    · split_ifs <;> rfl
    · rw [wake, only]
      rfl
    · rw [wake, only]
    · intro _ hheld
      rw [if_pos (by simpa [hwave] using hheld)]
      exact Tbl.get_set_same ..
  · have wake : t.doWake c.w (heldLanes c.W c.F) pa n (if x.d.cls == .scal then .scal x.d.num.toNat 1 else .none) = t.wakes (s.woken pa n) := by
      rw [if_neg (by simpa using hscal), ← ids]
      rfl
    rw [wake]
    exact ⟨c.F, hF, rfl, rfl, rfl, fun hcls => absurd hcls hscal⟩

/-- WAKE (R328). -/
theorem wakeServesOldest : Claims.wakeServesOldest := by
  intro s c x ps h va pa n s1 halign hreach hquiet hready here woken
  have caches : OnlyCaches s s1 := s.fillAccess_onlyCaches ..
  have frag : s1.frag? c.f = some c.F := (congrArg (Tbl.find · c.f) caches.frags).trans h.frag
  have wave : s1.wave? c.w = some c.W := (congrArg (Tbl.find · c.w) caches.waves).trans h.wave
  obtain ⟨F, hF, pc, mem, path, number⟩ := State.doWake_spec (s := s) x pa n frag wave h.own.symm _ rfl caches.waits
  have body : wakeBody x c s = .done ((s1.doWake c.w (heldLanes c.W c.F) pa n (if x.d.cls == .scal then .scal x.d.num.toNat 1 else .none)).nextEpoch c.w true) := by
    have filled : s.fillReached c 4 [(0, va, ps)] = s1 := rfl
    have addr : ([(0, va, ps)] : Reached).flatMap (fun a => a.2.2.map Piece.addr) = ps.map Piece.addr := List.append_nil _
    unfold wakeBody
    simp only [halign, bne_self_eq_false, Bool.false_eq_true, if_false, hreach, va, filled, addr]
    exact Ctx.release_ready _ _ _ _ _ _ (fun hs => hquiet (BitVec.eq_of_toNat_eq hs)) hready
  obtain ⟨ahead, passes⟩ := Retired_frag? c (.wake x) ((s1.doWake c.w (heldLanes c.W c.F) pa n
    (if x.d.cls == .scal then .scal x.d.num.toNat 1 else .none)).nextEpoch c.w true) F hF
  have waits : (Retired c (.wake x) ((s1.doWake c.w (heldLanes c.W c.F) pa n (if x.d.cls == .scal then .scal x.d.num.toNat 1 else .none)).nextEpoch c.w true)).path =
      (s1.wakes woken).path := (Retired_same State.path (fun _ _ _ => rfl) ..).trans path
  refine ⟨_, _, issue_done (.wake x) _ s c _ h body, passes, congrArg (· + BitVec.ofNat 64 c.len) pc, fun a => ?_, ?_, ?_, number⟩
  · exact (Retired_byte ..).trans (congrArg (fun m => Tbl.get 0 m a) (mem.trans caches.mem))
  · rw [waits]
    exact s1.wakes_done woken
  · rw [waits, s1.wakes_keys, caches.waits]

/-- Settles O30: the waits by their conditions (`waiting`), WAKE by what a release that is ready does (`wakeServesOldest`). -/
theorem waitingAndWaking : Obligations.WaitingAndWaking := ⟨waiting, wakeServesOldest⟩

end Sys2Proof.Machine

/-! SUPPORT. The radiance cache at issue (R272 to R281): what RCQ, RCT and the operations on a cache leave. -/

namespace Sys2Proof.Machine

open Claims

/-! ## Instructions with checks before the liners' (R409) -/

section checked

variable {s : State} {c : Ctx} {i : Instr} {early : Ctx → State → Option Res} (h : Ready s c i)
include h

/-- Where those checks pass, they play no part. -/
theorem issueChecked_unchecked (body : Ctx → State → Res) (he : early c s = none) : issueChecked i early body s = issue i body s :=
  (issueChecked_ready i early body s c h he).trans (issue_ready i body s c h).symm

/-- A trap of theirs is taken. -/
theorem issueChecked_early (body : Ctx → State → Res) (t : Trap) (he : early c s = some (.trap t)) :
    issueChecked i early body s = .next (s.trapFrag c.f t c.len) := by
  unfold issueChecked
  rw [h.current]
  simp only [h.context]
  unfold Ctx.issueWith State.consume
  simp [h.legal, h.allowed, h.order, h.blocks, h.results, h.tokens, h.sound, he]
  rfl

end checked

theorem recordBlocks_holding {s : State} {c : Ctx} {i : Instr} (h : Holding s c i) : recordBlocks i c s = none := by
  rw [recordBlocks, Option.map_eq_none_iff, List.find?_eq_none]
  intro r hr
  simp [h r hr]

/-! ## What RCQ and RCT share -/

section rc

variable {s : State} {c : Ctx} {x : ExtWord} {sample : Bool} {act : Instance → State → Res}

/-- The state in which the sources of RCQ or RCT have been read: with the flags of their conversions. -/
def State.read (s : State) (c : Ctx) (x : ExtWord) (i : Instance) (sample : Bool) : State :=
  c.setFlags (c.part x).lanes (fun l => (c.values x (cacheSources x i sample) l).2) s

theorem State.read_standing (i : Instance) (hF : s.frag? c.f = some c.F) : Standing c s (s.read c x i sample) (readMode c x i sample) :=
  (Untouched.refl hF).standing.adjFrag _ _ (fun _ => ⟨rfl, rfl, rfl, rfl, rfl⟩) (fun _ hm => congrArg (modeOrFlags · _) hm)

theorem rcBody_none (h : c.part x = 0) : rcBody x sample act c s = .done s := if_pos h

theorem rcBody_acquiring (hpart : c.part x ≠ 0) (h : s.acquiring c.w s.nextId (heldLanes c.W c.F) = true) : rcBody x sample act c s = .stall := by
  simp only [rcBody, hpart, h, if_true, if_false]

theorem rowSources_ok (srcs : List Src) (htag : c.tagTrap (c.part x).lanes srcs = none) (hfp : c.fpTrap (c.part x).lanes (fun l => (c.values x srcs l).2) = none) :
    c.rowSources x srcs (c.part x) s = .ok (c.setFlags (c.part x).lanes (fun l => (c.values x srcs l).2) s) := by
  simp only [Ctx.rowSources, htag, hfp]

theorem rcBody_fault (e : Trap) (h : InstanceFault s c x sample e) : rcBody x sample act c s = .trap e ∧ e.Plain := by
  obtain ⟨hpart, hfree, -, htag, hfp, hinst⟩ := h
  have fault : s.instFault c (instOf x) (c.part x) = some e ∧ e.Plain := by
    rcases hinst with ⟨hnone, rfl⟩ | ⟨y, hsome, hasid, rfl⟩
    · rw [State.instFault, hnone]
      exact ⟨rfl, rfl, rfl, rfl⟩
    · rw [State.instFault, hsome]
      exact ⟨if_pos (by simpa using hasid), rfl, rfl, rfl⟩
  refine ⟨?_, fault.2⟩
  unfold rcBody
  simp only [hpart, hfree, Bool.false_eq_true, if_false, rowSources_ok _ htag hfp, fault.1]

theorem rcBody_ready {i : Instance} (h : CacheReady s c x i sample) : rcBody x sample act c s = act i (s.read c x i sample) := by
  have sound : s.instFault c (instOf x) (c.part x) = none := by
    rw [State.instFault, h.inst]
    exact if_neg (by simp [h.asid])
  have read := rowSources_ok (s := s) _ h.tags h.calm
  unfold rcBody
  simp only [h.part, h.free, Bool.false_eq_true, if_false, h.inst, sound, Option.map_some, Option.getD_some]
  unfold cacheSources at read
  rw [read]
  rfl

theorem State.inst?_of_open {k : Nat} {i : Instance} (h : s.openInst k = some i) : s.inst? k = some i := by
  unfold State.openInst at h
  cases hi : s.inst? k with
  | none =>
    rw [hi] at h
    cases h
  | some j =>
    rw [hi, Option.bind_some] at h
    split_ifs at h
    exact h

theorem State.inst?_adjInst (s : State) (k : Nat) (g : Instance → Instance) : (s.adjInst k g).inst? k = (s.inst? k).map g := Tbl.find_adjust_same ..

end rc

theorem Retired_inst? (c : Ctx) (i : Instr) (t : State) (k : Nat) : (Retired c i t).inst? k = t.inst? k := Retired_same (fun s => s.inst? k) (fun _ _ _ => rfl) ..

/-! ## RCQ -/

section rcq

variable {s : State} {c : Ctx} {x : ExtWord} {i : Instance}

/-- The inputs of a query, lane by lane. -/
def queryInputs (c : Ctx) (x : ExtWord) (i : Instance) : Tbl RcInput :=
  (c.part x).lanes.map (fun l => (l, rcInput i.cfg.naux (c.values x (cacheSources x i false) l).1))

/-- The record of an outstanding query. -/
def queryPend (s : State) (c : Ctx) (x : ExtWord) (i : Instance) : Pend :=
  { wave := c.w, lanes := c.part x, own := heldLanes c.W c.F, ord := s.nextId, tok := x.tok.toNat, dst := .vec x.d.num.toNat 2, pc := c.F.pc, rwc := c.F.rwc
    cls := c.cls, op := c.op, kind := .query (instOf x) (i.genAt (clusterOf c.W.core)) (queryInputs c x i) }

/-- The state with the query outstanding, its generation read and its lanes counted. -/
def State.queried (s : State) (c : Ctx) (x : ExtWord) (i : Instance) : State :=
  (((s.read c x i false).addPend (queryPend s c x i)).2.adjFrag c.f
    (fun F => { F with gens := Tbl.set 0 F.gens (instOf x) (i.genAt (clusterOf c.W.core)) })).adjInst (instOf x)
      (fun j => { j with queries := j.queries + (c.part x).lanes.length })

theorem rcqBody_fault (e : Trap) (h : InstanceFault s c x false e) : rcqBody x c s = .trap e ∧ e.Plain := rcBody_fault e h

theorem rcqBody_waits (h : CacheReady s c x i false) (hgen : i.genAt (clusterOf c.W.core) < Tbl.get 0 c.F.gens (instOf x)) : rcqBody x c s = .stall := by
  unfold rcqBody
  rw [rcBody_ready h]
  exact if_pos hgen

theorem rcqBody_asks (h : CacheReady s c x i false) (hgen : Tbl.get 0 c.F.gens (instOf x) ≤ i.genAt (clusterOf c.W.core)) : rcqBody x c s = .done (s.queried c x i) := by
  have counted : (c.part x).lanes.length = (queryInputs c x i).length := (List.length_map ..).symm
  unfold rcqBody State.queried
  rw [rcBody_ready h, counted]
  exact if_neg (by omega)

theorem execRcq_asks (hready : Ready s c (.rcq x)) (h : CacheReady s c x i false) (hgen : Tbl.get 0 c.F.gens (instOf x) ≤ i.genAt (clusterOf c.W.core)) :
    ∃ t id F, exec (.rcq x) s = .next t ∧ Passed c s t (readMode c x i false) ∧ t.frag? c.f = some F ∧
      Tbl.get 0 F.gens (instOf x) = i.genAt (clusterOf c.W.core) ∧ Outstanding c t id x.tok.toNat (.vec x.d.num.toNat 2) (c.part x) ∧
      (Tbl.find t.pend id).map Pend.kind = some (.query (instOf x) (i.genAt (clusterOf c.W.core)) (queryInputs c x i)) ∧
      t.inst? (instOf x) = some { i with queries := i.queries + (c.part x).lanes.length } := by
  have exec_eq : exec (.rcq x) s = .next (Retired c (.rcq x) (s.queried c x i)) :=
    (issueChecked_unchecked hready (rcqBody x) (recordBlocks_holding h.blocks)).trans (issue_done _ _ s c _ hready (rcqBody_asks h hgen))
  have asked : Standing c s ((s.read c x i false).addPend (queryPend s c x i)).2 (readMode c x i false) := (State.read_standing i hready.frag).of_parts rfl rfl rfl
  have stands : Standing c s (s.queried c x i) (readMode c x i false) :=
    (asked.adjFrag (readMode c x i false) (fun F => { F with gens := Tbl.set 0 F.gens (instOf x) (i.genAt (clusterOf c.W.core)) }) (fun _ => ⟨rfl, rfl, rfl, rfl, rfl⟩)
      (fun _ hm => hm)).of_parts rfl rfl rfl
  obtain ⟨-, -, -, F, hF, -⟩ := asked
  have found : (s.queried c x i).frag? c.f = some { F with gens := Tbl.set 0 F.gens (instOf x) (i.genAt (clusterOf c.W.core)) } := by
    refine (State.frag?_adjFrag_same _ c.f (fun F => { F with gens := Tbl.set 0 F.gens (instOf x) (i.genAt (clusterOf c.W.core)) })).trans ?_
    rw [hF]
    rfl
  obtain ⟨ahead, passes⟩ := Retired_frag? c (.rcq x) _ _ found
  have pend : Tbl.find (Retired c (.rcq x) (s.queried c x i)).pend s.nextId = some (queryPend s c x i) := by
    rw [Retired_pend]
    exact Tbl.find_put_same ..
  refine ⟨_, s.nextId, _, exec_eq, stands.passed _, passes, Tbl.get_set_same .., ⟨_, pend, rfl, rfl, rfl, rfl, rfl⟩, ?_, ?_⟩
  · rw [pend]
    rfl
  · rw [Retired_inst?]
    refine (State.inst?_adjInst ..).trans ?_
    exact congrArg (Option.map _) (State.inst?_of_open h.inst)

end rcq

/-- RCQ (R272, R273, R279, R282). -/
theorem cacheQueries : Claims.cacheQueries := by
  intro s c x h
  refine ⟨fun r hr => ?_, fun hold hnone => ?_, fun hold hpart hacq => ?_, fun e he => ?_, fun i hi hgen => ?_, fun i hi hgen => execRcq_asks h hi hgen⟩
  · exact issueChecked_early h _ _ (by rw [recordBlocks, hr]; rfl)
  · exact ⟨_, (issueChecked_unchecked h _ (recordBlocks_holding hold)).trans (issue_done _ _ s c s h (rcBody_none hnone)), h.completes_nothing 0, Retired_pend ..⟩
  · exact (issueChecked_unchecked h _ (recordBlocks_holding hold)).trans (issue_stall _ _ s c h (rcBody_acquiring hpart hacq))
  · obtain ⟨body, plain⟩ := rcqBody_fault e he
    obtain ⟨-, -, hold, -⟩ := he
    exact (issueChecked_unchecked h _ (recordBlocks_holding hold)).trans (issue_trap _ _ s c e h body plain)
  · exact (issueChecked_unchecked h _ (recordBlocks_holding hi.blocks)).trans (issue_stall _ _ s c h (rcqBody_waits hi hgen))

/-! ## RCT -/

/-- The number of each lane's sample goes on (R275). -/
def bumped (k : Nat) (ls : List Nat) (t : Tbl Nat) : Tbl Nat := ls.foldl (fun t l => Tbl.set 0 t (k * 64 + l) (Tbl.get 0 t (k * 64 + l) + 1)) t

theorem get_bumped (k l : Nat) (ls : List Nat) (hls : ls.Nodup) (t : Tbl Nat) :
    Tbl.get 0 (bumped k ls t) (k * 64 + l) = Tbl.get 0 t (k * 64 + l) + if l ∈ ls then 1 else 0 := by
  induction ls generalizing t with
  | nil => rfl
  | cons m ls ih =>
    obtain ⟨hm, hls⟩ := List.nodup_cons.1 hls
    refine (ih hls _).trans ?_
    rw [Tbl.get_set]
    by_cases hlm : l = m
    · subst hlm
      simp [hm]
    · have apart : k * 64 + l ≠ k * 64 + m := by omega
      rw [if_neg apart]
      simp [hlm]

theorem Mask.lanes_nodup (m : Mask) : m.lanes.Nodup := List.nodup_range.filter _

section rct

variable {s : State} {c : Ctx} {x : ExtWord} {i : Instance}

/-- The state in which the sources are read and the samples have their numbers. -/
def State.numbered (s : State) (c : Ctx) (x : ExtWord) (i : Instance) : State :=
  (s.read c x i true).adjWave c.w (fun W => { W with samples := bumped (instOf x) (c.part x).lanes W.samples })

/-- The samples of a RCT, lane by lane. -/
def rctSamples (s : State) (c : Ctx) (x : ExtWord) (i : Instance) : List Sample := (c.part x).lanes.map ((s.read c x i true).sampleOf c x i)

/-- The record of an outstanding RCT. -/
def samplePend (s : State) (c : Ctx) (x : ExtWord) : Pend :=
  { wave := c.w, lanes := c.part x, own := heldLanes c.W c.F, ord := s.nextId, tok := x.tok.toNat, dst := .none, pc := c.F.pc, rwc := c.F.rwc, cls := c.cls
    op := c.op, kind := .sample }

/-- The entry of q3. -/
def rctEntry (s : State) (c : Ctx) (x : ExtWord) (i : Instance) : SampleEntry := ⟨s.nextId, instOf x, (rctSamples s c x i).filter (fun (y : Sample) => !y.rejected)⟩

/-- The state with the instruction outstanding and the rejected samples counted. -/
def State.sampling (s : State) (c : Ctx) (x : ExtWord) (i : Instance) : State :=
  ({ s.numbered c x i with free := (s.read c x i true).free + 64 }.adjInst (instOf x)
    (fun j => { j with rejected := j.rejected + ((rctSamples s c x i).length - ((rctSamples s c x i).filter (fun (y : Sample) => !y.rejected)).length) })).addPend
      (samplePend s c x) |>.2

/-- A wave with the entry in q3. -/
def Wave.pushSamples (W : Wave) (e : SampleEntry) : Wave := { W with queues := { W.queues with q3 := W.queues.q3 ++ [e] } }

/-- The state with the entry in q3. -/
def State.sampled (s : State) (c : Ctx) (x : ExtWord) (i : Instance) : State := (s.sampling c x i).adjWave c.w (fun W => W.pushSamples (rctEntry s c x i))

/-- The state with every sample dropped. -/
def State.unsampled (s : State) (c : Ctx) (x : ExtWord) (i : Instance) : State :=
  (s.numbered c x i).adjInst (instOf x) (fun j => { j with dropped := j.dropped + (c.part x).lanes.length })

theorem rctBody_misuse (h : x.d.num ≠ 3) : rctBody x c s = .trap (queueFault c 1 x.d.num.toNat) := by
  have other : x.d.num.toNat ≠ 3 := fun hn => h (BitVec.eq_of_toNat_eq hn)
  simp [rctBody, other]

theorem q3_number (hq : x.d.num = 3) : ¬(x.d.num.toNat != 3) = true := by simp [hq]

section q3

variable (hq : x.d.num = 3)
include hq

theorem rctBody_none (h : c.part x = 0) : rctBody x c s = .done s := by
  unfold rctBody
  rw [if_neg (q3_number hq), if_pos h]

theorem rctBody_held (hpart : c.part x ≠ 0) (h : s.pushHeld c.w = true) : rctBody x c s = .unselect := by
  unfold rctBody
  rw [if_neg (q3_number hq), if_neg hpart, if_pos h]

variable (hfree : s.pushHeld c.w = false)
include hfree

theorem rctBody_acquiring (hpart : c.part x ≠ 0) (h : s.acquiring c.w s.nextId (heldLanes c.W c.F) = true) : rctBody x c s = .stall := by
  unfold rctBody
  rw [if_neg (q3_number hq), if_neg hpart, if_neg (Bool.not_eq_true _ ▸ hfree), rcBody_acquiring hpart h]

theorem rctBody_fault (e : Trap) (h : InstanceFault s c x true e) : rctBody x c s = .trap e ∧ e.Plain := by
  have hpart : c.part x ≠ 0 := by
    obtain ⟨hpart, -⟩ := h
    exact hpart
  unfold rctBody
  rw [if_neg (q3_number hq), if_neg hpart, if_neg (Bool.not_eq_true _ ▸ hfree)]
  exact rcBody_fault e h

theorem rctBody_takes (h : CacheReady s c x i true) (hroom : (c.W.queues.q3.filter (fun e => c.T.gate ≤ e.pend)).length < 8) :
    rctBody x c s = .done (s.sampled c x i) := by
  unfold rctBody
  rw [if_neg (q3_number hq), if_neg h.part, if_neg (Bool.not_eq_true _ ▸ hfree), rcBody_ready h]
  exact if_neg (by omega)

theorem rctBody_drops (h : CacheReady s c x i true) (hfull : 8 ≤ (c.W.queues.q3.filter (fun e => c.T.gate ≤ e.pend)).length) :
    rctBody x c s = .done (s.unsampled c x i) := by
  unfold rctBody
  rw [if_neg (q3_number hq), if_neg h.part, if_neg (Bool.not_eq_true _ ▸ hfree), rcBody_ready h]
  exact if_pos hfull

end q3

/-- A change of a wave apart from its registers. -/
theorem Standing.adjWave {t : State} {mode : Word} (h : Standing c s t mode) (w : Nat) (g : Wave → Wave) (hv : ∀ W, (g W).vregs = W.vregs)
    (hp : ∀ W, (g W).preds = W.preds) : Standing c s (t.adjWave w g) mode := by
  obtain ⟨mem, regs, preds, F, hF, hrest⟩ := h
  have changed : Untouched { c with F := F } t (t.adjWave w g) := (Untouched.refl hF).adjWave w g hv hp
  obtain ⟨-, regs', preds', -⟩ := changed
  exact ⟨mem, fun v l n => (regs' v l n).trans (regs v l n), fun v p => (preds' v p).trans (preds v p), F, hF, hrest⟩

theorem State.numbered_standing (hF : s.frag? c.f = some c.F) : Standing c s (s.numbered c x i) (readMode c x i true) :=
  (State.read_standing i hF).adjWave _ _ (fun _ => rfl) (fun _ => rfl)

theorem State.numbered_wave (hW : s.wave? c.w = some c.W) :
    (s.numbered c x i).wave? c.w = some { c.W with samples := bumped (instOf x) (c.part x).lanes c.W.samples } := by
  rw [State.numbered, State.wave?_adjWave_same, show (s.read c x i true).wave? c.w = some c.W from hW]
  rfl

theorem get_numbered (l : Nat) : Tbl.get 0 (bumped (instOf x) (c.part x).lanes c.W.samples) (instOf x * 64 + l) =
    Tbl.get 0 c.W.samples (instOf x * 64 + l) + if (c.part x).has l then 1 else 0 := by
  rw [get_bumped _ _ _ (Mask.lanes_nodup _)]
  simp only [Mask.mem_lanes]

/-- A sample as the statement spells it out. -/
theorem rctSamples_eq : rctSamples s c x i =
    (c.part x).lanes.map (fun l => cacheSample s c x i (BitVec.ofNat 32 (Config.freeNat ((s.read c x i true).free + l))) l) := rfl

theorem length_sub_filter_not {α : Type} (l : List α) (p : α → Bool) : l.length - (l.filter (fun y => !p y)).length = (l.filter p).length := by
  have split := List.length_eq_length_filter_add (l := l) p
  omega

theorem execRct_takes (hready : Ready s c (.rct x)) (hq : x.d.num = 3) (hfree : s.pushHeld c.w = false) (h : CacheReady s c x i true)
    (hroom : (c.W.queues.q3.filter (fun e => c.T.gate ≤ e.pend)).length < 8) :
    ∃ t W e, exec (.rct x) s = .next t ∧ Passed c s t (readMode c x i true) ∧ t.wave? c.w = some W ∧
      (∀ l, l < 64 → Tbl.get 0 W.samples (instOf x * 64 + l) = Tbl.get 0 c.W.samples (instOf x * 64 + l) + if (c.part x).has l then 1 else 0) ∧
      W.queues.q3 = c.W.queues.q3 ++ [e] ∧ e.inst = instOf x ∧ Outstanding c t e.pend x.tok.toNat .none (c.part x) ∧
      ∃ t2 : Nat → BitVec 32, let all := (c.part x).lanes.map (fun l => cacheSample s c x i (t2 l) l)
        e.samples = all.filter (fun y => !y.rejected) ∧ t.inst? (instOf x) = some { i with rejected := i.rejected + (all.filter Sample.rejected).length } := by
  have exec_eq : exec (.rct x) s = .next (Retired c (.rct x) (s.sampled c x i)) :=
    (issueChecked_unchecked hready (rctBody x) (recordBlocks_holding h.blocks)).trans (issue_done _ _ s c _ hready (rctBody_takes hq hfree h hroom))
  have counted : Standing c s (s.sampling c x i) (readMode c x i true) := (State.numbered_standing (x := x) (i := i) hready.frag).of_parts rfl rfl rfl
  have stands : Standing c s (s.sampled c x i) (readMode c x i true) := counted.adjWave c.w _ (fun _ => rfl) (fun _ => rfl)
  have wave : (s.sampled c x i).wave? c.w =
      some (Wave.pushSamples { c.W with samples := bumped (instOf x) (c.part x).lanes c.W.samples } (rctEntry s c x i)) :=
    (State.wave?_adjWave_same ..).trans (congrArg (Option.map _) (State.numbered_wave (x := x) (i := i) hready.wave))
  refine ⟨_, _, rctEntry s c x i, exec_eq, stands.passed _, (Retired_wave? ..).trans wave, fun l _ => get_numbered l, rfl, rfl, ⟨samplePend s c x, ?_, rfl, rfl, rfl, rfl, rfl⟩,
    fun l => BitVec.ofNat 32 (Config.freeNat ((s.read c x i true).free + l)), rfl, ?_⟩
  · rw [Retired_pend]
    exact Tbl.find_put_same ..
  · have counted : (s.sampled c x i).inst? (instOf x) = some { i with rejected := i.rejected + ((rctSamples s c x i).length -
        ((rctSamples s c x i).filter (fun y => !y.rejected)).length) } :=
      (State.inst?_adjInst { s.numbered c x i with free := (s.read c x i true).free + 64 } _ _).trans (congrArg (Option.map _) (State.inst?_of_open h.inst))
    rw [Retired_inst?, counted, length_sub_filter_not, rctSamples_eq]

theorem execRct_drops (hready : Ready s c (.rct x)) (hq : x.d.num = 3) (hfree : s.pushHeld c.w = false) (h : CacheReady s c x i true)
    (hfull : 8 ≤ (c.W.queues.q3.filter (fun e => c.T.gate ≤ e.pend)).length) :
    ∃ t W, exec (.rct x) s = .next t ∧ Passed c s t (readMode c x i true) ∧ t.wave? c.w = some W ∧
      (∀ l, l < 64 → Tbl.get 0 W.samples (instOf x * 64 + l) = Tbl.get 0 c.W.samples (instOf x * 64 + l) + if (c.part x).has l then 1 else 0) ∧
      W.queues = c.W.queues ∧ t.pend = s.pend ∧ t.inst? (instOf x) = some { i with dropped := i.dropped + (c.part x).lanes.length } := by
  have exec_eq : exec (.rct x) s = .next (Retired c (.rct x) (s.unsampled c x i)) :=
    (issueChecked_unchecked hready (rctBody x) (recordBlocks_holding h.blocks)).trans (issue_done _ _ s c _ hready (rctBody_drops hq hfree h hfull))
  have stands : Standing c s (s.unsampled c x i) (readMode c x i true) := (State.numbered_standing hready.frag).of_parts rfl rfl rfl
  refine ⟨_, _, exec_eq, stands.passed _, (Retired_wave? ..).trans (State.numbered_wave hready.wave), fun l _ => get_numbered l, rfl, Retired_pend .., ?_⟩
  rw [Retired_inst?]
  exact (State.inst?_adjInst (s.numbered c x i) _ _).trans (congrArg (Option.map _) (State.inst?_of_open h.inst))

end rct

/-- RCT (R133, R272, R274, R275, R282). -/
theorem cacheSamples : Claims.cacheSamples := by
  intro s c x h
  have unchecked (hold : Holding s c (.rct x)) : exec (.rct x) s = issue (.rct x) (rctBody x) s := issueChecked_unchecked h _ (recordBlocks_holding hold)
  refine ⟨fun r hr => ?_, fun hold hq => ?_, fun hold hq hnone => ?_, fun hold hq hpart hheld => ?_, fun hq hfree =>
    ⟨fun hold hpart hacq => ?_, fun e he => ?_, fun i hi hroom => execRct_takes h hq hfree hi hroom, fun i hi hfull => execRct_drops h hq hfree hi hfull⟩⟩
  · exact issueChecked_early h _ _ (by rw [recordBlocks, hr]; rfl)
  · exact (unchecked hold).trans (issue_trap _ _ s c _ h (rctBody_misuse hq) (queueFault_plain ..))
  · exact ⟨_, (unchecked hold).trans (issue_done _ _ s c s h (rctBody_none hq hnone)), h.completes_nothing 0, Retired_pend ..⟩
  · obtain ⟨t, next, waits⟩ := issue_unselect _ _ s c h (rctBody_held hq hpart hheld)
    exact ⟨t, (unchecked hold).trans next, waits⟩
  · exact (unchecked hold).trans (issue_stall _ _ s c h (rctBody_acquiring hq hfree hpart hacq))
  · obtain ⟨body, plain⟩ := rctBody_fault hq hfree e he
    obtain ⟨-, -, hold, -⟩ := he
    exact (unchecked hold).trans (issue_trap _ _ s c e h body plain)

/-! ## RCGEN, RCCFG and RCSTAT -/

section op

variable {s : State} {c : Ctx} {x : ExtWord} {op : Nat} {i : Instr}

/-- The argument of an operation: LOAD's record address, or RCSTAT's counter. -/
def rcArg (c : Ctx) (x : ExtWord) (op : Nat) : Nat := if op = 0 then (c.F.scalar x.a.num.toNat).toNat else x.sub.toNat

/-- The record of an operation that stands behind its release. -/
def rcPend (s : State) (c : Ctx) (x : ExtWord) (op : Nat) : Pend :=
  { wave := c.w, lanes := heldLanes c.W c.F, own := heldLanes c.W c.F, ord := s.nextId, tok := x.tok.toNat, dst := .scal x.d.num.toNat 1, pc := c.F.pc, rwc := c.F.rwc
    cls := c.cls, op := c.op, kind := .release 4 (.radiance op (instOf x) c.T.table (rcArg c x op)) }

/-- The state with the operation behind its release. -/
def State.rcBehind (s : State) (c : Ctx) (x : ExtWord) (op : Nat) : State := ((if op = 5 then s else s.nextEpoch c.w true).addPend (rcPend s c x op)).2

/-- The state with the operation at its optimiser. -/
def State.rcThere (s : State) (c : Ctx) (x : ExtWord) (op : Nat) : State :=
  (s.rcBehind c x op).rcArrive s.nextId (rcPend s c x op) op (instOf x) c.T.asid c.T.table c.W.core (rcArg c x op)

/-- Awaiting the token of RCCFG applies cache actions (R280). -/
def State.rcMarked (s : State) (c : Ctx) (x : ExtWord) (op : Nat) : State := if op < 4 then s.adjFrag c.f (fun F => F.mark x.tok.toNat) else s

theorem rcOpBody_eq (hacq : s.acquiring c.w s.nextId (heldLanes c.W c.F) = false) : rcOpBody x op c s =
    .done ((if (op = 5 || s.releaseReady c.w s.nextId (heldLanes c.W c.F) 4) then s.rcThere c x op else s.rcBehind c x op).rcMarked c x op) := by
  unfold rcOpBody
  simp only [hacq, Bool.false_eq_true, if_false]
  unfold State.rcMarked State.rcThere State.rcBehind
  by_cases hop : op = 5
  · simp only [hop, if_true]
    rfl
  · simp only [hop, if_false]
    rfl

theorem State.rcMarked_rc (s : State) (c : Ctx) (x : ExtWord) (op : Nat) : (s.rcMarked c x op).rc = s.rc := by
  unfold State.rcMarked
  split_ifs <;> rfl

theorem State.rcMarked_pend (s : State) (c : Ctx) (x : ExtWord) (op : Nat) : (s.rcMarked c x op).pend = s.pend := by
  unfold State.rcMarked
  split_ifs <;> rfl

theorem Standing.rcMarked {t : State} {mode : Word} (h : Standing c s t mode) : Standing c s (t.rcMarked c x op) mode := by
  unfold State.rcMarked
  split_ifs
  · exact h.adjFrag _ _ (fun _ => ⟨rfl, rfl, rfl, rfl, rfl⟩) (fun _ hm => hm)
  · exact h

theorem State.rcBehind_standing (hF : s.frag? c.f = some c.F) : Standing c s (s.rcBehind c x op) c.F.mode := by
  have counted : Untouched c s (if op = 5 then s else s.nextEpoch c.w true) := by
    split_ifs
    · exact .refl hF
    · exact (Untouched.refl hF).nextEpoch
  exact counted.standing.of_parts rfl rfl rfl

theorem State.rcBehind_rc : (s.rcBehind c x op).rc = s.rc := by
  unfold State.rcBehind
  split_ifs <;> rfl

theorem State.rcBehind_nextId : (s.rcBehind c x op).nextId = s.nextId + 1 := by
  unfold State.rcBehind
  split_ifs <;> rfl

theorem State.rcBehind_pend : Tbl.find (s.rcBehind c x op).pend s.nextId = some (rcPend s c x op) := by
  unfold State.rcBehind
  split_ifs <;> exact Tbl.find_put_same ..

/-- The operation at its optimiser. -/
def rcOp (s : State) (c : Ctx) (x : ExtWord) (op : Nat) : RcOp :=
  { op := op, pend := s.nextId, wave := c.w, inst := instOf x, asid := c.T.asid, table := c.T.table, core := c.W.core, arg := rcArg c x op, stage := 0 }

theorem rcOp_arrives (h : Ready s c i) (hacq : s.acquiring c.w s.nextId (heldLanes c.W c.F) = false)
    (hnow : op = 5 ∨ s.releaseReady c.w s.nextId (heldLanes c.W c.F) 4 = true) :
    ∃ t k, issue i (rcOpBody x op) s = .next t ∧ PassedUnchanged c s t ∧ t.rc.insts = s.rc.insts ∧ Tbl.find t.rc.ops k = some (rcOp s c x op) ∧
      Outstanding c t s.nextId x.tok.toNat (.scal x.d.num.toNat 1) (heldLanes c.W c.F) := by
  have body := rcOpBody_eq (x := x) (op := op) hacq
  rw [if_pos (by simpa using hnow)] at body
  have there : Standing c s (s.rcThere c x op) c.F.mode := (State.rcBehind_standing (x := x) (op := op) h.frag).of_parts rfl rfl rfl
  have pend : Tbl.find (s.rcThere c x op).pend s.nextId = some { rcPend s c x op with kind := if op = 4 then .sync else .command } :=
    (Tbl.find_adjust_same (s.rcBehind c x op).pend s.nextId (fun p => { p with kind := if op = 4 then .sync else .command })).trans
      (congrArg (Option.map _) State.rcBehind_pend)
  have rc : (Retired c i ((s.rcThere c x op).rcMarked c x op)).rc = (s.rcThere c x op).rc := by
    rw [Retired_same State.rc (fun _ _ _ => rfl), State.rcMarked_rc]
  refine ⟨_, s.nextId + 1, issue_done i _ s c _ h body, there.rcMarked.passed i, ?_, ?_,
    { rcPend s c x op with kind := if op = 4 then .sync else .command }, ?_, rfl, rfl, rfl, rfl, rfl⟩
  · rw [rc]
    have kept : (s.rcBehind c x op).rc.insts = s.rc.insts := congrArg Radiance.insts State.rcBehind_rc
    exact kept
  · rw [rc, ← State.rcBehind_nextId (s := s) (c := c) (x := x) (op := op)]
    exact Tbl.find_put_same ..
  · rw [Retired_pend, State.rcMarked_pend]
    exact pend

theorem rcOp_stands (h : Ready s c i) (hacq : s.acquiring c.w s.nextId (heldLanes c.W c.F) = false) (hop : op ≠ 5)
    (hready : s.releaseReady c.w s.nextId (heldLanes c.W c.F) 4 = false) :
    ∃ t, issue i (rcOpBody x op) s = .next t ∧ PassedUnchanged c s t ∧ t.rc = s.rc ∧ Tbl.find t.pend s.nextId = some (rcPend s c x op) := by
  have body := rcOpBody_eq (x := x) (op := op) hacq
  rw [if_neg (by simp [hop, hready])] at body
  refine ⟨_, issue_done i _ s c _ h body, (State.rcBehind_standing h.frag).rcMarked.passed i, ?_, ?_⟩
  · rw [Retired_same State.rc (fun _ _ _ => rfl), State.rcMarked_rc, State.rcBehind_rc]
  · rw [Retired_pend, State.rcMarked_pend]
    exact State.rcBehind_pend

end op

/-- RCGEN, RCCFG and RCSTAT at issue (R277, R280, R281). -/
theorem instanceOperations : Claims.instanceOperations := by
  intro s c x p hp h
  have known : exec p.1 s = issue p.1 (rcOpBody x p.2.1) s ∧ rcArg c x p.2.1 = p.2.2 := by
    simp only [instanceOps, List.mem_cons, List.not_mem_nil, or_false] at hp
    rcases hp with rfl | rfl | rfl | rfl | rfl | rfl <;> exact ⟨rfl, rfl⟩
  obtain ⟨body, arg⟩ := known
  dsimp only
  rw [body]
  refine ⟨fun hacq => ?_, fun hacq hnow => ?_, fun hacq hop hready => ?_⟩
  · exact issue_stall _ _ s c h (if_pos hacq)
  · obtain ⟨t, k, next, passed, insts, found, outstanding⟩ := rcOp_arrives (x := x) h hacq hnow
    exact ⟨t, k, _, next, passed, insts, found, rfl, rfl, arg, rfl, rfl, rfl, rfl, rfl, outstanding⟩
  · obtain ⟨t, next, passed, rc, pend⟩ := rcOp_stands (x := x) h hacq hop hready
    refine ⟨t, s.nextId, next, passed, rc, ⟨_, pend, rfl, rfl, rfl, rfl, rfl⟩, ?_⟩
    rw [pend, ← arg]
    rfl

end Sys2Proof.Machine

/-! SUPPORT. The answers of a cache's optimiser (R277, R280, R281). -/

namespace Sys2Proof.Machine

open Claims

/-! ## An answer -/

theorem heldLanes_congr {W V : Wave} (F : Frag) (h : V.stack = W.stack) : heldLanes V F = heldLanes W F := by rw [heldLanes, heldLanes, h]

/-- As a state stands to `s` that is about to answer `s`'s operation `o`: its fragments, what its waves' fragments hold and `o`'s record are as in `s`. -/
structure Answering (s u : State) (o : RcOp) (P : Pend) : Prop where
  frags : u.frags = s.frags
  holds : ∀ w W, s.wave? w = some W → ∃ V, u.wave? w = some V ∧ V.stack = W.stack
  pend  : Tbl.find u.pend o.pend = some P

section reply

variable {s u : State} {o : RcOp} {P : Pend} {id d n : Nat} (h : Answering s u o P) (hdst : P.dst = .scal d n) (v : Nat)
include h hdst

/-- The answer of an operation (R277): S[D], its token and its requests. -/
theorem State.rcReply_eq : u.rcReply id o v =
    (({ u with rc := { u.rc with ops := Tbl.drop u.rc.ops id } }.setScalars P.wave P.own d (BitVec.ofNat 64 v)).completeAll o.pend).unitDone o.pend := by
  unfold State.rcReply State.answerPend
  rw [h.pend]
  simp only [hdst]

theorem State.rcReply_rc : (u.rcReply id o v).rc = { u.rc with ops := Tbl.drop u.rc.ops id } := by
  obtain ⟨frags, only⟩ := State.setScalars_frags { u with rc := { u.rc with ops := Tbl.drop u.rc.ops id } } P.wave P.own d (BitVec.ofNat 64 v)
  rw [State.rcReply_eq h hdst, only]
  rfl

theorem State.rcReply_waves : (u.rcReply id o v).waves = u.waves := by
  obtain ⟨frags, only⟩ := State.setScalars_frags { u with rc := { u.rc with ops := Tbl.drop u.rc.ops id } } P.wave P.own d (BitVec.ofNat 64 v)
  rw [State.rcReply_eq h hdst, only]
  rfl

theorem State.rcReply_inst? (k : Nat) : (u.rcReply id o v).inst? k = u.inst? k := by
  rw [State.inst?, State.rcReply_rc h hdst]
  rfl

theorem State.rcReply_answered : Answered s (u.rcReply id o v) o id P d v := by
  refine ⟨?_, ?_, fun f F W hF hW hwave hheld => ?_⟩
  · rw [State.rcReply_eq h hdst]
    exact Tbl.find_drop_same ..
  · rw [State.rcReply_rc h hdst]
    exact Tbl.find_drop_same ..
  · obtain ⟨V, hV, stack⟩ := h.holds _ W hW
    have frag : u.frag? f = some F := (congrArg (Tbl.find · f) h.frags).trans hF
    refine ⟨F.setScalar d (BitVec.ofNat 64 v), ?_, Tbl.get_set_same ..⟩
    rw [State.rcReply_eq h hdst]
    refine (State.setScalars_frag? { u with rc := { u.rc with ops := Tbl.drop u.rc.ops id } } _ _ _ _ f V hV).trans ?_
    refine (congrArg (Option.map _) frag).trans (congrArg some (if_pos ?_))
    rw [heldLanes_congr F stack]
    simpa [hwave] using hheld

end reply

theorem Answering.refl {s : State} {o : RcOp} {P : Pend} (h : Tbl.find s.pend o.pend = some P) : Answering s s o P := ⟨rfl, fun _ W hW => ⟨W, hW, rfl⟩, h⟩

theorem Answering.adjInst {s : State} {o : RcOp} {P : Pend} (h : Tbl.find s.pend o.pend = some P) (k : Nat) (g : Instance → Instance) : Answering s (s.adjInst k g) o P :=
  ⟨rfl, fun _ W hW => ⟨W, hW, rfl⟩, h⟩

/-! ## The operation that comes first -/

theorem State.headOp_inst {s : State} {k id : Nat} {o : RcOp} (h : s.headOp k = some (id, o)) : o.inst = k := by
  have found := List.find?_some h
  simp only [Bool.and_eq_true, beq_iff_eq] at found
  exact found.1

/-- An operation that is not refused goes on. -/
theorem State.rcStatus_accepted {s : State} {o : RcOp} (hst : s.rcStatus o = 0 ∨ (o.op = 1 ∧ s.rcStatus o = 6)) :
    ¬(decide (o.stage = 0) && s.rcStatus o != 0 && !(decide (o.op = 1) && decide (s.rcStatus o = 6))) = true := by
  rcases hst with hst | ⟨hop, hst⟩
  · simp [hst]
  · simp [hop, hst]

section head

variable {s : State} {k id : Nat} {o : RcOp} (hnone : s.rc.ops.find? (fun e => e.2.inst == k && e.2.op == 1 && e.2.stage == 1) = none)
  (hhead : s.headOp k = some (id, o))
include hnone hhead

theorem State.serveInst_rcstat (hop : o.op = 5) : s.serveInst k = s.rcReply id o (match s.openInst k with | none => 2 ^ 64 - 1 | some i => i.counter o.arg) := by
  unfold State.serveInst
  simp only [hnone, hhead]
  exact (if_neg (by omega)).trans (if_pos hop)

/-- The generation that an answer to RCGEN carries. -/
def State.answerGen (s : State) (k : Nat) (o : RcOp) : Nat := if o.op = 4 then ((s.openInst k).map (fun i => i.gen.toNat)).getD 0 * 2 ^ 32 else 0

theorem State.serveInst_refused (hlo : 1 ≤ o.op) (hhi : o.op ≤ 4) (hstage : o.stage = 0) (hst : s.rcStatus o ≠ 0) (hdrop : o.op = 1 → s.rcStatus o ≠ 6) :
    s.serveInst k = s.rcReply id o (s.rcStatus o + s.answerGen k o) := by
  have refused : (decide (o.stage = 0) && s.rcStatus o != 0 && !(decide (o.op = 1) && decide (s.rcStatus o = 6))) = true := by
    simpa [hstage, hst, imp_iff_not_or] using hdrop
  unfold State.serveInst
  simp only [hnone, hhead]
  rw [if_neg (by omega), if_neg (by omega), if_pos refused]
  rfl

theorem State.serveInst_drop (hop : o.op = 1) (hst : s.rcStatus o = 0 ∨ s.rcStatus o = 6) :
    s.serveInst k = (s.adjInst k (fun i => { i with dropping := true })).setStage id 1 := by
  have accepted := State.rcStatus_accepted (hst.imp_right fun h => ⟨hop, h⟩)
  unfold State.serveInst
  simp only [hnone, hhead]
  rw [if_neg (by omega), if_neg (by omega), if_neg accepted, if_pos hop]

theorem State.serveInst_pause (hop : o.op = 2) (hst : s.rcStatus o = 0) :
    s.serveInst k = if s.optimiserBusy k then (s.adjInst k (fun i => { i with paused := true })).setStage id 1
      else (s.adjInst k (fun i => { i with paused := true })).rcReply id o 0 := by
  have accepted := State.rcStatus_accepted (.inl hst)
  unfold State.serveInst
  simp only [hnone, hhead]
  rw [if_neg (by omega), if_neg (by omega), if_neg accepted, if_neg (by omega), if_pos hop]
  rfl

theorem State.serveInst_run (hop : o.op = 3) (hst : s.rcStatus o = 0) : s.serveInst k = (s.adjInst k (fun i => { i with paused := false })).rcReply id o 0 := by
  have accepted := State.rcStatus_accepted (.inl hst)
  unfold State.serveInst
  simp only [hnone, hhead]
  rw [if_neg (by omega), if_neg (by omega), if_neg accepted, if_neg (by omega), if_neg (by omega), if_pos hop]

end head

/-! ## The status of an operation (R277) -/

section status

variable {s : State} {k : Nat} {o : RcOp} (hk : o.inst = k)
include hk

theorem State.rcStatus_none (h : s.openInst k = none) : s.rcStatus o = 4 := by rw [State.rcStatus, hk, h]

theorem State.rcStatus_some {i : Instance} (h : s.openInst k = some i) : s.rcStatus o = if i.asid != o.asid then 5 else if i.failed then 6 else 0 := by
  rw [State.rcStatus, hk, h]

end status

theorem State.openInst_of_inst? (s : State) (k : Nat) (i : Instance) (h : s.inst? k = some i) : s.openInst k = if i.dropping then none else some i := by
  rw [State.openInst, h]
  rfl

/-! ## A DROP that has been accepted -/

/-- What is left of the queues of samples when a cache goes. -/
def Wave.dropSamples (k : Nat) (W : Wave) : Wave := { W with queues := { W.queues with q3 := W.queues.q3.filter (fun q => !(q.inst == k)) } }

/-- The instructions whose samples go. -/
def State.sampleOwners (s : State) (k : Nat) : List Nat := s.waves.flatMap (fun (e : Nat × Wave) => (e.2.queues.q3.filter (fun q => q.inst == k)).map (fun q => q.pend))

/-- The state without the cache and its samples. -/
def State.withoutInst (s : State) (k : Nat) : State :=
  (s.sampleOwners k).foldl (fun s p => s.completeAll p)
    { s with waves := List.map (fun (e : Nat × Wave) => (e.1, e.2.dropSamples k)) s.waves, rc := { s.rc with insts := Tbl.drop s.rc.insts k } }

theorem State.completeAlls_pend (ps : List Nat) (s : State) : ∃ pend, ps.foldl (fun s p => s.completeAll p) s = { s with pend := pend } ∧
    ∀ id, id ∉ ps → Tbl.find pend id = Tbl.find s.pend id := by
  induction ps generalizing s with
  | nil => exact ⟨s.pend, rfl, fun _ _ => rfl⟩
  | cons p ps ih =>
    obtain ⟨pend, only, kept⟩ := ih (s.completeAll p)
    refine ⟨pend, only, fun id hid => ?_⟩
    rw [List.mem_cons, not_or] at hid
    exact (kept id hid.2).trans (Tbl.find_drop_ne _ _ _ hid.1)

section drop

variable {s : State} {k id : Nat} {o : RcOp}

theorem State.finishDrop_waits (hk : o.inst = k) (h : s.querying k none = true) : s.finishDrop id o = s := by
  unfold State.finishDrop
  rw [hk]
  exact if_pos h

theorem State.finishDrop_goes {i : Instance} (hk : o.inst = k) (hi : s.inst? k = some i) (h : s.querying k none = false) :
    s.finishDrop id o = (s.withoutInst k).rcReply id o (if i.failed then 6 else 0) := by
  subst hk
  unfold State.finishDrop
  simp only [h, hi, Bool.false_eq_true, if_false, Option.map_some, Option.getD_some]
  rfl

/-- Without an operation that comes first, a cache's optimiser only finishes its DROP. -/
theorem State.serveInst_dropping (hdrop : s.rc.ops.find? (fun e => e.2.inst == k && e.2.op == 1 && e.2.stage == 1) = some (id, o))
    (hhead : (s.finishDrop id o).headOp k = none) : s.serveInst k = s.finishDrop id o := by
  unfold State.serveInst
  simp only [hdrop, hhead]

variable {P : Pend} (hpend : Tbl.find s.pend o.pend = some P) (hown : ∀ e ∈ s.waves, ∀ q ∈ e.2.queues.q3, q.pend ≠ o.pend)
include hpend hown

theorem State.withoutInst_answering : Answering s (s.withoutInst k) o P := by
  obtain ⟨pend, only, kept⟩ := State.completeAlls_pend (s.sampleOwners k)
    { s with waves := List.map (fun (e : Nat × Wave) => (e.1, e.2.dropSamples k)) s.waves, rc := { s.rc with insts := Tbl.drop s.rc.insts k } }
  have others : o.pend ∉ s.sampleOwners k := by
    intro hmem
    obtain ⟨e, he, hq⟩ := List.mem_flatMap.1 hmem
    obtain ⟨q, hq, hqp⟩ := List.mem_map.1 hq
    exact hown e he q (List.mem_filter.1 hq).1 hqp
  rw [State.withoutInst, only]
  refine ⟨rfl, fun w W hW => ⟨W.dropSamples k, ?_, rfl⟩, (kept _ others).trans hpend⟩
  refine (Tbl.find_mapValues s.waves _ w).trans ?_
  rw [show Tbl.find s.waves w = some W from hW]
  rfl

end drop

theorem State.withoutInst_rc (s : State) (k : Nat) : (s.withoutInst k).rc = { s.rc with insts := Tbl.drop s.rc.insts k } := by
  obtain ⟨pend, only, -⟩ := State.completeAlls_pend (s.sampleOwners k)
    { s with waves := List.map (fun (e : Nat × Wave) => (e.1, e.2.dropSamples k)) s.waves, rc := { s.rc with insts := Tbl.drop s.rc.insts k } }
  rw [State.withoutInst, only]

theorem State.withoutInst_waves (s : State) (k : Nat) : (s.withoutInst k).waves = List.map (fun (e : Nat × Wave) => (e.1, e.2.dropSamples k)) s.waves := by
  obtain ⟨pend, only, -⟩ := State.completeAlls_pend (s.sampleOwners k)
    { s with waves := List.map (fun (e : Nat × Wave) => (e.1, e.2.dropSamples k)) s.waves, rc := { s.rc with insts := Tbl.drop s.rc.insts k } }
  rw [State.withoutInst, only]

/-- Without an operation that comes first, none does when another operation has gone. -/
theorem headOp_drop {s t : State} {k id : Nat} (h : s.headOp k = none) (hops : t.rc.ops = Tbl.drop s.rc.ops id) : t.headOp k = none := by
  unfold State.headOp at h ⊢
  rw [List.find?_eq_none] at h ⊢
  intro e he
  rw [hops] at he
  exact h e (List.mem_filter.1 he).1

/-! ## The claim -/

theorem headAnswers (s : State) (k id d n : Nat) (o : RcOp) (P : Pend) (hnot : ∀ e ∈ s.rc.ops, ¬(e.2.inst = k ∧ e.2.op = 1 ∧ e.2.stage = 1))
    (hhead : s.headOp k = some (id, o)) (hpend : Tbl.find s.pend o.pend = some P) (hdst : P.dst = .scal d n) :
    let t := s.serveInst k
    (o.op = 5 → Answered s t o id P d (match s.openInst k with | some i => i.counter o.arg | none => 2 ^ 64 - 1)) ∧
    (1 ≤ o.op → o.op ≤ 4 → o.stage = 0 → s.openInst k = none → Answered s t o id P d 4) ∧
    (∀ i, 1 ≤ o.op → o.op ≤ 4 → o.stage = 0 → s.openInst k = some i →
      let gen := if o.op = 4 then i.gen.toNat * 2 ^ 32 else 0
      (i.asid ≠ o.asid → Answered s t o id P d (5 + gen)) ∧
      (i.asid = o.asid → i.failed = true → o.op ≠ 1 → Answered s t o id P d (6 + gen)) ∧
      (i.asid = o.asid → o.op = 1 → t.openInst k = none ∧ t.inst? k = some { i with dropping := true }) ∧
      (i.asid = o.asid → i.failed = false → o.op = 2 → t.inst? k = some { i with paused := true } ∧ (s.optimiserBusy k = false → Answered s t o id P d 0)) ∧
      (i.asid = o.asid → i.failed = false → o.op = 3 → t.inst? k = some { i with paused := false } ∧ Answered s t o id P d 0)) := by
  have hnone : s.rc.ops.find? (fun e => e.2.inst == k && e.2.op == 1 && e.2.stage == 1) = none := by
    rw [List.find?_eq_none]
    intro e he
    have other := hnot e he
    simpa [and_assoc] using other
  have hk := State.headOp_inst hhead
  have replies (v : Nat) : Answered s (s.rcReply id o v) o id P d v := State.rcReply_answered (.refl hpend) hdst v
  refine ⟨fun hop => ?_, fun hlo hhi hstage hopen => ?_, fun i hlo hhi hstage hopen => ?_⟩
  · rw [State.serveInst_rcstat hnone hhead hop]
    cases s.openInst k <;> exact replies _
  · have status : s.rcStatus o = 4 := State.rcStatus_none hk hopen
    rw [State.serveInst_refused hnone hhead hlo hhi hstage (by omega) (by omega), status, State.answerGen, hopen]
    simpa using replies 4
  · have status := State.rcStatus_some hk hopen
    have inst := State.inst?_of_open hopen
    have gen : s.answerGen k o = if o.op = 4 then i.gen.toNat * 2 ^ 32 else 0 := by
      rw [State.answerGen, hopen]
      rfl
    refine ⟨fun hasid => ?space, fun hasid hfailed hop => ?failed, fun hasid hop => ?drop, fun hasid hsound hop => ?pause, fun hasid hsound hop => ?run⟩
    case space =>
      rw [if_pos (by simpa using hasid)] at status
      rw [State.serveInst_refused hnone hhead hlo hhi hstage (by omega) (by omega), status, gen]
      exact replies _
    case failed =>
      rw [if_neg (by simp [hasid]), if_pos hfailed] at status
      rw [State.serveInst_refused hnone hhead hlo hhi hstage (by omega) (fun h => absurd h hop), status, gen]
      exact replies _
    case drop =>
      rw [if_neg (by simp [hasid])] at status
      have accepted : s.rcStatus o = 0 ∨ s.rcStatus o = 6 := by
        rw [status]
        cases i.failed <;> simp
      have dropping : (s.serveInst k).inst? k = some { i with dropping := true } := by
        rw [State.serveInst_drop hnone hhead hop accepted]
        exact (s.inst?_adjInst k (fun i => { i with dropping := true })).trans (congrArg (Option.map _) inst)
      exact ⟨(State.openInst_of_inst? _ k _ dropping).trans (if_pos rfl), dropping⟩
    case pause =>
      rw [if_neg (by simp [hasid]), if_neg (by simp [hsound])] at status
      have paused : (s.adjInst k (fun i => { i with paused := true })).inst? k = some { i with paused := true } :=
        (State.inst?_adjInst ..).trans (congrArg (Option.map _) inst)
      rw [State.serveInst_pause hnone hhead hop status]
      refine ⟨?_, fun hidle => ?_⟩
      · split_ifs
        · exact paused
        · rw [State.rcReply_inst? (.adjInst hpend k _) hdst]
          exact paused
      · rw [hidle]
        exact State.rcReply_answered (.adjInst hpend k _) hdst 0
    case run =>
      rw [if_neg (by simp [hasid]), if_neg (by simp [hsound])] at status
      rw [State.serveInst_run hnone hhead hop status, State.rcReply_inst? (.adjInst hpend k _) hdst]
      exact ⟨(State.inst?_adjInst ..).trans (congrArg (Option.map _) inst), State.rcReply_answered (.adjInst hpend k _) hdst 0⟩

theorem dropAnswers (s : State) (k id d n : Nat) (o : RcOp) (P : Pend) (i : Instance)
    (hdrop : s.rc.ops.find? (fun e => e.2.inst == k && e.2.op == 1 && e.2.stage == 1) = some (id, o)) (hhead : s.headOp k = none) (hi : s.inst? k = some i)
    (hpend : Tbl.find s.pend o.pend = some P) (hdst : P.dst = .scal d n) :
    (s.querying k none = true → s.serveInst k = s) ∧
    (s.querying k none = false → (∀ e ∈ s.waves, ∀ q ∈ e.2.queues.q3, q.pend ≠ o.pend) →
      let t := s.serveInst k
      t.inst? k = none ∧ Answered s t o id P d (if i.failed then 6 else 0) ∧ (∀ e ∈ t.waves, ∀ q ∈ e.2.queues.q3, q.inst ≠ k)) := by
  have hk : o.inst = k := by
    have found := List.find?_some hdrop
    simp only [Bool.and_eq_true, beq_iff_eq] at found
    exact found.1.1
  refine ⟨fun hquery => ?_, fun hidle hown => ?_⟩
  · have stays := State.finishDrop_waits (id := id) hk hquery
    rw [State.serveInst_dropping hdrop (by rw [stays]; exact hhead), stays]
  · have answering : Answering s (s.withoutInst k) o P := State.withoutInst_answering hpend hown
    have rc := State.rcReply_rc (id := id) answering hdst (if i.failed then 6 else 0)
    rw [State.withoutInst_rc] at rc
    have gone := State.finishDrop_goes (id := id) hk hi hidle
    dsimp only
    rw [State.serveInst_dropping hdrop (headOp_drop hhead (id := id) (by rw [gone, rc])), gone]
    refine ⟨?_, State.rcReply_answered answering hdst _, fun e he q hq => ?_⟩
    · rw [State.inst?, rc]
      exact Tbl.find_drop_same ..
    · rw [State.rcReply_waves answering hdst, State.withoutInst_waves] at he
      obtain ⟨e, -, rfl⟩ := List.mem_map.1 he
      simpa using (List.mem_filter.1 hq).2

theorem instanceAnswers : Claims.instanceAnswers := ⟨headAnswers, dropAnswers⟩

/-- Settles O34: RCQ and RCT at issue (`cacheQueries`, `cacheSamples`), operations at issue (`instanceOperations`) and their answers (`instanceAnswers`). -/
theorem radianceInstructions : Obligations.RadianceInstructions := ⟨cacheQueries, cacheSamples, instanceOperations, instanceAnswers⟩

end Sys2Proof.Machine

/-! SUPPORT. Sessions, reports and ownership (R411, R441 to R446, R449). -/

namespace Sys2Proof.Machine

open Claims

/-! ## NONCE and HELLO (R441) -/

theorem freeBytes_length (k n : Nat) : (freeBytes k n).length = n := by simp [freeBytes]

/-- Of a list that has gained an entry, the last 64 hold that entry. -/
theorem getLast?_drop_concat {α : Type} (l : List α) (a : α) (n : Nat) (h : n ≤ l.length) : ((l ++ [a]).drop n).getLast? = some a := by
  rw [List.drop_append_of_le_length h]
  exact List.getLast?_concat

theorem execNonce_keeps (s : State) (q : EdjorRequest) :
    ∃ t v, exec (.nonce q) s = .next t ∧ v.length = 32 ∧ t.mgmt.out = .edjor q.port 0x06 0 0 0 v :: s.mgmt.out ∧ OnlyManages s t ∧
      t.mgmt.nonces.getLast? = some ⟨v, q.source, s.ticks⟩ ∧ t.mgmt.nonces.length ≤ 64 ∧ t.mgmt.sessions = s.mgmt.sessions := by
  refine ⟨_, _, rfl, freeBytes_length .., rfl, ⟨rfl, rfl⟩, getLast?_drop_concat _ _ _ ?_, ?_, rfl⟩
  · rw [List.length_append, List.length_singleton]
    omega
  · refine (List.length_drop ..).trans_le ?_
    omega

section hello

variable (s : State) (q : EdjorRequest)

/-- The nonce that a HELLO names, and what it is signed over. -/
def helloNonce (q : EdjorRequest) : List Byte := (q.body.drop 8).take 32

/-- The nonce is one of the source's, at most 10 s old. -/
def HelloFresh (s : State) (q : EdjorRequest) : Prop := ∃ n ∈ s.mgmt.nonces, n.value = helloNonce q ∧ n.source = q.source ∧ s.nsSince n.since ≤ 10 * 10 ^ 9

/-- The master's key has signed. -/
def HelloSigned (q : EdjorRequest) : Prop := ∃ key, Config.masterKey (field q.body 0 8) = some key ∧
  Config.signed key (textBytes "EDJH" ++ helloNonce q ++ natBytes 8 (field q.body 0 8)) (q.body.drop 40) = true

/-- The state in which the nonce is used up. -/
def State.nonceUsed : State := { s with mgmt := { s.mgmt with nonces := s.mgmt.nonces.filter (fun n => n.value != helloNonce q) } }

/-- The session that a HELLO opens. -/
def newSession (q : EdjorRequest) : Session := { master := field q.body 0 8, port := q.port, top := 0, stored := [], claim := none, evSeq := 1 }

/-- The state with the session open. -/
def State.sessionOpened : State :=
  { s.nonceUsed q with mgmt := { (s.nonceUsed q).mgmt with
    sessions := Tbl.put s.mgmt.sessions s.mgmt.nextSess (newSession q), nextSess := s.mgmt.nextSess + 1 } }.say
      (.edjor q.port 0x01 s.mgmt.nextSess q.seq.toNat stOK (natBytes 8 s.mgmt.nextSess))

/-- The tests of HELLO as the model makes them. -/
def helloGood (s : State) (q : EdjorRequest) : Bool :=
  s.mgmt.nonces.any (fun n => n.value == helloNonce q && n.source == q.source && decide (s.nsSince n.since ≤ 10 * 10 ^ 9)) &&
  (match Config.masterKey (field q.body 0 8) with
   | some key => Config.signed key (textBytes "EDJH" ++ helloNonce q ++ natBytes 8 (field q.body 0 8)) (q.body.drop 40)
   | none => false)

theorem helloGood_iff : helloGood s q = true ↔ HelloFresh s q ∧ HelloSigned q := by
  rw [helloGood, Bool.and_eq_true]
  refine and_congr ?fresh ?signed
  case fresh => simp [HelloFresh, and_assoc]
  case signed =>
    unfold HelloSigned
    cases Config.masterKey (field q.body 0 8) <;> simp

theorem State.hello_eq : s.hello q = if helloGood s q then s.sessionOpened q else (s.nonceUsed q).say (.edjor q.port 0x01 0 q.seq.toNat stAUTH []) := by
  by_cases hgood : helloGood s q = true
  · rw [if_pos hgood]
    exact if_neg (by rw [Bool.not_eq_true', Bool.not_eq_false]; exact hgood)
  · rw [if_neg hgood]
    exact if_pos (by rw [Bool.not_eq_true']; exact Bool.not_eq_true _ ▸ hgood)

theorem State.nonceUsed_none : ∀ n ∈ (s.nonceUsed q).mgmt.nonces, n.value ≠ helloNonce q := fun n hn => by simpa using (List.mem_filter.1 hn).2

end hello

/-- NONCE and HELLO. -/
theorem sessionsOpen : Claims.sessionsOpen := by
  refine fun s q => ⟨execNonce_keeps s q, ?_⟩
  dsimp only
  refine ⟨_, congrArg Host.Outcome.next (s.hello_eq q), ?_⟩
  by_cases hgood : helloGood s q = true
  · obtain ⟨fresh, signed⟩ := (helloGood_iff s q).1 hgood
    rw [if_pos hgood]
    exact ⟨⟨rfl, rfl⟩, s.nonceUsed_none q, .inl ⟨fresh, signed, rfl, rfl, newSession q, Tbl.find_put_same .., rfl, rfl, rfl, rfl⟩⟩
  · rw [if_neg hgood]
    exact ⟨⟨rfl, rfl⟩, s.nonceUsed_none q, .inr ⟨fun h => hgood ((helloGood_iff s q).2 h), rfl, rfl⟩⟩

/-! ## Requests of any session (R441 to R443) -/

/-- The state in which a request of a session acts: the session has its port and number. -/
def State.asked (s : State) (q : EdjorRequest) (x : Session) : State :=
  { s with mgmt := { s.mgmt with sessions := Tbl.put s.mgmt.sessions q.session.toNat { x with port := q.port, top := q.seq.toNat } } }

theorem State.asked_answerable (s : State) (q : EdjorRequest) (x : Session) : (s.asked q x).Answerable q := ⟨_, Tbl.find_put_same .., rfl⟩

/-- A request of a session that may ask acts. -/
theorem asks_request {s : State} {q : EdjorRequest} (h : Asks s q) {early : Bool} (hon : s.ready = true ∨ early = true) (op : Nat) (act : State → Verdict) :
    ∃ x, Tbl.find s.mgmt.sessions q.session.toNat = some x ∧ s.request q op false early act = (act (s.asked q x)).close q op := by
  obtain ⟨hlapse, x, hx, htop⟩ := h
  refine ⟨x, hx, ?_⟩
  have stays : s.lapse = s := s.lapse_not (by simp [hlapse])
  have open_ : ¬(false && s.mgmt.owner != some q.session.toNat) = true := by simp
  have runs : ¬(!s.ready && !early) = true := by rcases hon with hon | hon <;> simp [hon]
  unfold State.request
  dsimp only
  rw [stays, hx]
  dsimp only
  rw [if_neg (Nat.not_le.2 htop), if_neg open_, if_neg runs, if_neg Bool.false_ne_true]
  rfl

/-- Two tables list the same sessions with the same claims. -/
def SameClaims (t u : Tbl Session) : Prop := ∀ j, (Tbl.find u j).map Session.claim = (Tbl.find t j).map Session.claim

/-- An answer changes no claim. -/
theorem State.reply_claims {s : State} {q : EdjorRequest} (h : s.Answerable q) (op status : Nat) (payload : List Byte) :
    ∃ sessions, s.reply q.session.toNat q.seq.toNat op status payload =
      s.answered sessions (.edjor q.port op q.session.toNat q.seq.toNat status payload :: s.mgmt.out) ∧ SameClaims s.mgmt.sessions sessions := by
  obtain ⟨sessions, hreply⟩ := State.reply_answered h op status payload
  refine ⟨sessions, hreply, fun j => ?_⟩
  obtain ⟨x, hx, -⟩ := h
  have stored : sessions = (s.reply q.session.toNat q.seq.toNat op status payload).mgmt.sessions := by rw [hreply]; rfl
  rw [stored, State.reply, hx]
  dsimp only
  by_cases hj : j = q.session.toNat
  · subst hj
    simp [State.say, hx]
  · simp [State.say, Tbl.find_put_ne _ _ _ _ hj]

section asks

variable {s : State} {q : EdjorRequest} {i : Instr} {op status : Nat} (payload : List Byte) {act : State → Verdict} {P : State → List Byte → Prop}

/-- A request that is answered at once: what holds of the state it leaves, however its answer is kept and leaves, holds at the end. -/
theorem answers_of_asks {early : Bool} (h : Asks s q) (hon : s.ready = true ∨ early = true) (hexec : exec i s = .next (s.request q op false early act))
    (hact : ∀ x, Tbl.find s.mgmt.sessions q.session.toNat = some x → ∃ t, act (s.asked q x) = .answer t status payload ∧ t.Answerable q ∧
      ∀ sessions out, SameClaims t.mgmt.sessions sessions → P (t.answered sessions out) payload) : Answers s q i op status P := by
  obtain ⟨x, hx, hreq⟩ := asks_request h hon op act
  obtain ⟨t, ht, hans, hP⟩ := hact x hx
  obtain ⟨sessions, hreply, claims⟩ := State.reply_claims hans op status payload
  rw [ht] at hreq
  exact ⟨_, payload, _, hexec.trans (congrArg _ (hreq.trans hreply)), rfl, hP _ _ claims⟩

end asks

/-- A request that only reports. -/
theorem asked_onlyManages {s : State} {q : EdjorRequest} {x : Session} (sessions : Tbl Session) (out : List Message) :
    OnlyManages s ((s.asked q x).answered sessions out) := ⟨rfl, rfl⟩

/-! ## Reports (R405, R411, R445, R446, R449) -/

/-- Hearing a session changes no master. -/
theorem State.masterOf_asked {s : State} {q : EdjorRequest} {x : Session} (hx : Tbl.find s.mgmt.sessions q.session.toNat = some x) (id : Nat) :
    (s.asked q x).masterOf id = s.masterOf id := by
  unfold State.masterOf State.asked
  dsimp only
  by_cases hid : id = q.session.toNat
  · subst hid
    rw [Tbl.find_put_same, hx]
  · rw [Tbl.find_put_ne _ _ _ _ hid]

theorem State.statusBlock_asked {s : State} {q : EdjorRequest} {x : Session} (hx : Tbl.find s.mgmt.sessions q.session.toNat = some x) :
    (s.asked q x).statusBlock = s.statusBlock := by
  unfold State.statusBlock
  simp only [State.masterOf_asked hx]
  rfl

/-- Without an error at rest, the mask tells the poison bits alone. -/
theorem poisonMask_congr {t u : State} (hp : u.poison = t.poison) (ht : t.rel.rot = []) (hu : u.rel.rot = []) (a n : Nat) : poisonMask u a n = poisonMask t a n := by
  have bits : u.bad = t.bad := funext fun sec => by simp [State.bad, State.rotten, ht, hu, hp]
  rw [poisonMask, poisonMask, bits]

section reports

variable {s : State} {q : EdjorRequest} (h : Asks s q)
include h

theorem execStatus_answers : Answers s q (.status q) 0x02 0 (fun t p => p = s.statusBlock ∧ OnlyManages s t) :=
  answers_of_asks s.statusBlock h (.inr rfl) rfl fun x hx =>
    ⟨s.asked q x, congrArg (Verdict.answer _ _) (State.statusBlock_asked hx), s.asked_answerable q x, fun _ _ _ => ⟨rfl, asked_onlyManages _ _⟩⟩

theorem execEdjorOtherOp_answers : Answers s q (.edjorOtherOp q) q.op.toNat 3 (fun t p => p = [] ∧ OnlyManages s t) :=
  answers_of_asks [] h (.inr rfl) rfl fun x _ => ⟨s.asked q x, rfl, s.asked_answerable q x, fun _ _ _ => ⟨rfl, asked_onlyManages _ _⟩⟩

theorem execAttest_answers (hstage : 4 ≤ s.mgmt.stage) (hlen : q.body.length = 32) :
    Answers s q (.attest q) 0x04 0 (fun t p => p = s.report q.body ++ exactly 3309 (Config.signature (s.report q.body)) ++ Config.certificate ∧ OnlyManages s t) :=
  answers_of_asks _ h (.inr (decide_eq_true hstage)) rfl fun x _ =>
    ⟨s.asked q x, if_neg (by simp [hlen]), s.asked_answerable q x, fun _ _ _ => ⟨rfl, asked_onlyManages _ _⟩⟩

theorem execErrring_reads (hkind : field q.body 0 1 = 0) :
    Answers s q (.errring q) 0x05 0 (fun t p => OnlyManages s t ∧ p = (List.range (min (field q.body 8 2) 4096)).flatMap (fun i =>
      match s.record (BitVec.ofNat 32 (field q.body 4 4) + BitVec.ofNat 32 i) with | .ok r => r.bytes | .error _ => [])) :=
  answers_of_asks _ h (.inr rfl) rfl fun x _ => ⟨s.asked q x, if_pos hkind, s.asked_answerable q x, fun _ _ _ => ⟨asked_onlyManages _ _, rfl⟩⟩

theorem execErrring_sets (hkind : field q.body 0 1 = 1) (howner : s.mgmt.owner = some q.session.toNat) :
    Answers s q (.errring q) 0x05 0 (fun t p => p = [] ∧ t.rel = { s.rel with echkOff := field q.body 1 1 != 0 } ∧ t.mem = s.mem ∧ t.frags = s.frags) := by
  refine answers_of_asks [] h (.inr rfl) rfl fun x _ => ⟨{ (s.asked q x).renew with rel := { s.rel with echkOff := field q.body 1 1 != 0 } }, ?_,
    (s.asked_answerable q x).of_sessions rfl, fun _ _ _ => ⟨rfl, rfl, rfl, rfl⟩⟩
  have owned : ¬((s.asked q x).mgmt.owner != some q.session.toNat) = true := by simp [State.asked, howner]
  dsimp only
  rw [if_neg (by omega), if_pos hkind, if_neg owned]
  rfl

omit h in
/-- A READMEM that becomes due while no other request is, and meets no error at rest, is answered at once (R445). -/
theorem State.owe_mread {t : State} (ht : t.Answerable q) (hdue : t.mgmt.due = []) (hrot : t.rel.rot = []) (a n : Nat) (hheld : t.heldRange a n = false) :
    ∃ u rest, t.owe (.mread q.session.toNat q.seq.toNat a n) = u ∧
      u.mgmt.out = .edjor q.port 0x03 q.session.toNat q.seq.toNat 0 (readBytes t.mem a n ++ poisonMask t a n) :: rest ∧
      u.mem = t.mem ∧ u.poison = t.poison ∧ u.frags = t.frags ∧ u.waves = t.waves ∧ u.teams = t.teams := by
  have found := (t.withDue [.mread q.session.toNat q.seq.toNat a n]).outsideRead_of_sound a n hrot
  have served : (t.withDue [.mread q.session.toNat q.seq.toNat a n]).serveDue [] (.mread q.session.toNat q.seq.toNat a n) =
      (none, ((t.withDue [.mread q.session.toNat q.seq.toNat a n]).outsideRead a n).reply q.session.toNat q.seq.toNat 0x03 stOK
        (readBytes ((t.withDue [.mread q.session.toNat q.seq.toNat a n]).outsideRead a n).mem a n ++
          poisonMask ((t.withDue [.mread q.session.toNat q.seq.toNat a n]).outsideRead a n) a n)) := by
    have free : ((t.withDue [.mread q.session.toNat q.seq.toNat a n]).heldRange a n) = false := hheld
    unfold State.serveDue
    exact if_neg (by rw [free]; exact Bool.false_ne_true)
  generalize (t.withDue [.mread q.session.toNat q.seq.toNat a n]).outsideRead a n = u at found served
  obtain ⟨home, mem, poison⟩ := found
  have answerable : u.Answerable q := ht.of_sessions (by rw [home.mgmt]; rfl)
  obtain ⟨sessions, hreply⟩ := State.reply_answered answerable 0x03 stOK (readBytes u.mem a n ++ poisonMask u a n)
  rw [hreply, mem, poisonMask_congr poison hrot (home.rot hrot)] at served
  unfold State.withDue at served
  rw [State.owe_of_idle _ _ hdue, served]
  exact ⟨_, u.mgmt.out, rfl, rfl, mem, poison, home.frags, home.waves, home.teams⟩

theorem execReadmem_answers (hready : s.ready = true) (hdue : s.mgmt.due = []) (hrot : s.rel.rot = []) (hrange : field q.body 0 8 + field q.body 8 4 ≤ 2 ^ 38)
    (hheld : s.heldRange (field q.body 0 8) (field q.body 8 4) = false) :
    Answers s q (.readmem q) 0x03 0 (fun t p => t.mem = s.mem ∧ t.poison = s.poison ∧ t.frags = s.frags ∧ t.waves = s.waves ∧ t.teams = s.teams ∧
      p = readBytes s.mem (field q.body 0 8) (field q.body 8 4) ++ poisonMask s (field q.body 0 8) (field q.body 8 4)) := by
  obtain ⟨x, -, hreq⟩ := asks_request (early := false) h (.inl hready) 0x03 (fun s =>
    if 2 ^ 38 < field q.body 0 8 + field q.body 8 4 then refuse s stBADARG
    else .later (s.owe (.mread q.session.toNat q.seq.toNat (field q.body 0 8) (field q.body 8 4))))
  obtain ⟨u, rest, owed, out, mem, poison, frags, waves, teams⟩ := State.owe_mread (s.asked_answerable q x) hdue hrot _ _ hheld
  rw [if_neg (Nat.not_lt.2 hrange), Verdict.close, owed] at hreq
  exact ⟨u, _, rest, congrArg Host.Outcome.next hreq, out, mem, poison, frags, waves, teams, rfl⟩

end reports

/-- The reports. -/
theorem deviceReports : Claims.deviceReports := fun _ _ h =>
  ⟨execStatus_answers h, execEdjorOtherOp_answers h, execAttest_answers h, execErrring_reads h, execErrring_sets h, execReadmem_answers h⟩

end Sys2Proof.Machine

/-! SUPPORT. Ownership moves (R149, R443, R444). -/

namespace Sys2Proof.Machine

open Claims

/-! ## Ports of sessions -/

/-- From `s` to `t` no session's port has changed. -/
def SamePorts (s t : State) : Prop := ∀ j, (Tbl.find t.mgmt.sessions j).map Session.port = (Tbl.find s.mgmt.sessions j).map Session.port

theorem SamePorts.trans {s t u : State} (h : SamePorts s t) (k : SamePorts t u) : SamePorts s u := fun j => (k j).trans (h j)

theorem State.answerable_iff (s : State) (q : EdjorRequest) : s.Answerable q ↔ (Tbl.find s.mgmt.sessions q.session.toNat).map Session.port = some q.port := by
  rw [State.Answerable, Option.map_eq_some_iff]

theorem State.Answerable.of_ports {s t : State} {q : EdjorRequest} (h : s.Answerable q) (k : SamePorts s t) : t.Answerable q := by
  rw [State.answerable_iff] at h ⊢
  exact (k _).trans h

theorem State.sendEvent_ports (s : State) : SamePorts s s.sendEvent := by
  unfold State.sendEvent
  dsimp only
  split
  next id e rest _ _ =>
    split
    · exact fun _ => rfl
    next x hx =>
      split_ifs
      · exact fun _ => rfl
      · intro j
        by_cases hj : j = id
        · subst hj
          simp [State.say, hx]
        · simp [State.say, Tbl.find_put_ne _ _ _ _ hj]
  · exact fun _ => rfl

theorem State.sendEvents_ports (s : State) : SamePorts s s.sendEvents := by
  have each : ∀ (es : List Event) (t : State), SamePorts t (es.foldl (fun s _ => s.sendEvent) t) := by
    intro es
    induction es with
    | nil => exact fun _ _ => rfl
    | cons e es ih => exact fun t => t.sendEvent_ports.trans (ih _)
  exact each _ s

/-- The state that sends its events once a session has become the owner. -/
def State.owning (s : State) (id prio : Nat) : State :=
  let s1 : State := { s with mgmt := { s.mgmt with owner := some id, prio := prio, lease := s.ticks } }
  let s2 := if s.masterOf id = s.mgmt.former then s1 else s1.repeatParks
  { s2 with mgmt := { s2.mgmt with former := s.masterOf id } }

theorem State.own_eq (s : State) (id prio : Nat) : s.own id prio = (s.owning id prio).sendEvents := rfl

theorem State.owning_ports (s : State) (id prio : Nat) : SamePorts s (s.owning id prio) := by
  unfold State.owning
  dsimp only
  split_ifs <;> exact fun _ => rfl

theorem State.own_ports (s : State) (id prio : Nat) : SamePorts s (s.own id prio) := by
  rw [State.own_eq]
  exact (s.owning_ports id prio).trans (State.sendEvents_ports _)

/-! ## Elections (R443) -/

/-- Where no claim is pending nobody wins. -/
theorem State.winner_none {s : State} (h : ∀ e ∈ s.mgmt.sessions, e.2.claim = none) : s.winner = none := by
  have none_ : s.mgmt.sessions.filter (fun e => e.2.claim.isSome) = [] := List.filter_eq_nil_iff.2 fun e he => by simp [h e he]
  rw [State.winner, none_]

theorem State.elect_nobody {s : State} (h : s.winner = none) : s.elect = s := by
  unfold State.elect
  rw [h]
  split
  next hsome => cases hsome
  next => rfl

theorem State.elect_owned {s : State} {o : Nat} (h : s.mgmt.owner = some o) : s.elect = s := by
  unfold State.elect
  rw [h]

theorem State.elect_winner {s : State} {id : Nat} {x : Session} (ho : s.mgmt.owner = none) (h : s.winner = some (id, x)) :
    s.elect = { s with mgmt := { s.mgmt with sessions := Tbl.put s.mgmt.sessions id { x with claim := none } } }.own id (x.claim.getD 0) := by
  unfold State.elect
  rw [ho, h]

theorem Tbl.put_put {α : Type} (t : Tbl α) (k : Nat) (v w : α) : Tbl.put (Tbl.put t k v) k w = Tbl.put t k w := by
  induction t with
  | nil => simp [Tbl.put]
  | cons a t ih =>
    obtain ⟨k', v'⟩ := a
    simp only [Tbl.put]
    split_ifs with hlt heq
    · simp [Tbl.put]
    · simp [Tbl.put]
    · rw [Tbl.put, if_neg hlt, if_neg heq, ih]

/-- In a table in order, an entry is the only one of a kind once it is put where no other entry is of that kind. -/
theorem Tbl.filter_put {α : Type} (t : Tbl α) (k : Nat) (v : α) (p : α → Bool) (hsorted : (t.map Prod.fst).Pairwise (· < ·))
    (hothers : ∀ e ∈ t, e.1 ≠ k → p e.2 = false) (hv : p v = true) : (Tbl.put t k v).filter (fun e => p e.2) = [(k, v)] := by
  induction t with
  | nil => simp [Tbl.put, hv]
  | cons a t ih =>
    obtain ⟨k', v'⟩ := a
    rw [List.map_cons, List.pairwise_cons] at hsorted
    obtain ⟨hfirst, hrest⟩ := hsorted
    have later (hle : k ≤ k') : t.filter (fun e => p e.2) = [] := by
      refine List.filter_eq_nil_iff.2 fun e he => ?_
      have after := hfirst e.1 (List.mem_map_of_mem he)
      simp [hothers e (List.mem_cons_of_mem _ he) (by omega)]
    rw [Tbl.put]
    split_ifs with hlt heq
    · have first := hothers (k', v') List.mem_cons_self (by simp; omega)
      rw [List.filter_cons_of_pos (by exact hv), List.filter_cons_of_neg (by simpa using first), later (by omega)]
    · rw [List.filter_cons_of_pos (by exact hv), later (by omega)]
    · have first := hothers (k', v') List.mem_cons_self (by simp; omega)
      rw [List.filter_cons_of_neg (by simpa using first)]
      exact ih hrest fun e he => hothers e (List.mem_cons_of_mem _ he)

/-! ## CLAIM -/

section claim

variable {s : State} {q : EdjorRequest}

/-- The state in which a session's claim is pending. -/
def State.claiming (s : State) (q : EdjorRequest) (x : Session) : State :=
  { s with mgmt := { s.mgmt with
    sessions := Tbl.put s.mgmt.sessions q.session.toNat { x with port := q.port, top := q.seq.toNat, claim := some (field q.body 0 1) } } }

/-- CLAIM's act. -/
def claimAct (q : EdjorRequest) (s : State) : Verdict :=
  let p := field q.body 0 1
  if p = 0 then refuse s stBADARG
  else
    match Tbl.find s.mgmt.sessions q.session.toNat with
    | none => refuse s stAUTH
    | some x => ok { s with mgmt := { s.mgmt with sessions := Tbl.put s.mgmt.sessions q.session.toNat { x with claim := some p } } }.elect

theorem execClaim_eq (s : State) (q : EdjorRequest) : exec (.claim q) s = .next (s.request q 0x10 false true (claimAct q)) := rfl

theorem claimAct_claims (x : Session) (hp : field q.body 0 1 ≠ 0) : claimAct q (s.asked q x) = ok (s.claiming q x).elect := by
  have found : Tbl.find (s.asked q x).mgmt.sessions q.session.toNat = some { x with port := q.port, top := q.seq.toNat } := Tbl.find_put_same ..
  have twice := Tbl.put_put s.mgmt.sessions q.session.toNat { x with port := q.port, top := q.seq.toNat }
    { x with port := q.port, top := q.seq.toNat, claim := some (field q.body 0 1) }
  unfold claimAct
  dsimp only
  rw [if_neg hp, found]
  dsimp only
  unfold State.claiming
  rw [← twice]
  rfl

theorem State.claiming_answerable (x : Session) : (s.claiming q x).Answerable q := ⟨_, Tbl.find_put_same .., rfl⟩

theorem execClaim_refused (h : Asks s q) (hp : field q.body 0 1 = 0) : Answers s q (.claim q) 0x10 3 (fun t p => p = [] ∧ OnlyManages s t) :=
  answers_of_asks [] h (.inr rfl) (execClaim_eq s q) fun x _ =>
    ⟨s.asked q x, if_pos hp, s.asked_answerable q x, fun _ _ _ => ⟨rfl, asked_onlyManages _ _⟩⟩

/-- A claim to a device that has an owner is pending. -/
theorem execClaim_pends {o : Nat} (h : Asks s q) (hp : field q.body 0 1 ≠ 0) (ho : s.mgmt.owner = some o) :
    Answers s q (.claim q) 0x10 0 (fun t p => p = [] ∧ OnlyManages s t ∧
      (Tbl.find t.mgmt.sessions q.session.toNat).map Session.claim = some (some (field q.body 0 1))) := by
  refine answers_of_asks [] h (.inr rfl) (execClaim_eq s q) fun x _ => ⟨s.claiming q x, ?_, State.claiming_answerable x, fun sessions _ same => ⟨rfl, ⟨rfl, rfl⟩, ?_⟩⟩
  · exact (claimAct_claims x hp).trans (congrArg ok (State.elect_owned (s := s.claiming q x) ho))
  · refine (same _).trans ?_
    exact congrArg (Option.map Session.claim) (Tbl.find_put_same ..)

/-- A claim to a device without an owner, where it is the only one, wins. -/
theorem execClaim_wins (h : Asks s q) (hp : field q.body 0 1 ≠ 0) (ho : s.mgmt.owner = none)
    (hothers : ∀ e ∈ s.mgmt.sessions, e.1 ≠ q.session.toNat → e.2.claim = none) (hsorted : (s.mgmt.sessions.map Prod.fst).Pairwise (· < ·)) :
    Answers s q (.claim q) 0x10 0 (fun t p => p = [] ∧ { t with mgmt := s.mgmt } = s ∧ t.mgmt.owner = some q.session.toNat ∧ t.mgmt.prio = field q.body 0 1 ∧
      t.mgmt.lease = s.ticks) := by
  refine answers_of_asks [] h (.inr rfl) (execClaim_eq s q) fun x _ => ?_
  have alone : (s.claiming q x).mgmt.sessions.filter (fun e => e.2.claim.isSome) =
      [(q.session.toNat, { x with port := q.port, top := q.seq.toNat, claim := some (field q.body 0 1) })] :=
    Tbl.filter_put s.mgmt.sessions q.session.toNat _ (fun x => x.claim.isSome) hsorted (fun e he hne => by rw [hothers e he hne]; rfl) rfl
  have best : (s.claiming q x).winner = some (q.session.toNat, { x with port := q.port, top := q.seq.toNat, claim := some (field q.body 0 1) }) := by
    rw [State.winner, alone]
    rfl
  have elected := State.elect_winner (s := s.claiming q x) ho best
  rw [claimAct_claims x hp, elected]
  obtain ⟨rest, owner, prio, lease, -⟩ := State.own_spec { s.claiming q x with mgmt := { (s.claiming q x).mgmt with
    sessions := Tbl.put (s.claiming q x).mgmt.sessions q.session.toNat { x with port := q.port, top := q.seq.toNat, claim := none } } } q.session.toNat (field q.body 0 1)
  refine ⟨_, rfl, State.Answerable.of_ports ⟨_, Tbl.find_put_same .., rfl⟩ (State.own_ports _ _ _), fun sessions out _ => ⟨rfl, ?_, owner, prio, lease⟩⟩
  have same : MgmtOnly s { s.claiming q x with mgmt := { (s.claiming q x).mgmt with
    sessions := Tbl.put (s.claiming q x).mgmt.sessions q.session.toNat { x with port := q.port, top := q.seq.toNat, claim := none } } } := rfl
  exact same.trans rest

end claim

/-! ## The owner's requests -/

end Sys2Proof.Machine

namespace Sys2Proof.Claims

open Machine

theorem Accepted.owns {s : State} {q : EdjorRequest} (h : Accepted s q) : Owns s q := by
  obtain ⟨unlapsed, -, owned⟩ := h
  exact ⟨unlapsed, owned⟩

theorem Accepted.ready {s : State} {q : EdjorRequest} (h : Accepted s q) : s.ready = true := by
  obtain ⟨-, ready, -⟩ := h
  exact ready

end Sys2Proof.Claims

namespace Sys2Proof.Machine

open Claims

section owner

variable {s : State} {q : EdjorRequest}

theorem execHeartbeat_answers (h : Owns s q) : Answers s q (.heartbeat q) 0x11 0 (fun t p => p = [] ∧ OnlyManages s t ∧ t.mgmt.lease = s.ticks) :=
  answers_of_owner [] h (.inr rfl) rfl fun x _ => ⟨s.heard q x, rfl, s.heard_answerable q x, fun _ _ => ⟨rfl, refused_onlyManages _ _, rfl⟩⟩

/-- Where no session claims, none does once one has been heard. -/
theorem State.heard_unclaimed {x : Session} (hx : Tbl.find s.mgmt.sessions q.session.toNat = some x) (h : ∀ e ∈ s.mgmt.sessions, e.2.claim = none) :
    ∀ e ∈ (s.heard q x).mgmt.sessions, e.2.claim = none := by
  have unclaimed : x.claim = none := h _ (Tbl.mem_of_find _ _ _ hx)
  intro e he
  rcases Tbl.mem_put _ _ _ _ he with rfl | he
  · exact unclaimed
  · exact h e he

theorem execRelease_answers (h : Accepted s q) (hclaims : ∀ e ∈ s.mgmt.sessions, e.2.claim = none) :
    Answers s q (.release q) 0x12 0 (fun t p => p = [] ∧ { t with mgmt := s.mgmt } = s ∧ t.mgmt.owner = none ∧ t.mgmt.unacked = [] ∧
      t.mgmt.queue = s.mgmt.unacked.map SentEvent.event ++ s.mgmt.queue) := by
  refine answers_of_owner [] h.owns (.inl h.ready) rfl fun x hx => ⟨(s.heard q x).disown, congrArg ok (State.elect_nobody ?_),
    (s.heard_answerable q x).of_sessions rfl, fun _ _ => ⟨rfl, rfl, rfl, rfl, rfl⟩⟩
  exact State.winner_none (s := (s.heard q x).disown) (State.heard_unclaimed hx hclaims)

/-- The sessions when one has been heard: it and the others are there. -/
theorem State.heard_session {x : Session} (hx : Tbl.find s.mgmt.sessions q.session.toNat = some x) (id : Nat) :
    (Tbl.find (s.heard q x).mgmt.sessions id).isSome = (Tbl.find s.mgmt.sessions id).isSome := by
  unfold State.heard
  dsimp only
  by_cases hid : id = q.session.toNat
  · subst hid
    rw [Tbl.find_put_same, hx]
    rfl
  · rw [Tbl.find_put_ne _ _ _ _ hid]

/-- Where ownership ends and a session's claim is settled, no port changes. -/
theorem State.claimTaken_ports {t : State} {id : Nat} {x : Session} (hx : Tbl.find t.mgmt.sessions id = some x) : SamePorts t (t.claimTaken id x) := by
  intro j
  unfold State.claimTaken
  by_cases hj : j = id
  · subst hj
    simp [hx]
  · simp [Tbl.find_put_ne _ _ _ _ hj]

theorem execHandover_answers (h : Accepted s q) {y : Session} (hy : Tbl.find s.mgmt.sessions (field q.body 0 8) = some y) :
    Answers s q (.handover q) 0x13 0 (fun t p => p = [] ∧ { t with mgmt := s.mgmt } = s ∧ t.mgmt.owner = some (field q.body 0 8) ∧ t.mgmt.lease = s.ticks) := by
  refine answers_of_owner [] h.owns (.inl h.ready) rfl fun x hx => ?_
  obtain ⟨z, hz⟩ := Option.isSome_iff_exists.1 ((State.heard_session hx (field q.body 0 8)).trans (by rw [hy]; rfl))
  obtain ⟨rest, owner, -, lease, -⟩ := ((s.heard q x).claimTaken (field q.body 0 8) z).own_spec (field q.body 0 8) (z.claim.getD 0)
  refine ⟨((s.heard q x).claimTaken (field q.body 0 8) z).own (field q.body 0 8) (z.claim.getD 0), ?_,
    (s.heard_answerable q x).of_ports ((State.claimTaken_ports hz).trans (State.own_ports _ _ _)), fun sessions out => ⟨rfl, ?_, owner, lease⟩⟩
  · dsimp only
    rw [hz]
    rfl
  · have heard : MgmtOnly s (s.heard q x) := rfl
    exact (heard.trans ((s.heard q x).claimTaken_mgmtOnly _ z)).trans rest

theorem execHandover_unknown (h : Accepted s q) (hnone : Tbl.find s.mgmt.sessions (field q.body 0 8) = none) :
    Answers s q (.handover q) 0x13 3 (fun t p => p = [] ∧ OnlyManages s t) := by
  refine answers_of_owner [] h.owns (.inl h.ready) rfl fun x hx => ⟨s.heard q x, ?_, s.heard_answerable q x, fun _ _ => ⟨rfl, refused_onlyManages _ _⟩⟩
  have unknown : Tbl.find (s.heard q x).mgmt.sessions (field q.body 0 8) = none := by
    rw [← Option.isNone_iff_eq_none, ← Option.not_isSome, State.heard_session hx, hnone]
    rfl
  dsimp only
  rw [unknown]
  rfl

/-- The state in which an event is acknowledged, and the accesses that wait for its page may walk again. -/
def State.acknowledged (s : State) (n : Nat) (e : SentEvent) : State :=
  let s1 : State := { s with mgmt := { s.mgmt with unacked := s.mgmt.unacked.filter (fun y => y.seq != n) } }
  if e.event.kind = 7 then { s1 with eng := { s1.eng with waits := s1.eng.waits.filter (fun w => w.body != e.event.body) } } else s1

theorem execEvack_answers (h : Accepted s q) (hqueue : s.mgmt.queue = []) {e : SentEvent} (he : s.mgmt.unacked.find? (fun e => e.seq == field q.body 0 8) = some e) :
    Answers s q (.evack q) 0x41 0 (fun t p => p = [] ∧ t.mgmt.owner = s.mgmt.owner ∧
      t.mgmt.unacked = s.mgmt.unacked.filter (fun y => y.seq != field q.body 0 8) ∧ t.mem = s.mem ∧ t.frags = s.frags ∧
      t.eng = if e.event.kind = 7 then { s.eng with waits := s.eng.waits.filter (fun w => w.body != e.event.body) } else s.eng) := by
  refine answers_of_owner [] h.owns (.inl h.ready) rfl fun x _ => ⟨(s.heard q x).acknowledged (field q.body 0 8) e, ?_, ?_, fun sessions out => ?_⟩
  · have found : (s.heard q x).mgmt.unacked.find? (fun e => e.seq == field q.body 0 8) = some e := he
    have quiet : ((s.heard q x).acknowledged (field q.body 0 8) e).mgmt.queue = [] := by
      unfold State.acknowledged
      dsimp only
      split_ifs <;> exact hqueue
    have sent : ((s.heard q x).acknowledged (field q.body 0 8) e).sendEvents = (s.heard q x).acknowledged (field q.body 0 8) e := by
      rw [State.sendEvents, quiet]
      rfl
    dsimp only
    rw [found]
    exact congrArg ok sent
  · refine (s.heard_answerable q x).of_sessions ?_
    unfold State.acknowledged
    dsimp only
    split_ifs <;> rfl
  · unfold State.acknowledged
    dsimp only
    split_ifs <;> exact ⟨rfl, rfl, rfl, rfl, rfl, rfl⟩

end owner

/-- Claims and the owner's requests. -/
theorem ownershipMoves : Claims.ownershipMoves := fun _ _ =>
  ⟨execClaim_refused, fun _ h hp ho => execClaim_pends h hp ho, execClaim_wins, execHeartbeat_answers, execRelease_answers,
    fun _ h hy => execHandover_answers h hy, execHandover_unknown, fun _ h hqueue he => execEvack_answers h hqueue he⟩

/-- Settles O50: sessions open by NONCE and HELLO (`sessionsOpen`), reports go by what acting on a request answers (`deviceReports`), ownership moves by
elections and the owner's requests (`ownershipMoves`). -/
theorem managementAnswers : Obligations.ManagementAnswers := ⟨sessionsOpen, deviceReports, ownershipMoves⟩

end Sys2Proof.Machine
